-- ==== Sys2Proof/Word.lean ====
section
/-! DEFINITION. Word types of the device (R5, R35, R59): a byte, a 16-bit instruction word, a 64-bit word. -/

namespace Sys2Proof

/-- One byte of memory (R5). -/
abbrev Byte := BitVec 8

/-- One instruction word (R59). -/
abbrev Half := BitVec 16

/-- A register's 64-bit pattern (R35). -/
abbrev Word := BitVec 64

end Sys2Proof
end

