-- ==== Sys2Proof/Syntax.lean ====
section
/-! DEFINITION. Operands and instructions of KIS-2, with the machine's own steps, one constructor per row of the opcode table. -/

namespace Sys2Proof

/-- A register number of a window, 0 to 127 (R62). -/
abbrev Reg := BitVec 7

/-- A layout record number, 0 to 15 (R265). -/
abbrev Rec := BitVec 4

/-- An accumulator tile of the cluster, 0 to 3 (R236). -/
abbrev TileNo := BitVec 2

/-- A register operand S or T with its reuse hint and its trap bit (R65). -/
structure RegOp where
  n : Reg
  reuse : Bool
  trap : Bool
  deriving DecidableEq, Repr

/-- The operand S of a format A chain: a register, a stream code or an immediate (R61, R64). -/
inductive Src where
  | reg (r : RegOp)
  | stream (c : BitVec 4)
  | imm (v : Word)
  deriving DecidableEq, Repr

/-- The operand T where it may be a register or a stream (R64). -/
inductive Tgt where
  | reg (r : RegOp)
  | stream (c : BitVec 4)
  deriving DecidableEq, Repr

/-- A destination that may be a stream (R98). -/
inductive Dst where
  | reg (n : Reg)
  | stream (c : BitVec 4)
  deriving DecidableEq, Repr

/-- The access size SZ of a memory instruction (R61). -/
inductive Size where
  | b | h | w | d
  deriving DecidableEq, Repr

/-- The six neighbour ports, in the order of their stream codes (R64). -/
inductive Port where
  | e | w | n | s | up | dn
  deriving DecidableEq, Repr

/-- The rounding override and the overflow policy of a PAGE prefix (R45, R65). -/
structure Rnd where
  mode : BitVec 3
  ovp : BitVec 2
  deriving DecidableEq, Repr

/-- Why a chain is no instruction (R81). -/
inductive Illegal where
  | unassigned      -- an opcode value marked ILL on the selected page
  | page            -- PG 0 or 7 to 15
  | reservedBit     -- REGX[0] or PAGE[0] set
  | kind            -- a K or SZ that the instruction does not accept
  | prefixCount     -- a fifth prefix, a repeated REGX, REGT or PAGE, a fourth IMM
  | strayPrefix     -- a prefix or a field that serves no operand
  | missingPrefix   -- a mandatory prefix is absent
  | streamUse       -- a stream against its direction, or beside high bits
  | range           -- an immediate or a number outside its range
  | rounding        -- rounding fields against R45, R46
  | truncated       -- the words end before a base word
  deriving DecidableEq, Repr

/-- The instructions and the machine's own steps, one constructor per row of the opcode table.
Chains take their decoded operands; a step of the machine names the item it acts on. -/
inductive Instr where
  /-- ADD (R104). Adds S to D modulo 2^64. -/
  | add (d : Reg) (src : Src)
  /-- ADD_W (R104). Adds S to D and sign-extends the low 32 bits. -/
  | addW (d : Reg) (src : Src)
  /-- SUB (R104). Subtracts S from D modulo 2^64. -/
  | sub (d : Reg) (src : Src)
  /-- SUB_W (R104). Subtracts S from D and sign-extends the low 32 bits. -/
  | subW (d : Reg) (src : Src)
  /-- MUL (R104). Writes the low 64 bits of D times S. -/
  | mul (d : Reg) (src : Src)
  /-- MUL_W (R104). Writes the sign-extended low 32 bits of D times S. -/
  | mulW (d : Reg) (src : Src)
  /-- MULH (R104). Writes the high half of the signed 128-bit product. -/
  | mulh (d : Reg) (src : Src)
  /-- DIV (R105). Signed division truncating toward zero, never trapping. -/
  | div (d : Reg) (src : Src)
  /-- DIVU (R105). Unsigned division, all ones on a zero divisor. -/
  | divu (d : Reg) (src : Src)
  /-- REM (R105). Signed remainder with the sign of the dividend. -/
  | rem (d : Reg) (src : Src)
  /-- REMU (R105). Unsigned remainder, the dividend on a zero divisor. -/
  | remu (d : Reg) (src : Src)
  /-- AND (R104). Bitwise AND of D and S. -/
  | and (d : Reg) (src : Src)
  /-- OR (R104). Bitwise OR of D and S. -/
  | or (d : Reg) (src : Src)
  /-- XOR (R104). Bitwise XOR of D and S. -/
  | xor (d : Reg) (src : Src)
  /-- SHL (R104). Shifts D left by S[5:0]. -/
  | shl (d : Reg) (src : Src)
  /-- SHL_W (R104). Shifts the low 32 bits of D left and sign-extends. -/
  | shlW (d : Reg) (src : Src)
  /-- SHR (R104). Logical right shift of D by S[5:0]. -/
  | shr (d : Reg) (src : Src)
  /-- SAR (R104). Arithmetic right shift of D by S[5:0]. -/
  | sar (d : Reg) (src : Src)
  /-- MIN (R104). Signed minimum of D and S. -/
  | min (d : Reg) (src : Src)
  /-- MAX (R104). Signed maximum of D and S. -/
  | max (d : Reg) (src : Src)
  /-- MINU (R104). Unsigned minimum of D and S. -/
  | minu (d : Reg) (src : Src)
  /-- MAXU (R104). Unsigned maximum of D and S. -/
  | maxu (d : Reg) (src : Src)
  /-- MOV (R104). Copies S into D, which may be a stream. -/
  | mov (d : Dst) (src : Src)
  /-- CEQ (R104). Sets D to 1 when D equals S, else 0. -/
  | ceq (d : Reg) (src : Src)
  /-- CNE (R104). Sets D to 1 when D differs from S, else 0. -/
  | cne (d : Reg) (src : Src)
  /-- CLT (R104). Signed less-than compare into D. -/
  | clt (d : Reg) (src : Src)
  /-- CLTU (R104). Unsigned less-than compare into D. -/
  | cltu (d : Reg) (src : Src)
  /-- CLE (R104). Signed less-or-equal compare into D. -/
  | cle (d : Reg) (src : Src)
  /-- CLEU (R104). Unsigned less-or-equal compare into D. -/
  | cleu (d : Reg) (src : Src)
  /-- ADDI (R106). Adds a signed immediate to D. -/
  | addi (d : Reg) (imm : Word)
  /-- LI (R106). Loads a sign-extended immediate into D or a stream. -/
  | li (d : Dst) (imm : Word)
  /-- LIH (R106). Writes the upper 32 bits of D from an unsigned immediate. -/
  | lih (d : Reg) (imm : Word)
  /-- SHLI (R106). Shifts D left by an immediate count. -/
  | shli (d : Reg) (imm : Word)
  /-- SHRI (R106). Shifts D right logically by an immediate count. -/
  | shri (d : Reg) (imm : Word)
  /-- LEA (R107). Computes base plus displacement into D without access. -/
  | lea (d : Reg) (b : RegOp) (disp : Word)
  /-- SEL (R108). Copies S into D when T is non-zero. -/
  | sel (d : Reg) (src : Src) (t : Tgt)
  /-- BEZ (R113). Branches when D is zero. -/
  | bez (d : Reg) (off : Word)
  /-- BNZ (R113). Branches when D is non-zero. -/
  | bnz (d : Reg) (off : Word)
  /-- BLTZ (R113). Branches when D is negative. -/
  | bltz (d : Reg) (off : Word)
  /-- BGEZ (R113). Branches when D is non-negative. -/
  | bgez (d : Reg) (off : Word)
  /-- BEQ (R114). Branches when D equals S, offset from IMM prefixes. -/
  | beq (d : Reg) (src : Src) (off : Word)
  /-- BNE (R114). Branches when D differs from S. -/
  | bne (d : Reg) (src : Src) (off : Word)
  /-- BLT (R114). Branches on signed D less than S. -/
  | blt (d : Reg) (src : Src) (off : Word)
  /-- BGE (R114). Branches on signed D at least S. -/
  | bge (d : Reg) (src : Src) (off : Word)
  /-- BLTU (R114). Branches on unsigned D less than S. -/
  | bltu (d : Reg) (src : Src) (off : Word)
  /-- BGEU (R114). Branches on unsigned D at least S. -/
  | bgeu (d : Reg) (src : Src) (off : Word)
  /-- J (R115). Jumps to a relative word target. -/
  | j (off : Word)
  /-- CALL (R115). Writes the return address to g1 and jumps. -/
  | call (off : Word)
  /-- JR (R116). Jumps to the word address in S. -/
  | jr (src : RegOp)
  /-- RET (R116). Jumps to the word address in g1. -/
  | ret
  /-- JTAB (R117). Jumps through a bounded table entry loaded from memory. -/
  | jtab (idx : Reg) (b : RegOp) (bound : RegOp)
  /-- YIELD (R118). Delays the thread's next issue to 64 cycles later. -/
  | yield
  /-- RETIRE (R118). Moves the thread to RETIRED. -/
  | retire
  /-- NOP (R118). Does nothing. -/
  | nop
  /-- TRAP (R119). Takes trap TRAPINSN with its immediate. -/
  | trap (code : Word)
  /-- BKPT (R119). Takes trap BREAK with its immediate. -/
  | bkpt (code : Word)
  /-- LDZ (R120). Plain load zero-extended into D. -/
  | ldz (sz : Size) (d : Reg) (b : RegOp) (disp : Word)
  /-- LDS (R120). Plain load sign-extended into D. -/
  | lds (sz : Size) (d : Reg) (b : RegOp) (disp : Word)
  /-- ST (R120). Plain store of D's low bytes, to outbox or PRIVATE home. -/
  | st (sz : Size) (d : Reg) (b : RegOp) (disp : Word)
  /-- ILLEGAL_CHAIN (R81). A chain with an unassigned opcode or malformed prefixes traps ILLEGAL. -/
  | illegalChain (why : Illegal)
  /-- BFX (R109). Extracts a bit field of D, sign- or zero-extended. -/
  | bfx (d : Reg) (src : Src)
  /-- BFI (R109). Inserts the low bits of S into a field of D. -/
  | bfi (d : Reg) (src : Src) (t : Tgt)
  /-- CTZ (R110). Counts trailing zeros of S. -/
  | ctz (d : Reg) (src : Src)
  /-- BSWAP (R110). Reverses the bytes of S. -/
  | bswap (d : Reg) (src : Src)
  /-- CRC_B (R111). One CRC-32C step over one byte of S. -/
  | crcB (d : Reg) (src : Src)
  /-- CRC_H (R111). One CRC-32C step over two bytes of S. -/
  | crcH (d : Reg) (src : Src)
  /-- CRC_W (R111). One CRC-32C step over four bytes of S. -/
  | crcW (d : Reg) (src : Src)
  /-- CRC_D (R111). One CRC-32C step over eight bytes of S. -/
  | crcD (d : Reg) (src : Src)
  /-- FADD_D (R125). FP64 addition. -/
  | faddD (r : Rnd) (d : Reg) (src : Src)
  /-- FADD_S (R125). FP32 addition. -/
  | faddS (r : Rnd) (d : Reg) (src : Src)
  /-- FSUB_D (R125). FP64 subtraction. -/
  | fsubD (r : Rnd) (d : Reg) (src : Src)
  /-- FSUB_S (R125). FP32 subtraction. -/
  | fsubS (r : Rnd) (d : Reg) (src : Src)
  /-- FMUL_D (R125). FP64 multiplication. -/
  | fmulD (r : Rnd) (d : Reg) (src : Src)
  /-- FMUL_S (R125). FP32 multiplication. -/
  | fmulS (r : Rnd) (d : Reg) (src : Src)
  /-- FDIV_D (R125). FP64 division. -/
  | fdivD (r : Rnd) (d : Reg) (src : Src)
  /-- FDIV_S (R125). FP32 division. -/
  | fdivS (r : Rnd) (d : Reg) (src : Src)
  /-- FSQRT_D (R125). FP64 square root of S. -/
  | fsqrtD (r : Rnd) (d : Reg) (src : Src)
  /-- FSQRT_S (R125). FP32 square root of S. -/
  | fsqrtS (r : Rnd) (d : Reg) (src : Src)
  /-- FMA_D (R126). Fused FP64 S×T+D. -/
  | fmaD (r : Rnd) (d : Reg) (src : Src) (t : Tgt)
  /-- FMA_S (R126). Fused FP32 S×T+D. -/
  | fmaS (r : Rnd) (d : Reg) (src : Src) (t : Tgt)
  /-- FMS_D (R126). Fused FP64 S×T−D. -/
  | fmsD (r : Rnd) (d : Reg) (src : Src) (t : Tgt)
  /-- FMS_S (R126). Fused FP32 S×T−D. -/
  | fmsS (r : Rnd) (d : Reg) (src : Src) (t : Tgt)
  /-- FNMA_D (R126). Fused FP64 −(S×T)+D. -/
  | fnmaD (r : Rnd) (d : Reg) (src : Src) (t : Tgt)
  /-- FNMA_S (R126). Fused FP32 −(S×T)+D. -/
  | fnmaS (r : Rnd) (d : Reg) (src : Src) (t : Tgt)
  /-- FNMS_D (R126). Fused FP64 −(S×T)−D. -/
  | fnmsD (r : Rnd) (d : Reg) (src : Src) (t : Tgt)
  /-- FNMS_S (R126). Fused FP32 −(S×T)−D. -/
  | fnmsS (r : Rnd) (d : Reg) (src : Src) (t : Tgt)
  /-- FMIN_D (R127). FP64 minimum with NaN rules. -/
  | fminD (d : Reg) (src : Src)
  /-- FMIN_S (R127). FP32 minimum with NaN rules. -/
  | fminS (d : Reg) (src : Src)
  /-- FMAX_D (R127). FP64 maximum with NaN rules. -/
  | fmaxD (d : Reg) (src : Src)
  /-- FMAX_S (R127). FP32 maximum with NaN rules. -/
  | fmaxS (d : Reg) (src : Src)
  /-- FEQ_D (R128). FP64 equality compare into D. -/
  | feqD (d : Reg) (src : Src)
  /-- FEQ_S (R128). FP32 equality compare into D. -/
  | feqS (d : Reg) (src : Src)
  /-- FLT_D (R128). FP64 less-than compare into D. -/
  | fltD (d : Reg) (src : Src)
  /-- FLT_S (R128). FP32 less-than compare into D. -/
  | fltS (d : Reg) (src : Src)
  /-- FLE_D (R128). FP64 less-or-equal compare into D. -/
  | fleD (d : Reg) (src : Src)
  /-- FLE_S (R128). FP32 less-or-equal compare into D. -/
  | fleS (d : Reg) (src : Src)
  /-- FCLASS_D (R129). Classifies an FP64 value into a one-hot mask. -/
  | fclassD (d : Reg) (src : Src)
  /-- FCLASS_S (R129). Classifies an FP32 value into a one-hot mask. -/
  | fclassS (d : Reg) (src : Src)
  /-- FSGN_D (R130). Gives D the sign of S, FP64. -/
  | fsgnD (d : Reg) (src : Src)
  /-- FSGN_S (R130). Gives D the sign of S, FP32. -/
  | fsgnS (d : Reg) (src : Src)
  /-- FSGNN_D (R130). Gives D the inverse sign of S, FP64. -/
  | fsgnnD (d : Reg) (src : Src)
  /-- FSGNN_S (R130). Gives D the inverse sign of S, FP32. -/
  | fsgnnS (d : Reg) (src : Src)
  /-- FSGNX_D (R130). XORs the signs of D and S, FP64. -/
  | fsgnxD (d : Reg) (src : Src)
  /-- FSGNX_S (R130). XORs the signs of D and S, FP32. -/
  | fsgnxS (d : Reg) (src : Src)
  /-- FCVT_S_D (R131). Converts FP64 to FP32 with rounding and overflow policy. -/
  | fcvtSD (r : Rnd) (d : Reg) (src : Src)
  /-- FCVT_D_S (R131). Converts FP32 to FP64 exactly. -/
  | fcvtDS (r : Rnd) (d : Reg) (src : Src)
  /-- FCVT_D_L (R131). Converts signed integer to FP64. -/
  | fcvtDL (r : Rnd) (d : Reg) (src : Src)
  /-- FCVT_D_LU (R131). Converts unsigned integer to FP64. -/
  | fcvtDLu (r : Rnd) (d : Reg) (src : Src)
  /-- FCVT_S_L (R131). Converts signed integer to FP32. -/
  | fcvtSL (r : Rnd) (d : Reg) (src : Src)
  /-- FCVT_S_LU (R131). Converts unsigned integer to FP32. -/
  | fcvtSLu (r : Rnd) (d : Reg) (src : Src)
  /-- FCVT_L_D (R131). Converts FP64 to signed integer. -/
  | fcvtLD (r : Rnd) (d : Reg) (src : Src)
  /-- FCVT_LU_D (R131). Converts FP64 to unsigned integer. -/
  | fcvtLuD (r : Rnd) (d : Reg) (src : Src)
  /-- FCVT_L_S (R131). Converts FP32 to signed integer. -/
  | fcvtLS (r : Rnd) (d : Reg) (src : Src)
  /-- FCVT_LU_S (R131). Converts FP32 to unsigned integer. -/
  | fcvtLuS (r : Rnd) (d : Reg) (src : Src)
  /-- SETRM (R132). Sets the thread's rounding mode and overflow policy. -/
  | setrm (imm : Word)
  /-- RDFLG (R133). Reads tc.flags into D. -/
  | rdflg (d : Reg)
  /-- CLRFLG (R133). Clears the flags named by a mask. -/
  | clrflg (imm : Word)
  /-- SREAD (R134). Reads one of the thread's own control registers. -/
  | sread (d : Reg) (n : BitVec 3)
  /-- SREAD_CLUSTER_FLAGS (R49). Gathers the OR of tc.flags over the holder's live threads of the cluster. -/
  | sreadClusterFlags (d : Reg)
  /-- SWRITE (R135). Writes one of the thread's own control registers. -/
  | swrite (d : Reg) (n : BitVec 3)
  /-- LDF (R173). Reads a word at home when it is full, else enlists. -/
  | ldf (d : Reg) (b : RegOp) (disp : Word)
  /-- LDFE (R173). Reads a full word and empties it, else enlists. -/
  | ldfe (d : Reg) (b : RegOp) (disp : Word)
  /-- STEF (R173). Writes an empty word and fills it, else enlists. -/
  | stef (d : Reg) (b : RegOp) (disp : Word)
  /-- STF (R173). Writes a word and sets it full without waiting. -/
  | stf (d : Reg) (b : RegOp) (disp : Word)
  /-- SETE_MEMORY (R173). Empties a memory word at home, keeping its value. -/
  | seteMemory (b : RegOp) (disp : Word)
  /-- SETE_REGISTER (R176). Clears the presence bit of a register with no producer. -/
  | seteRegister (d : Reg)
  /-- FEQRY (R173). Returns a word's full/empty bit. -/
  | feqry (d : Reg) (b : RegOp) (disp : Word)
  /-- AMO_ADD_D (R178). 64-bit atomic add at home returning the old value. -/
  | amoAddD (d : Reg) (b : RegOp) (disp : Word)
  /-- AMO_AND_D (R178). 64-bit atomic AND at home. -/
  | amoAndD (d : Reg) (b : RegOp) (disp : Word)
  /-- AMO_OR_D (R178). 64-bit atomic OR at home. -/
  | amoOrD (d : Reg) (b : RegOp) (disp : Word)
  /-- AMO_XOR_D (R178). 64-bit atomic XOR at home. -/
  | amoXorD (d : Reg) (b : RegOp) (disp : Word)
  /-- AMO_MIN_D (R178). 64-bit atomic signed minimum at home. -/
  | amoMinD (d : Reg) (b : RegOp) (disp : Word)
  /-- AMO_MAX_D (R178). 64-bit atomic signed maximum at home. -/
  | amoMaxD (d : Reg) (b : RegOp) (disp : Word)
  /-- AMO_MINU_D (R178). 64-bit atomic unsigned minimum at home. -/
  | amoMinuD (d : Reg) (b : RegOp) (disp : Word)
  /-- AMO_MAXU_D (R178). 64-bit atomic unsigned maximum at home. -/
  | amoMaxuD (d : Reg) (b : RegOp) (disp : Word)
  /-- AMO_SWAP_D (R178). 64-bit atomic swap at home. -/
  | amoSwapD (d : Reg) (b : RegOp) (disp : Word)
  /-- AMO_ADD_W (R178). 32-bit atomic add at home. -/
  | amoAddW (d : Reg) (b : RegOp) (disp : Word)
  /-- AMO_AND_W (R178). 32-bit atomic AND at home. -/
  | amoAndW (d : Reg) (b : RegOp) (disp : Word)
  /-- AMO_OR_W (R178). 32-bit atomic OR at home. -/
  | amoOrW (d : Reg) (b : RegOp) (disp : Word)
  /-- AMO_XOR_W (R178). 32-bit atomic XOR at home. -/
  | amoXorW (d : Reg) (b : RegOp) (disp : Word)
  /-- AMO_MIN_W (R178). 32-bit atomic signed minimum at home. -/
  | amoMinW (d : Reg) (b : RegOp) (disp : Word)
  /-- AMO_MAX_W (R178). 32-bit atomic signed maximum at home. -/
  | amoMaxW (d : Reg) (b : RegOp) (disp : Word)
  /-- AMO_MINU_W (R178). 32-bit atomic unsigned minimum at home. -/
  | amoMinuW (d : Reg) (b : RegOp) (disp : Word)
  /-- AMO_MAXU_W (R178). 32-bit atomic unsigned maximum at home. -/
  | amoMaxuW (d : Reg) (b : RegOp) (disp : Word)
  /-- AMO_SWAP_W (R178). 32-bit atomic swap at home. -/
  | amoSwapW (d : Reg) (b : RegOp) (disp : Word)
  /-- ACAS_D (R179). 64-bit compare-and-swap at home. -/
  | acasD (d : Reg) (b : RegOp) (disp : Word) (t : RegOp)
  /-- ACAS_W (R179). 32-bit compare-and-swap at home. -/
  | acasW (d : Reg) (b : RegOp) (disp : Word) (t : RegOp)
  /-- FORKAE (R193). Creates an access/execute thread pair with fresh queues. -/
  | forkae (d : Reg) (src : RegOp) (t : Tgt)
  /-- RDV (R201). Rendezvous of a pair; the execute thread retires and the queues are freed. -/
  | rdv (d : Reg) (src : Src)
  /-- QLD (R199). Reserves a load-queue entry and loads into it. -/
  | qld (sz : Size) (q : Bool) (b : RegOp) (disp : Word)
  /-- QST (R200). Pops a store-queue value and stores it. -/
  | qst (sz : Size) (q : Bool) (b : RegOp) (disp : Word)
  /-- SEND_T (R180). Sends a message to a thread handle. -/
  | sendT (d : Reg) (handler : BitVec 6) (payload : Option RegOp) (count : BitVec 3)
  /-- SEND_C (R180). Sends a message to any eligible slot of a core. -/
  | sendC (d : Reg) (handler : BitVec 6) (payload : Option RegOp) (count : BitVec 3)
  /-- WAITM (R181). Parks until the mailbox is non-empty. -/
  | waitm
  /-- TAKEM (R182). Removes the head mailbox entry into four registers. -/
  | takem (d : Reg)
  /-- HTAB (R183). Writes a handler table entry. -/
  | htab (d : Reg) (src : Src)
  /-- MCFG_READ_CONFIG (R184). Reads the message configuration word. -/
  | mcfgReadConfig (d : Reg)
  /-- MCFG_WRITE_CONFIG (R184). Writes the message configuration word. -/
  | mcfgWriteConfig (d : Reg)
  /-- MCFG_READ_DROP_COUNTER (R184). Reads and clears the bounce drop counter. -/
  | mcfgReadDropCounter (d : Reg)
  /-- MCFG_READ_ACCEPT (R184). Reads an accept list entry. -/
  | mcfgReadAccept (d : Reg) (n : BitVec 4)
  /-- MCFG_WRITE_ACCEPT (R184). Writes an accept list entry. -/
  | mcfgWriteAccept (d : Reg) (n : BitVec 4)
  /-- PBIND (R185). Starts binding a neighbour port to a partner slot. -/
  | pbind (port : Port) (src : Src)
  /-- PUNBIND (R186). Unbinds a neighbour port. -/
  | punbind (port : Port)
  /-- PSTAT (R187). Reads a port's state word. -/
  | pstat (d : Reg) (port : Port) (t : Option RegOp)
  /-- PUSH (R188). Pushes one value on several ports at once. -/
  | push (d : Reg) (src : Src)
  /-- DEPR (R189). Sends a remote register deposit and parks for the reply. -/
  | depr (d : Reg) (src : Src) (idx : BitVec 5)
  /-- SPAWN_L (R192). Creates a thread on the issuing core. -/
  | spawnL (d : Reg) (src : RegOp) (t : Tgt)
  /-- SPAWN_C (R192). Requests creation of a thread on a target core. -/
  | spawnC (d : Reg) (src : RegOp) (t : Tgt)
  /-- TSTAT (R194). Reports a slot's state. -/
  | tstat (d : Reg) (src : RegOp)
  /-- TREG (R198). Reads an item of another thread of the core. -/
  | treg (d : Reg) (src : RegOp) (t : Tgt)
  /-- TWREG (R198). Writes an item of a trapped thread of the core. -/
  | twreg (d : Reg) (src : RegOp) (t : RegOp)
  /-- TSTOP (R196). Stops a thread of the core into TRAPPED. -/
  | tstop (src : RegOp)
  /-- TRESUME (R197). Resumes a trapped thread. -/
  | tresume (src : RegOp)
  /-- BFMT_READ (R202). Reads a bank format register. -/
  | bfmtRead (d : Reg) (src : Src)
  /-- BFMT_WRITE (R202). Writes a bank format register. -/
  | bfmtWrite (d : Reg) (src : Src)
  /-- BMODE_READ (R203). Reads a bank's current and pending sharing mode. -/
  | bmodeRead (d : Reg) (src : Src)
  /-- BMODE_WRITE (R203). Writes a bank's pending sharing mode. -/
  | bmodeWrite (d : Reg) (src : Src)
  /-- LOGSET (R204). Sets the outbox log region. -/
  | logset (d : Reg) (src : RegOp)
  /-- CPUB (R205). Invalidates instruction-cache lines of a range on a rectangle of cores. -/
  | cpub (d : Reg) (src : RegOp) (t : RegOp)
  /-- IFENCE (R206). Invalidates the issuing core's instruction cache. -/
  | ifence
  /-- LAYOUT (R269). Loads a layout record from memory. -/
  | layout (rec : Rec) (b : RegOp) (disp : Word)
  /-- RDBC_READ (R270). Reads the bank-conflict counter. -/
  | rdbcRead (d : Reg)
  /-- RDBC_READ_CLEAR (R270). Reads and zeroes the bank-conflict counter. -/
  | rdbcReadClear (d : Reg)
  /-- MMA_OVR (R271). Dispatches a matrix product overwriting the working bank. -/
  | mmaOvr (tile : TileNo) (la : Rec) (lb : Rec) (c : RegOp) (disp : Word)
  /-- MMA_ACC (R271). Dispatches a matrix product accumulating into the working bank. -/
  | mmaAcc (tile : TileNo) (la : Rec) (lb : Rec) (c : RegOp) (disp : Word)
  /-- MMA_DECAY (R271). Dispatches a matrix product after scaling the tile by alpha. -/
  | mmaDecay (tile : TileNo) (la : Rec) (lb : Rec) (c : RegOp) (disp : Word)
  /-- MMA_SAT (R271). Dispatches a matrix product with saturating integer accumulation. -/
  | mmaSat (tile : TileNo) (la : Rec) (lb : Rec) (c : RegOp) (disp : Word)
  /-- ACCZ (R272). Dispatches zeroing of a tile's banks and poison. -/
  | accz (tile : TileNo)
  /-- ACCSWAP (R273). Dispatches the exchange of a tile's banks. -/
  | accswap (tile : TileNo)
  /-- ACCRD (R274). Dispatches a copy from a tile bank to scratchpad. -/
  | accrd (tile : TileNo) (rec : Rec) (w : RegOp) (disp : Word)
  /-- ACCWR (R274). Dispatches a copy from scratchpad into a tile bank. -/
  | accwr (tile : TileNo) (rec : Rec) (w : RegOp) (disp : Word)
  /-- ACCMODE_READ (R275). Reads a tile's mode register. -/
  | accmodeRead (d : Reg) (src : Src)
  /-- ACCMODE_WRITE (R275). Writes COMPAT and SAT once the tile is quiescent. -/
  | accmodeWrite (d : Reg) (src : Src)
  /-- DRAIN_I (R277). Dispatches integer requantisation of a tile to scratchpad. -/
  | drainI (r : Rnd) (rec : Rec) (grp : RegOp)
  /-- DRAIN_F (R277). Dispatches float conversion of a tile to scratchpad. -/
  | drainF (r : Rnd) (rec : Rec) (grp : RegOp)
  /-- VADD_S (R280). Element-wise vector add, .s. -/
  | vaddS (r : Rnd) (ld : Rec) (ls : Rec)
  /-- VADD_D (R280). Element-wise vector add, FP64. -/
  | vaddD (r : Rnd) (ld : Rec) (ls : Rec)
  /-- VSUB_S (R280). Element-wise vector subtract, .s. -/
  | vsubS (r : Rnd) (ld : Rec) (ls : Rec)
  /-- VSUB_D (R280). Element-wise vector subtract, FP64. -/
  | vsubD (r : Rnd) (ld : Rec) (ls : Rec)
  /-- VMUL_S (R280). Element-wise vector multiply, .s. -/
  | vmulS (r : Rnd) (ld : Rec) (ls : Rec)
  /-- VMUL_D (R280). Element-wise vector multiply, FP64. -/
  | vmulD (r : Rnd) (ld : Rec) (ls : Rec)
  /-- VFMA_S (R280). Element-wise fused multiply-add, .s. -/
  | vfmaS (r : Rnd) (ld : Rec) (ls : Rec) (lt : Rec)
  /-- VFMA_D (R280). Element-wise fused multiply-add, FP64. -/
  | vfmaD (r : Rnd) (ld : Rec) (ls : Rec) (lt : Rec)
  /-- VFMS_S (R280). Element-wise fused multiply-subtract, .s. -/
  | vfmsS (r : Rnd) (ld : Rec) (ls : Rec) (lt : Rec)
  /-- VFMS_D (R280). Element-wise fused multiply-subtract, FP64. -/
  | vfmsD (r : Rnd) (ld : Rec) (ls : Rec) (lt : Rec)
  /-- VMIN_S (R280). Element-wise minimum, .s. -/
  | vminS (r : Rnd) (ld : Rec) (ls : Rec)
  /-- VMIN_D (R280). Element-wise minimum, FP64. -/
  | vminD (ld : Rec) (ls : Rec)
  /-- VMAX_S (R280). Element-wise maximum, .s. -/
  | vmaxS (r : Rnd) (ld : Rec) (ls : Rec)
  /-- VMAX_D (R280). Element-wise maximum, FP64. -/
  | vmaxD (ld : Rec) (ls : Rec)
  /-- VEXP_S (R280). Element-wise exponential, .s. -/
  | vexpS (r : Rnd) (ld : Rec) (ls : Rec)
  /-- VEXP_D (R280). Element-wise exponential, FP64. -/
  | vexpD (r : Rnd) (ld : Rec) (ls : Rec)
  /-- VRCP_S (R280). Element-wise reciprocal, .s. -/
  | vrcpS (r : Rnd) (ld : Rec) (ls : Rec)
  /-- VRCP_D (R280). Element-wise reciprocal, FP64. -/
  | vrcpD (r : Rnd) (ld : Rec) (ls : Rec)
  /-- VRSQ_S (R280). Element-wise reciprocal square root, .s. -/
  | vrsqS (r : Rnd) (ld : Rec) (ls : Rec)
  /-- VRSQ_D (R280). Element-wise reciprocal square root, FP64. -/
  | vrsqD (r : Rnd) (ld : Rec) (ls : Rec)
  /-- VRED_SUM_S (R281). Sum reduction along dimension 0, .s. -/
  | vredSumS (r : Rnd) (ld : Rec) (ls : Rec)
  /-- VRED_MAX_S (R281). Max reduction along dimension 0, .s. -/
  | vredMaxS (r : Rnd) (ld : Rec) (ls : Rec)
  /-- VRED_MIN_S (R281). Min reduction along dimension 0, .s. -/
  | vredMinS (r : Rnd) (ld : Rec) (ls : Rec)
  /-- VRED_SUM_D (R281). Sum reduction along dimension 0, FP64. -/
  | vredSumD (r : Rnd) (ld : Rec) (ls : Rec)
  /-- VRED_MAX_D (R281). Max reduction along dimension 0, FP64. -/
  | vredMaxD (ld : Rec) (ls : Rec)
  /-- VRED_MIN_D (R281). Min reduction along dimension 0, FP64. -/
  | vredMinD (ld : Rec) (ls : Rec)
  /-- VSCALE_S (R282). Multiplies elements by a scalar, .s. -/
  | vscaleS (r : Rnd) (ld : Rec) (ls : Rec) (t : Tgt)
  /-- VSCALE_D (R282). Multiplies elements by a scalar, FP64. -/
  | vscaleD (r : Rnd) (ld : Rec) (ls : Rec) (t : Tgt)
  /-- VCVT (R284). Converts elements between views and formats. -/
  | vcvt (r : Rnd) (ld : Rec) (ls : Rec) (view : BitVec 4)
  /-- VCMP_EQ_S (R283). Element-wise equality compare, .s. -/
  | vcmpEqS (r : Rnd) (ld : Rec) (ls : Rec) (lt : Rec)
  /-- VCMP_LT_S (R283). Element-wise less-than compare, .s. -/
  | vcmpLtS (r : Rnd) (ld : Rec) (ls : Rec) (lt : Rec)
  /-- VCMP_LE_S (R283). Element-wise less-or-equal compare, .s. -/
  | vcmpLeS (r : Rnd) (ld : Rec) (ls : Rec) (lt : Rec)
  /-- VCMP_EQ_D (R283). Element-wise equality compare, FP64. -/
  | vcmpEqD (ld : Rec) (ls : Rec) (lt : Rec)
  /-- VCMP_LT_D (R283). Element-wise less-than compare, FP64. -/
  | vcmpLtD (ld : Rec) (ls : Rec) (lt : Rec)
  /-- VCMP_LE_D (R283). Element-wise less-or-equal compare, FP64. -/
  | vcmpLeD (ld : Rec) (ls : Rec) (lt : Rec)
  /-- VSEL_S (R283). Element-wise select, .s. -/
  | vselS (r : Rnd) (ld : Rec) (ls : Rec) (lt : Rec)
  /-- VSEL_D (R283). Element-wise select, FP64. -/
  | vselD (ld : Rec) (ls : Rec) (lt : Rec)
  /-- VFILL_S (R282). Fills a record with a scalar, .s. -/
  | vfillS (r : Rnd) (ld : Rec) (src : Src)
  /-- VFILL_D (R282). Fills a record with a 64-bit scalar. -/
  | vfillD (ld : Rec) (src : Src)
  /-- COPY_B (R286). Starts a Clove byte copy. -/
  | copyB (ld : Rec) (ls : Rec) (t : RegOp)
  /-- COPY_L (R286). Starts a Clove converting copy. -/
  | copyL (r : Rnd) (ld : Rec) (ls : Rec) (t : RegOp)
  /-- COPYM (R288). Starts a Clove copy carrying an MMA that follows it. -/
  | copym (r : Rnd) (ld : Rec) (ls : Rec) (t : RegOp)
  /-- ESYNC (R289). Waits for the thread's Cassia operations and acquires them, or delivers a report. -/
  | esync
  /-- ESTAT (R290). Reads the engine status word. -/
  | estat (d : Reg)
  /-- SAVEAREA_WRITE (R291). Writes the save-area register after checks. -/
  | saveareaWrite (d : Reg)
  /-- SAVEAREA_READ (R291). Reads the save-area register. -/
  | saveareaRead (d : Reg)
  /-- PACK (R292). Counts the core packed once its Cassia work ends and retires the handler. -/
  | pack
  /-- BARSET_READ (R331). Reads a barrier register. -/
  | barsetRead (d : Reg) (n : BitVec 2)
  /-- BARSET_WRITE (R331). Writes a barrier register's count and rectangle. -/
  | barsetWrite (d : Reg) (n : BitVec 2)
  /-- BAR (R332). Arrives at a barrier and waits for its release. -/
  | bar (n : BitVec 2)
  /-- BARA (R332). Arrives at a barrier without waiting. -/
  | bara (d : Reg) (n : BitVec 2)
  /-- BARW (R332). Waits for a barrier epoch to change. -/
  | barw (d : Reg) (n : BitVec 2)
  /-- RFORK (R333). Forks a range of chunks across idle cores of the die. -/
  | rfork (d : Reg) (src : RegOp) (t : Tgt)
  /-- JOIN (R334). Decrements a join cell, retiring or continuing. -/
  | join (src : RegOp)
  /-- CELL_NEW (R338). Creates a graph, phase or job completion cell. -/
  | cellNew (d : Reg) (src : RegOp) (t : Tgt)
  /-- CELL_RD (R336). Reads a completion or join cell. -/
  | cellRd (d : Reg) (src : RegOp)
  /-- CELL_ADD (R337). Adds a signed amount to a cell's count. -/
  | cellAdd (d : Reg) (src : RegOp)
  /-- CANCEL (R339). Cancels a completion cell and its descendants. -/
  | cancel (src : RegOp)
  /-- PHASE_B (R340). Arrives at a barrier phase and waits for its commit. -/
  | phaseB (n : BitVec 2)
  /-- PHASE_C (R340). Arrives at a core-scope phase and waits for its commit. -/
  | phaseC
  /-- PHASE_H (R340). Arrives at a holder-wide phase and waits for its commit. -/
  | phaseH
  /-- GRID (R341). Registers a grid descriptor in a slot of the die. -/
  | grid (d : Reg) (b : RegOp) (disp : Word)
  /-- GBIND (R342). Binds a tile of a grid to the calling core. -/
  | gbind (d : Reg) (src : RegOp) (t : Tgt)
  /-- HSTEP (R343). Publishes a tile's step for Anise. -/
  | hstep (d : Reg) (src : RegOp)
  /-- LDH (R344). Loads a frame cell, waiting on its face step. -/
  | ldh (sz : Size) (d : Reg) (b : RegOp) (disp : Word) (t : Tgt)
  /-- HWAIT (R345). Waits for every face of a tile to reach a step. -/
  | hwait (d : Reg) (src : RegOp)
  /-- HWAIT_F (R345). Waits for one face of a tile to reach a step. -/
  | hwaitF (d : Reg) (src : RegOp) (t : Tgt)
  /-- GSTAT_G (R346). Reads a grid slot's status word. -/
  | gstatG (d : Reg) (src : Src)
  /-- GSTAT_F (R346). Reads a face's step word. -/
  | gstatF (d : Reg) (src : RegOp) (t : Tgt)
  /-- GFREE (R347). Unbinds the core's tile and may release the registration. -/
  | gfree (src : RegOp)
  /-- BUDGET_SET (R348). Writes a budget table entry. -/
  | budgetSet (d : Reg) (src : Src)
  /-- BUDGET_RD (R348). Reads a budget table entry. -/
  | budgetRd (d : Reg) (src : Src)
  /-- BUDGET_CLR (R348). Frees a budget table entry. -/
  | budgetClr (d : Reg) (src : Src)
  /-- MINT (R387). Creates a new holder from an idle held core and starts its thread. -/
  | mint (d : Reg) (src : RegOp) (t : RegOp)
  /-- GIVE (R388). Offers a resource to a receiver, or cancels a pending trade. -/
  | give (d : Reg) (src : RegOp)
  /-- GIVE_S (R389). Offers a sub-range of a region, splitting it. -/
  | giveS (d : Reg) (src : RegOp) (t : RegOp)
  /-- ACCEPT (R390). Takes a pending give or lend and starts the transfer. -/
  | accept (src : RegOp)
  /-- LEND (R388). Offers a resource on loan. -/
  | lend (d : Reg) (src : RegOp)
  /-- LEND_S (R389). Offers a sub-range of a region on loan, splitting it. -/
  | lendS (d : Reg) (src : RegOp) (t : RegOp)
  /-- RECLAIM (R391). Lender ends a loan with the default budget. -/
  | reclaim (src : RegOp)
  /-- RECLAIM_B (R391). Lender ends a loan with a given pre-emption budget. -/
  | reclaimB (src : RegOp) (t : RegOp)
  /-- RETURN (R391). Borrower ends a loan. -/
  | returnLoan (src : RegOp)
  /-- CLAIM (R392). Heir opens a claim with a grace period. -/
  | claim (src : RegOp) (t : RegOp)
  /-- DENY (R392). Holder ends an open claim. -/
  | deny (src : RegOp)
  /-- HEIR_RESOURCE (R394). Sets the heir of a resource entry. -/
  | heirResource (d : Reg) (src : RegOp)
  /-- HEIR_RECORD (R394). Sets the holder record's default heir and notice core. -/
  | heirRecord (d : Reg) (src : RegOp)
  /-- OWNQ (R395). Reads an ownership map entry. -/
  | ownq (d : Reg) (src : RegOp)
  /-- OWNQ_A (R396). Returns the resource id covering a physical address. -/
  | ownqA (d : Reg) (b : RegOp) (disp : Word)
  /-- ROOTSET (R397). Sets the holder's translation root and clears its translations. -/
  | rootset (d : Reg) (src : Src)
  /-- TLBINV (R398). Invalidates all of the holder's translations. -/
  | tlbinv
  /-- TLBINV_P (R398). Invalidates the holder's translations of one page. -/
  | tlbinvP (b : RegOp) (disp : Word)
  /-- LATT (R399). Sets the holder's exit-latency tolerance. -/
  | latt (src : RegOp)
  /-- CAPMK (R429). Makes a tagged capability for a local address. -/
  | capmk (d : Reg) (src : RegOp) (t : RegOp)
  /-- CAPNAR (R430). Narrows a capability. -/
  | capnar (d : Reg) (src : RegOp) (t : RegOp) (imm : BitVec 12)
  /-- CAPCHK (R431). Reads a capability's tag and lower bound. -/
  | capchk (d : Reg) (src : RegOp)
  /-- LDR (R432). Remote load through a capability, migrating when it names another chip. -/
  | ldr (sz : Size) (d : Reg) (b : RegOp) (disp : Word)
  /-- LDR_Q (R432). 16-byte remote load into a pair, keeping the granule tag. -/
  | ldrQ (d : Reg) (hi : RegOp) (c : RegOp) (disp : Word)
  /-- HOME (R433). Migrates the thread back to its home core. -/
  | home
  /-- STR (R434). Posted remote store through a capability. -/
  | str (sz : Size) (d : Reg) (b : RegOp) (disp : Word)
  /-- STR_Q (R434). 16-byte posted remote store, possibly storing a tag. -/
  | strQ (d : Reg) (hi : RegOp) (c : RegOp) (disp : Word)
  /-- RAMO_ADD_D (R435). Remote 64-bit atomic add with reply. -/
  | ramoAddD (d : Reg) (b : RegOp) (disp : Word)
  /-- RAMO_AND_D (R435). Remote 64-bit atomic AND. -/
  | ramoAndD (d : Reg) (b : RegOp) (disp : Word)
  /-- RAMO_OR_D (R435). Remote 64-bit atomic OR. -/
  | ramoOrD (d : Reg) (b : RegOp) (disp : Word)
  /-- RAMO_XOR_D (R435). Remote 64-bit atomic XOR. -/
  | ramoXorD (d : Reg) (b : RegOp) (disp : Word)
  /-- RAMO_MIN_D (R435). Remote 64-bit atomic signed minimum. -/
  | ramoMinD (d : Reg) (b : RegOp) (disp : Word)
  /-- RAMO_MAX_D (R435). Remote 64-bit atomic signed maximum. -/
  | ramoMaxD (d : Reg) (b : RegOp) (disp : Word)
  /-- RAMO_MINU_D (R435). Remote 64-bit atomic unsigned minimum. -/
  | ramoMinuD (d : Reg) (b : RegOp) (disp : Word)
  /-- RAMO_MAXU_D (R435). Remote 64-bit atomic unsigned maximum. -/
  | ramoMaxuD (d : Reg) (b : RegOp) (disp : Word)
  /-- RAMO_SWAP_D (R435). Remote 64-bit atomic swap. -/
  | ramoSwapD (d : Reg) (b : RegOp) (disp : Word)
  /-- RAMO_ADD_W (R435). Remote 32-bit atomic add. -/
  | ramoAddW (d : Reg) (b : RegOp) (disp : Word)
  /-- RAMO_AND_W (R435). Remote 32-bit atomic AND. -/
  | ramoAndW (d : Reg) (b : RegOp) (disp : Word)
  /-- RAMO_OR_W (R435). Remote 32-bit atomic OR. -/
  | ramoOrW (d : Reg) (b : RegOp) (disp : Word)
  /-- RAMO_XOR_W (R435). Remote 32-bit atomic XOR. -/
  | ramoXorW (d : Reg) (b : RegOp) (disp : Word)
  /-- RAMO_MIN_W (R435). Remote 32-bit atomic signed minimum. -/
  | ramoMinW (d : Reg) (b : RegOp) (disp : Word)
  /-- RAMO_MAX_W (R435). Remote 32-bit atomic signed maximum. -/
  | ramoMaxW (d : Reg) (b : RegOp) (disp : Word)
  /-- RAMO_MINU_W (R435). Remote 32-bit atomic unsigned minimum. -/
  | ramoMinuW (d : Reg) (b : RegOp) (disp : Word)
  /-- RAMO_MAXU_W (R435). Remote 32-bit atomic unsigned maximum. -/
  | ramoMaxuW (d : Reg) (b : RegOp) (disp : Word)
  /-- RAMO_SWAP_W (R435). Remote 32-bit atomic swap. -/
  | ramoSwapW (d : Reg) (b : RegOp) (disp : Word)
  /-- RCAS_D (R435). Remote 64-bit compare-and-swap. -/
  | rcasD (d : Reg) (b : RegOp) (disp : Word) (t : RegOp)
  /-- RCAS_W (R435). Remote 32-bit compare-and-swap. -/
  | rcasW (d : Reg) (b : RegOp) (disp : Word) (t : RegOp)
  /-- RAMO_ADD_N (R435). Posted remote atomic add. -/
  | ramoAddN (d : Reg) (b : RegOp) (disp : Word)
  /-- RAMO_AND_N (R435). Posted remote atomic AND. -/
  | ramoAndN (d : Reg) (b : RegOp) (disp : Word)
  /-- RAMO_OR_N (R435). Posted remote atomic OR. -/
  | ramoOrN (d : Reg) (b : RegOp) (disp : Word)
  /-- RAMO_XOR_N (R435). Posted remote atomic XOR. -/
  | ramoXorN (d : Reg) (b : RegOp) (disp : Word)
  /-- RAMO_MIN_N (R435). Posted remote atomic signed minimum. -/
  | ramoMinN (d : Reg) (b : RegOp) (disp : Word)
  /-- RAMO_MAX_N (R435). Posted remote atomic signed maximum. -/
  | ramoMaxN (d : Reg) (b : RegOp) (disp : Word)
  /-- RAMO_MINU_N (R435). Posted remote atomic unsigned minimum. -/
  | ramoMinuN (d : Reg) (b : RegOp) (disp : Word)
  /-- RAMO_MAXU_N (R435). Posted remote atomic unsigned maximum. -/
  | ramoMaxuN (d : Reg) (b : RegOp) (disp : Word)
  /-- RAMO_SWAP_N (R435). Posted remote atomic swap. -/
  | ramoSwapN (d : Reg) (b : RegOp) (disp : Word)
  /-- FFENCE (R436). Closes remote stores to a chip with a flagged fence. -/
  | ffence (d : Reg) (src : RegOp) (t : RegOp)
  /-- MCAST (R437). Sends a pair to every member of a multicast group. -/
  | mcast (d : Reg) (src : RegOp)
  /-- MCGRP (R438). Rewrites a multicast group entry. -/
  | mcgrp (d : Reg) (src : RegOp)
  /-- GUESTSET (R439). Writes a guest pool. -/
  | guestset (d : Reg) (src : RegOp)
  /-- LONG_LATENCY_RESULT_ARRIVAL (R18). A load, reply or engine result arrives and fills its register. -/
  | longLatencyResultArrival (chip : Nat) (id : Nat)
  /-- TRANSLATION_WALK_COMPLETE (R100). An address translation walk ends, letting a replayed chain proceed or trap. -/
  | translationWalkComplete (chip : Nat) (id : Nat)
  /-- ICACHE_FILL (R224). An instruction-cache line is filled from the view or home memory. -/
  | icacheFill (chip : Nat) (id : Nat)
  /-- MESSAGE_ARRIVAL (R146). A message reaches its target core and is checked, deposited, handled or refused. -/
  | messageArrival (chip : Nat) (id : Nat)
  /-- MESSAGE_DELIVERY_RETRY (R146). A waiting message is checked again when a slot, window or mailbox entry frees. -/
  | messageDeliveryRetry (chip : Nat) (id : Nat)
  /-- DEPOSIT_ARRIVAL (R162). A DEPR deposit reaches the target core's deposit buffer or is refused. -/
  | depositArrival (chip : Nat) (id : Nat)
  /-- DEPOSIT_WRITE (R162). A buffered deposit is written once its target register is empty. -/
  | depositWrite (chip : Nat) (id : Nat)
  /-- DEPOSIT_REPLY (R189). The target's reply wakes the DEPR sender, zeroing D on refusal. -/
  | depositReply (chip : Nat) (id : Nat)
  /-- PORT_BIND_REQUEST (R185). A bind request reaches the partner core and completes or waits. -/
  | portBindRequest (chip : Nat) (id : Nat)
  /-- PORT_VALUE_ARRIVAL (R160). A pushed port value enters the partner's queue. -/
  | portValueArrival (chip : Nat) (id : Nat)
  /-- SPAWN_REMOTE_CREATE (R192). A SPAWN.c request creates a thread at the target core and replies. -/
  | spawnRemoteCreate (chip : Nat) (id : Nat)
  /-- TSTAT_REMOTE_REPLY (R194). A remote core answers a TSTAT. -/
  | tstatRemoteReply (chip : Nat) (id : Nat)
  /-- HOME_FE_OPERATION (R174). A full/empty operation arrives at its home, is performed or enlisted, and the wait list is scanned. -/
  | homeFeOperation (chip : Nat) (id : Nat)
  /-- HOME_ATOMIC (R178). An AMO or ACAS is performed at its home and replies. -/
  | homeAtomic (chip : Nat) (id : Nat)
  /-- SLOT_RELEASE (R29). A RETIRED slot becomes FREE once its producers have returned, advancing its generation. -/
  | slotRelease (chip core slot : Nat)
  /-- CASSIA_OP_START (R241). Cassia starts an eligible queue head on a free pipe. -/
  | cassiaOpStart (chip cluster : Nat)
  /-- ENGINE_LINE_READ (R218). An engine operation reads a source row or line from M. -/
  | engineLineRead (chip : Nat) (id : Nat)
  /-- ENGINE_LINE_WRITE (R218). An engine operation writes one destination line to M. -/
  | engineLineWrite (chip : Nat) (id : Nat)
  /-- ACCSWAP_EXCHANGE (R251). A tile's banks exchange once it is quiescent. -/
  | accswapExchange (chip : Nat) (id : Nat)
  /-- CLOVE_PIECE_ARRIVAL (R255). A copy piece reaches its owning streamer. -/
  | clovePieceArrival (chip : Nat) (id : Nat)
  /-- CLOVE_PIECE_WRITE (R255). A streamer writes one destination line of a piece, or a map gate refuses it. -/
  | clovePieceWrite (chip : Nat) (id : Nat)
  /-- COMMIT_ENTRY_APPLY (R217). One outbox entry is applied to M during a commit. -/
  | commitEntryApply (chip : Nat) (id : Nat)
  /-- COMMIT_REFRESH (R217). Views of the scope are refreshed, modes updated, and PHASE chains complete. -/
  | commitRefresh (chip : Nat) (id : Nat)
  /-- PHASE_COMMIT_START (R313). The last core of a scope arrives and the commit begins. -/
  | phaseCommitStart (chip : Nat) (id : Nat)
  /-- BARRIER_SIGNAL_HOP (R303). A barrier row or column signal moves one core. -/
  | barrierSignalHop (chip core reg : Nat)
  /-- BARRIER_RELEASE (R303). The corner releases and the release reaches a core, toggling EPOCH. -/
  | barrierRelease (chip core reg : Nat)
  /-- CELL_OPERATION (R335). A cell operation is performed at the cell's die and replies. -/
  | cellOperation (chip : Nat) (id : Nat)
  /-- ANISE_PLACEMENT_READ (R318). Anise reads a placement table entry. -/
  | anisePlacementRead (chip : Nat) (id : Nat)
  /-- ANISE_SLAB_READ (R321). Anise reads a slab line of a published tile. -/
  | aniseSlabRead (chip : Nat) (id : Nat)
  /-- ANISE_SLAB_WRITE (R220). Anise writes one line of a slab into a halo plane. -/
  | aniseSlabWrite (chip : Nat) (id : Nat)
  /-- ANISE_SELF_FILL (R322). A boundary face is filled from the tile's own interior. -/
  | aniseSelfFill (chip : Nat) (id : Nat)
  /-- ANISE_FACE_STEP_SET (R320). A face's step register and step-area word are set after delivery. -/
  | aniseFaceStepSet (chip : Nat) (id : Nat)
  /-- ANISE_DELIVERY_ABANDON (R325). A failed delivery is abandoned and recorded in the slot status. -/
  | aniseDeliveryAbandon (chip : Nat) (id : Nat)
  /-- BUDGET_PERIOD_START (R328). A budget period starts and usage resets. -/
  | budgetPeriodStart (chip die : Nat) (block : Nat)
  /-- PREEMPT_REQUEST (R260). A pre-emption request reaches a cluster controller and stops threads. -/
  | preemptRequest (chip : Nat) (id : Nat)
  /-- PREEMPT_HANDLER_START (R260). The PREEMPT message starts handler 0 in slot 63. -/
  | preemptHandlerStart (chip core : Nat)
  /-- PREEMPT_DONE (R260). After the save copy, cores send PREEMPT-DONE and pass to the new holder. -/
  | preemptDone (chip cluster : Nat)
  /-- PREEMPT_BUDGET_EXPIRY (R261). The budget count expires before all cores pack; the reclaim becomes hard. -/
  | preemptBudgetExpiry (chip cluster : Nat)
  /-- MAP_TRADE_ARRIVAL (R386). A trade request reaches the map block and is judged or waits on BUSY. -/
  | mapTradeArrival (chip : Nat) (id : Nat)
  /-- MAP_TRANSFER_COMPLETE (R365). A transfer's last step writes the entry and clears BUSY. -/
  | mapTransferComplete (chip : Nat) (id : Nat)
  /-- CLAIM_EXPIRY (R366). A claim's grace expires and the resource passes to the heir. -/
  | claimExpiry (chip : Nat) (id : Nat)
  /-- CBPTR_WRITE (R371). A host write of a ring control-block pointer starts a sample. -/
  | cbptrWrite (chip fn ring : Nat) (v : Word)
  /-- DOORBELL_WRITE (R371). A host doorbell write requests a ring sample. -/
  | doorbellWrite (chip fn ring : Nat)
  /-- BOOTGO_WRITE (R382). A host write to BOOTGO starts the boot image copy. -/
  | bootgoWrite (chip : Nat)
  /-- HOST_REGISTER_WRITE (R369). A host write to a BAR0 register with no behaviour of its own, such as BOOTADR or BOOTLEN. -/
  | hostRegisterWrite (chip fn offset : Nat) (v : Word)
  /-- RING_SAMPLE_RETRY (R371). The ring sampler retries after 4,096 host-interface cycles. -/
  | ringSampleRetry (chip ring : Nat)
  /-- PACKET_TAKE (R372). The merge unit takes a packet from a ring and writes RDIDX. -/
  | packetTake (chip ring : Nat)
  /-- PACKET_NOP (R373). A NOP packet completes when taken. -/
  | packetNop (chip : Nat) (id : Nat)
  /-- PACKET_LAUNCH (R373). A LAUNCH packet delivers a HOST message to a core. -/
  | packetLaunch (chip : Nat) (id : Nat)
  /-- PACKET_BARRIER (R373). A BARRIER packet waits for its signal words. -/
  | packetBarrier (chip : Nat) (id : Nat)
  /-- PACKET_SIGNAL (R373). A SIGNAL packet adds to or stores a word at home. -/
  | packetSignal (chip : Nat) (id : Nat)
  /-- PACKET_INDIRECT (R375). An INDIRECT packet runs a nested packet array. -/
  | packetIndirect (chip : Nat) (id : Nat)
  /-- PACKET_COPY (R373). A COPY packet starts a byte copy. -/
  | packetCopy (chip : Nat) (id : Nat)
  /-- PACKET_COMPLETE (R373). A packet completes and updates its completion signal. -/
  | packetComplete (chip : Nat) (id : Nat)
  /-- HOST_LINK_RESET (R376). A hot reset or link-down resets the host interface. -/
  | hostLinkReset (chip : Nat)
  /-- HOST_LINK_UP (R376). The host link comes up again and host-window accesses resume. -/
  | hostLinkUp (chip : Nat)
  /-- FUNCTION_LEVEL_RESET (R377). A virtual function reset claims everything its holder holds. -/
  | functionLevelReset (chip fn : Nat)
  /-- HOST_CXL_WRITE (R214). The host writes device memory over CXL. -/
  | hostCxlWrite (chip addr : Nat) (bytes : List Byte)
  /-- HOST_CXL_READ (R223). The host reads device memory over CXL. -/
  | hostCxlRead (chip addr n : Nat)
  /-- HOST_LTR_UPDATE (R378). The host's PCIe LTR value changes the clusters' latency limit. -/
  | hostLtrUpdate (chip ns : Nat)
  /-- CLUSTER_POWER_ENTRY (R378). After 1,024 idle cycles a cluster enters the deepest allowed state. -/
  | clusterPowerEntry (chip cluster : Nat)
  /-- CLUSTER_POWER_EXIT_START (R378). An arrival starts a cluster's exit from a power state. -/
  | clusterPowerExitStart (chip cluster : Nat)
  /-- CLUSTER_POWER_EXIT_COMPLETE (R378). A cluster's exit completes and held arrivals proceed. -/
  | clusterPowerExitComplete (chip cluster : Nat)
  /-- POWER_UP (R382). Power-up trains links and builds the boot map. -/
  | powerUp (chip : Nat)
  /-- BOOT_START (R382). After the boot copy, slot 0 of core 0 starts and BOOTED is set. -/
  | bootStart (chip : Nat)
  /-- POWER_LOSS (R379). Removal of power loses all state. -/
  | powerLoss (chip : Nat)
  /-- FATAL_ERROR (R383). An uncorrectable map error or dead die link freezes the dies and starts the dump. -/
  | fatalError (chip die : Nat) (cause : Byte)
  /-- DUMP_COMPLETE (R383). All dies have dumped; DUMPED and FATAL are set and reported. -/
  | dumpComplete (chip : Nat)
  /-- LINK_REPLAY (R415). A link replays a flit that failed its check. -/
  | linkReplay (chip port : Nat)
  /-- LINK_DOWN (R415). A link that fails 16 consecutive replays is marked down. -/
  | linkDown (chip port : Nat)
  /-- FABRIC_PACKET_HOP (R407). A router forwards a packet, or returns NO-ROUTE over a down link. -/
  | fabricPacketHop (id : Nat)
  /-- RETRANSMIT_TIMEOUT (R416). A source unit retransmits after 2^20 cycles, ending NO-ROUTE at the 8th timeout. -/
  | retransmitTimeout (chip port dst seq : Nat)
  /-- STREAM_RESTART (R416). An idle stream restarts at SEQ 0 with OPEN after 2^25 cycles. -/
  | streamRestart (chip port dst : Nat)
  /-- STREAM_STATE_EXPIRY (R416). A target discards a stream's state after 2^26 idle cycles. -/
  | streamStateExpiry (chip src unit : Nat)
  /-- FABRIC_STORE_ARRIVAL (R411). A STORE request is checked and written at the target chip. -/
  | fabricStoreArrival (id : Nat)
  /-- FABRIC_AMO_ARRIVAL (R414). An AMO request is checked, possibly combined, performed and replied. -/
  | fabricAmoArrival (id : Nat)
  /-- FABRIC_POSTED_ARRIVAL (R435). A posted atomic is checked and performed at the target. -/
  | fabricPostedArrival (id : Nat)
  /-- FABRIC_FENCE_ARRIVAL (R221). A FENCE writes its flag word at the target. -/
  | fabricFenceArrival (id : Nat)
  /-- FABRIC_MCAST_ARRIVAL (R423). A multicast copy arrives at a member chip for delivery. -/
  | fabricMcastArrival (id : Nat)
  /-- FABRIC_PORT_ARRIVAL (R424). A PORT packet carries a port value or binding across chips. -/
  | fabricPortArrival (id : Nat)
  /-- FABRIC_NOTICE_ARRIVAL (R325). An Anise publication notice arrives from a neighbour chip. -/
  | fabricNoticeArrival (id : Nat)
  /-- FABRIC_REPLY_ARRIVAL (R412). A REPLY returns a result or status to the source. -/
  | fabricReplyArrival (id : Nat)
  /-- FABRIC_ACK_ARRIVAL (R416). An ACK releases a held request copy at the source. -/
  | fabricAckArrival (id : Nat)
  /-- MIGRATE_ARRIVAL (R420). A migrating thread is admitted to a guest slot and restored. -/
  | migrateArrival (id : Nat)
  /-- MIGRATE_RETURN (R421). An unadmitted or unroutable migration returns to the core it left. -/
  | migrateReturn (id : Nat)
  /-- FUNDAMENTAL_RESET (R383). A fundamental reset of the host link restarts a package that has dumped, which then boots as R382 gives. -/
  | fundamentalReset (chip : Nat)
  /-- FABRIC_LINK_TRAIN (R425). A fabric link that was marked down trains again, so that a route to the destinations behind it exists once more. -/
  | fabricLinkTrain (chip port : Nat)
  deriving DecidableEq, Repr

end Sys2Proof
end

