-- ==== Sys2Proof/Decode.lean ====
section
/-! DEFINITION. Decoding of chains from instruction words (R59-R81), and the encoder of well-formed instructions.
A chain is parsed into its prefixes and base word, the opcode map gives the form of its row, the form checks the
chain and reads its operands, and the row builds the instruction. -/

namespace Sys2Proof

/-! ## Chains -/

/-- A chain as R59 to R66 divide it: its prefixes' fields and its base word. -/
structure Chain where
  page : BitVec 4
  rnd : Rnd
  regx : Option (BitVec 10)
  regt : Option (BitVec 10)
  imms : List (BitVec 10)
  base : Half
  deriving DecidableEq, Repr

/-- The prefixes read so far; an absent PAGE is page 0 (R71). -/
structure Prefixes where
  paged : Bool
  page : BitVec 4
  rnd : Rnd
  regx : Option (BitVec 10)
  regt : Option (BitVec 10)
  imms : List (BitVec 10)
  deriving DecidableEq, Repr

def Prefixes.empty : Prefixes := ⟨false, 0, ⟨0, 0⟩, none, none, []⟩

/-- Bits [15:10], the opcode value (R60). -/
def opcodeOf (w : Half) : BitVec 6 := w.extractLsb' 10 6

/-- Bits [9:0], the payload of a prefix (R65). -/
def payloadOf (w : Half) : BitVec 10 := w.extractLsb' 0 10

/-- A word is a prefix when its opcode value is 60 to 63 (R60). -/
def isPrefix (w : Half) : Bool := 60 ≤ (opcodeOf w).toNat

/-- One prefix word added (R65, R66). -/
def Prefixes.add (p : Prefixes) (w : Half) : Except Illegal Prefixes :=
  let v := payloadOf w
  if opcodeOf w = 60 then
    if p.imms.length = 3 then .error .prefixCount else .ok { p with imms := p.imms ++ [v] }
  else if opcodeOf w = 61 then
    if p.regx.isSome then .error .prefixCount
    else if v.getLsbD 0 then .error .reservedBit else .ok { p with regx := some v }
  else if opcodeOf w = 62 then
    if p.regt.isSome then .error .prefixCount else .ok { p with regt := some v }
  else if p.paged then .error .prefixCount
  else if v.getLsbD 0 then .error .reservedBit
  else if (v.extractLsb' 6 4).toNat = 0 ∨ 7 ≤ (v.extractLsb' 6 4).toNat then .error .page
  else .ok { p with paged := true, page := v.extractLsb' 6 4, rnd := ⟨v.extractLsb' 3 3, v.extractLsb' 1 2⟩ }

/-- Reads prefixes and the base word; `room` is how many prefixes may still stand (R66).
The answer is the chain and its length in words. -/
def parseFrom (p : Prefixes) : Nat → List Half → Except Illegal (Chain × Nat)
  | _, [] => .error .truncated
  | 0, w :: _ =>
    if isPrefix w then .error .prefixCount else .ok (⟨p.page, p.rnd, p.regx, p.regt, p.imms, w⟩, 1)
  | room + 1, w :: ws =>
    if isPrefix w then
      match p.add w with
      | .error e => .error e
      | .ok q =>
        match parseFrom q room ws with
        | .error e => .error e
        | .ok (c, n) => .ok (c, n + 1)
    else .ok (⟨p.page, p.rnd, p.regx, p.regt, p.imms, w⟩, 1)

/-- The chain at the head of the words (R66: at most four prefixes). -/
def parse (ws : List Half) : Except Illegal (Chain × Nat) := parseFrom Prefixes.empty 4 ws

/-- How many words the fetch of a chain reads: up to its base word, or up to a fifth prefix (R59, R66). -/
def chainWords : Nat → List Half → List Half
  | _, [] => []
  | 0, w :: _ => [w]
  | room + 1, w :: ws => if isPrefix w then w :: chainWords room ws else [w]

/-! ## Forms of the rows -/

/-- The base formats (R60). -/
inductive Format where
  | A | I | J | B | M
  deriving DecidableEq, Repr

/-- What the D field is: absent, a register, a register or stream destination, or a number. -/
inductive DForm where
  | none | reg | dst
  | num (max : Nat)
  deriving DecidableEq, Repr

/-- What the S field is: absent, a register (the base of format M, and operands with K = 0b00 only), a record
number, an operand that may be a register, a stream or an immediate in a range, or a selector. -/
inductive SForm where
  | none | base | num
  | src (stream : Bool) (imm : Option (Int × Int))
  | sel (reg : Bool) (range : Int × Int)
  deriving DecidableEq, Repr

/-- What T is: absent, a mandatory or an optional register, a mandatory register or stream, a record number. -/
inductive TForm where
  | none | regT | regO | tgt | recT
  deriving DecidableEq, Repr

/-- Where the immediate stands: nowhere, in S with K = 0b10 with IMM prefixes above it or (sBare) with none, where the instruction's row
has none (R67, R170), in the base word's field with IMM prefixes above it or (bare) with none (R136), in a displacement, in IMM prefixes alone (mandatory or not), or in exactly one IMM prefix. -/
inductive IForm where
  | none | sImm | sBare | disp
  | field (range : Int × Int)
  | bare (range : Int × Int)
  | pre (mandatory : Bool) (range : Int × Int)
  | one (range : Int × Int)
  deriving DecidableEq, Repr

/-- Every value of a signed immediate of up to 64 bits. -/
def anyImm : Int × Int := (-(2 ^ 63), 2 ^ 63 - 1)

/-- One operand as the words give it. -/
inductive Opd where
  | none | imm
  | reg (r : RegOp)
  | stream (c : BitVec 4)
  | num (n : BitVec 4)
  deriving DecidableEq, Repr

/-- The operands of a chain, before its row gives them their meaning. -/
structure Raw where
  d : Opd
  s : Opd
  t : Opd
  imm : Word
  sz : BitVec 2
  rnd : Rnd
  deriving DecidableEq, Repr

/-- One row of the opcode map: its format, its operands and the instruction built from them. -/
structure Form where
  fmt : Format
  d : DForm
  s : SForm
  sz : List (BitVec 2)
  t : TForm
  imm : IForm
  rounds : Bool
  build : Raw → Option Instr

/-- Stream codes that may stand as a source (R64). -/
def sourceStream (c : BitVec 4) : Bool := c.toNat ≠ 8 ∧ c.toNat ≠ 9

/-- Stream codes that may stand as a destination (R64). -/
def destStream (c : BitVec 4) : Bool := c.toNat ≤ 5 ∨ (8 ≤ c.toNat ∧ c.toNat ≤ 10)

def inRange (r : Int × Int) (v : Int) : Bool := r.1 ≤ v ∧ v ≤ r.2

def plainReg (n : Reg) : RegOp := ⟨n, false, false⟩

/-! ## Immediates -/

/-- The bit string P1:…:Pn:F of R63 as a natural number; `w` is the width of F. -/
def immString (imms : List (BitVec 10)) (f w : Nat) : Nat :=
  (imms.foldl (fun a p => a * 1024 + p.toNat) 0) * 2 ^ w + f

/-- The value of a bit string of `len` bits, sign-extended from its top bit (R63). -/
def signedString (len v : Nat) : Int := if len ≠ 0 ∧ 2 ^ (len - 1) ≤ v then (v : Int) - 2 ^ len else v

/-- The immediate of R63. -/
def immValue (imms : List (BitVec 10)) (f w : Nat) : Int := signedString (10 * imms.length + w) (immString imms f w)

/-- A signed value fits a string of `len` bits. -/
def fitsString (len : Nat) (v : Int) : Bool := if len = 0 then v = 0 else -(2 ^ (len - 1)) ≤ v ∧ v < 2 ^ (len - 1)

/-- The fewest IMM prefixes, from `least`, that hold a value beside a field of `w` bits. -/
def immCount (least w : Nat) (v : Int) : Nat :=
  if least = 0 ∧ fitsString w v then 0 else if fitsString (10 + w) v then 1 else if fitsString (20 + w) v then 2 else 3

/-- The two's complement string of a value. -/
def stringOf (len : Nat) (v : Int) : Nat := (v % 2 ^ len).toNat

/-- The payloads of `n` IMM prefixes from the string above the field. -/
def immPayloads : Nat → Nat → List (BitVec 10)
  | 0, _ => []
  | n + 1, u => BitVec.ofNat 10 (u / 1024 ^ n) :: immPayloads n u

/-! ## Reading the operands of a chain -/

/-- The D operand (R62, R64, R67, R98). -/
def readD (f : DForm) (hi : BitVec 3) (ds : Bool) (lo : BitVec 4) : Except Illegal Opd :=
  match f with
  | .none => if hi = 0 ∧ ds = false ∧ lo = 0 then .ok .none else .error .strayPrefix
  | .num m =>
    if hi ≠ 0 ∨ ds then .error .strayPrefix else if m < lo.toNat then .error .range else .ok (.num lo)
  | .reg => if ds then .error .streamUse else .ok (.reg (plainReg (hi ++ lo)))
  | .dst =>
    if ds then (if hi = 0 ∧ destStream lo then .ok (.stream lo) else .error .streamUse)
    else .ok (.reg (plainReg (hi ++ lo)))

/-- A register S with its reuse hint and trap bit (R62, R65). -/
def regS (hi : BitVec 3) (lo : BitVec 4) (reuse trap : Bool) : Opd := .reg ⟨hi ++ lo, reuse, trap⟩

/-- The S operand of a format A chain; `k` is its kind (R61, R64, R67, R99). -/
def readSA (f : SForm) (hi : BitVec 3) (reuse trap : Bool) (lo : BitVec 4) (k : BitVec 2) : Except Illegal Opd :=
  let bare : Bool := hi = 0 ∧ reuse = false ∧ trap = false
  match f with
  | .none => if bare ∧ lo = 0 then (if k = 0 then .ok .none else .error .kind) else .error .strayPrefix
  | .base => if k = 0 then .ok (regS hi lo reuse trap) else .error .kind
  | .num => if k ≠ 0 then .error .kind else if bare then .ok (.num lo) else .error .strayPrefix
  | .src stream imm =>
    if k = 0 then .ok (regS hi lo reuse trap)
    else if k = 1 ∧ stream then
      (if bare ∧ sourceStream lo then .ok (.stream lo) else .error .streamUse)
    else if k = 2 ∧ imm.isSome then (if bare then .ok .imm else .error .strayPrefix)
    else .error .kind
  | .sel reg _ =>
    if k = 0 ∧ reg then .ok (regS hi lo reuse trap)
    else if k = 2 then (if bare then .ok .imm else .error .strayPrefix)
    else .error .kind

/-- The T operand of REGT (R62, R64, R265). -/
def readT (f : TForm) (regt : Option (BitVec 10)) : Except Illegal Opd :=
  match regt with
  | none => (match f with
    | .none | .regO => .ok .none
    | _ => .error .missingPrefix)
  | some v =>
    let n : Reg := v.extractLsb' 3 7
    let bare : Bool := v.getLsbD 2 = false ∧ v.getLsbD 1 = false
    match f with
    | .none => .error .strayPrefix
    | .recT =>
      if v.getLsbD 0 ∨ ¬ bare then .error .strayPrefix
      else if 15 < n.toNat then .error .range else .ok (.num (n.setWidth 4))
    | .tgt =>
      if v.getLsbD 0 then
        (if n.toNat ≤ 15 ∧ bare ∧ sourceStream (n.setWidth 4) then .ok (.stream (n.setWidth 4))
         else .error .streamUse)
      else .ok (.reg ⟨n, v.getLsbD 2, v.getLsbD 1⟩)
    | _ => if v.getLsbD 0 then .error .streamUse else .ok (.reg ⟨n, v.getLsbD 2, v.getLsbD 1⟩)

/-- Whether an operand is a register or a stream, which REGX may serve (R67). -/
def Opd.served : Opd → Bool
  | .reg _ | .stream _ => true
  | _ => false

/-- The range of the immediate of an S operand. -/
def SForm.range : SForm → Option (Int × Int)
  | .src _ r => r
  | .sel _ r => some r
  | _ => Option.none

/-- The immediate of a chain (R63): its value where the form has one and it lies in the range. -/
def readImm (f : Form) (s : Opd) (imms : List (BitVec 10)) (base : Half) : Except Illegal Word :=
  let ranged (r : Int × Int) (v : Int) : Except Illegal Word :=
    if inRange r v then .ok (BitVec.ofInt 64 v) else .error .range
  match f.imm with
  | .none => if imms = [] then .ok 0 else .error .strayPrefix
  | .sImm =>
    (match s, f.s.range with
    | .imm, some r => ranged r (immValue imms (base.extractLsb' 2 4).toNat 4)
    | _, _ => if imms = [] then .ok 0 else .error .strayPrefix)
  | .sBare =>
    (match s, f.s.range with
    | .imm, some r => if imms ≠ [] then .error .strayPrefix else ranged r (immValue [] (base.extractLsb' 2 4).toNat 4)
    | _, _ => if imms = [] then .ok 0 else .error .strayPrefix)
  | .disp => .ok (BitVec.ofInt 64 (immValue imms 0 0))
  | .field r =>
    (match f.fmt with
    | .J => ranged r (immValue imms (base.extractLsb' 0 10).toNat 10)
    | _ => ranged r (immValue imms (base.extractLsb' 0 6).toNat 6))
  | .bare r => if imms ≠ [] then .error .strayPrefix else ranged r (immValue imms (base.extractLsb' 0 6).toNat 6)
  | .pre mandatory r =>
    if mandatory ∧ imms = [] then .error .missingPrefix else ranged r (immValue imms 0 0)
  | .one r => if imms.length ≠ 1 then .error .missingPrefix else ranged r (immValue imms 0 0)

/-- Whether the rounding fields are allowed (R45, R46). -/
def Rnd.allowed (rounds : Bool) (r : Rnd) : Bool :=
  if rounds then r.mode.toNat ≤ 5 ∧ (r.mode = 0 → r.ovp = 0) else r.mode = 0 ∧ r.ovp = 0

/-- The operands of a chain under a row's form, with every check of R61 to R67. -/
def readChain (f : Form) (c : Chain) : Except Illegal Raw := do
  let x := c.regx.getD 0
  let dhi : BitVec 3 := x.extractLsb' 7 3
  let shi : BitVec 3 := x.extractLsb' 4 3
  let dlo : BitVec 4 := c.base.extractLsb' 6 4
  let slo : BitVec 4 := c.base.extractLsb' 2 4
  let k : BitVec 2 := c.base.extractLsb' 0 2
  let d ← (match f.fmt with
    | .J => readD f.d dhi (x.getLsbD 1) 0
    | _ => readD f.d dhi (x.getLsbD 1) dlo)
  let s ← (match f.fmt with
    | .A => readSA f.s shi (x.getLsbD 3) (x.getLsbD 2) slo k
    | .M => if f.sz.contains k then readSA f.s shi (x.getLsbD 3) (x.getLsbD 2) slo 0 else .error .kind
    | _ => readSA f.s shi (x.getLsbD 3) (x.getLsbD 2) 0 0)
  let t ← readT f.t c.regt
  let imm ← readImm f s c.imms c.base
  if c.regx.isSome ∧ ¬ d.served ∧ ¬ s.served then .error .strayPrefix
  else if ¬ c.rnd.allowed f.rounds then .error .rounding
  else .ok ⟨d, s, t, imm, (match f.fmt with | .M => k | _ => 0), c.rnd⟩

/-! ## Operands of the instruction shapes, to and from `Raw` -/

def Raw.src? (r : Raw) : Option Src :=
  match r.s with
  | .reg x => some (.reg x)
  | .stream c => some (.stream c)
  | .imm => some (.imm r.imm)
  | _ => none

def Raw.tgt? (r : Raw) : Option Tgt :=
  match r.t with
  | .reg x => some (.reg x)
  | .stream c => some (.stream c)
  | _ => none

def Raw.dst? (r : Raw) : Option Dst :=
  match r.d with
  | .reg x => some (.reg x.n)
  | .stream c => some (.stream c)
  | _ => none

def Opd.num? : Opd → Option (BitVec 4)
  | .num n => some n
  | _ => Option.none

def Opd.reg? : Opd → Option RegOp
  | .reg r => some r
  | _ => Option.none

def Opd.regN? : Opd → Option Reg
  | .reg r => some r.n
  | _ => Option.none

def noRnd : Rnd := ⟨0, 0⟩

def Src.opd : Src → Opd
  | .reg r => .reg r
  | .stream c => .stream c
  | .imm _ => .imm

def Src.immOf : Src → Word
  | .imm v => v
  | _ => 0

def Tgt.opd : Tgt → Opd
  | .reg r => .reg r
  | .stream c => .stream c

def Dst.opd : Dst → Opd
  | .reg n => .reg (plainReg n)
  | .stream c => .stream c

def Size.code : Size → BitVec 2
  | .b => 0 | .h => 1 | .w => 2 | .d => 3

def Size.ofCode (c : BitVec 2) : Size := if c = 0 then .b else if c = 1 then .h else if c = 2 then .w else .d

def Port.code : Port → BitVec 4
  | .e => 0 | .w => 1 | .n => 2 | .s => 3 | .up => 4 | .dn => 5

def Port.ofCode (c : BitVec 4) : Port :=
  if c = 0 then .e else if c = 1 then .w else if c = 2 then .n else if c = 3 then .s else if c = 4 then .up else .dn

def regD (d : Reg) : Opd := .reg (plainReg d)

/-- A record, tile or queue number in a register field (R265). -/
def numOpd {w : Nat} (n : BitVec w) : Opd := .num (n.setWidth 4)

def rawDS (d : Reg) (s : Src) : Raw := ⟨regD d, s.opd, .none, s.immOf, 0, noRnd⟩
def buildDS (mk : Reg → Src → Instr) (r : Raw) : Option Instr := do return mk (← r.d.regN?) (← r.src?)

def rawDstS (d : Dst) (s : Src) : Raw := ⟨d.opd, s.opd, .none, s.immOf, 0, noRnd⟩
def buildDstS (mk : Dst → Src → Instr) (r : Raw) : Option Instr := do return mk (← r.dst?) (← r.src?)

def rawDI (d : Reg) (v : Word) : Raw := ⟨regD d, .none, .none, v, 0, noRnd⟩
def buildDI (mk : Reg → Word → Instr) (r : Raw) : Option Instr := do return mk (← r.d.regN?) r.imm

def rawDstI (d : Dst) (v : Word) : Raw := ⟨d.opd, .none, .none, v, 0, noRnd⟩
def buildDstI (mk : Dst → Word → Instr) (r : Raw) : Option Instr := do return mk (← r.dst?) r.imm

def rawI (v : Word) : Raw := ⟨.none, .none, .none, v, 0, noRnd⟩
def buildI (mk : Word → Instr) (r : Raw) : Option Instr := some (mk r.imm)

def rawN : Raw := rawI 0
def buildN (i : Instr) (_ : Raw) : Option Instr := some i

def rawD (d : Reg) : Raw := rawDI d 0
def buildD (mk : Reg → Instr) (r : Raw) : Option Instr := do return mk (← r.d.regN?)

def rawS (s : RegOp) : Raw := ⟨.none, .reg s, .none, 0, 0, noRnd⟩
def buildS (mk : RegOp → Instr) (r : Raw) : Option Instr := do return mk (← r.s.reg?)

def rawST (s t : RegOp) : Raw := ⟨.none, .reg s, .reg t, 0, 0, noRnd⟩
def buildST (mk : RegOp → RegOp → Instr) (r : Raw) : Option Instr := do return mk (← r.s.reg?) (← r.t.reg?)

def rawDRS (d : Reg) (s : RegOp) : Raw := ⟨regD d, .reg s, .none, 0, 0, noRnd⟩
def buildDRS (mk : Reg → RegOp → Instr) (r : Raw) : Option Instr := do return mk (← r.d.regN?) (← r.s.reg?)

def rawDRST (d : Reg) (s t : RegOp) : Raw := ⟨regD d, .reg s, .reg t, 0, 0, noRnd⟩
def buildDRST (mk : Reg → RegOp → RegOp → Instr) (r : Raw) : Option Instr := do
  return mk (← r.d.regN?) (← r.s.reg?) (← r.t.reg?)

def rawDRSG (d : Reg) (s : RegOp) (t : Tgt) : Raw := ⟨regD d, .reg s, t.opd, 0, 0, noRnd⟩
def buildDRSG (mk : Reg → RegOp → Tgt → Instr) (r : Raw) : Option Instr := do
  return mk (← r.d.regN?) (← r.s.reg?) (← r.tgt?)

def rawDST (d : Reg) (s : Src) (t : Tgt) : Raw := ⟨regD d, s.opd, t.opd, s.immOf, 0, noRnd⟩
def buildDST (mk : Reg → Src → Tgt → Instr) (r : Raw) : Option Instr := do
  return mk (← r.d.regN?) (← r.src?) (← r.tgt?)

def rawDSI (d : Reg) (s : Src) (v : Word) : Raw := ⟨regD d, s.opd, .none, v, 0, noRnd⟩
def buildDSI (mk : Reg → Src → Word → Instr) (r : Raw) : Option Instr := do
  return mk (← r.d.regN?) (← r.src?) r.imm

def rawRDS (rn : Rnd) (d : Reg) (s : Src) : Raw := ⟨regD d, s.opd, .none, s.immOf, 0, rn⟩
def buildRDS (mk : Rnd → Reg → Src → Instr) (r : Raw) : Option Instr := do
  return mk r.rnd (← r.d.regN?) (← r.src?)

def rawRDST (rn : Rnd) (d : Reg) (s : Src) (t : Tgt) : Raw := ⟨regD d, s.opd, t.opd, s.immOf, 0, rn⟩
def buildRDST (mk : Rnd → Reg → Src → Tgt → Instr) (r : Raw) : Option Instr := do
  return mk r.rnd (← r.d.regN?) (← r.src?) (← r.tgt?)

def rawMem (sz : BitVec 2) (d : Reg) (b : RegOp) (v : Word) : Raw := ⟨regD d, .reg b, .none, v, sz, noRnd⟩
def buildMem (mk : Reg → RegOp → Word → Instr) (r : Raw) : Option Instr := do
  return mk (← r.d.regN?) (← r.s.reg?) r.imm
def buildMemZ (mk : Size → Reg → RegOp → Word → Instr) (r : Raw) : Option Instr := do
  return mk (Size.ofCode r.sz) (← r.d.regN?) (← r.s.reg?) r.imm

def rawMemT (sz : BitVec 2) (d : Reg) (b : RegOp) (v : Word) (t : RegOp) : Raw :=
  ⟨regD d, .reg b, .reg t, v, sz, noRnd⟩
def buildMemT (mk : Reg → RegOp → Word → RegOp → Instr) (r : Raw) : Option Instr := do
  return mk (← r.d.regN?) (← r.s.reg?) r.imm (← r.t.reg?)

def rawMemG (sz : BitVec 2) (d : Reg) (b : RegOp) (v : Word) (t : Tgt) : Raw :=
  ⟨regD d, .reg b, t.opd, v, sz, noRnd⟩
def buildMemZT (mk : Size → Reg → RegOp → Word → Tgt → Instr) (r : Raw) : Option Instr := do
  return mk (Size.ofCode r.sz) (← r.d.regN?) (← r.s.reg?) r.imm (← r.tgt?)

/-- LDR and STR, whose .q form is SZ 0b11 with REGT (R426). -/
def buildLdrq (mk : Size → Reg → RegOp → Word → Instr) (mkq : Reg → RegOp → RegOp → Word → Instr) (r : Raw) :
    Option Instr :=
  match r.t with
  | .none => buildMemZ mk r
  | .reg hi => if r.sz = 3 then do return mkq (← r.d.regN?) hi (← r.s.reg?) r.imm else none
  | _ => none

def rawBM (sz : BitVec 2) (b : RegOp) (v : Word) : Raw := ⟨.none, .reg b, .none, v, sz, noRnd⟩
def buildBM (mk : RegOp → Word → Instr) (r : Raw) : Option Instr := do return mk (← r.s.reg?) r.imm

def rawQM (sz : Size) (q : Bool) (b : RegOp) (v : Word) : Raw :=
  ⟨numOpd (BitVec.ofBool q), .reg b, .none, v, sz.code, noRnd⟩
def buildQM (mk : Size → Bool → RegOp → Word → Instr) (r : Raw) : Option Instr := do
  return mk (Size.ofCode r.sz) ((← r.d.num?) == 1) (← r.s.reg?) r.imm

def rawDN3 (d : Reg) (n : BitVec 3) : Raw := rawDI d (n.setWidth 64)
def buildDN3 (mk : Reg → BitVec 3 → Instr) (r : Raw) : Option Instr := do
  return mk (← r.d.regN?) (r.imm.setWidth 3)

/-- SREAD: the cluster bit is allowed only with register 5 (R134). -/
def buildSread (r : Raw) : Option Instr := do
  let d ← r.d.regN?
  if r.imm.getLsbD 3 then (if r.imm.toNat = 13 then some (.sreadClusterFlags d) else none)
  else some (.sread d (r.imm.setWidth 3))

/-- SETRM: rounding modes 6 and 7 are ILLEGAL (R132). -/
def buildSetrm (r : Raw) : Option Instr :=
  if 6 ≤ (r.imm.setWidth 3).toNat then none else some (.setrm r.imm)

/-- The handler and count of SEND in its immediate (R180). -/
def rawSend (d : Reg) (h : BitVec 6) (p : Option RegOp) (c : BitVec 3) : Raw :=
  ⟨regD d, .imm, (match p with | none => .none | some g => .reg g), c.setWidth 64 * 256 + h.setWidth 64, 0, noRnd⟩
def buildSend (mk : Reg → BitVec 6 → Option RegOp → BitVec 3 → Instr) (r : Raw) : Option Instr := do
  let d ← r.d.regN?
  let h := r.imm.toNat % 256
  let c := r.imm.toNat / 256
  if 63 < h ∨ 6 < c ∨ (h = 0 ∧ 3 < c) then none
  else match r.t with
    | .none => if c = 0 then some (mk d (BitVec.ofNat 6 h) none 0) else none
    | .reg g => if c = 0 then none else some (mk d (BitVec.ofNat 6 h) (some g) (BitVec.ofNat 3 c))
    | _ => none

/-- The selectors of MCFG (R184). -/
def buildMcfg (r : Raw) : Option Instr := do
  let d ← r.d.regN?
  let v := r.imm.toNat
  if v = 0 then some (.mcfgReadConfig d)
  else if v = 1 then some (.mcfgWriteConfig d)
  else if v = 2 then some (.mcfgReadDropCounter d)
  else if 16 ≤ v ∧ v ≤ 31 then some (.mcfgReadAccept d (BitVec.ofNat 4 (v - 16)))
  else if 32 ≤ v ∧ v ≤ 47 then some (.mcfgWriteAccept d (BitVec.ofNat 4 (v - 32)))
  else none

/-- A selector with its read bit at `bit`; a register selector is told apart when it executes (R202, R275). -/
def buildSel (bit : Nat) (rd wr : Reg → Src → Instr) (r : Raw) : Option Instr := do
  let d ← r.d.regN?
  match ← r.src? with
  | .imm v => if v.getLsbD bit then some (rd d (.imm v)) else some (wr d (.imm v))
  | x => some (rd d x)

/-- A selector of two operations (R270, R291). -/
def buildTwo (zero one : Reg → Instr) (r : Raw) : Option Instr := do
  let d ← r.d.regN?
  if r.imm = 0 then some (zero d) else some (one d)

/-- BARSET: the read bit and the barrier register (R331). -/
def buildBarset (r : Raw) : Option Instr := do
  let d ← r.d.regN?
  if r.imm.getLsbD 2 then some (.barsetRead d (r.imm.setWidth 2)) else some (.barsetWrite d (r.imm.setWidth 2))

def rawPS (p : Port) (s : Src) : Raw := ⟨.num p.code, s.opd, .none, s.immOf, 0, noRnd⟩
def buildPS (mk : Port → Src → Instr) (r : Raw) : Option Instr := do
  return mk (Port.ofCode (← r.d.num?)) (← r.src?)

def rawP (p : Port) : Raw := ⟨.num p.code, .none, .none, 0, 0, noRnd⟩
def buildP (mk : Port → Instr) (r : Raw) : Option Instr := do return mk (Port.ofCode (← r.d.num?))

def rawPstat (d : Reg) (p : Port) (t : Option RegOp) : Raw :=
  ⟨regD d, .imm, (match t with | none => .none | some g => .reg g), p.code.setWidth 64, 0, noRnd⟩
def buildPstat (mk : Reg → Port → Option RegOp → Instr) (r : Raw) : Option Instr := do
  let d ← r.d.regN?
  match r.t with
  | .none => some (mk d (Port.ofCode (r.imm.setWidth 4)) none)
  | .reg g => some (mk d (Port.ofCode (r.imm.setWidth 4)) (some g))
  | _ => none

def rawDepr (d : Reg) (s : Src) (n : BitVec 5) : Raw := rawDSI d s (n.setWidth 64)
def buildDepr (mk : Reg → Src → BitVec 5 → Instr) (r : Raw) : Option Instr := do
  return mk (← r.d.regN?) (← r.src?) (r.imm.setWidth 5)

def rawRM (l : Rec) (b : RegOp) (v : Word) : Raw := ⟨.num l, .reg b, .none, v, 0, noRnd⟩
def buildRM (mk : Rec → RegOp → Word → Instr) (r : Raw) : Option Instr := do
  return mk (← r.d.num?) (← r.s.reg?) r.imm

def rawMma (k : TileNo) (la lb : Rec) (c : RegOp) (v : Word) : Raw := ⟨.num la, .reg c, .num lb, v, k, noRnd⟩
def buildMma (mk : TileNo → Rec → Rec → RegOp → Word → Instr) (r : Raw) : Option Instr := do
  return mk r.sz (← r.d.num?) (← r.t.num?) (← r.s.reg?) r.imm

def rawTile (k : TileNo) : Raw := ⟨numOpd k, .none, .none, 0, 0, noRnd⟩
def buildTile (mk : TileNo → Instr) (r : Raw) : Option Instr := do return mk ((← r.d.num?).setWidth 2)

def rawAccm (k : TileNo) (l : Rec) (w : RegOp) (v : Word) : Raw := ⟨.num l, .reg w, .none, v, k, noRnd⟩
def buildAccm (mk : TileNo → Rec → RegOp → Word → Instr) (r : Raw) : Option Instr := do
  return mk r.sz (← r.d.num?) (← r.s.reg?) r.imm

def rawDrain (rn : Rnd) (l : Rec) (g : RegOp) : Raw := ⟨.num l, .reg g, .none, 0, 0, rn⟩
def buildDrain (mk : Rnd → Rec → RegOp → Instr) (r : Raw) : Option Instr := do
  return mk r.rnd (← r.d.num?) (← r.s.reg?)

def rawRLL (rn : Rnd) (ld ls : Rec) : Raw := ⟨.num ld, .num ls, .none, 0, 0, rn⟩
def buildRLL (mk : Rnd → Rec → Rec → Instr) (r : Raw) : Option Instr := do
  return mk r.rnd (← r.d.num?) (← r.s.num?)
def rawLL (ld ls : Rec) : Raw := rawRLL noRnd ld ls
def buildLL (mk : Rec → Rec → Instr) (r : Raw) : Option Instr := do return mk (← r.d.num?) (← r.s.num?)

def rawRLLL (rn : Rnd) (ld ls lt : Rec) : Raw := ⟨.num ld, .num ls, .num lt, 0, 0, rn⟩
def buildRLLL (mk : Rnd → Rec → Rec → Rec → Instr) (r : Raw) : Option Instr := do
  return mk r.rnd (← r.d.num?) (← r.s.num?) (← r.t.num?)
def rawLLL (ld ls lt : Rec) : Raw := rawRLLL noRnd ld ls lt
def buildLLL (mk : Rec → Rec → Rec → Instr) (r : Raw) : Option Instr := do
  return mk (← r.d.num?) (← r.s.num?) (← r.t.num?)

def rawRLLG (rn : Rnd) (ld ls : Rec) (t : Tgt) : Raw := ⟨.num ld, .num ls, t.opd, 0, 0, rn⟩
def buildRLLG (mk : Rnd → Rec → Rec → Tgt → Instr) (r : Raw) : Option Instr := do
  return mk r.rnd (← r.d.num?) (← r.s.num?) (← r.tgt?)

def rawVcvt (rn : Rnd) (ld ls : Rec) (v : BitVec 4) : Raw := ⟨.num ld, .num ls, .none, v.setWidth 64, 0, rn⟩
def buildVcvt (mk : Rnd → Rec → Rec → BitVec 4 → Instr) (r : Raw) : Option Instr := do
  return mk r.rnd (← r.d.num?) (← r.s.num?) (r.imm.setWidth 4)

def rawRLS (rn : Rnd) (ld : Rec) (s : Src) : Raw := ⟨.num ld, s.opd, .none, s.immOf, 0, rn⟩
def buildRLS (mk : Rnd → Rec → Src → Instr) (r : Raw) : Option Instr := do
  return mk r.rnd (← r.d.num?) (← r.src?)
def rawLS (ld : Rec) (s : Src) : Raw := rawRLS noRnd ld s
def buildLS (mk : Rec → Src → Instr) (r : Raw) : Option Instr := do return mk (← r.d.num?) (← r.src?)

def rawRLLT (rn : Rnd) (ld ls : Rec) (t : RegOp) : Raw := ⟨.num ld, .num ls, .reg t, 0, 0, rn⟩
def buildRLLT (mk : Rnd → Rec → Rec → RegOp → Instr) (r : Raw) : Option Instr := do
  return mk r.rnd (← r.d.num?) (← r.s.num?) (← r.t.reg?)
def rawLLT (ld ls : Rec) (t : RegOp) : Raw := rawRLLT noRnd ld ls t
def buildLLT (mk : Rec → Rec → RegOp → Instr) (r : Raw) : Option Instr := do
  return mk (← r.d.num?) (← r.s.num?) (← r.t.reg?)

def rawB (n : BitVec 2) : Raw := ⟨.none, .imm, .none, n.setWidth 64, 0, noRnd⟩
def buildB (mk : BitVec 2 → Instr) (r : Raw) : Option Instr := some (mk (r.imm.setWidth 2))

def rawDB (d : Reg) (n : BitVec 2) : Raw := ⟨regD d, .imm, .none, n.setWidth 64, 0, noRnd⟩
def buildDB (mk : Reg → BitVec 2 → Instr) (r : Raw) : Option Instr := do
  return mk (← r.d.regN?) (r.imm.setWidth 2)

def rawCapnar (d : Reg) (s t : RegOp) (v : BitVec 12) : Raw := ⟨regD d, .reg s, .reg t, v.setWidth 64, 0, noRnd⟩
def buildCapnar (mk : Reg → RegOp → RegOp → BitVec 12 → Instr) (r : Raw) : Option Instr := do
  return mk (← r.d.regN?) (← r.s.reg?) (← r.t.reg?) (r.imm.setWidth 12)

/-! ## The opcode map -/

/-- Page 0, opcode values 0 to 11 (R73). -/
def page0Rows0 : List (Option Form) :=
  [ none,
    some ⟨.A, .reg, .src true (some anyImm), [], .none, .sImm, false, buildDS .add⟩,
    some ⟨.A, .reg, .src true (some anyImm), [], .none, .sImm, false, buildDS .addW⟩,
    some ⟨.A, .reg, .src true (some anyImm), [], .none, .sImm, false, buildDS .sub⟩,
    some ⟨.A, .reg, .src true (some anyImm), [], .none, .sImm, false, buildDS .subW⟩,
    some ⟨.A, .reg, .src true (some anyImm), [], .none, .sImm, false, buildDS .mul⟩,
    some ⟨.A, .reg, .src true (some anyImm), [], .none, .sImm, false, buildDS .mulW⟩,
    some ⟨.A, .reg, .src true (some anyImm), [], .none, .sImm, false, buildDS .mulh⟩,
    some ⟨.A, .reg, .src true (some anyImm), [], .none, .sImm, false, buildDS .div⟩,
    some ⟨.A, .reg, .src true (some anyImm), [], .none, .sImm, false, buildDS .divu⟩,
    some ⟨.A, .reg, .src true (some anyImm), [], .none, .sImm, false, buildDS .rem⟩,
    some ⟨.A, .reg, .src true (some anyImm), [], .none, .sImm, false, buildDS .remu⟩ ]

/-- Page 0, opcode values 12 to 23 (R73). -/
def page0Rows1 : List (Option Form) :=
  [ some ⟨.A, .reg, .src true (some anyImm), [], .none, .sImm, false, buildDS .and⟩,
    some ⟨.A, .reg, .src true (some anyImm), [], .none, .sImm, false, buildDS .or⟩,
    some ⟨.A, .reg, .src true (some anyImm), [], .none, .sImm, false, buildDS .xor⟩,
    some ⟨.A, .reg, .src true (some (0, 63)), [], .none, .sImm, false, buildDS .shl⟩,
    some ⟨.A, .reg, .src true (some (0, 31)), [], .none, .sImm, false, buildDS .shlW⟩,
    some ⟨.A, .reg, .src true (some (0, 63)), [], .none, .sImm, false, buildDS .shr⟩,
    some ⟨.A, .reg, .src true (some (0, 63)), [], .none, .sImm, false, buildDS .sar⟩,
    some ⟨.A, .reg, .src true (some anyImm), [], .none, .sImm, false, buildDS .min⟩,
    some ⟨.A, .reg, .src true (some anyImm), [], .none, .sImm, false, buildDS .max⟩,
    some ⟨.A, .reg, .src true (some anyImm), [], .none, .sImm, false, buildDS .minu⟩,
    some ⟨.A, .reg, .src true (some anyImm), [], .none, .sImm, false, buildDS .maxu⟩,
    some ⟨.A, .dst, .src true (some anyImm), [], .none, .sImm, false, buildDstS .mov⟩ ]

/-- Page 0, opcode values 24 to 35 (R73). -/
def page0Rows2 : List (Option Form) :=
  [ some ⟨.A, .reg, .src true (some anyImm), [], .none, .sImm, false, buildDS .ceq⟩,
    some ⟨.A, .reg, .src true (some anyImm), [], .none, .sImm, false, buildDS .cne⟩,
    some ⟨.A, .reg, .src true (some anyImm), [], .none, .sImm, false, buildDS .clt⟩,
    some ⟨.A, .reg, .src true (some anyImm), [], .none, .sImm, false, buildDS .cltu⟩,
    some ⟨.A, .reg, .src true (some anyImm), [], .none, .sImm, false, buildDS .cle⟩,
    some ⟨.A, .reg, .src true (some anyImm), [], .none, .sImm, false, buildDS .cleu⟩,
    some ⟨.I, .reg, .none, [], .none, .field anyImm, false, buildDI .addi⟩,
    some ⟨.I, .dst, .none, [], .none, .field anyImm, false, buildDstI .li⟩,
    some ⟨.I, .reg, .none, [], .none, .field (0, 4294967295), false, buildDI .lih⟩,
    some ⟨.I, .reg, .none, [], .none, .field (0, 63), false, buildDI .shli⟩,
    some ⟨.I, .reg, .none, [], .none, .field (0, 63), false, buildDI .shri⟩,
    some ⟨.M, .reg, .base, [0], .none, .disp, false, buildMem .lea⟩ ]

/-- Page 0, opcode values 36 to 47 (R73). -/
def page0Rows3 : List (Option Form) :=
  [ some ⟨.A, .reg, .src true (some anyImm), [], .tgt, .sImm, false, buildDST .sel⟩,
    some ⟨.B, .reg, .none, [], .none, .field anyImm, false, buildDI .bez⟩,
    some ⟨.B, .reg, .none, [], .none, .field anyImm, false, buildDI .bnz⟩,
    some ⟨.B, .reg, .none, [], .none, .field anyImm, false, buildDI .bltz⟩,
    some ⟨.B, .reg, .none, [], .none, .field anyImm, false, buildDI .bgez⟩,
    some ⟨.A, .reg, .src true none, [], .none, .pre true anyImm, false, buildDSI .beq⟩,
    some ⟨.A, .reg, .src true none, [], .none, .pre true anyImm, false, buildDSI .bne⟩,
    some ⟨.A, .reg, .src true none, [], .none, .pre true anyImm, false, buildDSI .blt⟩,
    some ⟨.A, .reg, .src true none, [], .none, .pre true anyImm, false, buildDSI .bge⟩,
    some ⟨.A, .reg, .src true none, [], .none, .pre true anyImm, false, buildDSI .bltu⟩,
    some ⟨.A, .reg, .src true none, [], .none, .pre true anyImm, false, buildDSI .bgeu⟩,
    some ⟨.J, .none, .none, [], .none, .field anyImm, false, buildI .j⟩ ]

/-- Page 0, opcode values 48 to 59 (R73). -/
def page0Rows4 : List (Option Form) :=
  [ some ⟨.J, .none, .none, [], .none, .field anyImm, false, buildI .call⟩,
    some ⟨.A, .none, .base, [], .none, .none, false, buildS .jr⟩,
    some ⟨.A, .none, .none, [], .none, .none, false, buildN .ret⟩,
    some ⟨.A, .reg, .base, [], .regT, .none, false, buildDRST .jtab⟩,
    some ⟨.A, .none, .none, [], .none, .none, false, buildN .yield⟩,
    some ⟨.A, .none, .none, [], .none, .none, false, buildN .retire⟩,
    some ⟨.A, .none, .none, [], .none, .none, false, buildN .nop⟩,
    some ⟨.J, .none, .none, [], .none, .field (0, 549755813887), false, buildI .trap⟩,
    some ⟨.J, .none, .none, [], .none, .field (0, 549755813887), false, buildI .bkpt⟩,
    some ⟨.M, .reg, .base, [0, 1, 2, 3], .none, .disp, false, buildMemZ .ldz⟩,
    some ⟨.M, .reg, .base, [0, 1, 2, 3], .none, .disp, false, buildMemZ .lds⟩,
    some ⟨.M, .reg, .base, [0, 1, 2, 3], .none, .disp, false, buildMemZ .st⟩ ]

/-- Page 0 of the opcode map (R73). -/
def page0 : List (Option Form) := page0Rows0 ++ page0Rows1 ++ page0Rows2 ++ page0Rows3 ++ page0Rows4

/-- Page 1, opcode values 0 to 11 (R74). -/
def page1Rows0 : List (Option Form) :=
  [ none,
    some ⟨.A, .reg, .src true (some (0, 8191)), [], .none, .sImm, false, buildDS .bfx⟩,
    some ⟨.A, .reg, .src true none, [], .tgt, .none, false, buildDST .bfi⟩,
    some ⟨.A, .reg, .src true (some anyImm), [], .none, .sImm, false, buildDS .ctz⟩,
    some ⟨.A, .reg, .src true (some anyImm), [], .none, .sImm, false, buildDS .bswap⟩,
    some ⟨.A, .reg, .src true (some anyImm), [], .none, .sImm, false, buildDS .crcB⟩,
    some ⟨.A, .reg, .src true (some anyImm), [], .none, .sImm, false, buildDS .crcH⟩,
    some ⟨.A, .reg, .src true (some anyImm), [], .none, .sImm, false, buildDS .crcW⟩,
    some ⟨.A, .reg, .src true (some anyImm), [], .none, .sImm, false, buildDS .crcD⟩,
    some ⟨.A, .reg, .src true none, [], .none, .none, true, buildRDS .faddD⟩,
    some ⟨.A, .reg, .src true none, [], .none, .none, true, buildRDS .faddS⟩,
    some ⟨.A, .reg, .src true none, [], .none, .none, true, buildRDS .fsubD⟩ ]

/-- Page 1, opcode values 12 to 23 (R74). -/
def page1Rows1 : List (Option Form) :=
  [ some ⟨.A, .reg, .src true none, [], .none, .none, true, buildRDS .fsubS⟩,
    some ⟨.A, .reg, .src true none, [], .none, .none, true, buildRDS .fmulD⟩,
    some ⟨.A, .reg, .src true none, [], .none, .none, true, buildRDS .fmulS⟩,
    some ⟨.A, .reg, .src true none, [], .none, .none, true, buildRDS .fdivD⟩,
    some ⟨.A, .reg, .src true none, [], .none, .none, true, buildRDS .fdivS⟩,
    some ⟨.A, .reg, .src true none, [], .none, .none, true, buildRDS .fsqrtD⟩,
    some ⟨.A, .reg, .src true none, [], .none, .none, true, buildRDS .fsqrtS⟩,
    some ⟨.A, .reg, .src true none, [], .tgt, .none, true, buildRDST .fmaD⟩,
    some ⟨.A, .reg, .src true none, [], .tgt, .none, true, buildRDST .fmaS⟩,
    some ⟨.A, .reg, .src true none, [], .tgt, .none, true, buildRDST .fmsD⟩,
    some ⟨.A, .reg, .src true none, [], .tgt, .none, true, buildRDST .fmsS⟩,
    some ⟨.A, .reg, .src true none, [], .tgt, .none, true, buildRDST .fnmaD⟩ ]

/-- Page 1, opcode values 24 to 35 (R74). -/
def page1Rows2 : List (Option Form) :=
  [ some ⟨.A, .reg, .src true none, [], .tgt, .none, true, buildRDST .fnmaS⟩,
    some ⟨.A, .reg, .src true none, [], .tgt, .none, true, buildRDST .fnmsD⟩,
    some ⟨.A, .reg, .src true none, [], .tgt, .none, true, buildRDST .fnmsS⟩,
    some ⟨.A, .reg, .src true none, [], .none, .none, false, buildDS .fminD⟩,
    some ⟨.A, .reg, .src true none, [], .none, .none, false, buildDS .fminS⟩,
    some ⟨.A, .reg, .src true none, [], .none, .none, false, buildDS .fmaxD⟩,
    some ⟨.A, .reg, .src true none, [], .none, .none, false, buildDS .fmaxS⟩,
    some ⟨.A, .reg, .src true none, [], .none, .none, false, buildDS .feqD⟩,
    some ⟨.A, .reg, .src true none, [], .none, .none, false, buildDS .feqS⟩,
    some ⟨.A, .reg, .src true none, [], .none, .none, false, buildDS .fltD⟩,
    some ⟨.A, .reg, .src true none, [], .none, .none, false, buildDS .fltS⟩,
    some ⟨.A, .reg, .src true none, [], .none, .none, false, buildDS .fleD⟩ ]

/-- Page 1, opcode values 36 to 47 (R74). -/
def page1Rows3 : List (Option Form) :=
  [ some ⟨.A, .reg, .src true none, [], .none, .none, false, buildDS .fleS⟩,
    some ⟨.A, .reg, .src true none, [], .none, .none, false, buildDS .fclassD⟩,
    some ⟨.A, .reg, .src true none, [], .none, .none, false, buildDS .fclassS⟩,
    some ⟨.A, .reg, .src true none, [], .none, .none, false, buildDS .fsgnD⟩,
    some ⟨.A, .reg, .src true none, [], .none, .none, false, buildDS .fsgnS⟩,
    some ⟨.A, .reg, .src true none, [], .none, .none, false, buildDS .fsgnnD⟩,
    some ⟨.A, .reg, .src true none, [], .none, .none, false, buildDS .fsgnnS⟩,
    some ⟨.A, .reg, .src true none, [], .none, .none, false, buildDS .fsgnxD⟩,
    some ⟨.A, .reg, .src true none, [], .none, .none, false, buildDS .fsgnxS⟩,
    some ⟨.A, .reg, .src true none, [], .none, .none, true, buildRDS .fcvtSD⟩,
    some ⟨.A, .reg, .src true none, [], .none, .none, true, buildRDS .fcvtDS⟩,
    some ⟨.A, .reg, .src true none, [], .none, .none, true, buildRDS .fcvtDL⟩ ]

/-- Page 1, opcode values 48 to 59 (R74). -/
def page1Rows4 : List (Option Form) :=
  [ some ⟨.A, .reg, .src true none, [], .none, .none, true, buildRDS .fcvtDLu⟩,
    some ⟨.A, .reg, .src true none, [], .none, .none, true, buildRDS .fcvtSL⟩,
    some ⟨.A, .reg, .src true none, [], .none, .none, true, buildRDS .fcvtSLu⟩,
    some ⟨.A, .reg, .src true none, [], .none, .none, true, buildRDS .fcvtLD⟩,
    some ⟨.A, .reg, .src true none, [], .none, .none, true, buildRDS .fcvtLuD⟩,
    some ⟨.A, .reg, .src true none, [], .none, .none, true, buildRDS .fcvtLS⟩,
    some ⟨.A, .reg, .src true none, [], .none, .none, true, buildRDS .fcvtLuS⟩,
    some ⟨.I, .none, .none, [], .none, .bare (0, 31), false, buildSetrm⟩,
    some ⟨.A, .reg, .none, [], .none, .none, false, buildD .rdflg⟩,
    some ⟨.I, .none, .none, [], .none, .bare (0, 31), false, buildI .clrflg⟩,
    some ⟨.I, .reg, .none, [], .none, .bare (0, 15), false, buildSread⟩,
    some ⟨.I, .reg, .none, [], .none, .bare (0, 7), false, buildDN3 .swrite⟩ ]

/-- Page 1 of the opcode map (R74). -/
def page1 : List (Option Form) := page1Rows0 ++ page1Rows1 ++ page1Rows2 ++ page1Rows3 ++ page1Rows4

/-- Page 2, opcode values 0 to 11 (R75). -/
def page2Rows0 : List (Option Form) :=
  [ none,
    some ⟨.M, .reg, .base, [3], .none, .disp, false, buildMem .ldf⟩,
    some ⟨.M, .reg, .base, [3], .none, .disp, false, buildMem .ldfe⟩,
    some ⟨.M, .reg, .base, [3], .none, .disp, false, buildMem .stef⟩,
    some ⟨.M, .reg, .base, [3], .none, .disp, false, buildMem .stf⟩,
    some ⟨.M, .none, .base, [3], .none, .disp, false, buildBM .seteMemory⟩,
    some ⟨.M, .reg, .base, [3], .none, .disp, false, buildMem .feqry⟩,
    some ⟨.M, .reg, .base, [3], .none, .disp, false, buildMem .amoAddD⟩,
    some ⟨.M, .reg, .base, [3], .none, .disp, false, buildMem .amoAndD⟩,
    some ⟨.M, .reg, .base, [3], .none, .disp, false, buildMem .amoOrD⟩,
    some ⟨.M, .reg, .base, [3], .none, .disp, false, buildMem .amoXorD⟩,
    some ⟨.M, .reg, .base, [3], .none, .disp, false, buildMem .amoMinD⟩ ]

/-- Page 2, opcode values 12 to 23 (R75). -/
def page2Rows1 : List (Option Form) :=
  [ some ⟨.M, .reg, .base, [3], .none, .disp, false, buildMem .amoMaxD⟩,
    some ⟨.M, .reg, .base, [3], .none, .disp, false, buildMem .amoMinuD⟩,
    some ⟨.M, .reg, .base, [3], .none, .disp, false, buildMem .amoMaxuD⟩,
    some ⟨.M, .reg, .base, [3], .none, .disp, false, buildMem .amoSwapD⟩,
    some ⟨.M, .reg, .base, [2], .none, .disp, false, buildMem .amoAddW⟩,
    some ⟨.M, .reg, .base, [2], .none, .disp, false, buildMem .amoAndW⟩,
    some ⟨.M, .reg, .base, [2], .none, .disp, false, buildMem .amoOrW⟩,
    some ⟨.M, .reg, .base, [2], .none, .disp, false, buildMem .amoXorW⟩,
    some ⟨.M, .reg, .base, [2], .none, .disp, false, buildMem .amoMinW⟩,
    some ⟨.M, .reg, .base, [2], .none, .disp, false, buildMem .amoMaxW⟩,
    some ⟨.M, .reg, .base, [2], .none, .disp, false, buildMem .amoMinuW⟩,
    some ⟨.M, .reg, .base, [2], .none, .disp, false, buildMem .amoMaxuW⟩ ]

/-- Page 2, opcode values 24 to 35 (R75). -/
def page2Rows2 : List (Option Form) :=
  [ some ⟨.M, .reg, .base, [2], .none, .disp, false, buildMem .amoSwapW⟩,
    some ⟨.M, .reg, .base, [3], .regT, .disp, false, buildMemT .acasD⟩,
    some ⟨.M, .reg, .base, [2], .regT, .disp, false, buildMemT .acasW⟩,
    some ⟨.A, .reg, .base, [], .tgt, .none, false, buildDRSG .forkae⟩,
    some ⟨.A, .reg, .src true (some anyImm), [], .none, .sImm, false, buildDS .rdv⟩,
    some ⟨.M, .num 1, .base, [0, 1, 2, 3], .none, .disp, false, buildQM .qld⟩,
    some ⟨.M, .num 1, .base, [0, 1, 2, 3], .none, .disp, false, buildQM .qst⟩,
    some ⟨.A, .reg, .sel false (0, 1791), [], .regO, .sImm, false, buildSend .sendT⟩,
    some ⟨.A, .reg, .sel false (0, 1791), [], .regO, .sImm, false, buildSend .sendC⟩,
    some ⟨.A, .none, .none, [], .none, .none, false, buildN .waitm⟩,
    some ⟨.A, .reg, .none, [], .none, .none, false, buildD .takem⟩,
    some ⟨.A, .reg, .sel true (0, 63), [], .none, .sImm, false, buildDS .htab⟩ ]

/-- Page 2, opcode values 36 to 47 (R75). -/
def page2Rows3 : List (Option Form) :=
  [ some ⟨.A, .reg, .sel false (0, 47), [], .none, .sImm, false, buildMcfg⟩,
    some ⟨.A, .num 5, .sel true (0, 63), [], .none, .sImm, false, buildPS .pbind⟩,
    some ⟨.A, .num 5, .none, [], .none, .none, false, buildP .punbind⟩,
    some ⟨.A, .reg, .sel false (0, 5), [], .regO, .sBare, false, buildPstat .pstat⟩,
    some ⟨.A, .reg, .src true (some anyImm), [], .none, .sImm, false, buildDS .push⟩,
    some ⟨.A, .reg, .src true none, [], .none, .one (0, 31), false, buildDepr .depr⟩,
    some ⟨.A, .reg, .base, [], .tgt, .none, false, buildDRSG .spawnL⟩,
    some ⟨.A, .reg, .base, [], .tgt, .none, false, buildDRSG .spawnC⟩,
    some ⟨.A, .reg, .base, [], .none, .none, false, buildDRS .tstat⟩,
    some ⟨.A, .reg, .base, [], .tgt, .none, false, buildDRSG .treg⟩,
    some ⟨.A, .reg, .base, [], .regT, .none, false, buildDRST .twreg⟩,
    some ⟨.A, .none, .base, [], .none, .none, false, buildS .tstop⟩ ]

/-- Page 2, opcode values 48 to 53 (R75). -/
def page2Rows4 : List (Option Form) :=
  [ some ⟨.A, .none, .base, [], .none, .none, false, buildS .tresume⟩,
    some ⟨.A, .reg, .sel true (0, 15), [], .none, .sImm, false, buildSel 3 .bfmtRead .bfmtWrite⟩,
    some ⟨.A, .reg, .sel true (0, 15), [], .none, .sImm, false, buildSel 3 .bmodeRead .bmodeWrite⟩,
    some ⟨.A, .reg, .base, [], .none, .none, false, buildDRS .logset⟩,
    some ⟨.A, .reg, .base, [], .regT, .none, false, buildDRST .cpub⟩,
    some ⟨.A, .none, .none, [], .none, .none, false, buildN .ifence⟩ ]

/-- Page 2 of the opcode map (R75). -/
def page2 : List (Option Form) := page2Rows0 ++ page2Rows1 ++ page2Rows2 ++ page2Rows3 ++ page2Rows4

/-- Page 3, opcode values 0 to 11 (R76). -/
def page3Rows0 : List (Option Form) :=
  [ none,
    some ⟨.M, .num 15, .base, [0], .none, .disp, false, buildRM .layout⟩,
    some ⟨.A, .reg, .sel false (0, 1), [], .none, .sBare, false, buildTwo .rdbcRead .rdbcReadClear⟩,
    some ⟨.M, .num 15, .base, [0, 1, 2, 3], .recT, .disp, false, buildMma .mmaOvr⟩,
    some ⟨.M, .num 15, .base, [0, 1, 2, 3], .recT, .disp, false, buildMma .mmaAcc⟩,
    some ⟨.M, .num 15, .base, [0, 1, 2, 3], .recT, .disp, false, buildMma .mmaDecay⟩,
    some ⟨.M, .num 15, .base, [0, 1, 2, 3], .recT, .disp, false, buildMma .mmaSat⟩,
    some ⟨.A, .num 3, .none, [], .none, .none, false, buildTile .accz⟩,
    some ⟨.A, .num 3, .none, [], .none, .none, false, buildTile .accswap⟩,
    some ⟨.M, .num 15, .base, [0, 1, 2, 3], .none, .disp, false, buildAccm .accrd⟩,
    some ⟨.M, .num 15, .base, [0, 1, 2, 3], .none, .disp, false, buildAccm .accwr⟩,
    some ⟨.A, .reg, .sel true (0, 7), [], .none, .sBare, false, buildSel 2 .accmodeRead .accmodeWrite⟩ ]

/-- Page 3, opcode values 12 to 23 (R76). -/
def page3Rows1 : List (Option Form) :=
  [ some ⟨.A, .num 15, .base, [], .none, .none, true, buildDrain .drainI⟩,
    some ⟨.A, .num 15, .base, [], .none, .none, true, buildDrain .drainF⟩,
    some ⟨.A, .num 15, .num, [], .none, .none, true, buildRLL .vaddS⟩,
    some ⟨.A, .num 15, .num, [], .none, .none, true, buildRLL .vaddD⟩,
    some ⟨.A, .num 15, .num, [], .none, .none, true, buildRLL .vsubS⟩,
    some ⟨.A, .num 15, .num, [], .none, .none, true, buildRLL .vsubD⟩,
    some ⟨.A, .num 15, .num, [], .none, .none, true, buildRLL .vmulS⟩,
    some ⟨.A, .num 15, .num, [], .none, .none, true, buildRLL .vmulD⟩,
    some ⟨.A, .num 15, .num, [], .recT, .none, true, buildRLLL .vfmaS⟩,
    some ⟨.A, .num 15, .num, [], .recT, .none, true, buildRLLL .vfmaD⟩,
    some ⟨.A, .num 15, .num, [], .recT, .none, true, buildRLLL .vfmsS⟩,
    some ⟨.A, .num 15, .num, [], .recT, .none, true, buildRLLL .vfmsD⟩ ]

/-- Page 3, opcode values 24 to 35 (R76). -/
def page3Rows2 : List (Option Form) :=
  [ some ⟨.A, .num 15, .num, [], .none, .none, true, buildRLL .vminS⟩,
    some ⟨.A, .num 15, .num, [], .none, .none, false, buildLL .vminD⟩,
    some ⟨.A, .num 15, .num, [], .none, .none, true, buildRLL .vmaxS⟩,
    some ⟨.A, .num 15, .num, [], .none, .none, false, buildLL .vmaxD⟩,
    some ⟨.A, .num 15, .num, [], .none, .none, true, buildRLL .vexpS⟩,
    some ⟨.A, .num 15, .num, [], .none, .none, true, buildRLL .vexpD⟩,
    some ⟨.A, .num 15, .num, [], .none, .none, true, buildRLL .vrcpS⟩,
    some ⟨.A, .num 15, .num, [], .none, .none, true, buildRLL .vrcpD⟩,
    some ⟨.A, .num 15, .num, [], .none, .none, true, buildRLL .vrsqS⟩,
    some ⟨.A, .num 15, .num, [], .none, .none, true, buildRLL .vrsqD⟩,
    some ⟨.A, .num 15, .num, [], .none, .none, true, buildRLL .vredSumS⟩,
    some ⟨.A, .num 15, .num, [], .none, .none, true, buildRLL .vredMaxS⟩ ]

/-- Page 3, opcode values 36 to 47 (R76). -/
def page3Rows3 : List (Option Form) :=
  [ some ⟨.A, .num 15, .num, [], .none, .none, true, buildRLL .vredMinS⟩,
    some ⟨.A, .num 15, .num, [], .none, .none, true, buildRLL .vredSumD⟩,
    some ⟨.A, .num 15, .num, [], .none, .none, false, buildLL .vredMaxD⟩,
    some ⟨.A, .num 15, .num, [], .none, .none, false, buildLL .vredMinD⟩,
    some ⟨.A, .num 15, .num, [], .tgt, .none, true, buildRLLG .vscaleS⟩,
    some ⟨.A, .num 15, .num, [], .tgt, .none, true, buildRLLG .vscaleD⟩,
    some ⟨.A, .num 15, .num, [], .none, .pre false (0, 15), true, buildVcvt .vcvt⟩,
    some ⟨.A, .num 15, .num, [], .recT, .none, true, buildRLLL .vcmpEqS⟩,
    some ⟨.A, .num 15, .num, [], .recT, .none, true, buildRLLL .vcmpLtS⟩,
    some ⟨.A, .num 15, .num, [], .recT, .none, true, buildRLLL .vcmpLeS⟩,
    some ⟨.A, .num 15, .num, [], .recT, .none, false, buildLLL .vcmpEqD⟩,
    some ⟨.A, .num 15, .num, [], .recT, .none, false, buildLLL .vcmpLtD⟩ ]

/-- Page 3, opcode values 48 to 59 (R76). -/
def page3Rows4 : List (Option Form) :=
  [ some ⟨.A, .num 15, .num, [], .recT, .none, false, buildLLL .vcmpLeD⟩,
    some ⟨.A, .num 15, .num, [], .recT, .none, true, buildRLLL .vselS⟩,
    some ⟨.A, .num 15, .num, [], .recT, .none, false, buildLLL .vselD⟩,
    some ⟨.A, .num 15, .src true none, [], .none, .none, true, buildRLS .vfillS⟩,
    some ⟨.A, .num 15, .src true none, [], .none, .none, false, buildLS .vfillD⟩,
    some ⟨.A, .num 15, .num, [], .regT, .none, false, buildLLT .copyB⟩,
    some ⟨.A, .num 15, .num, [], .regT, .none, true, buildRLLT .copyL⟩,
    some ⟨.A, .num 15, .num, [], .regT, .none, true, buildRLLT .copym⟩,
    some ⟨.A, .none, .none, [], .none, .none, false, buildN .esync⟩,
    some ⟨.A, .reg, .none, [], .none, .none, false, buildD .estat⟩,
    some ⟨.A, .reg, .sel false (0, 1), [], .none, .sBare, false, buildTwo .saveareaWrite .saveareaRead⟩,
    some ⟨.A, .none, .none, [], .none, .none, false, buildN .pack⟩ ]

/-- Page 3 of the opcode map (R76). -/
def page3 : List (Option Form) := page3Rows0 ++ page3Rows1 ++ page3Rows2 ++ page3Rows3 ++ page3Rows4

/-- Page 4, opcode values 0 to 11 (R77). -/
noncomputable def page4Rows0 : List (Option Form) :=
  [ none,
    some ⟨.A, .reg, .sel false (0, 7), [], .none, .sBare, false, buildBarset⟩,
    some ⟨.A, .none, .sel false (0, 3), [], .none, .sBare, false, buildB .bar⟩,
    some ⟨.A, .reg, .sel false (0, 3), [], .none, .sBare, false, buildDB .bara⟩,
    some ⟨.A, .reg, .sel false (0, 3), [], .none, .sBare, false, buildDB .barw⟩,
    some ⟨.A, .reg, .base, [], .tgt, .none, false, buildDRSG .rfork⟩,
    some ⟨.A, .none, .base, [], .none, .none, false, buildS .join⟩,
    some ⟨.A, .reg, .base, [], .tgt, .none, false, buildDRSG .cellNew⟩,
    some ⟨.A, .reg, .base, [], .none, .none, false, buildDRS .cellRd⟩,
    some ⟨.A, .reg, .base, [], .none, .none, false, buildDRS .cellAdd⟩,
    some ⟨.A, .none, .base, [], .none, .none, false, buildS .cancel⟩,
    some ⟨.A, .none, .sel false (0, 3), [], .none, .sBare, false, buildB .phaseB⟩ ]

/-- Page 4, opcode values 12 to 23 (R77). -/
noncomputable def page4Rows1 : List (Option Form) :=
  [ some ⟨.A, .none, .none, [], .none, .none, false, buildN .phaseC⟩,
    some ⟨.A, .none, .none, [], .none, .none, false, buildN .phaseH⟩,
    some ⟨.M, .reg, .base, [3], .none, .disp, false, buildMem .grid⟩,
    some ⟨.A, .reg, .base, [], .tgt, .none, false, buildDRSG .gbind⟩,
    some ⟨.A, .reg, .base, [], .none, .none, false, buildDRS .hstep⟩,
    some ⟨.M, .reg, .base, [0, 1, 2, 3], .tgt, .disp, false, buildMemZT .ldh⟩,
    some ⟨.A, .reg, .base, [], .none, .none, false, buildDRS .hwait⟩,
    some ⟨.A, .reg, .base, [], .tgt, .none, false, buildDRSG .hwaitF⟩,
    some ⟨.A, .reg, .sel true (0, 63), [], .none, .sImm, false, buildDS .gstatG⟩,
    some ⟨.A, .reg, .base, [], .tgt, .none, false, buildDRSG .gstatF⟩,
    some ⟨.A, .none, .base, [], .none, .none, false, buildS .gfree⟩,
    some ⟨.A, .reg, .sel true (0, 3), [], .none, .sBare, false, buildDS .budgetSet⟩ ]

/-- Page 4, opcode values 24 to 25 (R77). -/
noncomputable def page4Rows2 : List (Option Form) :=
  [ some ⟨.A, .reg, .sel true (0, 127), [], .none, .sImm, false, buildDS .budgetRd⟩,
    some ⟨.A, .reg, .sel true (0, 3), [], .none, .sBare, false, buildDS .budgetClr⟩ ]

/-- Page 4 of the opcode map (R77). -/
noncomputable def page4 : List (Option Form) := page4Rows0 ++ page4Rows1 ++ page4Rows2

/-- Page 5, opcode values 0 to 11 (R78). -/
noncomputable def page5Rows0 : List (Option Form) :=
  [ none,
    some ⟨.A, .reg, .base, [], .regT, .none, false, buildDRST .mint⟩,
    some ⟨.A, .reg, .base, [], .none, .none, false, buildDRS .give⟩,
    some ⟨.A, .reg, .base, [], .regT, .none, false, buildDRST .giveS⟩,
    some ⟨.A, .none, .base, [], .none, .none, false, buildS .accept⟩,
    some ⟨.A, .reg, .base, [], .none, .none, false, buildDRS .lend⟩,
    some ⟨.A, .reg, .base, [], .regT, .none, false, buildDRST .lendS⟩,
    some ⟨.A, .none, .base, [], .none, .none, false, buildS .reclaim⟩,
    some ⟨.A, .none, .base, [], .regT, .none, false, buildST .reclaimB⟩,
    some ⟨.A, .none, .base, [], .none, .none, false, buildS .returnLoan⟩,
    some ⟨.A, .none, .base, [], .regT, .none, false, buildST .claim⟩,
    some ⟨.A, .none, .base, [], .none, .none, false, buildS .deny⟩ ]

/-- Page 5, opcode values 12 to 18 (R78). -/
noncomputable def page5Rows1 : List (Option Form) :=
  [ some ⟨.A, .reg, .base, [], .none, .none, false, buildDRS .heirResource⟩,
    some ⟨.A, .reg, .base, [], .none, .none, false, buildDRS .ownq⟩,
    some ⟨.M, .reg, .base, [0], .none, .disp, false, buildMem .ownqA⟩,
    some ⟨.A, .reg, .sel true (0, 1023), [], .none, .sImm, false, buildDS .rootset⟩,
    some ⟨.A, .none, .none, [], .none, .none, false, buildN .tlbinv⟩,
    some ⟨.M, .none, .base, [0], .none, .disp, false, buildBM .tlbinvP⟩,
    some ⟨.A, .none, .base, [], .none, .none, false, buildS .latt⟩ ]

/-- Page 5 of the opcode map (R78). -/
noncomputable def page5 : List (Option Form) := page5Rows0 ++ page5Rows1

/-- Page 6, opcode values 0 to 11 (R79). -/
noncomputable def page6Rows0 : List (Option Form) :=
  [ none,
    some ⟨.A, .reg, .base, [], .regT, .none, false, buildDRST .capmk⟩,
    some ⟨.A, .reg, .base, [], .regT, .pre true (0, 4095), false, buildCapnar .capnar⟩,
    some ⟨.A, .reg, .base, [], .none, .none, false, buildDRS .capchk⟩,
    some ⟨.M, .reg, .base, [0, 1, 2, 3], .regO, .disp, false, buildLdrq .ldr .ldrQ⟩,
    some ⟨.A, .none, .none, [], .none, .none, false, buildN .home⟩,
    some ⟨.M, .reg, .base, [0, 1, 2, 3], .regO, .disp, false, buildLdrq .str .strQ⟩,
    some ⟨.M, .reg, .base, [3], .none, .disp, false, buildMem .ramoAddD⟩,
    some ⟨.M, .reg, .base, [3], .none, .disp, false, buildMem .ramoAndD⟩,
    some ⟨.M, .reg, .base, [3], .none, .disp, false, buildMem .ramoOrD⟩,
    some ⟨.M, .reg, .base, [3], .none, .disp, false, buildMem .ramoXorD⟩,
    some ⟨.M, .reg, .base, [3], .none, .disp, false, buildMem .ramoMinD⟩ ]

/-- Page 6, opcode values 12 to 23 (R79). -/
noncomputable def page6Rows1 : List (Option Form) :=
  [ some ⟨.M, .reg, .base, [3], .none, .disp, false, buildMem .ramoMaxD⟩,
    some ⟨.M, .reg, .base, [3], .none, .disp, false, buildMem .ramoMinuD⟩,
    some ⟨.M, .reg, .base, [3], .none, .disp, false, buildMem .ramoMaxuD⟩,
    some ⟨.M, .reg, .base, [3], .none, .disp, false, buildMem .ramoSwapD⟩,
    some ⟨.M, .reg, .base, [2], .none, .disp, false, buildMem .ramoAddW⟩,
    some ⟨.M, .reg, .base, [2], .none, .disp, false, buildMem .ramoAndW⟩,
    some ⟨.M, .reg, .base, [2], .none, .disp, false, buildMem .ramoOrW⟩,
    some ⟨.M, .reg, .base, [2], .none, .disp, false, buildMem .ramoXorW⟩,
    some ⟨.M, .reg, .base, [2], .none, .disp, false, buildMem .ramoMinW⟩,
    some ⟨.M, .reg, .base, [2], .none, .disp, false, buildMem .ramoMaxW⟩,
    some ⟨.M, .reg, .base, [2], .none, .disp, false, buildMem .ramoMinuW⟩,
    some ⟨.M, .reg, .base, [2], .none, .disp, false, buildMem .ramoMaxuW⟩ ]

/-- Page 6, opcode values 24 to 35 (R79). -/
noncomputable def page6Rows2 : List (Option Form) :=
  [ some ⟨.M, .reg, .base, [2], .none, .disp, false, buildMem .ramoSwapW⟩,
    some ⟨.M, .reg, .base, [3], .regT, .disp, false, buildMemT .rcasD⟩,
    some ⟨.M, .reg, .base, [2], .regT, .disp, false, buildMemT .rcasW⟩,
    some ⟨.M, .reg, .base, [3], .none, .disp, false, buildMem .ramoAddN⟩,
    some ⟨.M, .reg, .base, [3], .none, .disp, false, buildMem .ramoAndN⟩,
    some ⟨.M, .reg, .base, [3], .none, .disp, false, buildMem .ramoOrN⟩,
    some ⟨.M, .reg, .base, [3], .none, .disp, false, buildMem .ramoXorN⟩,
    some ⟨.M, .reg, .base, [3], .none, .disp, false, buildMem .ramoMinN⟩,
    some ⟨.M, .reg, .base, [3], .none, .disp, false, buildMem .ramoMaxN⟩,
    some ⟨.M, .reg, .base, [3], .none, .disp, false, buildMem .ramoMinuN⟩,
    some ⟨.M, .reg, .base, [3], .none, .disp, false, buildMem .ramoMaxuN⟩,
    some ⟨.M, .reg, .base, [3], .none, .disp, false, buildMem .ramoSwapN⟩ ]

/-- Page 6, opcode values 36 to 39 (R79). -/
noncomputable def page6Rows3 : List (Option Form) :=
  [ some ⟨.A, .reg, .base, [], .regT, .none, false, buildDRST .ffence⟩,
    some ⟨.A, .reg, .base, [], .none, .none, false, buildDRS .mcast⟩,
    some ⟨.A, .reg, .base, [], .none, .none, false, buildDRS .mcgrp⟩,
    some ⟨.A, .reg, .base, [], .none, .none, false, buildDRS .guestset⟩ ]

/-- Page 6 of the opcode map (R79). -/
noncomputable def page6 : List (Option Form) := page6Rows0 ++ page6Rows1 ++ page6Rows2 ++ page6Rows3

/-- The opcode map by page (R73-R79). -/
noncomputable def pageRows (p : Nat) : List (Option Form) :=
  match p with
  | 0 => page0 | 1 => page1 | 2 => page2 | 3 => page3 | 4 => page4 | 5 => page5 | 6 => page6
  | _ => []

/-- The register form of SETE, told apart by SZ = 0b00 (R176). -/
def seteRegisterForm : Form := ⟨.M, .reg, .none, [0], .none, .none, false, buildD .seteRegister⟩

/-- The row of an opcode value on a page; `k` is bits [1:0] of the base word. -/
noncomputable def formOf (page op : Nat) (k : BitVec 2) : Option Form :=
  if page = 2 ∧ op = 5 ∧ k = 0 then some seteRegisterForm
  else match (pageRows page)[op]? with
    | some r => r
    | none => none

/-- The instruction of a parsed chain, or why it is none (R81). -/
noncomputable def decodeChain (c : Chain) : Except Illegal Instr :=
  match formOf c.page.toNat (opcodeOf c.base).toNat (c.base.extractLsb' 0 2) with
  | none => .error .unassigned
  | some f =>
    match readChain f c with
    | .error e => .error e
    | .ok r =>
      match f.build r with
      | none => .error .range
      | some i => .ok i

/-- Decodes the chain at the head of the words: the instruction and the chain's length in words. -/
noncomputable def decode (ws : List Half) : Except Illegal (Instr × Nat) :=
  match parse ws with
  | .error e => .error e
  | .ok (c, n) =>
    match decodeChain c with
    | .error e => .error e
    | .ok i => .ok (i, n)

/-! ## The encoder -/

/-- An instruction's page, opcode value and operands. -/
structure Coded where
  page : Nat
  op : Nat
  raw : Raw
  deriving DecidableEq, Repr

/-- The row and the operands of each chain; a step of the machine and ILLEGAL_CHAIN have no words. -/
def Instr.coded (i : Instr) : Option Coded :=
  match i with
  | .add d src => some ⟨0, 1, rawDS d src⟩
  | .addW d src => some ⟨0, 2, rawDS d src⟩
  | .sub d src => some ⟨0, 3, rawDS d src⟩
  | .subW d src => some ⟨0, 4, rawDS d src⟩
  | .mul d src => some ⟨0, 5, rawDS d src⟩
  | .mulW d src => some ⟨0, 6, rawDS d src⟩
  | .mulh d src => some ⟨0, 7, rawDS d src⟩
  | .div d src => some ⟨0, 8, rawDS d src⟩
  | .divu d src => some ⟨0, 9, rawDS d src⟩
  | .rem d src => some ⟨0, 10, rawDS d src⟩
  | .remu d src => some ⟨0, 11, rawDS d src⟩
  | .and d src => some ⟨0, 12, rawDS d src⟩
  | .or d src => some ⟨0, 13, rawDS d src⟩
  | .xor d src => some ⟨0, 14, rawDS d src⟩
  | .shl d src => some ⟨0, 15, rawDS d src⟩
  | .shlW d src => some ⟨0, 16, rawDS d src⟩
  | .shr d src => some ⟨0, 17, rawDS d src⟩
  | .sar d src => some ⟨0, 18, rawDS d src⟩
  | .min d src => some ⟨0, 19, rawDS d src⟩
  | .max d src => some ⟨0, 20, rawDS d src⟩
  | .minu d src => some ⟨0, 21, rawDS d src⟩
  | .maxu d src => some ⟨0, 22, rawDS d src⟩
  | .mov d src => some ⟨0, 23, rawDstS d src⟩
  | .ceq d src => some ⟨0, 24, rawDS d src⟩
  | .cne d src => some ⟨0, 25, rawDS d src⟩
  | .clt d src => some ⟨0, 26, rawDS d src⟩
  | .cltu d src => some ⟨0, 27, rawDS d src⟩
  | .cle d src => some ⟨0, 28, rawDS d src⟩
  | .cleu d src => some ⟨0, 29, rawDS d src⟩
  | .addi d v => some ⟨0, 30, rawDI d v⟩
  | .li d v => some ⟨0, 31, rawDstI d v⟩
  | .lih d v => some ⟨0, 32, rawDI d v⟩
  | .shli d v => some ⟨0, 33, rawDI d v⟩
  | .shri d v => some ⟨0, 34, rawDI d v⟩
  | .lea d b v => some ⟨0, 35, rawMem 0 d b v⟩
  | .sel d src t => some ⟨0, 36, rawDST d src t⟩
  | .bez d v => some ⟨0, 37, rawDI d v⟩
  | .bnz d v => some ⟨0, 38, rawDI d v⟩
  | .bltz d v => some ⟨0, 39, rawDI d v⟩
  | .bgez d v => some ⟨0, 40, rawDI d v⟩
  | .beq d src v => some ⟨0, 41, rawDSI d src v⟩
  | .bne d src v => some ⟨0, 42, rawDSI d src v⟩
  | .blt d src v => some ⟨0, 43, rawDSI d src v⟩
  | .bge d src v => some ⟨0, 44, rawDSI d src v⟩
  | .bltu d src v => some ⟨0, 45, rawDSI d src v⟩
  | .bgeu d src v => some ⟨0, 46, rawDSI d src v⟩
  | .j v => some ⟨0, 47, rawI v⟩
  | .call v => some ⟨0, 48, rawI v⟩
  | .jr src => some ⟨0, 49, rawS src⟩
  | .ret => some ⟨0, 50, rawN⟩
  | .jtab d src t => some ⟨0, 51, rawDRST d src t⟩
  | .yield => some ⟨0, 52, rawN⟩
  | .retire => some ⟨0, 53, rawN⟩
  | .nop => some ⟨0, 54, rawN⟩
  | .trap v => some ⟨0, 55, rawI v⟩
  | .bkpt v => some ⟨0, 56, rawI v⟩
  | .ldz sz d b v => some ⟨0, 57, rawMem sz.code d b v⟩
  | .lds sz d b v => some ⟨0, 58, rawMem sz.code d b v⟩
  | .st sz d b v => some ⟨0, 59, rawMem sz.code d b v⟩
  | .bfx d src => some ⟨1, 1, rawDS d src⟩
  | .bfi d src t => some ⟨1, 2, rawDST d src t⟩
  | .ctz d src => some ⟨1, 3, rawDS d src⟩
  | .bswap d src => some ⟨1, 4, rawDS d src⟩
  | .crcB d src => some ⟨1, 5, rawDS d src⟩
  | .crcH d src => some ⟨1, 6, rawDS d src⟩
  | .crcW d src => some ⟨1, 7, rawDS d src⟩
  | .crcD d src => some ⟨1, 8, rawDS d src⟩
  | .faddD r d src => some ⟨1, 9, rawRDS r d src⟩
  | .faddS r d src => some ⟨1, 10, rawRDS r d src⟩
  | .fsubD r d src => some ⟨1, 11, rawRDS r d src⟩
  | .fsubS r d src => some ⟨1, 12, rawRDS r d src⟩
  | .fmulD r d src => some ⟨1, 13, rawRDS r d src⟩
  | .fmulS r d src => some ⟨1, 14, rawRDS r d src⟩
  | .fdivD r d src => some ⟨1, 15, rawRDS r d src⟩
  | .fdivS r d src => some ⟨1, 16, rawRDS r d src⟩
  | .fsqrtD r d src => some ⟨1, 17, rawRDS r d src⟩
  | .fsqrtS r d src => some ⟨1, 18, rawRDS r d src⟩
  | .fmaD r d src t => some ⟨1, 19, rawRDST r d src t⟩
  | .fmaS r d src t => some ⟨1, 20, rawRDST r d src t⟩
  | .fmsD r d src t => some ⟨1, 21, rawRDST r d src t⟩
  | .fmsS r d src t => some ⟨1, 22, rawRDST r d src t⟩
  | .fnmaD r d src t => some ⟨1, 23, rawRDST r d src t⟩
  | .fnmaS r d src t => some ⟨1, 24, rawRDST r d src t⟩
  | .fnmsD r d src t => some ⟨1, 25, rawRDST r d src t⟩
  | .fnmsS r d src t => some ⟨1, 26, rawRDST r d src t⟩
  | .fminD d src => some ⟨1, 27, rawDS d src⟩
  | .fminS d src => some ⟨1, 28, rawDS d src⟩
  | .fmaxD d src => some ⟨1, 29, rawDS d src⟩
  | .fmaxS d src => some ⟨1, 30, rawDS d src⟩
  | .feqD d src => some ⟨1, 31, rawDS d src⟩
  | .feqS d src => some ⟨1, 32, rawDS d src⟩
  | .fltD d src => some ⟨1, 33, rawDS d src⟩
  | .fltS d src => some ⟨1, 34, rawDS d src⟩
  | .fleD d src => some ⟨1, 35, rawDS d src⟩
  | .fleS d src => some ⟨1, 36, rawDS d src⟩
  | .fclassD d src => some ⟨1, 37, rawDS d src⟩
  | .fclassS d src => some ⟨1, 38, rawDS d src⟩
  | .fsgnD d src => some ⟨1, 39, rawDS d src⟩
  | .fsgnS d src => some ⟨1, 40, rawDS d src⟩
  | .fsgnnD d src => some ⟨1, 41, rawDS d src⟩
  | .fsgnnS d src => some ⟨1, 42, rawDS d src⟩
  | .fsgnxD d src => some ⟨1, 43, rawDS d src⟩
  | .fsgnxS d src => some ⟨1, 44, rawDS d src⟩
  | .fcvtSD r d src => some ⟨1, 45, rawRDS r d src⟩
  | .fcvtDS r d src => some ⟨1, 46, rawRDS r d src⟩
  | .fcvtDL r d src => some ⟨1, 47, rawRDS r d src⟩
  | .fcvtDLu r d src => some ⟨1, 48, rawRDS r d src⟩
  | .fcvtSL r d src => some ⟨1, 49, rawRDS r d src⟩
  | .fcvtSLu r d src => some ⟨1, 50, rawRDS r d src⟩
  | .fcvtLD r d src => some ⟨1, 51, rawRDS r d src⟩
  | .fcvtLuD r d src => some ⟨1, 52, rawRDS r d src⟩
  | .fcvtLS r d src => some ⟨1, 53, rawRDS r d src⟩
  | .fcvtLuS r d src => some ⟨1, 54, rawRDS r d src⟩
  | .setrm v => some ⟨1, 55, rawI v⟩
  | .rdflg d => some ⟨1, 56, rawD d⟩
  | .clrflg v => some ⟨1, 57, rawI v⟩
  | .sread d n => some ⟨1, 58, rawDN3 d n⟩
  | .sreadClusterFlags d => some ⟨1, 58, rawDI d 13⟩
  | .swrite d n => some ⟨1, 59, rawDN3 d n⟩
  | .ldf d b v => some ⟨2, 1, rawMem 3 d b v⟩
  | .ldfe d b v => some ⟨2, 2, rawMem 3 d b v⟩
  | .stef d b v => some ⟨2, 3, rawMem 3 d b v⟩
  | .stf d b v => some ⟨2, 4, rawMem 3 d b v⟩
  | .seteMemory b v => some ⟨2, 5, rawBM 3 b v⟩
  | .seteRegister d => some ⟨2, 5, rawD d⟩
  | .feqry d b v => some ⟨2, 6, rawMem 3 d b v⟩
  | .amoAddD d b v => some ⟨2, 7, rawMem 3 d b v⟩
  | .amoAndD d b v => some ⟨2, 8, rawMem 3 d b v⟩
  | .amoOrD d b v => some ⟨2, 9, rawMem 3 d b v⟩
  | .amoXorD d b v => some ⟨2, 10, rawMem 3 d b v⟩
  | .amoMinD d b v => some ⟨2, 11, rawMem 3 d b v⟩
  | .amoMaxD d b v => some ⟨2, 12, rawMem 3 d b v⟩
  | .amoMinuD d b v => some ⟨2, 13, rawMem 3 d b v⟩
  | .amoMaxuD d b v => some ⟨2, 14, rawMem 3 d b v⟩
  | .amoSwapD d b v => some ⟨2, 15, rawMem 3 d b v⟩
  | .amoAddW d b v => some ⟨2, 16, rawMem 2 d b v⟩
  | .amoAndW d b v => some ⟨2, 17, rawMem 2 d b v⟩
  | .amoOrW d b v => some ⟨2, 18, rawMem 2 d b v⟩
  | .amoXorW d b v => some ⟨2, 19, rawMem 2 d b v⟩
  | .amoMinW d b v => some ⟨2, 20, rawMem 2 d b v⟩
  | .amoMaxW d b v => some ⟨2, 21, rawMem 2 d b v⟩
  | .amoMinuW d b v => some ⟨2, 22, rawMem 2 d b v⟩
  | .amoMaxuW d b v => some ⟨2, 23, rawMem 2 d b v⟩
  | .amoSwapW d b v => some ⟨2, 24, rawMem 2 d b v⟩
  | .acasD d b v t => some ⟨2, 25, rawMemT 3 d b v t⟩
  | .acasW d b v t => some ⟨2, 26, rawMemT 2 d b v t⟩
  | .forkae d src t => some ⟨2, 27, rawDRSG d src t⟩
  | .rdv d src => some ⟨2, 28, rawDS d src⟩
  | .qld sz q b v => some ⟨2, 29, rawQM sz q b v⟩
  | .qst sz q b v => some ⟨2, 30, rawQM sz q b v⟩
  | .sendT d h p c => some ⟨2, 31, rawSend d h p c⟩
  | .sendC d h p c => some ⟨2, 32, rawSend d h p c⟩
  | .waitm => some ⟨2, 33, rawN⟩
  | .takem d => some ⟨2, 34, rawD d⟩
  | .htab d src => some ⟨2, 35, rawDS d src⟩
  | .mcfgReadConfig d => some ⟨2, 36, rawDS d (.imm 0)⟩
  | .mcfgWriteConfig d => some ⟨2, 36, rawDS d (.imm 1)⟩
  | .mcfgReadDropCounter d => some ⟨2, 36, rawDS d (.imm 2)⟩
  | .mcfgReadAccept d n => some ⟨2, 36, rawDS d (.imm (16 + n.setWidth 64))⟩
  | .mcfgWriteAccept d n => some ⟨2, 36, rawDS d (.imm (32 + n.setWidth 64))⟩
  | .pbind p src => some ⟨2, 37, rawPS p src⟩
  | .punbind p => some ⟨2, 38, rawP p⟩
  | .pstat d p t => some ⟨2, 39, rawPstat d p t⟩
  | .push d src => some ⟨2, 40, rawDS d src⟩
  | .depr d src n => some ⟨2, 41, rawDepr d src n⟩
  | .spawnL d src t => some ⟨2, 42, rawDRSG d src t⟩
  | .spawnC d src t => some ⟨2, 43, rawDRSG d src t⟩
  | .tstat d src => some ⟨2, 44, rawDRS d src⟩
  | .treg d src t => some ⟨2, 45, rawDRSG d src t⟩
  | .twreg d src t => some ⟨2, 46, rawDRST d src t⟩
  | .tstop src => some ⟨2, 47, rawS src⟩
  | .tresume src => some ⟨2, 48, rawS src⟩
  | .bfmtRead d src => some ⟨2, 49, rawDS d src⟩
  | .bfmtWrite d src => some ⟨2, 49, rawDS d src⟩
  | .bmodeRead d src => some ⟨2, 50, rawDS d src⟩
  | .bmodeWrite d src => some ⟨2, 50, rawDS d src⟩
  | .logset d src => some ⟨2, 51, rawDRS d src⟩
  | .cpub d src t => some ⟨2, 52, rawDRST d src t⟩
  | .ifence => some ⟨2, 53, rawN⟩
  | .layout l b v => some ⟨3, 1, rawRM l b v⟩
  | .rdbcRead d => some ⟨3, 2, rawDS d (.imm 0)⟩
  | .rdbcReadClear d => some ⟨3, 2, rawDS d (.imm 1)⟩
  | .mmaOvr k la lb c v => some ⟨3, 3, rawMma k la lb c v⟩
  | .mmaAcc k la lb c v => some ⟨3, 4, rawMma k la lb c v⟩
  | .mmaDecay k la lb c v => some ⟨3, 5, rawMma k la lb c v⟩
  | .mmaSat k la lb c v => some ⟨3, 6, rawMma k la lb c v⟩
  | .accz k => some ⟨3, 7, rawTile k⟩
  | .accswap k => some ⟨3, 8, rawTile k⟩
  | .accrd k l w v => some ⟨3, 9, rawAccm k l w v⟩
  | .accwr k l w v => some ⟨3, 10, rawAccm k l w v⟩
  | .accmodeRead d src => some ⟨3, 11, rawDS d src⟩
  | .accmodeWrite d src => some ⟨3, 11, rawDS d src⟩
  | .drainI r l g => some ⟨3, 12, rawDrain r l g⟩
  | .drainF r l g => some ⟨3, 13, rawDrain r l g⟩
  | .vaddS r ld ls => some ⟨3, 14, rawRLL r ld ls⟩
  | .vaddD r ld ls => some ⟨3, 15, rawRLL r ld ls⟩
  | .vsubS r ld ls => some ⟨3, 16, rawRLL r ld ls⟩
  | .vsubD r ld ls => some ⟨3, 17, rawRLL r ld ls⟩
  | .vmulS r ld ls => some ⟨3, 18, rawRLL r ld ls⟩
  | .vmulD r ld ls => some ⟨3, 19, rawRLL r ld ls⟩
  | .vfmaS r ld ls lt => some ⟨3, 20, rawRLLL r ld ls lt⟩
  | .vfmaD r ld ls lt => some ⟨3, 21, rawRLLL r ld ls lt⟩
  | .vfmsS r ld ls lt => some ⟨3, 22, rawRLLL r ld ls lt⟩
  | .vfmsD r ld ls lt => some ⟨3, 23, rawRLLL r ld ls lt⟩
  | .vminS r ld ls => some ⟨3, 24, rawRLL r ld ls⟩
  | .vminD ld ls => some ⟨3, 25, rawLL ld ls⟩
  | .vmaxS r ld ls => some ⟨3, 26, rawRLL r ld ls⟩
  | .vmaxD ld ls => some ⟨3, 27, rawLL ld ls⟩
  | .vexpS r ld ls => some ⟨3, 28, rawRLL r ld ls⟩
  | .vexpD r ld ls => some ⟨3, 29, rawRLL r ld ls⟩
  | .vrcpS r ld ls => some ⟨3, 30, rawRLL r ld ls⟩
  | .vrcpD r ld ls => some ⟨3, 31, rawRLL r ld ls⟩
  | .vrsqS r ld ls => some ⟨3, 32, rawRLL r ld ls⟩
  | .vrsqD r ld ls => some ⟨3, 33, rawRLL r ld ls⟩
  | .vredSumS r ld ls => some ⟨3, 34, rawRLL r ld ls⟩
  | .vredMaxS r ld ls => some ⟨3, 35, rawRLL r ld ls⟩
  | .vredMinS r ld ls => some ⟨3, 36, rawRLL r ld ls⟩
  | .vredSumD r ld ls => some ⟨3, 37, rawRLL r ld ls⟩
  | .vredMaxD ld ls => some ⟨3, 38, rawLL ld ls⟩
  | .vredMinD ld ls => some ⟨3, 39, rawLL ld ls⟩
  | .vscaleS r ld ls t => some ⟨3, 40, rawRLLG r ld ls t⟩
  | .vscaleD r ld ls t => some ⟨3, 41, rawRLLG r ld ls t⟩
  | .vcvt r ld ls v => some ⟨3, 42, rawVcvt r ld ls v⟩
  | .vcmpEqS r ld ls lt => some ⟨3, 43, rawRLLL r ld ls lt⟩
  | .vcmpLtS r ld ls lt => some ⟨3, 44, rawRLLL r ld ls lt⟩
  | .vcmpLeS r ld ls lt => some ⟨3, 45, rawRLLL r ld ls lt⟩
  | .vcmpEqD ld ls lt => some ⟨3, 46, rawLLL ld ls lt⟩
  | .vcmpLtD ld ls lt => some ⟨3, 47, rawLLL ld ls lt⟩
  | .vcmpLeD ld ls lt => some ⟨3, 48, rawLLL ld ls lt⟩
  | .vselS r ld ls lt => some ⟨3, 49, rawRLLL r ld ls lt⟩
  | .vselD ld ls lt => some ⟨3, 50, rawLLL ld ls lt⟩
  | .vfillS r ld src => some ⟨3, 51, rawRLS r ld src⟩
  | .vfillD ld src => some ⟨3, 52, rawLS ld src⟩
  | .copyB ld ls t => some ⟨3, 53, rawLLT ld ls t⟩
  | .copyL r ld ls t => some ⟨3, 54, rawRLLT r ld ls t⟩
  | .copym r ld ls t => some ⟨3, 55, rawRLLT r ld ls t⟩
  | .esync => some ⟨3, 56, rawN⟩
  | .estat d => some ⟨3, 57, rawD d⟩
  | .saveareaWrite d => some ⟨3, 58, rawDS d (.imm 0)⟩
  | .saveareaRead d => some ⟨3, 58, rawDS d (.imm 1)⟩
  | .pack => some ⟨3, 59, rawN⟩
  | .barsetRead d n => some ⟨4, 1, rawDS d (.imm (4 + n.setWidth 64))⟩
  | .barsetWrite d n => some ⟨4, 1, rawDS d (.imm (n.setWidth 64))⟩
  | .bar n => some ⟨4, 2, rawB n⟩
  | .bara d n => some ⟨4, 3, rawDB d n⟩
  | .barw d n => some ⟨4, 4, rawDB d n⟩
  | .rfork d src t => some ⟨4, 5, rawDRSG d src t⟩
  | .join src => some ⟨4, 6, rawS src⟩
  | .cellNew d src t => some ⟨4, 7, rawDRSG d src t⟩
  | .cellRd d src => some ⟨4, 8, rawDRS d src⟩
  | .cellAdd d src => some ⟨4, 9, rawDRS d src⟩
  | .cancel src => some ⟨4, 10, rawS src⟩
  | .phaseB n => some ⟨4, 11, rawB n⟩
  | .phaseC => some ⟨4, 12, rawN⟩
  | .phaseH => some ⟨4, 13, rawN⟩
  | .grid d b v => some ⟨4, 14, rawMem 3 d b v⟩
  | .gbind d src t => some ⟨4, 15, rawDRSG d src t⟩
  | .hstep d src => some ⟨4, 16, rawDRS d src⟩
  | .ldh sz d b v t => some ⟨4, 17, rawMemG sz.code d b v t⟩
  | .hwait d src => some ⟨4, 18, rawDRS d src⟩
  | .hwaitF d src t => some ⟨4, 19, rawDRSG d src t⟩
  | .gstatG d src => some ⟨4, 20, rawDS d src⟩
  | .gstatF d src t => some ⟨4, 21, rawDRSG d src t⟩
  | .gfree src => some ⟨4, 22, rawS src⟩
  | .budgetSet d src => some ⟨4, 23, rawDS d src⟩
  | .budgetRd d src => some ⟨4, 24, rawDS d src⟩
  | .budgetClr d src => some ⟨4, 25, rawDS d src⟩
  | .mint d src t => some ⟨5, 1, rawDRST d src t⟩
  | .give d src => some ⟨5, 2, rawDRS d src⟩
  | .giveS d src t => some ⟨5, 3, rawDRST d src t⟩
  | .accept src => some ⟨5, 4, rawS src⟩
  | .lend d src => some ⟨5, 5, rawDRS d src⟩
  | .lendS d src t => some ⟨5, 6, rawDRST d src t⟩
  | .reclaim src => some ⟨5, 7, rawS src⟩
  | .reclaimB src t => some ⟨5, 8, rawST src t⟩
  | .returnLoan src => some ⟨5, 9, rawS src⟩
  | .claim src t => some ⟨5, 10, rawST src t⟩
  | .deny src => some ⟨5, 11, rawS src⟩
  | .heirResource d src => some ⟨5, 12, rawDRS d src⟩
  | .heirRecord d src => some ⟨5, 12, rawDRS d src⟩
  | .ownq d src => some ⟨5, 13, rawDRS d src⟩
  | .ownqA d b v => some ⟨5, 14, rawMem 0 d b v⟩
  | .rootset d src => some ⟨5, 15, rawDS d src⟩
  | .tlbinv => some ⟨5, 16, rawN⟩
  | .tlbinvP b v => some ⟨5, 17, rawBM 0 b v⟩
  | .latt src => some ⟨5, 18, rawS src⟩
  | .capmk d src t => some ⟨6, 1, rawDRST d src t⟩
  | .capnar d src t v => some ⟨6, 2, rawCapnar d src t v⟩
  | .capchk d src => some ⟨6, 3, rawDRS d src⟩
  | .ldr sz d b v => some ⟨6, 4, rawMem sz.code d b v⟩
  | .ldrQ d hi b v => some ⟨6, 4, rawMemT 3 d b v hi⟩
  | .home => some ⟨6, 5, rawN⟩
  | .str sz d b v => some ⟨6, 6, rawMem sz.code d b v⟩
  | .strQ d hi b v => some ⟨6, 6, rawMemT 3 d b v hi⟩
  | .ramoAddD d b v => some ⟨6, 7, rawMem 3 d b v⟩
  | .ramoAndD d b v => some ⟨6, 8, rawMem 3 d b v⟩
  | .ramoOrD d b v => some ⟨6, 9, rawMem 3 d b v⟩
  | .ramoXorD d b v => some ⟨6, 10, rawMem 3 d b v⟩
  | .ramoMinD d b v => some ⟨6, 11, rawMem 3 d b v⟩
  | .ramoMaxD d b v => some ⟨6, 12, rawMem 3 d b v⟩
  | .ramoMinuD d b v => some ⟨6, 13, rawMem 3 d b v⟩
  | .ramoMaxuD d b v => some ⟨6, 14, rawMem 3 d b v⟩
  | .ramoSwapD d b v => some ⟨6, 15, rawMem 3 d b v⟩
  | .ramoAddW d b v => some ⟨6, 16, rawMem 2 d b v⟩
  | .ramoAndW d b v => some ⟨6, 17, rawMem 2 d b v⟩
  | .ramoOrW d b v => some ⟨6, 18, rawMem 2 d b v⟩
  | .ramoXorW d b v => some ⟨6, 19, rawMem 2 d b v⟩
  | .ramoMinW d b v => some ⟨6, 20, rawMem 2 d b v⟩
  | .ramoMaxW d b v => some ⟨6, 21, rawMem 2 d b v⟩
  | .ramoMinuW d b v => some ⟨6, 22, rawMem 2 d b v⟩
  | .ramoMaxuW d b v => some ⟨6, 23, rawMem 2 d b v⟩
  | .ramoSwapW d b v => some ⟨6, 24, rawMem 2 d b v⟩
  | .rcasD d b v t => some ⟨6, 25, rawMemT 3 d b v t⟩
  | .rcasW d b v t => some ⟨6, 26, rawMemT 2 d b v t⟩
  | .ramoAddN d b v => some ⟨6, 27, rawMem 3 d b v⟩
  | .ramoAndN d b v => some ⟨6, 28, rawMem 3 d b v⟩
  | .ramoOrN d b v => some ⟨6, 29, rawMem 3 d b v⟩
  | .ramoXorN d b v => some ⟨6, 30, rawMem 3 d b v⟩
  | .ramoMinN d b v => some ⟨6, 31, rawMem 3 d b v⟩
  | .ramoMaxN d b v => some ⟨6, 32, rawMem 3 d b v⟩
  | .ramoMinuN d b v => some ⟨6, 33, rawMem 3 d b v⟩
  | .ramoMaxuN d b v => some ⟨6, 34, rawMem 3 d b v⟩
  | .ramoSwapN d b v => some ⟨6, 35, rawMem 3 d b v⟩
  | .ffence d src t => some ⟨6, 36, rawDRST d src t⟩
  | .mcast d src => some ⟨6, 37, rawDRS d src⟩
  | .mcgrp d src => some ⟨6, 38, rawDRS d src⟩
  | .guestset d src => some ⟨6, 39, rawDRS d src⟩
  | .illegalChain _ => none
  | .longLatencyResultArrival _ _ => none
  | .translationWalkComplete _ _ => none
  | .icacheFill _ _ => none
  | .messageArrival _ _ => none
  | .messageDeliveryRetry _ _ => none
  | .depositArrival _ _ => none
  | .depositWrite _ _ => none
  | .depositReply _ _ => none
  | .portBindRequest _ _ => none
  | .portValueArrival _ _ => none
  | .spawnRemoteCreate _ _ => none
  | .tstatRemoteReply _ _ => none
  | .homeFeOperation _ _ => none
  | .homeAtomic _ _ => none
  | .slotRelease _ _ _ => none
  | .cassiaOpStart _ _ => none
  | .engineLineRead _ _ => none
  | .engineLineWrite _ _ => none
  | .accswapExchange _ _ => none
  | .clovePieceArrival _ _ => none
  | .clovePieceWrite _ _ => none
  | .commitEntryApply _ _ => none
  | .commitRefresh _ _ => none
  | .phaseCommitStart _ _ => none
  | .barrierSignalHop _ _ _ => none
  | .barrierRelease _ _ _ => none
  | .cellOperation _ _ => none
  | .anisePlacementRead _ _ => none
  | .aniseSlabRead _ _ => none
  | .aniseSlabWrite _ _ => none
  | .aniseSelfFill _ _ => none
  | .aniseFaceStepSet _ _ => none
  | .aniseDeliveryAbandon _ _ => none
  | .budgetPeriodStart _ _ _ => none
  | .preemptRequest _ _ => none
  | .preemptHandlerStart _ _ => none
  | .preemptDone _ _ => none
  | .preemptBudgetExpiry _ _ => none
  | .mapTradeArrival _ _ => none
  | .mapTransferComplete _ _ => none
  | .claimExpiry _ _ => none
  | .cbptrWrite _ _ _ _ => none
  | .doorbellWrite _ _ _ => none
  | .bootgoWrite _ => none
  | .hostRegisterWrite _ _ _ _ => none
  | .ringSampleRetry _ _ => none
  | .packetTake _ _ => none
  | .packetNop _ _ => none
  | .packetLaunch _ _ => none
  | .packetBarrier _ _ => none
  | .packetSignal _ _ => none
  | .packetIndirect _ _ => none
  | .packetCopy _ _ => none
  | .packetComplete _ _ => none
  | .hostLinkReset _ => none
  | .hostLinkUp _ => none
  | .functionLevelReset _ _ => none
  | .hostCxlWrite _ _ _ => none
  | .hostCxlRead _ _ _ => none
  | .hostLtrUpdate _ _ => none
  | .clusterPowerEntry _ _ => none
  | .clusterPowerExitStart _ _ => none
  | .clusterPowerExitComplete _ _ => none
  | .powerUp _ => none
  | .bootStart _ => none
  | .powerLoss _ => none
  | .fatalError _ _ _ => none
  | .dumpComplete _ => none
  | .linkReplay _ _ => none
  | .linkDown _ _ => none
  | .fabricPacketHop _ => none
  | .retransmitTimeout _ _ _ _ => none
  | .streamRestart _ _ _ => none
  | .streamStateExpiry _ _ _ => none
  | .fabricStoreArrival _ => none
  | .fabricAmoArrival _ => none
  | .fabricPostedArrival _ => none
  | .fabricFenceArrival _ => none
  | .fabricMcastArrival _ => none
  | .fabricPortArrival _ => none
  | .fabricNoticeArrival _ => none
  | .fabricReplyArrival _ => none
  | .fabricAckArrival _ => none
  | .migrateArrival _ => none
  | .migrateReturn _ => none
  | .fundamentalReset _ => none
  | .fabricLinkTrain _ _ => none

/-- The form that an instruction's row and size select. -/
noncomputable def Coded.form (c : Coded) : Option Form := formOf c.page c.op c.raw.sz

def Opd.regHi : Opd → BitVec 3
  | .reg r => r.n.extractLsb' 4 3
  | _ => 0

def Opd.lo : Opd → BitVec 4
  | .reg r => r.n.extractLsb' 0 4
  | .stream c => c
  | .num n => n
  | _ => 0

def Opd.reuseBit : Opd → Bool
  | .reg r => r.reuse
  | _ => false

def Opd.trapBit : Opd → Bool
  | .reg r => r.trap
  | _ => false

def Opd.isStream : Opd → Bool
  | .stream _ => true
  | _ => false

/-- The K field of an S operand (R61). -/
def Opd.kind : Opd → BitVec 2
  | .stream _ => 1
  | .imm => 2
  | _ => 0

/-- The payload of REGX (R65). -/
def regxOf (d s : Opd) : BitVec 10 :=
  d.regHi ++ s.regHi ++ BitVec.ofBool s.reuseBit ++ BitVec.ofBool s.trapBit ++ BitVec.ofBool d.isStream ++ (0 : BitVec 1)

/-- The payload of REGT (R65). -/
def regtOf : Opd → Option (BitVec 10)
  | .reg r => some (r.n ++ BitVec.ofBool r.reuse ++ BitVec.ofBool r.trap ++ (0 : BitVec 1))
  | .stream c => some ((c.setWidth 7 : BitVec 7) ++ (1 : BitVec 3))
  | .num n => some ((n.setWidth 7 : BitVec 7) ++ (0 : BitVec 3))
  | _ => none

/-- The width of the base field that ends the immediate (R63), and the fewest IMM prefixes. -/
def immShape (f : Form) (s : Opd) : Option (Nat × Nat) :=
  match f.imm with
  | .none => none
  | .sImm | .sBare => if s = .imm then some (4, 0) else none
  | .disp => some (0, 0)
  | .field _ => some ((match f.fmt with | .J => 10 | _ => 6), 0)
  | .bare _ => some (6, 0)
  | .pre mandatory _ => some (0, if mandatory then 1 else 0)
  | .one _ => some (0, 1)

/-- The IMM payloads and the base field of an immediate. -/
def immParts (f : Form) (r : Raw) : List (BitVec 10) × Nat :=
  match immShape f r.s with
  | none => ([], 0)
  | some (w, least) =>
    let v := r.imm.toInt
    let n := immCount least w v
    let u := stringOf (10 * n + w) v
    (immPayloads n (u / 2 ^ w), u % 2 ^ w)

/-- The base word of a row's operands (R60). -/
def baseWord (op : Nat) (f : Form) (r : Raw) : Half :=
  let fld := (immParts f r).2
  let o : BitVec 6 := BitVec.ofNat 6 op
  match f.fmt with
  | .A => o ++ r.d.lo ++ (if r.s = .imm then BitVec.ofNat 4 fld else r.s.lo) ++ r.s.kind
  | .M => o ++ r.d.lo ++ r.s.lo ++ r.sz
  | .J => o ++ (BitVec.ofNat 10 fld : BitVec 10)
  | _ => o ++ r.d.lo ++ (BitVec.ofNat 6 fld : BitVec 6)

/-- A row's operands as a chain. -/
def chainOf (page op : Nat) (f : Form) (r : Raw) : Chain :=
  let x := regxOf r.d r.s
  ⟨BitVec.ofNat 4 page, r.rnd, if x = 0 then none else some x, regtOf r.t, (immParts f r).1, baseWord op f r⟩

/-- A prefix word (R65). -/
def prefixWord (op : BitVec 6) (v : BitVec 10) : Half := op ++ v

/-- The words of a chain: PAGE, REGX, REGT, the IMM prefixes, then the base word (R66 allows any order). -/
def Chain.words (c : Chain) : List Half :=
  (if c.page = 0 then [] else [prefixWord 63 (c.page ++ c.rnd.mode ++ c.rnd.ovp ++ (0 : BitVec 1))]) ++
  (match c.regx with | none => [] | some x => [prefixWord 61 x]) ++
  (match c.regt with | none => [] | some x => [prefixWord 62 x]) ++
  c.imms.map (prefixWord 60) ++ [c.base]

/-- The words of a well-formed instruction; an instruction that has none encodes to the empty list. -/
noncomputable def encode (i : Instr) : List Half :=
  match i.coded with
  | none => []
  | some c =>
    match c.form with
    | none => []
    | some f => (chainOf c.page c.op f c.raw).words

/-! ## Words as the opcode table numbers them -/

/-- The 16-bit words of a table value, the first word in its most significant bits. -/
def tableWords : Nat → Nat → List Half
  | 0, _ => []
  | n + 1, w => BitVec.ofNat 16 (w / 65536 ^ n) :: tableWords n w

/-- The words of an instruction that the table gives `nbits` bits, with zero words after them. -/
def tableChain (nbits w : Nat) : List Half := tableWords (nbits / 16) w ++ [0, 0, 0, 0]

/-- The instruction that the decoder reads from a word of the opcode table; the table puts a chain's first word in
the most significant bits. -/
noncomputable def decodeTableWord (nbits w : Nat) : Option Instr :=
  match decode (tableChain nbits w) with
  | .error _ => none
  | .ok (i, _) => some i

/-! ## Bytes -/

/-- A word's two bytes, little-endian (R59). -/
def halfBytes (h : Half) : List Byte := [h.extractLsb' 0 8, h.extractLsb' 8 8]

/-- The 16-bit words of a little-endian byte string. -/
def halves : List Byte → List Half
  | lo :: hi :: rest => (hi ++ lo) :: halves rest
  | _ => []

/-- The rows that are the machine's own steps, which no chain encodes. -/
def Instr.isStep : Instr → Bool
  | .longLatencyResultArrival _ _ => true
  | .translationWalkComplete _ _ => true
  | .icacheFill _ _ => true
  | .messageArrival _ _ => true
  | .messageDeliveryRetry _ _ => true
  | .depositArrival _ _ => true
  | .depositWrite _ _ => true
  | .depositReply _ _ => true
  | .portBindRequest _ _ => true
  | .portValueArrival _ _ => true
  | .spawnRemoteCreate _ _ => true
  | .tstatRemoteReply _ _ => true
  | .homeFeOperation _ _ => true
  | .homeAtomic _ _ => true
  | .slotRelease _ _ _ => true
  | .cassiaOpStart _ _ => true
  | .engineLineRead _ _ => true
  | .engineLineWrite _ _ => true
  | .accswapExchange _ _ => true
  | .clovePieceArrival _ _ => true
  | .clovePieceWrite _ _ => true
  | .commitEntryApply _ _ => true
  | .commitRefresh _ _ => true
  | .phaseCommitStart _ _ => true
  | .barrierSignalHop _ _ _ => true
  | .barrierRelease _ _ _ => true
  | .cellOperation _ _ => true
  | .anisePlacementRead _ _ => true
  | .aniseSlabRead _ _ => true
  | .aniseSlabWrite _ _ => true
  | .aniseSelfFill _ _ => true
  | .aniseFaceStepSet _ _ => true
  | .aniseDeliveryAbandon _ _ => true
  | .budgetPeriodStart _ _ _ => true
  | .preemptRequest _ _ => true
  | .preemptHandlerStart _ _ => true
  | .preemptDone _ _ => true
  | .preemptBudgetExpiry _ _ => true
  | .mapTradeArrival _ _ => true
  | .mapTransferComplete _ _ => true
  | .claimExpiry _ _ => true
  | .cbptrWrite _ _ _ _ => true
  | .doorbellWrite _ _ _ => true
  | .bootgoWrite _ => true
  | .hostRegisterWrite _ _ _ _ => true
  | .ringSampleRetry _ _ => true
  | .packetTake _ _ => true
  | .packetNop _ _ => true
  | .packetLaunch _ _ => true
  | .packetBarrier _ _ => true
  | .packetSignal _ _ => true
  | .packetIndirect _ _ => true
  | .packetCopy _ _ => true
  | .packetComplete _ _ => true
  | .hostLinkReset _ => true
  | .hostLinkUp _ => true
  | .functionLevelReset _ _ => true
  | .hostCxlWrite _ _ _ => true
  | .hostCxlRead _ _ _ => true
  | .hostLtrUpdate _ _ => true
  | .clusterPowerEntry _ _ => true
  | .clusterPowerExitStart _ _ => true
  | .clusterPowerExitComplete _ _ => true
  | .powerUp _ => true
  | .bootStart _ => true
  | .powerLoss _ => true
  | .fatalError _ _ _ => true
  | .dumpComplete _ => true
  | .linkReplay _ _ => true
  | .linkDown _ _ => true
  | .fabricPacketHop _ => true
  | .retransmitTimeout _ _ _ _ => true
  | .streamRestart _ _ _ => true
  | .streamStateExpiry _ _ _ => true
  | .fabricStoreArrival _ => true
  | .fabricAmoArrival _ => true
  | .fabricPostedArrival _ => true
  | .fabricFenceArrival _ => true
  | .fabricMcastArrival _ => true
  | .fabricPortArrival _ => true
  | .fabricNoticeArrival _ => true
  | .fabricReplyArrival _ => true
  | .fabricAckArrival _ => true
  | .migrateArrival _ => true
  | .migrateReturn _ => true
  | .fundamentalReset _ => true
  | .fabricLinkTrain _ _ => true
  | _ => false

end Sys2Proof
end

