-- ==== Sys2Proof/Machine/State.lean ====
section
/-! DEFINITION. The state of a system of KZ4-T packages as plain data, and the state after power-up (R209, R382).
Sparse parts are tables from keys to entries; an unlisted key holds the default that its accessor in Ops.lean names. -/

namespace Sys2Proof.Machine

/-- A sparse table: keys strictly rising, one entry for each key that has been written. -/
abbrev Tab (α : Type) := List (Nat × α)

/-! ## Memory -/

/-- Bytes, full/empty bits, tags and uncorrectable marks by physical address (R5, R152, R209, R380).
`cells` lists the bytes that are not 0, `empties` the addresses of the words whose full/empty bit is 0, `tags` the
granules whose tag is 1, `bad` the words that hold an uncorrectable error; all strictly rising. -/
structure Memory where
  cells : List Host.Cell
  empties : List Nat
  tags : List Nat
  bad : List Nat
  deriving DecidableEq, Repr

/-- One version of a 64-bit word: its bits, the tag of its granule, and its uncorrectable mark (R213). -/
structure MemWord where
  val : Word
  tag : Bool
  bad : Bool
  deriving DecidableEq, Repr

/-! ## Threads -/

/-- The life states (R27). -/
inductive Life where
  | free | ready | parked | trapped | migrating | retired
  deriving DecidableEq, Repr

/-- The park reasons (R28). -/
inductive Reason where
  | reg | portFull | portEmpty | bind | queue | word | mbox | depr | engine | acc | barrier | phase | halo | fence
  | net | rdv
  deriving DecidableEq, Repr

/-- The trap causes (R33). -/
inductive Cause where
  | illegal | window | alignOperand | empty | memFault | memAlign | notExported | overflow | notHolder | mapFull
  | staleHalo | cap | portUnbound | logFull | softError | cancelled | trapInsn | break | migrateTooLarge | reclaimed
  | format | layout | role
  deriving DecidableEq, Repr

/-- The states of a port (R161). -/
inductive PortSt where
  | unbound | binding | bound | broken
  deriving DecidableEq, Repr

/-- One neighbour port (R158-R161): its state, the partner's chip and handle (or, while BINDING, the slot named), and
the values queued toward this thread. -/
structure PortRec where
  st : PortSt
  peerChip : Nat
  peer : Nat
  queue : List Word
  deriving DecidableEq, Repr

/-- Where a thread was before its first migration (R419). -/
structure Home where
  chip : Nat
  core : Nat
  holder : Nat
  deriving DecidableEq, Repr

/-- What the next FFENCE of a thread to one chip covers (R413): the words written by its STRs, the fabric requests
and the local ones not yet settled are found in flight; `failed` is the first failure's status. -/
structure Cover where
  words : List Nat
  failed : Option Nat
  deriving DecidableEq, Repr

/-- What a parked thread waits for: where its chain has completed (R302, R313) or is completed for it (R332, R436), and where it stands
at a source unit or a face (R28). -/
inductive Wait where
  | none
  /-- BAR: the register and the EPOCH recorded. -/
  | epoch (reg : Nat) (e : Bool)
  /-- PHASE.c and PHASE.h: the episode, by its id in flight. -/
  | commit (id : Nat)
  /-- PHASE.b: the register, its rectangle, and whether the arrival belongs to the episode after the open one. -/
  | phase (reg rect : Nat) (next : Bool)
  /-- An arrival of BAR (0), BARA (1) or PHASE.b (2) that the next release counts (R332): its register, its
  destination and its chain's length. -/
  | arrive (reg kind d len : Nat)
  /-- A FFENCE whose FENCE has been sent: the packet, and the chain's length (R436). -/
  | fence (id len : Nat)
  /-- A fabric request that its source unit has not taken: the chip that it goes to (R328, R407, R416). -/
  | unit (dst : Nat)
  /-- A thread that its source unit has not taken: the chip that it goes to (R419, R433). -/
  | leave (dst : Nat)
  /-- LDH or HWAIT: the grid slot, the faces that have not all reached the step, and the step (R28, R344, R345). -/
  | faces (slot : Nat) (fs : List Nat) (step : BitVec 32)
  /-- Registers that are to fill: the first, and how many (R19, R20). -/
  | regs (first count : Nat)
  /-- A stream that is to supply a value, or a queue that is to accept one (R97). -/
  | source (c : Nat)
  | sink (c : Nat)
  /-- Ports that are to be bound, or to have room (R160, R188). -/
  | ports (ps : List Nat)
  /-- A load queue that is to have an entry left, or a store queue that is to hold one; and which of the two (R199, R200). -/
  | queue (load second : Bool)
  /-- A FFENCE: the chip whose covered requests are to be answered (R413). -/
  | cover (dst : Nat)
  deriving DecidableEq, Repr

/-- Which thread an asynchronous operation belongs to. -/
structure Owner where
  core : Nat
  slot : Nat
  gen : Nat
  deriving DecidableEq, Repr

/-- A thread slot (R14-R30). -/
structure Thread where
  life : Life
  reason : Option Reason
  pc : BitVec 56
  base : Nat
  len : Nat
  gen : Nat
  vec : Word
  cause : Word
  value : Word
  epc : Word
  fmode : Word
  flags : Word
  role : Word
  prio : Word
  lastIssue : Nat
  gap : Nat
  cell : Option Nat
  /-- The completion cell that counts it when it stands on another chip: the chip and the cell's id (R310, R419). -/
  away : Option (Nat × Nat)
  cancel : Option Nat
  lost : Option Nat
  /-- The grid slot or the core, by its RID, on whose faces or tile a thread parked with reason HALO or ACC waits (R30). -/
  waits : Option Nat
  /-- The request of the present chain that is outstanding, by its id in flight (R100, R175). -/
  pend : Option Nat
  /-- What a replayed chain has gathered so far (R119). -/
  reply : Option Word
  wait : Wait
  /-- The words of the chain on which the thread is parked. -/
  chain : List Half
  ports : Tab PortRec
  pair : Option Nat
  /-- The thread runs the PREEMPT handler of its core (R292). -/
  preempt : Bool
  /-- FORKAE made it, so that its launch counts it even where that is a root job cell (R193, R310). -/
  paired : Bool
  covers : Tab Cover
  /-- Where its earlier STRs stand recorded: by chip, whose requests they are (R221, R419). -/
  former : List (Nat × Owner)
  home : Option Home
  deriving DecidableEq, Repr

/-- One register-file entry: bits, presence, poison, and (on even entries) the pair's capability tag (R18, R34, R409). -/
structure RegCell where
  val : Word
  full : Bool
  bad : Bool
  tag : Bool
  deriving DecidableEq, Repr

/-! ## The core -/

/-- A mailbox entry: header and three payload words, an overflow report, and the words its removal acquires (R148, R149). -/
structure MboxEntry where
  hdr : Word
  w1 : Word
  w2 : Word
  w3 : Word
  report : Option Word
  acquire : List Nat
  deriving DecidableEq, Repr

/-- An outbox line: the line address, its written bytes by offset, and which of its eight words hold an uncorrectable error
(R155, R169). -/
structure OutLine where
  line : Nat
  bytes : Tab Byte
  bad : List Nat
  deriving DecidableEq, Repr

/-- An entry of an access/execute queue; a load-queue entry not yet filled has no value (R199). -/
structure QEntry where
  val : Option Word
  bad : Bool
  key : Nat
  deriving DecidableEq, Repr

/-- An access/execute pair: its two slots, its queues, and who has arrived at RDV with what value (R163, R201). `left`: one
member has passed its RDV and left the pair, so that the other's RDV completes. -/
structure Pair where
  accSlot : Option Nat
  exeSlot : Option Nat
  lq0 : List QEntry
  lq1 : List QEntry
  sq0 : List Word
  sq1 : List Word
  bqToExe : List Word
  bqToAcc : List Word
  exeRdv : Option Word
  exePops : List Nat
  accRdv : Bool
  left : Bool
  deriving DecidableEq, Repr

/-- An instruction-cache line, tagged by its virtual line address (R165, R205). -/
structure CacheLine where
  va : Nat
  bytes : List Byte
  deriving DecidableEq, Repr

/-- How a translation fails: no mapping; a table page at an address that the holder does not hold; a page, by its base and size, that it
does not hold, with the physical address meant; or a permission that the page does not give (R357, R358). -/
inductive XlateFail where
  | notMapped
  | table (at_ : Nat)
  | page (pa base size : Nat)
  | permission
  deriving DecidableEq, Repr

/-- A cached translation: the page's virtual base, size, physical base and permissions (R357, R359). The result of a
walk that failed stands here until the chain that waits for it takes it. -/
structure TlbEntry where
  va : Nat
  size : Nat
  pa : Nat
  r : Bool
  w : Bool
  x : Bool
  fail : Option XlateFail
  deriving DecidableEq, Repr

/-- A barrier register and its core's part in the barrier network (R301-R304). `rect` is bits [15:0] of the register;
`closed`: the core has arrived in the open episode; `phases`: the rectangles whose open episode has a PHASE.b arrival here; `phaseNext`:
the next episode has one;
signals and releases stand by the rectangle that they belong to, so that one that has been sent stays sent when the register is set
anew (R304, R331); `due`: the rectangles whose release of a closed episode has left the corner and has not reached this core. -/
structure Bar where
  arrived : Nat
  epoch : Bool
  count : Nat
  rect : Nat
  closed : Bool
  phases : List Nat
  phaseNext : Bool
  rowIn : List Nat
  colIn : List Nat
  rowSent : List Nat
  colSent : List Nat
  released : List Nat
  due : List Nat
  deriving DecidableEq, Repr

/-- An accumulator tile (R249, R250). `wbad` and `vbad` name the elements of each bank that hold a parity error which Cassia has
not read yet (R253). -/
structure Tile where
  working : Tab (BitVec 32)
  visible : Tab (BitVec 32)
  wbad : List Nat
  vbad : List Nat
  sat : Bool
  compat : Bool
  wpoison : Bool
  vpoison : Bool
  deriving DecidableEq, Repr

/-! ## Engine operations -/

/-- A latched operand: where its first element lies, its format, its extents and strides (R243, R268). `va` is the
virtual base of the record, `off` its offset in the bank or unit. -/
structure Operand where
  recNo : Nat
  va : Word
  off : Nat
  fmt : Nat
  scaleOff : Nat
  e0 : Nat
  e1 : Nat
  e2 : Nat
  e3 : Nat
  s0 : Int
  s1 : Int
  s2 : Int
  s3 : Int
  /-- Physical base of each 4 KiB page of the bank or unit that the span touches, by page number (R244, R245). -/
  pages : Tab Nat
  deriving DecidableEq, Repr

/-- Element-wise vector functions (R280, R282, R283). -/
inductive VFn where
  | add | sub | mul | fma | fms | min | max | exp | rcp | rsq | eq | lt | le | sel | scale | fill | cvt
  deriving DecidableEq, Repr

/-- Reductions (R281). -/
inductive RedFn where
  | sum | max | min
  deriving DecidableEq, Repr

/-- Modes of MMA (R271). -/
inductive MmaMode where
  | ovr | acc | decay | sat
  deriving DecidableEq, Repr

/-- What a Cassia operation computes, with everything it latched (R268). -/
inductive CassiaFn where
  | mma (mode : MmaMode) (tile : Nat) (a b : Operand) (ctl : Word)
  | accz (tile : Nat)
  | accswap (tile : Nat)
  | accrd (tile : Nat) (d : Operand) (win : Word)
  | accwr (tile : Nat) (d : Operand) (win : Word)
  | drain (float : Bool) (d : Operand) (corr : Option Operand) (col : Operand) (zp win : Word) (rm : Nat) (ovf : Nat)
  | vec (f : VFn) (double : Bool) (ops : List Operand) (scalar : Word) (rm : Nat) (ovf : Nat)
  | red (f : RedFn) (double : Bool) (d s : Operand) (rm : Nat) (ovf : Nat)
  deriving DecidableEq, Repr

/-- One masked line of 64 bytes to be written (R218): address, bytes by offset, and the words written poisoned. -/
structure LineWrite where
  line : Nat
  bytes : Tab Byte
  bad : List Nat
  deriving DecidableEq, Repr

/-- Stages of an engine operation. -/
inductive Stage where
  | queued | reading | writing | done
  deriving DecidableEq, Repr

/-- What a fetch group still needs of one operand: its rows, in the order in which they are read, and whether one has been read
for the group (R246, R247). -/
structure Need where
  rows : List Nat
  read : Bool
  deriving DecidableEq, Repr

/-- A Cassia operation, queued or started (R240, R218). `group` is the fetch group in progress and `need` what it still needs;
`got` names the source rows delivered so far, and `toRead` those of their lines that are still to be read from M; `cap` holds the words of the
lines read. `orphan`: its thread has stopped, so that its flags and reports
are discarded (R268). `left`: its thread has migrated since, and still awaits and acquires it where it is back on the chip (R218, R419). -/
structure CassiaOp where
  owner : Owner
  fn : CassiaFn
  afterCopy : Option Nat
  stage : Stage
  satMode : Bool
  group : Nat
  need : List Need
  got : List Nat
  toRead : List Nat
  orphan : Bool
  left : Bool
  cap : Memory
  toWrite : List Nat
  wrote : List Nat
  flags : Nat
  /-- The reports of R52 and R253, each with its element's place in traversal order. -/
  overflow : Option (Nat × Word)
  soft : Option (Nat × Word)
  /-- Which free values stand in the poisoned elements that it writes. -/
  seed : Nat
  deriving DecidableEq, Repr

/-- A core (06). -/
structure Core where
  threads : Tab Thread
  regs : Tab RegCell
  cycle : Nat
  ptr : Nat
  elig : Word
  accept : Tab Nat
  handlers : Tab Word
  mbox : List MboxEntry
  mboxPos : Nat
  waitm : List Nat
  drops : Nat
  /-- The service latch holds the message with this id in flight (R140). -/
  latch : Option Nat
  bankFmt : Tab Word
  exported : List Nat
  pending : List Nat
  outbox : List OutLine
  logBase : Nat
  logSize : Nat
  logNext : Option (Nat × Nat)
  spilled : List OutLine
  /-- How many entries of the log a commit has drained while others still stand in it (R156, R217). -/
  drained : Nat
  pairs : Tab Pair
  icache : List CacheLine
  recs : Tab (BitVec 256)
  conflicts : Word
  saveArea : Word
  bars : Tab Bar
  dispatch : List CassiaOp
  /-- Cassia operations that have completed, which every ESYNC of their thread acquires (R218, R289). -/
  finished : List CassiaOp
  view : Memory
  unstable : Tab (List MemWord)
  tlb : List TlbEntry
  /-- The walk cache: tables found by earlier walks, by level and address prefix (R359). -/
  walked : Tab Nat
  tile : Tile
  /-- Packed, in the pre-emption in progress (R260). -/
  packed : Bool
  /-- The slot kept for the thread that a MINT whose transfer is under way will start (R387). -/
  minted : Option Nat
  deriving DecidableEq, Repr

/-! ## Cluster, die -/

/-- Cluster power states (R378). -/
inductive Power where
  | active | gated | retain | off
  deriving DecidableEq, Repr

/-- A cluster: Cassia's scan position (R241), its row buffer, most recently used first (R248), the operations that have fetched in
the fetch cycle in progress and the banks that have delivered a row in it (R246), the second-level TLB, each entry with its holder
(R359), the power state and an exit in progress (R378). -/
structure Cluster where
  scan : Nat
  rows : List Nat
  fetched : List Nat
  banks : List Nat
  tlb : List (Nat × TlbEntry)
  power : Power
  exiting : Bool
  deriving DecidableEq, Repr

/-- A completion cell (R309). -/
structure Cell where
  gen : Nat
  live : Nat
  parent : Nat
  level : Nat
  cancel : Bool
  notify : Word
  holder : Nat
  used : Bool
  /-- The cell counts for a root job: its hold is never released (R311). -/
  root : Bool
  /-- The CANCEL that reached the cell named this cell (R312). -/
  cancelBy : Nat
  deriving DecidableEq, Repr

/-- A tile bound in a grid slot (R319). -/
structure Bound where
  core : Nat
  index : Nat
  base : Nat
  s0 : BitVec 32
  published : BitVec 32
  faces : Tab (BitVec 32)
  /-- Notices from cross-chip neighbours: by face, the step the neighbour has published (R325). -/
  notices : Tab (BitVec 32)
  deriving DecidableEq, Repr

/-- A grid slot (R315-R325). -/
structure Grid where
  desc : Option (List Word)
  bound : List Bound
  /-- Placement entries kept: by tile index, chip, core, the capability's words and tag (R318). -/
  places : Tab (Nat × Nat × Word × Word × Bool)
  estat : Nat
  eface : Nat
  etile : Nat
  err : Bool
  deriving DecidableEq, Repr

/-- A die (14). -/
structure Die where
  joins : Tab Word
  cells : Tab Cell
  grids : Tab Grid
  budget : Tab Word
  deriving DecidableEq, Repr

/-! ## Items in flight -/

/-- A register to be filled on arrival (R18, R22): number, bits, poison, and whether the pair's tag is set. -/
structure Fill where
  reg : Nat
  val : Word
  bad : Bool
  tag : Bool
  deriving DecidableEq, Repr

/-- Where a long-latency result goes: registers of a thread, or a reserved load-queue entry (R199). -/
inductive Target where
  | regs (fs : List Fill)
  | lq (pair : Nat) (second : Bool) (key : Nat) (val : Word) (bad : Bool)
  deriving DecidableEq, Repr

/-- A message in the package network or waiting at its target (R144-R147). -/
structure Msg where
  /-- The core that it comes from; of a COMPLETION message its streamer, or 9000 more than the die of its completion cell (R300). -/
  src : Nat
  srcChip : Nat
  dst : Nat
  hdr : Word
  pay : List Word
  tagged : Bool
  /-- SEND.t: the handle that must be live. -/
  toThread : Option Nat
  /-- It holds an injection entry of its source core (R444). -/
  inject : Bool
  bounce : Bool
  /-- It has arrived, and waits at its target (R146, R184). -/
  waiting : Bool
  /-- The accept list has refused it, and its bounce waits to be injected (R147). -/
  refused : Bool
  report : Option Word
  acquire : List Nat
  /-- A host LAUNCH: the packet's id in flight and the parent cell (R373). -/
  launch : Option (Nat × Nat)
  /-- The PREEMPT request of this cluster (R260). -/
  preempt : Option Nat
  deriving DecidableEq, Repr

/-- Stages of a DEPR deposit (R162). -/
inductive DepoStage where
  | travelling | buffered | written | refused
  deriving DecidableEq, Repr

structure Deposit where
  owner : Owner
  dst : Nat
  slot : Nat
  gen : Nat
  reg : Nat
  val : Word
  stage : DepoStage
  /-- The sender's D, its chain's length, and the stream that its S pops when the chain completes. -/
  d : Nat
  len : Nat
  pops : List Nat
  deriving DecidableEq, Repr

/-- A bind request on its way to a partner core, or waiting there (R185). `holder` is the binder's (R142). -/
structure BindReq where
  owner : Owner
  holder : Nat
  port : Nat
  fromChip : Nat
  dst : Nat
  slot : Nat
  arrived : Bool
  deriving DecidableEq, Repr

/-- A value on its way to a port (R160). -/
structure PortValue where
  src : Owner
  dst : Nat
  slot : Nat
  gen : Nat
  port : Nat
  val : Word
  deriving DecidableEq, Repr

/-- News of a binding for the partner's chip (R161, R186, R424): the end named by owner and port has let go of its binding with
a slot of a core there, or withdrawn its request; where `refused` is set, the news goes to that end, whose request was
refused by the accept list of the core that it named. -/
structure PortNews where
  owner : Owner
  port : Nat
  dst : Nat
  slot : Nat
  refused : Bool
  deriving DecidableEq, Repr

/-- What a package still owes to another chip after a step (R310, R424): a launch cell to be told of the end of a thread that
had migrated, or news of a binding. -/
inductive Owed where
  | cell (chip id : Nat) (paired : Bool)
  | news (chip : Nat) (n : PortNews) (holder : Nat)
  deriving DecidableEq, Repr

structure SpawnReq where
  owner : Owner
  dst : Nat
  reg : Nat
  entry : BitVec 56
  cfg : Word
  parent : Nat
  deriving DecidableEq, Repr

structure TstatReq where
  owner : Owner
  reg : Nat
  dst : Nat
  slot : Nat
  deriving DecidableEq, Repr

/-- The full/empty operations (R173). -/
inductive FeOp where
  | ldf | ldfe | stef | stf | sete | feqry
  deriving DecidableEq, Repr

structure HomeFe where
  owner : Owner
  op : FeOp
  addr : Nat
  reg : Nat
  val : Word
  len : Nat
  enlisted : Bool
  deriving DecidableEq, Repr

/-- The atomic operations (R178, R179). -/
inductive AmoOp where
  | add | and | or | xor | min | max | minu | maxu | swap | cas
  deriving DecidableEq, Repr

structure HomeAtomic where
  owner : Owner
  op : AmoOp
  double : Bool
  addr : Nat
  reg : Nat
  operand : Word
  swap : Word
  deriving DecidableEq, Repr

/-- A copy (R255-R257): its completion, what it has written, and what it carries. -/
structure Copy where
  owner : Owner
  holder : Nat
  spec : Word
  tag : Word
  bytes : Bool
  dst : Operand
  src : Operand
  rm : Nat
  ovf : Nat
  pieces : Nat
  untaken : Nat
  written : Nat
  /-- The first uncorrectable source word, with its element's place in traversal order. -/
  firstBad : Option (Nat × Nat)
  status : Nat
  wrote : List Nat
  flags : Nat
  /-- The first overflowing element's place and source value. -/
  report : Option (Nat × Word)
  /-- The host COPY packet (R373) that it serves. -/
  packet : Option Nat
  deriving DecidableEq, Repr

/-- One piece of a copy at its streamer (R254, R255). `save` names a core and one of its banks, or 8 for its tile, and
the physical address to which a pre-emption's save copy takes it; `copy` is then the pre-emption. -/
structure Piece where
  copy : Nat
  streamer : Nat
  save : Option (Nat × Nat × Nat)
  stage : Stage
  toRead : List Nat
  cap : Memory
  toWrite : List Nat
  /-- The source or the destination of the queued piece has changed holder (R365, step 4). -/
  refused : Bool
  deriving DecidableEq, Repr

/-- A commit over a scope (R216, R217): the cores whose entries are still to be applied, in order. -/
structure Commit where
  scope : List Nat
  started : Bool
  todo : List Nat
  /-- Barrier register and rectangle of a PHASE.b episode, to be released when the commit ends (R313). -/
  reg : Option (Nat × Nat)
  /-- The transfer whose core commits alone (R365). -/
  transfer : Option Nat
  deriving DecidableEq, Repr

/-- A PHASE.h episode: its holder, scope and the cores that have arrived (R313). -/
structure PhaseH where
  holder : Nat
  scope : List Nat
  arrived : List Nat
  deriving DecidableEq, Repr

/-- Operations of cells performed at the cell's die (R308, R335). -/
inductive CellAct where
  | join | rd | add | cancel
  deriving DecidableEq, Repr

structure CellReq where
  owner : Owner
  act : CellAct
  ref : Word
  reg : Nat
  amount : Word
  len : Nat
  deriving DecidableEq, Repr

/-- Stages of an Anise delivery (R320, R321, R325). -/
inductive SlabStage where
  | placing | reading | writing | remote | setting
  deriving DecidableEq, Repr

/-- A slab to be delivered across a face of the sending tile, a self-fill, or a publication notice (R320-R322, R325). `index`
is the sending tile's; the neighbour's core, chip and capability stand once its entry is known; `begun`: a line has been
written; `acks`: packets not yet answered; `asks`: its next packet for another chip has been offered and not been taken (R328). -/
structure Slab where
  die : Nat
  slot : Nat
  core : Nat
  index : Nat
  face : Nat
  step : BitVec 32
  self : Bool
  notice : Bool
  stage : SlabStage
  toRead : List Nat
  cap : Memory
  toWrite : List Nat
  begun : Bool
  dstChip : Nat
  dstCore : Nat
  capWords : Word × Word
  capTag : Bool
  wrote : List Nat
  acks : List Nat
  asks : Bool
  deriving DecidableEq, Repr

/-- A pre-emption of cores of one cluster (R260): the cores whose threads are still to be stopped, whether the save copy
has begun, the bytes saved by core, and the transfers that wait for it, by id. -/
structure Preempt where
  cluster : Nat
  cores : List Nat
  former : Nat
  budget : Nat
  why : Nat
  started : Bool
  starting : List Nat
  saving : Bool
  saved : Tab Nat
  transfers : List Nat
  deriving DecidableEq, Repr

/-- The trades (R386). -/
inductive TradeKind where
  | mint | give | giveS | accept | lend | lendS | reclaim | reclaimB | returnLoan | claim | deny | heir | ownq
  deriving DecidableEq, Repr

structure TradeReq where
  owner : Owner
  holder : Nat
  kind : TradeKind
  d : Word
  s : Word
  t : Word
  reg : Nat
  len : Nat
  deriving DecidableEq, Repr

/-- What a transfer writes into its entry at its last step (R364, R365): the heir is the lender of a lent entry, and else
the new holder's default heir. -/
structure Transfer where
  rid : Nat
  former : Nat
  holder : Nat
  lender : Nat
  why : Nat
  budget : Nat
  emptied : Bool
  committed : Bool
  /-- A thread to start at the end (MINT, R387): its slot, entry, window, argument and creator. -/
  start : Option (Nat × BitVec 56 × Nat × Word × Word)
  /-- The entry passes on to the new holder's heir or minter at once (R377). -/
  onward : Nat
  deriving DecidableEq, Repr

/-- An open claim (R366), with the CLAIM chain that it completes when it is settled: its thread and its length (R386). -/
structure Claim where
  rid : Nat
  claimant : Nat
  grace : Nat
  owner : Owner
  len : Nat
  deriving DecidableEq, Repr

/-- A host packet taken from a ring (R373), at its nesting depth, with the packets that an INDIRECT still has to run. -/
structure HostPacket where
  ring : Nat
  holder : Nat
  bytes : List Byte
  depth : Nat
  parent : Option Nat
  taken : Bool
  next : Nat
  cell : Option Nat
  hold : Bool
  outcome : Option Bool
  deriving DecidableEq, Repr

/-- Every kind of item in flight in a package. -/
inductive Job where
  | result (owner : Owner) (t : Target)
  /-- A walk for a page, and the cores of one holder that wait for it. -/
  | walk (cores : List Nat) (va : Nat)
  | fill (core : Nat) (va pa : Nat)
  | msg (m : Msg)
  | depo (d : Deposit)
  | bind (b : BindReq)
  | portv (p : PortValue)
  | spawn (r : SpawnReq)
  | tstat (r : TstatReq)
  | fe (h : HomeFe)
  | amo (a : HomeAtomic)
  | cassia (o : CassiaOp)
  | copy (c : Copy)
  | piece (p : Piece)
  | commit (c : Commit)
  | phaseH (p : PhaseH)
  | cellOp (c : CellReq)
  | slab (s : Slab)
  | preempt (p : Preempt)
  | trade (t : TradeReq)
  | transfer (t : Transfer)
  | claim (c : Claim)
  | packet (p : HostPacket)
  deriving DecidableEq, Repr

/-! ## The package -/

/-- An ownership-map entry (R361). -/
structure MapEntry where
  holder : Nat
  heir : Nat
  pend : Nat
  lender : Nat
  gen : Nat
  busy : Bool
  pkind : Nat
  log2 : Nat
  base : Nat
  deriving DecidableEq, Repr

/-- A holder record (R367), with the LATT setting (R399) and the holder's bound root slot (R397). -/
structure HolderRec where
  minter : Nat
  heir : Nat
  notice : Option Nat
  latt : Option (Nat × Bool)
  rootSlot : Option Nat
  rootCell : Nat
  deriving DecidableEq, Repr

/-- A version of a ring control block in force (R370, R371). -/
structure RingBlock where
  base : Nat
  log2n : Nat
  merge : Nat
  holder : Nat
  wridx : Nat
  deriving DecidableEq, Repr

/-- A host ring (R369-R374); `fn` is the function that last wrote its CBPTR. -/
structure Ring where
  fn : Nat
  cbptr : Nat
  block : Option RingBlock
  rdidx : Nat
  abort : Bool
  halted : Bool
  sampling : Bool
  deriving DecidableEq, Repr

/-- Phases of a package's life (R379, R382, R383). -/
inductive Phase where
  | unpowered | waiting | booting | running | frozen | dumped
  deriving DecidableEq, Repr

/-- A request held by a source fabric unit until it is answered (R416). -/
structure Outstanding where
  seq : Nat
  packet : Nat
  tries : Nat
  deriving DecidableEq, Repr

/-- The traffic of one source unit toward one chip (R412, R416): the next SEQ, whether the next request opens the stream, and
the request that opened it. -/
structure SrcStream where
  next : Nat
  fresh : Bool
  stream : Nat
  out : List Outstanding
  deriving DecidableEq, Repr

/-- A stream as its target keeps it (R416): the request that opened it, and the lowest SEQ not performed. -/
structure TgtStream where
  stream : Nat
  low : Nat
  /-- The requests of the stream that failed the checks of R411, by SEQ. -/
  refused : List Nat
  deriving DecidableEq, Repr

/-- A reply kept for duplicates of an AMO (R417). -/
structure CachedReply where
  chip : Nat
  unit : Nat
  seq : Nat
  val : Word
  bad : Bool
  status : Nat
  deriving DecidableEq, Repr

structure Package where
  phase : Phase
  /-- STATUS.BOOTED (R369, R382). -/
  booted : Bool
  bootAdr : Word
  bootLen : Word
  fatal : Option (Nat × Byte)
  tier0 : Nat
  tier1 : Nat
  mem : Memory
  dflt : Core
  cores : Tab Core
  clusters : Tab Cluster
  dies : Tab Die
  map : Tab MapEntry
  holders : Tab HolderRec
  roots : Tab Word
  pools : Tab (Word × Word × Word)
  groups : Tab (List Word)
  rings : Tab Ring
  /-- The merge unit (R372): by group, one more than the ring taken last; at 16, one more than the group served last. -/
  mergeTurn : Tab Nat
  linkUp : Bool
  ltr : Option Nat
  errors : Tab Word
  /-- Budgets in the blocks that enforce them, by block and holder: the entry in force in the present period, and what has been
  used in it (R328, R348). -/
  inForce : Tab Word
  usage : Tab Nat
  /-- The holder that each block served last, below its guarantee and above it (R328). -/
  turns : Tab Nat
  flights : Tab Job
  nextId : Nat
  src : Tab SrcStream
  tgt : Tab TgtStream
  cache : List CachedReply
  linksDown : List Nat
  /-- Consecutive replays that have failed, by port (R415). -/
  replays : Tab Nat
  /-- The router input that each class has served last: ports 0 to 7, or 8 for injection (R407). -/
  served : Tab Nat
  owed : List Owed
  /-- Cover sets of completed fences, by flag word (R221). -/
  covers : Tab (List Nat)
  deriving DecidableEq, Repr

/-- What a slot leaves in the dump (R383): its life state, control registers, window and port queues. -/
structure SlotDump where
  core : Nat
  slot : Nat
  life : Life
  control : List Word
  window : List RegCell
  ports : Tab PortRec
  deriving DecidableEq, Repr

/-- What a die's dump sequencer writes (R383): the cause, the die and the error counters; every slot; the map entries; the mailboxes
and the dispatch queues of its cores. -/
structure DieDump where
  cause : Byte
  die : Nat
  counters : List Word
  slots : List SlotDump
  entries : Tab MapEntry
  mailboxes : Tab (List MboxEntry)
  dispatch : Tab (List CassiaOp)
  deriving DecidableEq, Repr

/-! ## The system -/

/-- What a fabric packet carries (R406). -/
inductive Load where
  | store (bytes : List Byte) (setTag : Bool)
  | amo (op : AmoOp) (double : Bool) (operand swap : Word)
  | posted (op : AmoOp) (operand : Word)
  | fence (val : Word) (words : List Nat)
  | mcast (m : Msg)
  | portValue (p : PortValue)
  | portBind (b : BindReq)
  | portNews (n : PortNews)
  | notice (die slot core face : Nat) (step : BitVec 32)
  | migrate (t : Thread) (regs : List RegCell) (handle : Nat) (homing : Bool) (origin : Nat × Nat)
  | reply (val : Word) (bad : Bool) (status : Nat)
  | ack (status : Nat)
  deriving DecidableEq, Repr

/-- A packet of the fabric (R406): its ends, its stream (by the request that opened it), the capability it used, the thread that
issued it with the registers that await the reply, and the router that holds it. A request stands first as the copy that its
source unit holds until it is answered (R416), `original` none and `here` its source; the copies that travel, and the answers,
name it in `original`. -/
structure Packet where
  dst : Nat
  src : Nat
  unit : Nat
  seq : Nat
  opens : Bool
  stream : Nat
  holder : Nat
  addr : Word
  cap1 : Word
  owner : Owner
  reg : Nat
  reg2 : Nat
  slab : Option Nat
  load : Load
  /-- Requests of the same thread, sent before it migrated, that are performed before this one (R221), by the ids of their held copies. -/
  before : List Nat
  original : Option Nat
  /-- The held copy has been sent, or is to be sent again. -/
  launched : Bool
  /-- The chip whose router holds it, and the port of the ring by which it came; none before injection. -/
  here : Nat
  via : Option Nat
  deriving DecidableEq, Repr

/-- The issue context: which chain of which thread is being executed. -/
structure Cur where
  chip : Nat
  core : Nat
  slot : Nat
  words : List Half
  deriving DecidableEq, Repr

/-- A soft error that arises by itself (R34, R169, R253, R380, R381): one corrected in place on a die, or an uncorrectable one in a
word of memory, in a register-file entry, in a word of the i-th resident outbox line or spilled entry, or in an element of an accumulator bank;
or a retry of a mesh or die-to-die link of a die, which is counted (R380, R381). -/
inductive Upset where
  | corrected (die : Nat)
  | retry (die : Nat)
  | word (a : Nat)
  | reg (core entry : Nat)
  | outbox (core i word : Nat)
  | spilled (core i word : Nat)
  | bank (core : Nat) (visible : Bool) (element : Nat)
  deriving DecidableEq, Repr

/-- What the machine may take next (R210): a cycle of a core, a wake, a step of the tables that is no chain, a soft error. -/
inductive Move where
  | cycle (chip core : Nat)
  | wake (chip core slot : Nat)
  | event (i : Instr)
  | upset (chip : Nat) (u : Upset)
  deriving DecidableEq, Repr, Inhabited

/-- The system (R404). `plan` holds moves that come next, in order; when it is empty the next move is a free value.
`tick` is the argument of the free values. -/
structure State where
  chips : Tab Package
  extents : List Nat
  packets : Tab Packet
  nextPacket : Nat
  cur : Cur
  plan : List Move
  tick : Nat
  deriving DecidableEq, Repr

/-! ## How a step can stop -/

/-- Faults. No step of the machine raises one: both stop a meaning that is called where its step is not enabled. -/
inductive Fault where
  /-- A chain's meaning is called for a thread that is not READY in a running package. Raised by the chain gate; safe. -/
  | notIssuing
  /-- A machine step's meaning is called where the item it names is not there or may not be taken. Raised by the
  meanings of the step rows; safe. -/
  | notEnabled
  deriving DecidableEq, Repr

/-- Refusals. -/
inductive Refusal where
  /-- The instruction has no meaning in this model. Raised by the dispatch alone; safe. -/
  | notModelled (mnemonic : String)
  deriving DecidableEq, Repr

/-! ## Reset -/

/-- Memory with nothing listed. -/
def Memory.empty : Memory := ⟨[], [], [], []⟩

/-- A slot other than 63 with no thread (R23 resets; R27). -/
def Thread.fresh : Thread :=
  { life := .free, reason := none, pc := 0, base := 0, len := 0, gen := 0, vec := 0, cause := 0, value := 0, epc := 0,
    fmode := 1, flags := 0, role := 0, prio := 0, lastIssue := 0, gap := 0, cell := none, away := none, cancel := none, lost := none, waits := none,
    pend := none, reply := none, wait := .none, chain := [], ports := [], pair := none, preempt := false, paired := false,
    covers := [], former := [], home := none }

/-- A slot with no thread, by its number: SVC stands at 1 in slot 63 (R23). -/
def Thread.freshIn (slot : Nat) : Thread := { Thread.fresh with prio := if slot = 63 then 1 else 0 }

/-- Both banks zero, both modes and poison bits clear (R250). -/
def Tile.fresh : Tile := ⟨[], [], [], [], false, false, false, false⟩

/-- A core after reset (R138, R141-R143, R153, R154, R166, R167, R247, R259, R301). -/
def Core.fresh : Core :=
  { threads := [], regs := [], cycle := 0, ptr := 0, elig := 0, accept := [], handlers := [], mbox := [], mboxPos := 0,
    waitm := [], drops := 0, latch := none, bankFmt := [], exported := [], pending := [], outbox := [], logBase := 0,
    logSize := 0, logNext := none, spilled := [], drained := 0, pairs := [], icache := [], recs := [], conflicts := 0, saveArea := 0,
    bars := [], dispatch := [], finished := [], view := Memory.empty, unstable := [], tlb := [], walked := [], tile := Tile.fresh,
    packed := false, minted := none }

/-- The region entries of HBM that the boot map makes (R382): nine regions of 256 GiB down to 1 GiB. -/
def bootRegions : Tab MapEntry :=
  let r (log2 base : Nat) : MapEntry := ⟨1, 0, 0, 0, 0, false, 0, log2, base⟩
  [ (0x10000000, r 38 0x010000000000), (0x10000001, r 37 0x014000000000), (0x10000002, r 36 0x016000000000),
    (0x10000003, r 35 0x017000000000), (0x10000004, r 34 0x017800000000), (0x10000005, r 33 0x017C00000000),
    (0x10000006, r 32 0x017E00000000), (0x10000007, r 31 0x017F00000000), (0x10000008, r 30 0x017F80000000) ]

/-- A package whose boot sequencers have built the map and wait for BOOTGO (R382, steps 1 to 3). -/
def Package.fresh : Package :=
  { phase := .waiting, booted := false, bootAdr := 0, bootLen := 0, fatal := none, tier0 := 0, tier1 := 0, mem := Memory.empty,
    dflt := Core.fresh, cores := [], clusters := [], dies := [], map := bootRegions,
    holders := [(1, ⟨0, 0, none, none, none, 0⟩)], roots := [], pools := [], groups := [], rings := [], mergeTurn := [], linkUp := true,
    ltr := none, errors := [], inForce := [], usage := [], turns := [], flights := [], nextId := 1, src := [], tgt := [], cache := [],
    linksDown := [], replays := [], served := [], owed := [], covers := [] }

/-- The machine right after power-up: one package, waiting for BOOTGO. -/
def State.reset : State :=
  { chips := [(0, Package.fresh)], extents := [1, 1, 1, 1], packets := [], nextPacket := 0, cur := ⟨0, 0, 0, [0]⟩,
    plan := [], tick := 0 }

end Sys2Proof.Machine
end

