-- ==== Sys2Proof/Config.lean ====
section
/-! DEFINITION. The values the spec leaves open, as constants without a body: nothing can evaluate them, so a theorem
holds whatever they are. `tick` is the counter of the state, `use` tells the free values of one step apart. -/

namespace Sys2Proof.Config

/-- The step that the machine takes when its plan is empty (R210). -/
opaque freeMove (tick : Nat) : Machine.Move

/-- A free choice among numbered alternatives, taken modulo their count (R213, R224, R359). -/
opaque freeNat (tick use : Nat) : Nat

/-- A value that the spec does not state. -/
opaque freeWord (tick use : Nat) : Word

/-- The identity block of a package's control window (R355), by word offset: the spec names what it holds, no layout. -/
opaque identity (chip offset : Nat) : Word

/-- The layout of a die's quarter of the dump region: the byte at an offset, or none where nothing is written. The spec names what
the dump holds (R383), no layout. -/
opaque dumpLayout (d : Machine.DieDump) (offset : Nat) : Option Byte

end Sys2Proof.Config
end

