-- ==== Sys2Proof/Machine/Table.lean ====
section
/-! DEFINITION. Operations on sparse tables and on sorted lists of numbers. -/

namespace Sys2Proof.Machine

/-- The entry of a key, if it is listed. -/
def tget? {α : Type} : Tab α → Nat → Option α
  | [], _ => none
  | (k, v) :: t, n => if n = k then some v else tget? t n

/-- The entry of a key, or the default of an unlisted one. -/
def tget {α : Type} (t : Tab α) (n : Nat) (d : α) : α := (tget? t n).getD d

/-- The table with one entry written; keys stay rising. -/
def tset {α : Type} : Tab α → Nat → α → Tab α
  | [], n, v => [(n, v)]
  | (k, w) :: t, n, v => if n < k then (n, v) :: (k, w) :: t else if n = k then (n, v) :: t else (k, w) :: tset t n v

/-- The table with one entry removed. -/
def tdel {α : Type} : Tab α → Nat → Tab α
  | [], _ => []
  | (k, v) :: t, n => if n = k then t else (k, v) :: tdel t n

/-- Keys strictly rising, all above a bound. -/
def risingFrom {α : Type} : Nat → Tab α → Bool
  | _, [] => true
  | b, (k, _) :: t => decide (b ≤ k) && risingFrom (k + 1) t

/-- A number added to a rising list. -/
def sadd : List Nat → Nat → List Nat
  | [], n => [n]
  | k :: t, n => if n < k then n :: k :: t else if n = k then k :: t else k :: sadd t n

/-- A number removed from a rising list. -/
def sdel : List Nat → Nat → List Nat
  | [], _ => []
  | k :: t, n => if n = k then t else k :: sdel t n

/-- A strictly rising list, all at or above a bound. -/
def srisingFrom : Nat → List Nat → Bool
  | _, [] => true
  | b, k :: t => decide (b ≤ k) && srisingFrom (k + 1) t

/-- The entry at a position, counted modulo the length; the default when there is none. -/
def pickFrom {α : Type} (l : List α) (n : Nat) (d : α) : α := (l[n % l.length]?).getD d

/-- Numbers from `lo`, `n` of them, in steps of `step`. -/
def span (lo step : Nat) : Nat → List Nat
  | 0 => []
  | n + 1 => lo :: span (lo + step) step n

/-- The least number in a range that satisfies a test. -/
def firstIn (lo n : Nat) (ok : Nat → Bool) : Option Nat := (span lo 1 n).find? ok

/-- The first entry of a list that gives an answer. -/
def firstSome {α β : Type} (l : List α) (f : α → Option β) : Option β :=
  match l with
  | [] => none
  | a :: t => match f a with
    | some b => some b
    | none => firstSome t f

end Sys2Proof.Machine
end

