-- ==== Sys2Proof/Machine/Memory.lean ====
section
/-! DEFINITION. Memory by physical address: reads and writes of bytes, words, tags, full/empty bits and error marks.
An unlisted byte reads as 0 and an unlisted word is full, untagged and without error. -/

namespace Sys2Proof.Machine

/-- What an unlisted byte reads as. DESIGN CHOICE, log 5: the spec gives no contents after power-up. -/
def unlistedByte : Byte := 0

/-- The canonical form: every list strictly rising, and no listed byte equal to what an unlisted one reads as. -/
def Memory.wf (m : Memory) : Bool :=
  risingFrom 0 m.cells && m.cells.all (fun c => c.2 != unlistedByte) && srisingFrom 0 m.empties &&
  srisingFrom 0 m.tags && srisingFrom 0 m.bad

/-- One byte. -/
def Memory.byte (m : Memory) (a : Nat) : Byte := tget m.cells a unlistedByte

/-- One byte written in the canonical form. -/
def Memory.setByte (m : Memory) (a : Nat) (v : Byte) : Memory :=
  { m with cells := if v = unlistedByte then tdel m.cells a else tset m.cells a v }

/-- The value of consecutive bytes, little-endian (R5), by address. -/
def Memory.read (m : Memory) (a : Nat) : Nat → Nat
  | 0 => 0
  | n + 1 => (m.byte a).toNat + 256 * Memory.read m (a + 1) n

/-- The address of the 64-bit word that holds a byte. -/
def wordOf (a : Nat) : Nat := a / 8 * 8

/-- The address of the 16-byte granule that holds a byte (R152). -/
def granuleOf (a : Nat) : Nat := a / 16 * 16

/-- The address of the 64-byte line that holds a byte (R155, R218). -/
def lineOf (a : Nat) : Nat := a / 64 * 64

/-- The 64-bit word at an address. -/
def Memory.word (m : Memory) (a : Nat) : Word := BitVec.ofNat 64 (m.read a 8)

/-- The full/empty bit of a word: full unless listed. -/
def Memory.full (m : Memory) (w : Nat) : Bool := !m.empties.contains w

def Memory.setFull (m : Memory) (w : Nat) (b : Bool) : Memory :=
  { m with empties := if b then sdel m.empties w else sadd m.empties w }

/-- The tag of a granule (R409). -/
def Memory.tag (m : Memory) (g : Nat) : Bool := m.tags.contains g

def Memory.setTag (m : Memory) (g : Nat) (b : Bool) : Memory :=
  { m with tags := if b then sadd m.tags g else sdel m.tags g }

/-- The uncorrectable mark of a word (R169, R380). -/
def Memory.isBad (m : Memory) (w : Nat) : Bool := m.bad.contains w

def Memory.setBad (m : Memory) (w : Nat) (b : Bool) : Memory :=
  { m with bad := if b then sadd m.bad w else sdel m.bad w }

/-- The version of a word that this memory holds (R213). -/
def Memory.version (m : Memory) (w : Nat) : MemWord := ⟨m.word w, m.tag (granuleOf w), m.isBad w⟩

/-- The distinct words that some written bytes touch, in rising order. -/
def wordsOf (ws : List (Nat × Byte)) : List Nat := ws.foldl (fun l w => sadd l (wordOf w.1)) []

/-- Bytes written: each word touched loses its uncorrectable mark and its granule's tag (R120, R217, R255). -/
def Memory.write (m : Memory) (ws : List (Nat × Byte)) : Memory :=
  let m1 := ws.foldl (fun m w => m.setByte w.1 w.2) m
  (wordsOf ws).foldl (fun m w => (m.setBad w false).setTag (granuleOf w) false) m1

/-- The bytes of a value at an address, little-endian. -/
def bytesAt (a : Nat) (v : Nat) : Nat → List (Nat × Byte)
  | 0 => []
  | n + 1 => (a, BitVec.ofNat 8 v) :: bytesAt (a + 1) (v / 256) n

/-- Consecutive bytes of memory, by address. -/
def Memory.bytes (m : Memory) (a : Nat) : Nat → List (Nat × Byte)
  | 0 => []
  | n + 1 => (a, m.byte a) :: Memory.bytes m (a + 1) n

/-- One word set to a version; the granule takes the version's tag, also where its other word does not change (R215, log 49). -/
def Memory.setVersion (m : Memory) (w : Nat) (v : MemWord) : Memory :=
  let m1 := (bytesAt w v.val.toNat 8).foldl (fun m b => m.setByte b.1 b.2) m
  (m1.setTag (granuleOf w) v.tag).setBad w v.bad

/-- The words of a span copied from another memory, with their tags and marks. -/
def Memory.copyWords (m from_ : Memory) (ws : List Nat) : Memory :=
  ws.foldl (fun m w => m.setVersion w (from_.version w)) m

/-- The words that overlap a span of bytes. -/
def spanWords (a n : Nat) : List Nat := if n = 0 then [] else span (wordOf a) 8 ((wordOf (a + n - 1) - wordOf a) / 8 + 1)

/-- The lines that overlap a span of bytes. -/
def spanLines (a n : Nat) : List Nat := if n = 0 then [] else span (lineOf a) 64 ((lineOf (a + n - 1) - lineOf a) / 64 + 1)

end Sys2Proof.Machine
end

