-- ==== Sys2Proof/Machine/Ops.lean ====
section
/-! DEFINITION. Named operations over packages, cores, threads and registers; creating and retiring threads; taking an
exception and returning from one; the ends of a chain. -/

namespace Sys2Proof.Machine

/-! ## Numbers of cores, clusters and handles (R9, R10, R235) -/

def coreDie (c : Nat) : Nat := c / 256
def coreX (c : Nat) : Nat := c % 16
def coreY (c : Nat) : Nat := c / 16 % 16

/-- Package mesh coordinates (R9). -/
def meshX (c : Nat) : Nat := coreDie c % 2 * 16 + coreX c
def meshY (c : Nat) : Nat := coreDie c / 2 % 2 * 16 + coreY c

/-- The core at package mesh coordinates. -/
def coreAt (x y : Nat) : Nat := (y / 16 * 2 + x / 16) * 256 + y % 16 * 16 + x % 16

def clusterOf (c : Nat) : Nat := coreDie c * 64 + coreY c / 2 * 8 + coreX c / 2
def positionOf (c : Nat) : Nat := 2 * (coreY c % 2) + coreX c % 2

/-- The core in a position of a cluster. -/
def clusterCore (k pos : Nat) : Nat := k / 64 * 256 + (k % 64 / 8 * 2 + pos / 2) * 16 + (k % 8 * 2 + pos % 2)

/-- A thread handle (R10). -/
def handleOf (gen core slot : Nat) : Nat := gen * 65536 + core * 64 + slot
def handleCore (h : Nat) : Nat := h / 64 % 1024
def handleSlot (h : Nat) : Nat := h % 64
def handleGen (h : Nat) : Nat := h / 65536 % 256

/-- Bits hi to lo of a word as a number. -/
def bits (w : Word) (hi lo : Nat) : Nat := w.toNat / 2 ^ lo % 2 ^ (hi + 1 - lo)

def word (n : Nat) : Word := BitVec.ofNat 64 n

/-- The low bits of an operand, which name an item by its number. -/
def lowBits (v : Word) (n : Nat) : Nat := v.toNat % 2 ^ n

/-! ## Accessors -/

/-- A chip that the system does not have: a package without power. -/
def Package.absent : Package := { Package.fresh with phase := .unpowered }

def State.pkg (s : State) (chip : Nat) : Package := tget s.chips chip Package.absent

def State.setPkg (s : State) (chip : Nat) (p : Package) : State := { s with chips := tset s.chips chip p }

def State.onPkg (s : State) (chip : Nat) (f : Package → Package) : State := s.setPkg chip (f (s.pkg chip))

def Package.core (p : Package) (c : Nat) : Core := tget p.cores c p.dflt

def Package.setCore (p : Package) (c : Nat) (k : Core) : Package := { p with cores := tset p.cores c k }

def Package.onCore (p : Package) (c : Nat) (f : Core → Core) : Package := p.setCore c (f (p.core c))

/-- Every core of the package changed, listed or not. -/
def Package.onAllCores (p : Package) (f : Core → Core) : Package :=
  { p with dflt := f p.dflt, cores := p.cores.map (fun e => (e.1, f e.2)) }

def Core.thread (k : Core) (slot : Nat) : Thread := tget k.threads slot (Thread.freshIn slot)

def Core.setThread (k : Core) (slot : Nat) (t : Thread) : Core := { k with threads := tset k.threads slot t }

def Package.thread (p : Package) (c slot : Nat) : Thread := (p.core c).thread slot

def Package.setThread (p : Package) (c slot : Nat) (t : Thread) : Package := p.onCore c (fun k => k.setThread slot t)

def Package.onThread (p : Package) (c slot : Nat) (f : Thread → Thread) : Package :=
  p.setThread c slot (f (p.thread c slot))

def Cluster.fresh : Cluster := ⟨0, [], [], [], [], .active, false⟩
def Package.cluster (p : Package) (k : Nat) : Cluster := tget p.clusters k Cluster.fresh

/-- A core's cluster takes arrivals: it is ACTIVE (R378). -/
def Package.awake (p : Package) (c : Nat) : Bool := decide ((p.cluster (clusterOf c)).power = .active)

def Package.onCluster (p : Package) (k : Nat) (f : Cluster → Cluster) : Package :=
  { p with clusters := tset p.clusters k (f (p.cluster k)) }

def Die.fresh : Die := ⟨[], [], [], []⟩
def Package.die (p : Package) (d : Nat) : Die := tget p.dies d Die.fresh
def Package.onDie (p : Package) (d : Nat) (f : Die → Die) : Package := { p with dies := tset p.dies d (f (p.die d)) }

def Package.job (p : Package) (id : Nat) : Option Job := tget? p.flights id
def Package.setJob (p : Package) (id : Nat) (j : Job) : Package := { p with flights := tset p.flights id j }
def Package.dropJob (p : Package) (id : Nat) : Package := { p with flights := tdel p.flights id }

/-- A new item in flight; its id is the old `nextId`. -/
def Package.addJob (p : Package) (j : Job) : Package :=
  { p with flights := tset p.flights p.nextId j, nextId := p.nextId + 1 }

/-- Items in flight that satisfy a test, oldest first. -/
def Package.jobs (p : Package) (f : Job → Bool) : List (Nat × Job) := p.flights.filter (fun e => f e.2)

/-- The package of the chain being executed, its core, its slot and its thread. -/
def State.here (s : State) : Package := s.pkg s.cur.chip
def State.hereCore (s : State) : Core := s.here.core s.cur.core
def State.me (s : State) : Thread := s.hereCore.thread s.cur.slot
def State.onHere (s : State) (f : Package → Package) : State := s.onPkg s.cur.chip f
def State.onHereCore (s : State) (f : Core → Core) : State := s.onHere (fun p => p.onCore s.cur.core f)
def State.onMe (s : State) (f : Thread → Thread) : State := s.onHere (fun p => p.onThread s.cur.core s.cur.slot f)

/-- The issuing thread's handle, and the thread as an owner of asynchronous work. -/
def State.self (s : State) : Nat := handleOf s.me.gen s.cur.core s.cur.slot
def State.owner (s : State) : Owner := ⟨s.cur.core, s.cur.slot, s.me.gen⟩

/-- A free choice for this step. -/
def State.free (s : State) (use : Nat) : Nat := Config.freeNat s.tick use

/-- A thread holds a live program (R27). -/
def Thread.live (t : Thread) : Bool :=
  match t.life with
  | .ready | .parked | .trapped | .migrating => true
  | _ => false

/-- The owner's thread is still the same live thread (R22, R26). -/
def Package.ownerLive (p : Package) (o : Owner) : Bool :=
  let t := p.thread o.core o.slot
  t.live && decide (t.gen = o.gen)

/-! ## Registers (R14-R20) -/

def RegCell.fresh : RegCell := ⟨0, true, false, false⟩

/-- The file entry of a register of a window. -/
def Core.cell (k : Core) (entry : Nat) : RegCell := tget k.regs entry RegCell.fresh

def Core.reg (k : Core) (t : Thread) (n : Nat) : RegCell := k.cell (t.base + n)

/-- The tag of the pair of a file entry is kept with its even entry (R409). -/
def Core.clearTag (k : Core) (entry : Nat) : Core :=
  let e := entry / 2 * 2
  match tget? k.regs e with
  | none => k
  | some c => { k with regs := tset k.regs e { c with tag := false } }

/-- A register written: full, unpoisoned, its pair's tag cleared (R18, R34, R409). -/
def Core.writeReg (k : Core) (t : Thread) (n : Nat) (v : Word) : Core :=
  let k := k.clearTag (t.base + n)
  { k with regs := tset k.regs (t.base + n) { k.cell (t.base + n) with val := v, full := true, bad := false } }

/-- A register emptied by a long-latency producer or by SETE (R18, R176). -/
def Core.emptyReg (k : Core) (t : Thread) (n : Nat) : Core :=
  let k := k.clearTag (t.base + n)
  { k with regs := tset k.regs (t.base + n) { k.cell (t.base + n) with full := false } }

/-- The tag of an even register's pair set or cleared (R428). -/
def Core.setPairTag (k : Core) (t : Thread) (n : Nat) (b : Bool) : Core :=
  { k with regs := tset k.regs (t.base + n) { k.cell (t.base + n) with tag := b } }

/-- A register filled by an arrival (R18, R123). A fill of no register of the window is a discarded one (R198). -/
def Core.fillReg (k : Core) (t : Thread) (f : Fill) : Core :=
  if t.len ≤ f.reg then k
  else
  let k := k.writeReg t f.reg f.val
  { k with regs := tset k.regs (t.base + f.reg) { k.cell (t.base + f.reg) with bad := f.bad, tag := f.tag } }

def State.reg (s : State) (n : Nat) : Word := (s.hereCore.reg s.me n).val
def State.pairTag (s : State) (n : Nat) : Bool := (s.hereCore.reg s.me n).tag
def State.setReg (s : State) (n : Nat) (v : Word) : State := s.onHereCore (fun k => k.writeReg s.me n v)
def State.emptyReg (s : State) (n : Nat) : State := s.onHereCore (fun k => k.emptyReg s.me n)

/-! ## The ownership map and who holds what (R353, R358, R360, R361) -/

def rid (kind index : Nat) : Nat := kind * 0x10000000 + index
def ridKind (r : Nat) : Nat := r / 0x10000000
def ridIndex (r : Nat) : Nat := r % 0x10000000

/-- How many resources a kind has (R360). -/
def kindCount (kind : Nat) : Nat :=
  match kind with
  | 0 => 1024 | 1 => 16384 | 2 => 1024 | 3 => 65 | 4 => 256 | 5 => 256 | 6 => 4096 | 7 => 1024 | 8 => 64 | 9 => 4
  | 10 => 1
  | _ => 0

def ridExists (r : Nat) : Bool := decide (ridIndex r < kindCount (ridKind r))

/-- An entry that nothing has changed: held by holder 1, or an unused region entry (R361, R382). -/
def Package.entry (p : Package) (r : Nat) : MapEntry :=
  tget p.map r ⟨if ridKind r = 1 then 0 else 1, 0, 0, 0, 0, false, 0, 0, 0⟩

def Package.setEntry (p : Package) (r : Nat) (e : MapEntry) : Package := { p with map := tset p.map r e }

def Package.coreHolder (p : Package) (c : Nat) : Nat := (p.entry (rid 0 c)).holder

def State.holder (s : State) : Nat := s.here.coreHolder s.cur.core

/-- Where a physical address lies (R353). -/
inductive Place where
  | scratch (core bank : Nat)
  | control | hbm | dump
  | tier (port : Nat)
  | host (fn : Nat)
  | nowhere
  deriving DecidableEq, Repr

def gib : Nat := 0x40000000

def Package.place (p : Package) (a : Nat) : Place :=
  if a < 0x20000000 then .scratch (a / 0x80000) (a / 0x10000 % 8)
  else if 0x100000000 ≤ a ∧ a < 0x100010000 then .control
  else if 0x10000000000 ≤ a ∧ a < 0x17FC0000000 then .hbm
  else if 0x17FC0000000 ≤ a ∧ a < 0x18000000000 then .dump
  else if 0x20000000000 ≤ a ∧ a < 0x20000000000 + p.tier0 then .tier 0
  else if 0x40000000000 ≤ a ∧ a < 0x40000000000 + 65 * 0x800000000 then .host ((a - 0x40000000000) / 0x800000000)
  else if 0x80000000000 ≤ a ∧ a < 0x80000000000 + p.tier1 then .tier 1
  else .nowhere

/-- The region entry that contains an address, whoever holds it (R362). -/
def Package.regionOf (p : Package) (a : Nat) : Option (Nat × MapEntry) :=
  p.map.find? (fun e => decide (ridKind e.1 = 1 ∧ e.2.holder ≠ 0 ∧ e.2.base ≤ a ∧ a < e.2.base + 2 ^ e.2.log2))

/-- The resource whose entry covers a physical address (R396), and where its span ends. -/
def Package.covering (p : Package) (a : Nat) : Option (Nat × Nat) :=
  match p.place a with
  | .scratch c _ => some (rid 0 c, (c + 1) * 0x80000)
  | .dump => some (rid 10 0, 0x18000000000)
  | .host f => some (rid 3 f, 0x40000000000 + (f + 1) * 0x800000000)
  | .hbm | .tier _ => (p.regionOf a).map (fun e => (e.1, e.2.base + 2 ^ e.2.log2))
  | _ => none

/-- A holder holds every byte of a span (R358). `fuel` bounds how many resources the span may cross. -/
def Package.holdsFrom (p : Package) (h : Nat) : Nat → Nat → Nat → Bool
  | 0, _, _ => false
  | fuel + 1, a, b =>
    if b ≤ a then true
    else match p.covering a with
      | none => false
      | some (r, stop) => decide ((p.entry r).holder = h) && p.holdsFrom h fuel stop b

def Package.holds (p : Package) (h a n : Nat) : Bool := p.holdsFrom h (p.map.length + 2048) a (a + n)

/-- A bank of a core is PRIVATE unless listed (R154). -/
def Core.private_ (k : Core) (bank : Nat) : Bool := !k.exported.contains bank

/-- A physical address lies in a PRIVATE bank of a core. -/
def Package.inPrivate (p : Package) (c a : Nat) : Bool :=
  match p.place a with
  | .scratch k b => decide (k = c) && (p.core c).private_ b
  | _ => false

/-- A physical address lies in a PRIVATE bank of another core (R121, R154). -/
def Package.othersPrivate (p : Package) (c a : Nat) : Bool :=
  match p.place a with
  | .scratch k b => decide (k ≠ c) && (p.core k).private_ b
  | _ => false

/-- A holder's record (R367). -/
def Package.holderRec (p : Package) (h : Nat) : Option HolderRec := tget? p.holders h

/-- The lowest-numbered core that a holder holds outside a list (R367). -/
def Package.lowestCore (p : Package) (h : Nat) (except : List Nat) : Option Nat :=
  firstIn 0 1024 (fun c => decide (p.coreHolder c = h) && !except.contains c)

/-- The cores that a holder is losing in transfers under way. -/
def Package.leaving (p : Package) (h : Nat) : List Nat :=
  p.flights.filterMap (fun e => match e.2 with
    | .transfer t => if t.former = h ∧ ridKind t.rid = 0 then some (ridIndex t.rid) else none
    | _ => none)

/-- A core whose transfer is under way: no thread is created on it (R260, R365). -/
def Package.transferring (p : Package) (c : Nat) : Bool :=
  p.flights.any (fun e => match e.2 with
    | .transfer t => decide (t.rid = rid 0 c)
    | _ => false)

/-- The notice core of a holder, among the cores it keeps (R262, R367). -/
def Package.noticeCore (p : Package) (h : Nat) (except : List Nat) : Option Nat :=
  let named := match p.holderRec h with
    | some r => r.notice
    | none => none
  match named with
  | some c => if p.coreHolder c = h ∧ !except.contains c then some c else p.lowestCore h except
  | none => p.lowestCore h except

/-! ## Writes to home memory and the unstable sets (R209, R213, R214) -/

/-- New versions of words recorded in a core's unstable set; a word not there enters only when `enter` says so. -/
def Core.versions (enter : Bool) (ws : List (Nat × MemWord)) (k : Core) : Core :=
  ws.foldl (fun k w => match tget? k.unstable w.1 with
    | some vs => { k with unstable := tset k.unstable w.1 (vs ++ [w.2]) }
    | none => if enter then { k with unstable := tset k.unstable w.1 [w.2] } else k) k

/-- Rows of Cassia's row buffers that a write step to M has touched leave them (R248). A row is 256 bytes. -/
def Cluster.dropRows (k : Cluster) (ws : List Nat) : Cluster :=
  { k with rows := k.rows.filter (fun r => !ws.any (fun w => decide (w / 256 = r))) }

def Package.dropRows (p : Package) (ws : List Nat) : Package :=
  { p with clusters := p.clusters.map (fun e => (e.1, e.2.dropRows ws)) }

/-- The unstable sets after M has taken new versions of some words; the cores of `spare` gain no new members. -/
def Package.unsettle (p : Package) (spare : List Nat) (ws : List Nat) : Package :=
  let vs := ws.map (fun w => (w, p.mem.version w))
  let p := spare.foldl (fun p c => p.onCore c id) (p.dropRows ws)
  { p with
    dflt := p.dflt.versions true vs,
    cores := p.cores.map (fun e => (e.1, e.2.versions (!spare.contains e.1) vs)) }

/-- A write to M that makes its words unstable for every core outside `spare` (R214). -/
def Package.writeM (p : Package) (spare : List Nat) (ws : List (Nat × Byte)) : Package :=
  ({ p with mem := p.mem.write ws } : Package).unsettle spare (wordsOf ws)

/-- A plain store into a PRIVATE bank: M changes and no word becomes unstable (R212). -/
def Package.writeQuiet (p : Package) (ws : List (Nat × Byte)) : Package :=
  let p := ({ p with mem := p.mem.write ws } : Package).dropRows (wordsOf ws)
  let vs := (wordsOf ws).map (fun w => (w, p.mem.version w))
  { p with
    dflt := p.dflt.versions false vs, cores := p.cores.map (fun e => (e.1, e.2.versions false vs)) }

/-- Some words of a core's view set to M and made stable (R215, R218, R220, R221). -/
def Package.acquire (p : Package) (c : Nat) (ws : List Nat) : Package :=
  p.onCore c (fun k => { k with view := k.view.copyWords p.mem ws, unstable := ws.foldl tdel k.unstable })

/-- A line written by an engine or an arrival, with the words it writes poisoned (R218, R445). -/
def Package.writeLine (p : Package) (spare : List Nat) (l : LineWrite) : Package :=
  let p1 : Package := { p with mem := (l.bad.foldl (fun m w => m.setBad w true) (p.mem.write (l.bytes.map (fun b => (l.line + b.1, b.2))))) }
  p1.unsettle spare (wordsOf (l.bytes.map (fun b => (l.line + b.1, b.2))))

/-! ## Messages enter the network (R144, R444) -/

/-- A message header (R144). -/
def header (kind handler holder handle status : Nat) : Word :=
  word (((kind * 256 + handler % 256) * 65536 + holder % 65536) * 0x100000000 + handle % 0x1000000 * 256 + status % 256)

/-- A message that nothing but its ends and words distinguishes. -/
def Msg.plain (src dst : Nat) (hdr : Word) (pay : List Word) : Msg :=
  { src := src, srcChip := 0, dst := dst, hdr := hdr, pay := pay, tagged := false, toThread := none, inject := false,
    bounce := false, waiting := false, refused := false, report := none, acquire := [], launch := none, preempt := none }

def Package.send (p : Package) (m : Msg) : Package := p.addJob (.msg m)

/-- The package's map block as the source of a message: no core has this number. -/
def mapBlock : Nat := 10000

/-- A MAP message of the map block to a holder's notice core; none when the holder keeps no core (R262, R366, R367). The SHOLDER of
MAP messages is 0 (log 49). -/
def Package.notice (p : Package) (h : Nat) (status : Nat) (pay : List Word) : Package :=
  match p.noticeCore h (p.leaving h) with
  | none => p
  | some c => p.send (Msg.plain mapBlock c (header 3 0 0 0 status) pay)

/-! ## Completion cells (R309-R312) -/

def Cell.fresh : Cell := ⟨0, 0, 0, 0, false, 0, 0, false, false, 0⟩

def cellId (gen die index : Nat) : Nat := gen * 4096 + die * 1024 + index
def cellDie (id : Nat) : Nat := id / 1024 % 4
def cellIndex (id : Nat) : Nat := id % 1024
def cellGen (id : Nat) : Nat := id / 4096 % 256

def Package.cellAt (p : Package) (id : Nat) : Cell := tget (p.die (cellDie id)).cells (cellIndex id) Cell.fresh

def Package.setCell (p : Package) (id : Nat) (c : Cell) : Package :=
  p.onDie (cellDie id) (fun d => { d with cells := tset d.cells (cellIndex id) c })

/-- A cell id names a cell in use of its generation. -/
def Package.cellLive (p : Package) (id : Nat) : Bool :=
  let c := p.cellAt id
  c.used && decide (c.gen = cellGen id)

/-- A cell whose LIVE has reached 0: its completion message, then it is freed (R311). -/
def Package.cellFinish (p : Package) (id : Nat) : Package :=
  let c := p.cellAt id
  let p : Package := { p with flights := p.flights.map (fun e => (e.1, match e.2 with
    | .packet k => .packet (if k.cell = some id then { k with outcome := some (!c.cancel) } else k)
    | j => j)) }
  let p := if c.notify.getLsbD 63 then p
    else p.send (Msg.plain (9000 + cellDie id) (bits c.notify 25 16)
      (header 1 (bits c.notify 5 0) c.holder 0 (if c.cancel then 2 else 0)) [word id, 0, 0])
  p.setCell id { Cell.fresh with gen := (c.gen + 1) % 256 }

/-- One taken from a cell's LIVE, and on through its ancestors (R311). `fuel` bounds the four levels. -/
def Package.cellDrop (p : Package) : Nat → Nat → Package
  | 0, _ => p
  | fuel + 1, id =>
    if !p.cellLive id then p
    else
      let c := p.cellAt id
      let low := if c.root then 1 else 0
      let live := if c.live ≤ low then low else c.live - 1
      let p := p.setCell id { c with live := live }
      if live ≠ 0 then p else if c.level = 3 then p.cellFinish id else (p.cellFinish id).cellDrop fuel c.parent

/-- A thread that retires takes one from the cell that counts it (R310). The thread that boot or MINT starts has no launch: it stands under
the root job cell, whose hold is never released (R311); the threads of a pair that it makes are counted there, as `paired` says. -/
def Package.leaveCell (p : Package) (id : Nat) (paired : Bool) : Package :=
  if (p.cellAt id).root && !paired then p else p.cellDrop 8 id

/-- A number added to a cell's LIVE. -/
def Package.cellRaise (p : Package) (id n : Nat) : Package :=
  if p.cellLive id then p.setCell id { p.cellAt id with live := Nat.min (2 ^ 32 - 1) ((p.cellAt id).live + n) } else p

/-- A cell cancelled by CANCEL, itself or through an ancestor: the cell that the CANCEL named (R312). -/
def Package.cellCancelled (p : Package) (id : Nat) : Option Nat :=
  let c := p.cellAt id
  if p.cellLive id ∧ c.cancel then some c.cancelBy else none

/-- A free cell index of a die; which one is a free choice. -/
def Package.freeCell (p : Package) (die start : Nat) : Option Nat :=
  let free (i : Nat) : Bool := !(tget (p.die die).cells i Cell.fresh).used
  match firstIn (start % 1024) (1024 - start % 1024) free with
  | some i => some i
  | none => firstIn 0 (start % 1024) free

/-- The fields of a notify word: NONE, CORE and HANDLER; the reserved ones read zero (R6, R285, R309). -/
def notifyMask : Word := 0x8000000003FF003F

/-- A new cell on a die, counted by its parent (R310); none when the die has no free cell. -/
def Package.newCell (p : Package) (die start holder level parent live : Nat) (notify : Word) (root : Bool) :
    Option (Package × Nat) :=
  match p.freeCell die start with
  | none => none
  | some i =>
    let g := (tget (p.die die).cells i Cell.fresh).gen
    let id := cellId g die i
    let by_ := if level = 3 then none else p.cellCancelled parent
    let c : Cell := ⟨g, live, parent, level, by_.isSome, notify &&& notifyMask, holder, true, root, by_.getD 0⟩
    let p := if level = 3 then p else p.cellRaise parent 1
    some (p.setCell id c, id)

/-- A notify word that names no message (R285, R309). -/
def silent : Word := word (2 ^ 63)

/-! ## Slots and windows (R15, R16, R191) -/

/-- A window of `n` registers at `b` overlaps no window in use. -/
def Core.windowFree (k : Core) (b n : Nat) : Bool :=
  k.threads.all (fun e => decide (e.2.life = .free ∨ e.1 = 63 ∨ b + n ≤ e.2.base ∨ e.2.base + e.2.len ≤ b))

/-- First fit in granules of 8 registers below entry 2,016 (R15). -/
def Core.fitWindow (k : Core) (n : Nat) : Option Nat :=
  (span 0 8 252).find? (fun b => decide (b + n ≤ 2016) && k.windowFree b n)

/-- A slot that a creation may take: FREE, and not kept for the thread that a MINT under way will start there (R387, log 17). -/
def Core.slotFree (k : Core) (slot : Nat) : Bool := decide ((k.thread slot).life = .free ∧ k.minted ≠ some slot)

/-- The slot that a creating instruction takes (R191). -/
def Core.pickSlot (k : Core) : Option Nat :=
  match firstIn 0 63 (fun i => k.slotFree i && !k.elig.getLsbD i) with
  | some i => some i
  | none => firstIn 0 63 k.slotFree

/-- The registers of a fresh window: every entry full and zero (R16). -/
def Core.clearWindow (k : Core) (b n : Nat) : Core :=
  { k with regs := k.regs.filter (fun e => decide (e.1 < b ∨ b + n ≤ e.1)) }

/-- A thread placed READY in a slot with its window and first registers (R16, R23). The slot's last issue and its gap stand (R137). -/
def Core.startThread (k : Core) (slot base len : Nat) (entry : BitVec 56) (regs : List (Nat × Word)) (role : Word)
    (cell : Option Nat) (cancel : Option Nat) : Core :=
  let t : Thread := { Thread.fresh with
    life := .ready, pc := entry, base := base, len := len, gen := (k.thread slot).gen, role := role,
    prio := if slot = 63 then 1 else 0, lastIssue := (k.thread slot).lastIssue, gap := (k.thread slot).gap, cell := cell, cancel := cancel }
  let k := (k.clearWindow base len).setThread slot t
  regs.foldl (fun k r => k.writeReg t r.1 r.2) k

/-- What a thread that leaves takes out of flight: its home operations and trades not yet performed, its deposit not yet written, its cell operation (R29, R175, R189).
A deposit that has not reached the target core's buffer is withdrawn like one that stands in it (log 49). -/
def withdrawnBy (o : Owner) : Job → Bool
  | .fe h => decide (h.owner = o)
  | .depo d => decide (d.owner = o ∧ d.stage ≠ .written)
  | .cellOp c => decide (c.owner = o)
  | .trade t => decide (t.owner = o)
  | _ => false

/-! ## Ports (R158-R161) -/

def PortRec.fresh : PortRec := ⟨.unbound, 0, 0, []⟩
def Thread.port (t : Thread) (p : Nat) : PortRec := tget t.ports p PortRec.fresh
def Thread.setPort (t : Thread) (p : Nat) (r : PortRec) : Thread := { t with ports := tset t.ports p r }

/-- The opposite port: e and w, n and s, up and dn (R185). -/
def opposite (p : Nat) : Nat := if p % 2 = 0 then p + 1 else p - 1

/-- The partner's port becomes BROKEN (R161). -/
def Package.breakPort (p : Package) (handle port : Nat) : Package :=
  let t := p.thread (handleCore handle) (handleSlot handle)
  if t.live ∧ t.gen = handleGen handle ∧ (t.port port).st = .bound then
    p.setThread (handleCore handle) (handleSlot handle) (t.setPort port { t.port port with st := .broken })
  else p

/-- Whether a bind request is one of a thread's port. -/
def isBindOf (chip : Nat) (o : Owner) (port : Nat) : Job → Bool
  | .bind b => decide (b.fromChip = chip ∧ b.owner = o ∧ b.port = port)
  | _ => false

/-- Items removed from flight. -/
def Package.dropJobs (p : Package) (f : Job → Bool) : Package :=
  { p with flights := p.flights.filter (fun e => !f e.2) }

/-- Values in flight toward one port of a thread are discarded with its queue (R161, R186). -/
def isValueTo (core slot gen port : Nat) : Job → Bool
  | .portv v => decide (v.dst = core ∧ v.slot = slot ∧ v.gen = gen ∧ v.port = port)
  | _ => false

/-- The partner core of a port (R158). -/
def partnerCore (core port : Nat) : Nat :=
  match port with
  | 0 => coreAt ((meshX core + 1) % 32) (meshY core)
  | 1 => coreAt ((meshX core + 31) % 32) (meshY core)
  | 2 => coreAt (meshX core) ((meshY core + 31) % 32)
  | 3 => coreAt (meshX core) ((meshY core + 1) % 32)
  | _ => core

/-- Something owed to another chip when the step ends. -/
def Package.owe (p : Package) (o : Owed) : Package := { p with owed := p.owed ++ [o] }

/-- A port left UNBOUND, whatever its state (R186). The partner of a binding on this chip becomes BROKEN; a partner on
another chip is sent word (R424). -/
def Package.unbind (p : Package) (chip core slot port : Nat) : Package :=
  let t := p.thread core slot
  let r := t.port port
  let o : Owner := ⟨core, slot, t.gen⟩
  let news (slot : Nat) : Package := p.owe (.news r.peerChip ⟨o, port, partnerCore core port, slot, false⟩ (p.coreHolder core))
  let p := match r.st with
    | .bound => if r.peerChip = chip then p.breakPort r.peer (opposite port) else news (handleSlot r.peer)
    | .binding => if r.peerChip = chip then p.dropJobs (isBindOf chip o port) else news r.peer
    | _ => p
  let p := p.dropJobs (isValueTo core slot t.gen port)
  p.onThread core slot (fun t => t.setPort port PortRec.fresh)

/-! ## Retiring a thread (R29, R118, R157, R162, R164) -/

/-- Deposits in a core's buffer aimed at a thread that leaves are refused (R162). -/
def refuseDeposit (core slot : Nat) : Job → Job
  | .depo d => if d.dst = core ∧ d.slot = slot ∧ d.stage = .buffered then .depo { d with stage := .refused } else .depo d
  | j => j

/-- A pair after one of its threads has left it (R164). -/
def Core.leavePair (k : Core) (pair slot : Nat) : Core :=
  match tget? k.pairs pair with
  | none => k
  | some q =>
    let q := { q with
      accSlot := if q.accSlot = some slot then none else q.accSlot,
      exeSlot := if q.exeSlot = some slot then none else q.exeSlot }
    { k with pairs := if q.accSlot = none ∧ q.exeSlot = none then tdel k.pairs pair else tset k.pairs pair q }

/-- The completed Cassia operations that a thread dispatched from a slot it has migrated from are no longer kept for it. -/
def Package.forgetOps (p : Package) (o : Owner) : Package :=
  p.onCore o.core (fun k => { k with finished := k.finished.filter (fun c => decide (c.owner ≠ o)) })

/-- A thread's retirement, whatever its cause; its launch cell is told, on this chip or on the one that it left (R310). `chip`
is where the package stands. -/
def Package.retire (p : Package) (chip core slot : Nat) : Package :=
  let t := p.thread core slot
  let o : Owner := ⟨core, slot, t.gen⟩
  let p := (span 0 1 6).foldl (fun p q => p.unbind chip core slot q) p
  let p := (t.former.filter (fun f => decide (f.1 = chip))).foldl (fun p f => p.forgetOps f.2) p
  let p := p.dropJobs (withdrawnBy o)
  let p : Package := { p with flights := p.flights.map (fun e => (e.1, refuseDeposit core slot e.2)) }
  let p := p.onCore core (fun k =>
    let k := { k with waitm := k.waitm.filter (· ≠ slot), finished := k.finished.filter (fun c => c.left || decide (c.owner ≠ o)) }
    match t.pair with
    | none => k
    | some q => k.leavePair q slot)
  let p := p.onThread core slot (fun t => { t with
    life := .retired, reason := none, wait := .none, pend := none, reply := none, pair := none, preempt := false,
    covers := [], former := [], ports := [], lost := none })
  match t.cell, t.away with
  | some c, _ => p.leaveCell c t.paired
  | none, some (away, c) => p.owe (.cell away c t.paired)
  | none, none => p

/-- Retirement by cancellation leaves the cause CANCELLED and the cell (R30, R312). -/
def Package.retireCancelled (p : Package) (chip core slot cell : Nat) : Package :=
  (p.retire chip core slot).onThread core slot (fun t => { t with cause := 0x10, value := word cell, cancel := none })

/-! ## Taking an exception, and returning from one (R31-R33, R116) -/

/-- The cause codes (R33). -/
def Cause.code : Cause → Nat
  | .illegal => 0x01 | .window => 0x02 | .alignOperand => 0x03 | .empty => 0x04 | .memFault => 0x05 | .memAlign => 0x06
  | .notExported => 0x07 | .overflow => 0x08 | .notHolder => 0x09 | .mapFull => 0x0A | .staleHalo => 0x0B | .cap => 0x0C
  | .portUnbound => 0x0D | .logFull => 0x0E | .softError => 0x0F | .cancelled => 0x10 | .trapInsn => 0x11 | .break => 0x12
  | .migrateTooLarge => 0x13 | .reclaimed => 0x14 | .format => 0x15 | .layout => 0x16 | .role => 0x17

/-- tc.cause[16], IH (R23). -/
def Thread.inHandler (t : Thread) : Bool := t.cause.getLsbD 16

/-- A trap stops the thread when it has no vector or is already in its handler (R32). -/
def Thread.stopsOnTrap (t : Thread) : Bool := decide (t.vec = 0) || t.inHandler

/-- tc.cause after a trap: the code, the detail, and IH (R32). -/
def causeWord (cause : Cause) (detail : Nat) (ih : Bool) : Word :=
  word ((if ih then 65536 else 0) + detail * 256 + cause.code)

/-- A thread as a trap leaves it (R32): cause, value and epc saved; then either stopped or at its vector. -/
def Thread.trap (t : Thread) (cause : Cause) (detail : Nat) (value : Word) : Thread :=
  let saved := { t with value := value, epc := t.pc.setWidth 64, reason := none, wait := .none, pend := none, reply := none }
  if t.stopsOnTrap then
    { saved with cause := causeWord cause detail t.inHandler, life := .trapped }
  else
    { saved with cause := causeWord cause detail true, pc := t.vec.setWidth 56, life := .ready }

/-- The fault message of a stopped thread (R32): handler 1 of its own core, with handle, cause, value and epc. -/
def Package.faultMessage (p : Package) (core slot : Nat) : Package :=
  let t := p.thread core slot
  let h := handleOf t.gen core slot
  p.send (Msg.plain core core (header 2 1 (p.coreHolder core) h 0) [word h, t.cause, t.value, t.epc])

/-- One added to an error counter of a die, which saturates (R381). -/
def Package.count (p : Package) (die k : Nat) : Package :=
  let n := (tget p.errors (die * 4 + k) 0).toNat
  { p with errors := tset p.errors (die * 4 + k) (word (Nat.min (2 ^ 64 - 1) (n + 1))) }

/-- The Cassia operations that a thread has under way go on without it: their flags and reports will be discarded (R268). -/
def Package.orphan (p : Package) (o : Owner) : Package :=
  let mark (x : CassiaOp) : CassiaOp := { x with orphan := x.orphan || decide (x.owner = o) }
  let p : Package := { p with flights := p.flights.map (fun e => (e.1, match e.2 with
    | .cassia x => .cassia (mark x)
    | j => j)) }
  p.onCore o.core (fun k => { k with dispatch := k.dispatch.map mark })

/-- A thread that has just stopped retires at once when it stands under a cancelled cell (R30). -/
def Package.retireStopped (p : Package) (chip core slot : Nat) : Package :=
  match (p.thread core slot).cancel with
  | some cell => p.retireCancelled chip core slot cell
  | none => p

/-- The Cassia operations of a thread that migrates run on; their flags and reports are discarded, and the thread still awaits and
acquires them when it is back on the chip (R218, R419). -/
def Package.leaveOps (p : Package) (o : Owner) : Package :=
  let mark (x : CassiaOp) : CassiaOp := if x.owner = o then { x with orphan := true, left := true, overflow := none, soft := none } else x
  let p : Package := { p with flights := p.flights.map (fun e => (e.1, match e.2 with
    | .cassia x => .cassia (mark x)
    | j => j)) }
  p.onCore o.core (fun k => { k with dispatch := k.dispatch.map mark, finished := k.finished.map mark })

/-- A thread takes a trap (R32). A SOFT-ERROR is counted (R381). -/
def Package.takeTrap (p : Package) (core slot : Nat) (cause : Cause) (detail : Nat) (value : Word) : Package :=
  let p := if cause = .softError then p.count (coreDie core) 1 else p
  let t := p.thread core slot
  let p := p.setThread core slot (t.trap cause detail value)
  if t.stopsOnTrap then (p.orphan ⟨core, slot, t.gen⟩).faultMessage core slot else p

/-- A thread takes a trap on the reply to its request (R32); one under a cancelled cell that the trap would stop retires instead (R30). -/
def Package.trapReply (p : Package) (chip core slot : Nat) (cause : Cause) (value : Word) : Package :=
  let t := p.thread core slot
  match t.cancel with
  | some cell => if t.stopsOnTrap then p.retireCancelled chip core slot cell else p.takeTrap core slot cause 0 value
  | none => p.takeTrap core slot cause 0 value

/-- The issuing thread takes a trap on its present chain. -/
def State.takeTrap (s : State) (cause : Cause) (detail : Nat) (value : Word) : State :=
  s.onHere (fun p => p.takeTrap s.cur.core s.cur.slot cause detail value)

/-- Where a handler's JR or RET goes back to: bits [55:0] of a register (R112, R116). -/
def returnTarget (v : Word) : BitVec 56 := v.setWidth 56

/-! ## How a chain ends -/

/-- The outcome of a chain's effect, with the state it leaves. -/
inductive Res where
  | next (s : State)                       -- complete; the thread goes on at the next chain
  | jump (s : State) (pc : BitVec 56)      -- complete; the thread goes on at an address
  | replay (s : State)                     -- not yet; the same chain issues again (R100)
  | trap (s : State) (cause : Cause) (detail : Nat) (value : Word)
  | park (s : State) (r : Reason)          -- no effect; the chain issues afresh on wake (R28)
  | parkNext (s : State) (r : Reason) (w : Wait)   -- the arrival of BAR and PHASE (R28)
  | retire (s : State)                     -- complete; the thread retires
  | moved (s : State)                      -- complete; the state says already where the thread stands

/-- The word address of the chain that follows, modulo 2^56 (log 49). -/
def State.nextPc (s : State) : BitVec 56 := s.me.pc + BitVec.ofNat 56 s.cur.words.length

/-- The thread goes on at an address. -/
def State.goto (s : State) (pc : BitVec 56) : State :=
  s.onMe (fun t => { t with pc := pc, pend := none, reply := none })

/-- The chain is complete: the program counter moves past it. -/
def State.advance (s : State) : State := s.goto s.nextPc

/-- The thread parks on its present chain (R28). -/
def State.park (s : State) (r : Reason) : State :=
  s.onMe (fun t => { t with life := .parked, reason := some r, chain := s.cur.words })

/-- The thread parks past its chain (R28). -/
def State.parkNext (s : State) (r : Reason) (w : Wait) : State :=
  s.advance.onMe (fun t => { t with life := .parked, reason := some r, wait := w, chain := [] })

def Res.state : Res → State
  | .next s => s.advance
  | .jump s pc => s.goto pc
  | .replay s => s
  | .trap s c d v => s.takeTrap c d v
  | .park s r => s.park r
  | .parkNext s r w => s.parkNext r w
  | .retire s => s.onHere (fun p => p.retire s.cur.chip s.cur.core s.cur.slot)
  | .moved s => s

/-- The chain took effect: it neither parked, trapped nor must be replayed. -/
def Res.took : Res → Bool
  | .next _ | .jump _ _ | .parkNext _ _ _ | .retire _ | .moved _ => true
  | _ => false

/-- The thread parks on its chain, waiting for something (R28). -/
def State.parkFor (s : State) (w : Wait) (r : Reason) : Res := .park (s.onMe (fun t => { t with wait := w })) r

/-- The chain parks on a resource, by its RID, that may be taken from its holder (R30). -/
def State.parkOn (s : State) (r : Reason) (resource : Nat) : Res := .park (s.onMe (fun t => { t with waits := some resource })) r

/-- A change of the state that a chain leaves, before it ends. -/
def Res.map (f : State → State) : Res → Res
  | .next s => .next (f s)
  | .jump s pc => .jump (f s) pc
  | .replay s => .replay (f s)
  | .trap s c d v => .trap (f s) c d v
  | .park s r => .park (f s) r
  | .parkNext s r w => .parkNext (f s) r w
  | .retire s => .retire (f s)
  | .moved s => .moved (f s)

end Sys2Proof.Machine
end

