-- ==== Sys2Proof/Machine/Route.lean ====
section
/-! DEFINITION. The torus and its routes (R404, R405, R407), budgets (R326 to R328), and how a packet enters its source unit (R412, R416, R444). -/

namespace Sys2Proof.Machine

/-- The coordinate of a chip in a dimension (R404). -/
def chipCoord (chip k : Nat) : Nat := chip / 32 ^ k % 32

/-- The extent of a dimension. -/
def State.extent (s : State) (k : Nat) : Nat := (s.extents[k]?).getD 1

/-- A chip id names a chip of the torus (R405). -/
def State.onTorus (s : State) (chip : Nat) : Bool :=
  (span 0 1 4).all (fun k => decide (chipCoord chip k < s.extent k)) && decide (chip < 1048576)

/-- The port toward a destination in one dimension: fewer hops, + on a tie (R404, R405). -/
def State.portInDim (s : State) (from_ dst k : Nat) : Option Nat :=
  let a := chipCoord from_ k
  let b := chipCoord dst k
  if a = b then none
  else
    let plus := (b + s.extent k - a) % s.extent k
    let minus := (a + s.extent k - b) % s.extent k
    some (if plus ≤ minus then 2 * k else 2 * k + 1)

/-- The next port of a route: dimensions in ascending order for requests and migrations, descending for replies. -/
def State.route (s : State) (reply : Bool) (from_ dst : Nat) : Option Nat :=
  firstSome (if reply then [3, 2, 1, 0] else [0, 1, 2, 3]) (s.portInDim from_ dst)

/-- The chip beyond a port (R404). -/
def State.neighbour (s : State) (chip port : Nat) : Nat :=
  let k := port / 2
  let c := chipCoord chip k
  let n := if port % 2 = 0 then (c + 1) % s.extent k else (c + s.extent k - 1) % s.extent k
  chip - c * 32 ^ k + n * 32 ^ k

/-- The class of a packet (R406). -/
def Load.class_ : Load → Nat
  | .reply _ _ _ | .ack _ => 1
  | .migrate _ _ _ _ _ => 2
  | _ => 0

/-- The payload bytes of a packet (R406, R407): those of atomics, posted atomics, fences, multicast copies, ports and notices are the
model's choice (log 49). -/
def Load.size : Load → Nat
  | .store b _ => b.length
  | .amo _ _ _ _ => 16
  | .posted _ _ => 8
  | .fence _ _ => 8
  | .mcast _ => 16
  | .migrate _ regs _ _ _ => 64 + 8 * regs.length
  | .reply _ _ _ => 8
  | .ack _ => 0
  | _ => 8

/-- Free packet buffers of a router input for a class (R407). -/
def State.bufferRoom (s : State) (chip port cls : Nat) : Nat :=
  4 - (s.packets.filter (fun e => decide (e.2.here = chip ∧ e.2.via = some port ∧ e.2.load.class_ = cls))).length

/-- A packet may enter a ring by a port of a chip (R407). -/
def State.ringRoom (s : State) (chip port cls : Nat) : Bool :=
  decide (2 ≤ s.bufferRoom (s.neighbour chip port) port cls)

/-! ## Budgets (R326 to R328) -/

/-- The blocks that count (R327), numbered apart. -/
def blockNi (core : Nat) : Nat := core
def blockHostNi : Nat := 1024
def blockClusterClove (k : Nat) : Nat := 2000 + k
def blockChannel (c : Nat) : Nat := 3000 + c
def blockOuter (k : Nat) : Nat := 4000 + k
def blockAnise (die : Nat) : Nat := 5000 + die
def blockFabric (port : Nat) : Nat := 6000 + port

/-- The die whose budget table governs a block (R327). -/
def blockDie (b : Nat) : Nat :=
  if b < 1024 then coreDie b
  else if b < 2000 then 0
  else if b < 3000 then (b - 2000) / 64
  else if b < 4000 then (b - 3000) / 64
  else if b < 5000 then 0
  else if b < 6000 then b - 5000
  else (b - 6000) / 4

/-- The activity that a block counts, and its capacity for each cycle of its own (R327). -/
def blockAct (b : Nat) : Nat := if b < 2000 then 2 else if b < 5000 then 0 else if b < 6000 then 1 else 3
def blockCapacity (b : Nat) : Nat :=
  if b < 2000 then 1 else if b < 3000 then 256 else if b < 4000 then 200 else if b < 5000 then 242
  else if b < 6000 then 512 else 320

/-- The budget entry of a holder for an activity on a die. -/
def Die.budgetFor (d : Die) (holder act : Nat) : Option (Nat × Word) :=
  d.budget.find? (fun e => decide (bits e.2 63 48 = holder ∧ bits e.2 47 46 = act ∧ holder ≠ 0))

def usageKey (block holder : Nat) : Nat := block * 65536 + holder

/-- A holder's usage in a block is below a share, in 1/1,024, of what the block can do in the period of an entry. -/
def Package.belowShare (p : Package) (block holder share : Nat) (e : Word) : Bool :=
  decide (1024 * tget p.usage (usageKey block holder) 0 < share * blockCapacity block * 2 ^ bits e 45 40)

/-- A holder is below its ceiling in a block (R328). A holder with no entry has none. -/
def Package.admits (p : Package) (block holder : Nat) : Bool :=
  match tget? p.inForce (usageKey block holder) with
  | none => true
  | some e => p.belowShare block holder (bits e 21 11) e

/-- A holder is below its guarantee in a block (R328). -/
def Package.guaranteed (p : Package) (block holder : Nat) : Bool :=
  match tget? p.inForce (usageKey block holder) with
  | none => false
  | some e => p.belowShare block holder (bits e 10 0) e

/-- Where a block keeps whom it served last: of those below their guarantee, and of the others. -/
def turnKey (block : Nat) (guaranteed : Bool) : Nat := 2 * block + if guaranteed then 0 else 1

/-- Round robin after the holder served last: no other that waits stands before this one. -/
def nextInTurn (last holder : Nat) (waiting : List Nat) : Bool :=
  let after (h : Nat) : Nat := (h + 65535 - last % 65536) % 65536
  waiting.all (fun h => decide (after holder ≤ after h))

/-- A block serves a request of a holder now, while requests of some holders wait at it (R328): first those below their
guarantee, then those below their ceiling, each in turn. -/
def Package.serves (p : Package) (block holder : Nat) (waiting : List Nat) : Bool :=
  let g := p.guaranteed block holder
  let last := tget p.turns (turnKey block g) 0
  let others := waiting.filter (p.admits block)
  p.admits block holder &&
  (if g then nextInTurn last holder (others.filter (p.guaranteed block))
   else !others.any (p.guaranteed block) && nextInTurn last holder others)

/-- What a served request counts, and whose turn it was. -/
def Package.charge (p : Package) (block holder n : Nat) : Package :=
  let k := usageKey block holder
  { p with
    turns := tset p.turns (turnKey block (p.guaranteed block holder)) holder,
    usage := if (tget? p.inForce k).isSome then tset p.usage k (tget p.usage k 0 + n) else p.usage }

/-- A period of a block starts for a holder: its usage is reset, and its entry as the table has it comes into force (R328, R348). -/
def Package.newPeriod (p : Package) (block holder : Nat) : Package :=
  let k := usageKey block holder
  { p with
    usage := tdel p.usage k,
    inForce := match (p.die (blockDie block)).budgetFor holder (blockAct block) with
      | some (_, e) => tset p.inForce k e
      | none => tdel p.inForce k }

/-! ## Streams (R412, R416) -/

def streamKey (chip unit : Nat) : Nat := chip * 8 + unit

def Package.srcStream (p : Package) (dst unit : Nat) : SrcStream := tget p.src (streamKey dst unit) ⟨0, true, 0, []⟩

/-- The resource number of a grid slot. -/
def slotRid (die slot : Nat) : Nat := 0x50000000 + die * 64 + slot

/-- The holder of a grid slot. -/
def Package.slotHolder (p : Package) (die slot : Nat) : Nat := (p.entry (slotRid die slot)).holder

/-- A request for a chip that a source unit has not taken waits there for its turn alone. -/
def State.waitsAt (s : State) (chip u dst : Nat) : Bool :=
  decide (s.route false chip dst = some u ∧ ((s.pkg chip).srcStream dst u).out.length < 64)

/-- A refused multicast copy of a thread of another chip, whose bounce goes there (R147, R423). -/
def Msg.bouncesTo (m : Msg) (chip : Nat) : Option Nat :=
  if bits m.hdr 63 56 = 0 ∧ m.bounce = false ∧ m.srcChip ≠ chip then some m.srcChip else none

/-- The holders whose requests wait at a source unit and only for their turn there (R328): threads that are parked on it or would leave
through it, deliveries that have offered it a packet and are below their ceiling at their Anise, refused messages whose bounce it has not
taken, and news that the package owes. -/
def State.unitWaiters (s : State) (chip u : Nat) : List Nat :=
  let p := s.pkg chip
  p.cores.flatMap (fun k => (k.2.threads.filter (fun t => match t.2.wait with
    | .unit d => decide (t.2.life = .parked) && s.waitsAt chip u d
    | .leave d => decide (t.2.life = .parked ∧ s.route false chip d = some u) && s.ringRoom chip u 2
    | _ => false)).map (fun _ => p.coreHolder k.1)) ++
  p.flights.filterMap (fun e => match e.2 with
    | .slab x =>
      let h := p.slotHolder x.die x.slot
      if (x.asks && s.waitsAt chip u x.dstChip && p.admits (blockAnise x.die) h) = true then some h else none
    | .msg m => match m.bouncesTo chip with
      | some d => if (m.refused && p.awake m.dst && s.waitsAt chip u d) = true then some (bits m.hdr 47 32) else none
      | none => none
    | _ => none) ++
  p.owed.filterMap (fun o => match o with
    | .news d _ h => if s.waitsAt chip u d = true then some h else none
    | _ => none)

/-- A source unit serves a holder now (R328). -/
def State.unitServes (s : State) (chip u holder : Nat) : Bool := (s.pkg chip).serves (blockFabric u) holder (s.unitWaiters chip u)

/-- The unit whose stream a request joins: that of the port it leaves by. Those of a chip to itself leave by none (R434), and
their stream is kept under the unit 0. -/
def State.unitOf (s : State) (chip dst : Nat) : Nat := (s.route false chip dst).getD 0

/-- The source unit toward a chip has room for a request of a holder: fewer than 64 outstanding, and for another chip the ring's
bubble and the fabric-injection budget (R407, R416, R434, R444). -/
def State.unitAccepts (s : State) (chip dst holder : Nat) : Bool :=
  decide (((s.pkg chip).srcStream dst (s.unitOf chip dst)).out.length < 64) &&
  (match s.route false chip dst with
  | none => true
  | some u => s.ringRoom chip u 0 && s.unitServes chip u holder)

/-- Payload bytes charged to fabric injection, when the packet leaves the chip (R327, R407). -/
def State.chargeFabric (s : State) (k : Packet) : State :=
  match s.route false k.src k.dst with
  | none => s
  | some u => s.onPkg k.src (fun p => p.charge (blockFabric u) k.holder k.load.size)

/-- A request enters its stream at its source unit, which holds a copy (R412, R416). -/
def State.inject (s : State) (k : Packet) : State :=
  let s := s.chargeFabric k
  let u := s.unitOf k.src k.dst
  let st := (s.pkg k.src).srcStream k.dst u
  let stream := if st.fresh then s.nextPacket else st.stream
  let k := { k with
    unit := u, seq := st.next, opens := st.fresh, stream := stream, here := k.src, via := none, original := none, launched := false }
  let st := { st with next := (st.next + 1) % 2 ^ 32, fresh := false, stream := stream, out := st.out ++ [⟨st.next, s.nextPacket, 0⟩] }
  { (s.onPkg k.src (fun p => { p with src := tset p.src (streamKey k.dst u) st })) with
    packets := tset s.packets s.nextPacket k, nextPacket := s.nextPacket + 1 }

/-- A packet of no thread, between two chips. -/
def Packet.of (src dst holder : Nat) (load : Load) : Packet :=
  { dst := dst, src := src, unit := 0, seq := 0, opens := false, stream := 0, holder := holder, addr := 0, cap1 := 0,
    owner := ⟨0, 0, 0⟩, reg := 0, reg2 := 0, slab := none, load := load, before := [], original := none, launched := false, here := src,
    via := none }

/-- What a package owes is paid: a launch cell on another chip counts one thread less (R310), and news of a binding enters its
stream; news that the source unit does not take yet stays owed. -/
def State.pay (s : State) (chip : Nat) : Owed → State
  | .cell away id paired => s.onPkg away (fun p => p.leaveCell id paired)
  | .news dst n h =>
    if s.unitAccepts chip dst h then s.inject { Packet.of chip dst h (.portNews n) with owner := n.owner }
    else s.onPkg chip (fun p => p.owe (.news dst n h))

/-- A package's debts paid, in order. -/
def State.tell (s : State) (chip : Nat) : State :=
  if (s.pkg chip).owed = [] then s
  else (s.pkg chip).owed.foldl (fun s o => s.pay chip o) (s.onPkg chip (fun p => { p with owed := [] }))

/-- Every package's debts paid, when a step ends. -/
def State.told (s : State) : State := s.chips.foldl (fun s e => s.tell e.1) s

/-- A chain whose request the source unit toward a chip does not take parks (R28, R328). -/
def State.parkUnit (s : State) (dst : Nat) : Res := s.parkFor (.unit dst) .net

/-- One SEQ comes before another in their stream, whose numbers wrap. -/
def seqBefore (a b : Nat) : Bool := let n := (b + 2 ^ 32 - a) % 2 ^ 32; decide (1 ≤ n ∧ n < 2 ^ 31)

def Package.tgtStream (p : Package) (src unit : Nat) : TgtStream := tget p.tgt (streamKey src unit) ⟨0, 0, []⟩

/-- The target has performed a request (R416). -/
def State.performed (s : State) (k : Packet) : Bool :=
  let t := (s.pkg k.dst).tgtStream k.src k.unit
  decide (t.stream = k.stream) && seqBefore k.seq t.low

/-- A copy of a request, an answer or a migration sent on its way from the router of a chip. -/
def State.launch (s : State) (k : Packet) (here : Nat) (via original : Option Nat) : State :=
  { s with
    packets := tset s.packets s.nextPacket { k with here := here, via := via, original := original, launched := true },
    nextPacket := s.nextPacket + 1 }

/-- A remote atomic of a thread that awaits its reply: the copy that its source unit holds. -/
def Packet.awaits (k : Packet) (chip : Nat) (o : Owner) : Bool :=
  decide (k.owner = o ∧ k.src = chip ∧ k.original = none) && (match k.load with
    | .amo _ _ _ _ => true
    | _ => false)

/-- Which two requests of a thread to one chip are performed in their order (R221): its stores, a fence after them, and its atomics, which log
49 orders though they go to different homes. -/
def Load.ordered (a b : Load) : Bool :=
  match a, b with
  | .store _ _, .store _ _ | .store _ _, .fence _ _ => true
  | .posted _ _, .posted _ _ | .posted _ _, .amo _ _ _ _ => true
  | _, _ => false

/-- Requests that the issuing thread sent to a chip before it migrated, by the ids of their held copies, and which a new one must follow:
those that are held still, and those that have ended NO-ROUTE while a copy travels. Those of its present slot are in one stream with it. -/
def State.earlier (s : State) (dst : Nat) (load : Load) : List Nat :=
  (s.packets.filter (fun e => e.2.load.ordered load && decide (e.2.dst = dst ∧ e.2.slab = none) &&
    s.me.former.contains (e.2.src, e.2.owner))).map (fun e => e.2.original.getD e.1)

/-- A request, by the id of its held copy, may still be performed: a copy of it stands somewhere, and its target has not performed it. -/
def State.unperformed (s : State) (id : Nat) : Bool :=
  s.packets.any (fun e => decide ((e.1 = id ∨ e.2.original = some id) ∧ e.2.load.class_ = 0) && !s.performed e.2)

/-- A request packet of the issuing thread. -/
def State.request (s : State) (dst : Nat) (addr cap1 : Word) (reg : Nat) (load : Load) : Packet :=
  { dst := dst, src := s.cur.chip, unit := 0, seq := 0, opens := false, stream := 0, holder := s.holder, addr := addr,
    cap1 := cap1, owner := s.owner, reg := reg, reg2 := reg + 1, slab := none, load := load, before := s.earlier dst load, original := none, launched := false, here := s.cur.chip,
    via := none }

end Sys2Proof.Machine
end

