-- ==== Sys2Proof/Machine/Operands.lean ====
section
/-! DEFINITION. Operand forms: registers, groups, streams and immediates (R17-R21, R62-R64, R97), the checks of R31
steps 1 to 5, the parks of R97, and the gate that every chain passes before its effect. -/

namespace Sys2Proof.Machine

/-- How a chain uses a register operand; `first`: the first register of a group is read, and all are written (R435). -/
inductive Use where
  | read | write | both | first
  deriving DecidableEq, Repr

/-- One operand as the checks see it: a register or group, a stream to pop, a stream to push, or an immediate. -/
inductive Opr where
  | none
  | reg (n count : Nat) (even : Bool) (use : Use) (trap : Bool)
  | pop (c : Nat)
  | push (c : Nat)
  | imm (v : Word)
  | named (n count : Nat) (even : Bool)   -- checked by name alone (TAKEM)
  deriving DecidableEq, Repr

/-- Restrictions by role (R24, R135, R164, R171, R198, R201): `never` traps whatever the role, `rdv` also once the partner has retired,
`loadQueue` and `storeQueue` (the second queue or the first) also when the queue would make the chain wait and the partner has retired, and
`unless n v` when the register n can be read and its low 8 bits are v. -/
inductive RoleRule where
  | any | rdv | notPair | never
  | loadQueue (second : Bool) | storeQueue (second : Bool)
  | unless (n v : Nat)
  deriving DecidableEq, Repr

/-- What a chain needs before its effect: whether it forms addresses (R25), its role rule, and its operands. -/
structure Needs where
  mem : Bool := false
  role : RoleRule := .any
  t : Opr := .none
  s : Opr := .none
  d : Opr := .none
  deriving DecidableEq, Repr

/-- The values of the operands that are read. -/
structure Vals where
  d : Word
  s : Word
  t : Word
  deriving DecidableEq, Repr

/-! ## Operands of the instruction shapes -/

def rdReg (n : Reg) : Opr := .reg n.toNat 1 false .read false
def wrReg (n : Reg) : Opr := .reg n.toNat 1 false .write false
def rwReg (n : Reg) : Opr := .reg n.toNat 1 false .both false
def rdOp (r : RegOp) : Opr := .reg r.n.toNat 1 false .read r.trap

/-- A group of registers that must begin at an even one (R17). -/
def rdGroup (r : RegOp) (count : Nat) : Opr := .reg r.n.toNat count true .read r.trap
def wrGroup (n : Reg) (count : Nat) : Opr := .reg n.toNat count true .write false
def rwGroup (n : Reg) (count : Nat) : Opr := .reg n.toNat count true .first false

/-- The operand S (R61, R97). -/
def srcOpr : Src → Opr
  | .reg r => rdOp r
  | .stream c => .pop c.toNat
  | .imm v => .imm v

/-- The operand T (R97). -/
def tgtOpr : Tgt → Opr
  | .reg r => rdOp r
  | .stream c => .pop c.toNat

/-- A written destination that may be a stream (R98). -/
def dstOpr : Dst → Opr
  | .reg n => wrReg n
  | .stream c => .push c.toNat

/-! ## Streams (R64) -/

/-- The thread's pair, when it has one. -/
def State.pair (s : State) : Option Pair :=
  match s.me.pair with
  | none => none
  | some q => tget? s.hereCore.pairs q

/-- The thread is the execute member of its pair; the access member otherwise. -/
def State.isExe (s : State) : Bool := decide (s.me.role = 2)

/-- How many values one direction of a binding holds (R159): the crossing sets it. -/
def portDepth (sameChip : Bool) (a b : Nat) : Nat :=
  if !sameChip then 64
  else if coreDie a = coreDie b ∧ (meshX a + 1 = meshX b ∨ meshX b + 1 = meshX a ∨ meshY a + 1 = meshY b ∨
      meshY b + 1 = meshY a ∨ a = b) then 4
  else if meshX a + 1 = meshX b ∨ meshX b + 1 = meshX a ∨ meshY a + 1 = meshY b ∨ meshY b + 1 = meshY a then 16
  else 64

/-- Values queued toward a port of a thread: in its queue, in flight in its package, or on the fabric (R160, R424). -/
def State.queuedTo (s : State) (chip core slot gen port : Nat) : Nat :=
  let p := s.pkg chip
  ((p.thread core slot).port port).queue.length + (p.jobs (isValueTo core slot gen port)).length +
  (s.packets.filter (fun e => match e.2.load with
    | .portValue v => decide (e.2.original = none) && !s.performed e.2 && decide (e.2.dst = chip ∧ v.dst = core ∧ v.slot = slot ∧ v.gen = gen ∧ v.port = port)
    | _ => false)).length

/-- Values queued toward the partner of one of the thread's ports, and the room for more. -/
def State.portOut (s : State) (port : Nat) : Nat :=
  let r := s.me.port port
  s.queuedTo r.peerChip (handleCore r.peer) (handleSlot r.peer) (handleGen r.peer) (opposite port)

/-- The state of a port of the issuing thread (R161). -/
def State.myPort (s : State) (port : Nat) : PortSt := (s.me.port port).st

/-- Values queued toward one of the thread's own ports and not yet popped (R161). -/
def State.portIn (s : State) (port : Nat) : Nat := s.queuedTo s.cur.chip s.cur.core s.cur.slot s.me.gen port

def State.portRoom (s : State) (port : Nat) : Bool :=
  let r := s.me.port port
  decide (s.portOut port < portDepth (decide (r.peerChip = s.cur.chip)) s.cur.core (handleCore r.peer))

/-- The mailbox word that the mbox stream would read (R149). -/
def Core.mboxWord (k : Core) : Option Word :=
  match k.mbox with
  | [] => none
  | e :: _ => some (match k.mboxPos with | 0 => e.hdr | 1 => e.w1 | 2 => e.w2 | _ => e.w3)

/-- How an operand stands: its value, a reason to park, or a trap of execution. -/
inductive Ready where
  | val (v : Word)
  | park (r : Reason)
  | trap (c : Cause) (v : Word)
  deriving DecidableEq, Repr

def chainWord0 (s : State) : Word := match s.cur.words with | [] => 0 | w :: _ => w.setWidth 64

/-- A queue access that must wait: ROLE once the partner has retired (R164). -/
def queueWaits (s : State) (partner : Option Nat) : Ready :=
  if partner = none then .trap .role (chainWord0 s) else .park .queue

/-- An access/execute queue as a source: its head, or why there is none (R163, R164, R200). -/
def queueHead (s : State) (code : Nat) (partner : Option Nat) (q : List QEntry) : Ready :=
  match q with
  | [] => queueWaits s partner
  | e :: _ => match e.val with
    | none => queueWaits s partner
    | some v => if e.bad then .trap .softError (word code) else .val v

/-- A stream as a source (R64, R97, R149, R160, R161, R164). A value pushed before the partner let go is still to come. -/
def State.source (s : State) (c : Nat) : Ready :=
  if c ≤ 5 then
    let r := s.me.port c
    match r.queue with
    | v :: _ => .val v
    | [] => (match s.myPort c with
      | .unbound => .trap .portUnbound (word c)
      | .broken => if s.portIn c = 0 then .trap .portUnbound (word c) else .park .portEmpty
      | _ => .park .portEmpty)
  else if c = 11 then
    (match s.hereCore.mbox with
    | [] => .park .mbox
    | e :: _ => if s.hereCore.mboxPos = 0 ∧ e.report.isSome then .trap .overflow (e.report.getD 0)
      else .val (s.hereCore.mboxWord.getD 0))
  else if c = 12 then .val 0
  else if c = 13 then .val (word s.self)
  else if c = 14 then .val (word s.cur.core)
  else if c = 15 then .val (word s.hereCore.cycle)
  else match s.pair with
    | none => .trap .role (chainWord0 s)
    | some q =>
      if c = 6 then queueHead s 6 q.accSlot q.lq0
      else if c = 7 then queueHead s 7 q.accSlot q.lq1
      else
        let mine := if s.isExe then q.bqToExe else q.bqToAcc
        queueHead s 10 (if s.isExe then q.accSlot else q.exeSlot) (mine.map (fun v => ⟨some v, false, 0⟩))

/-- A stream as a destination (R64, R97, R160, R161, R164). -/
def State.sink (s : State) (c : Nat) : Ready :=
  if c ≤ 5 then
    match s.myPort c with
    | .binding => .park .bind
    | .bound =>
      if !s.portRoom c then .park .portFull
      else if (s.me.port c).peerChip ≠ s.cur.chip ∧ ¬ s.unitAccepts s.cur.chip (s.me.port c).peerChip s.holder then .park .net
      else .val 0
    | _ => .trap .portUnbound (word c)
  else match s.pair with
    | none => .trap .role (chainWord0 s)
    | some q =>
      let full (n lim : Nat) (partner : Option Nat) : Ready :=
        if n < lim then .val 0 else queueWaits s partner
      if c = 8 then full q.sq0.length 16 q.accSlot
      else if c = 9 then full q.sq1.length 16 q.accSlot
      else if s.isExe then full q.bqToAcc.length 8 q.accSlot
      else full q.bqToExe.length 8 q.exeSlot

/-- The entry at the head of the mailbox removed, and its COMPLETION acquired (R149, R218). -/
def Package.takeMbox (p : Package) (c : Nat) : Package :=
  match (p.core c).mbox with
  | [] => p
  | e :: rest => (p.onCore c (fun k => { k with mbox := rest, mboxPos := 0 })).acquire c e.acquire

/-- The head of a stream source popped, when the chain has taken effect (R97). -/
def State.pop (s : State) (c : Nat) : State :=
  if c ≤ 5 then s.onMe (fun t => t.setPort c { t.port c with queue := (t.port c).queue.tail })
  else if c = 11 then
    (if s.hereCore.mboxPos < 3 then s.onHereCore (fun k => { k with mboxPos := k.mboxPos + 1 })
     else s.onHere (fun p => p.takeMbox s.cur.core))
  else match s.me.pair with
    | none => s
    | some q => s.onHereCore (fun k => match tget? k.pairs q with
      | none => k
      | some r => { k with pairs := tset k.pairs q (
          if c = 6 then { r with lq0 := r.lq0.tail }
          else if c = 7 then { r with lq1 := r.lq1.tail }
          else if c = 10 then (if s.isExe then { r with bqToExe := r.bqToExe.tail } else { r with bqToAcc := r.bqToAcc.tail })
          else r) })

/-- A value pushed on a stream destination (R97, R160). On a port it travels to the partner, over the fabric when the
partner is on another chip (R424). -/
def State.push (s : State) (c : Nat) (v : Word) : State :=
  if c ≤ 5 then
    let r := s.me.port c
    let pv : PortValue := ⟨s.owner, handleCore r.peer, handleSlot r.peer, handleGen r.peer, opposite c, v⟩
    if r.peerChip = s.cur.chip then s.onHere (fun p => p.addJob (.portv pv))
    else s.inject (s.request r.peerChip 0 0 c (.portValue pv))
  else match s.me.pair with
    | none => s
    | some q => s.onHereCore (fun k => match tget? k.pairs q with
      | none => k
      | some r => { k with pairs := tset k.pairs q (
          if c = 8 then { r with sq0 := r.sq0 ++ [v] }
          else if c = 9 then { r with sq1 := r.sq1 ++ [v] }
          else if s.isExe then { r with bqToAcc := r.bqToAcc ++ [v] }
          else { r with bqToExe := r.bqToExe ++ [v] }) })

/-! ## The checks of R31 and the parks of R97 -/

/-- A stream that traps ROLE: an access that would wait for a partner that has retired (R164). -/
def Ready.role? : Ready → Bool
  | .trap .role _ => true
  | _ => false

/-- The queue streams belong to one member of a pair (R163): lq to the execute thread as sources, sq to it as
destinations, bq to both. None of them may wait for a partner that has retired (R31, R164). -/
def Opr.roleBad (s : State) : Opr → Bool
  | .pop c => (if c = 6 ∨ c = 7 then s.me.pair.isNone || !s.isExe else decide (c = 10) && s.me.pair.isNone) || (s.source c).role?
  | .push c => (if c = 8 ∨ c = 9 then s.me.pair.isNone || !s.isExe else decide (c = 10) && s.me.pair.isNone) || (s.sink c).role?
  | _ => false

/-- The thread is no access member of a pair, or its queue would make it wait for a partner that has retired (R164, R171). -/
def State.queueBad (s : State) (waits : Pair → Bool) : Bool :=
  decide (s.me.role ≠ 1) || (match s.pair with
    | none => true
    | some q => q.exeSlot.isNone && waits q)

/-- A load queue has no entry left, or a store queue is empty (R199, R200). -/
def Pair.loadFull (q : Pair) (second : Bool) : Bool := decide (16 ≤ (if second then q.lq1 else q.lq0).length)
def Pair.storeEmpty (q : Pair) (second : Bool) : Bool := (if second then q.sq1 else q.sq0).isEmpty

def RoleRule.bad (s : State) : RoleRule → Bool
  | .any => false
  | .loadQueue b => s.queueBad (fun q => q.loadFull b)
  | .storeQueue b => s.queueBad (fun q => q.storeEmpty b)
  | .rdv => match s.pair with
    | none => true
    | some q => !q.left && (if s.isExe then q.accSlot.isNone else q.exeSlot.isNone)
  | .notPair => s.me.pair.isSome
  | .never => true
  | .unless n v => decide (n < s.me.len) && (s.hereCore.reg s.me n).full && !(s.hereCore.reg s.me n).bad &&
      decide (lowBits (s.reg n) 8 = v)

/-- The registers that an operand names, as numbers. -/
def Opr.numbers : Opr → List Nat
  | .reg n count _ _ _ => span n 1 count
  | .named n count _ => span n 1 count
  | _ => []

def Opr.alignBad : Opr → List Nat
  | .reg n _ even _ _ => if even && n % 2 == 1 then [n] else []
  | .named n _ even => if even && n % 2 == 1 then [n] else []
  | _ => []

def Opr.windowBad (len : Nat) : Opr → List Nat
  | .reg n count _ _ _ => if len < n + count then [n] else []
  | .named n count _ => if len < n + count then [n] else []
  | _ => []

def Use.reads : Use → Bool
  | .write => false
  | _ => true

/-- The registers of an operand that a chain reads. -/
def Use.readOf (u : Use) (n count : Nat) : List Nat :=
  match u with
  | .write => []
  | .first => [n]
  | _ => span n 1 count

/-- The empty registers of a source whose trap bit is set (R19). -/
def Opr.emptyBad (s : State) : Opr → List Nat
  | .reg n count _ use trap => if trap && use.reads then (span n 1 count).filter (fun i => !(s.hereCore.reg s.me i).full) else []
  | _ => []

/-- Whether an operand is ready, and its value (R19, R20, R97). -/
def Opr.ready (s : State) : Opr → Ready
  | .none => .val 0
  | .named _ _ _ => .val 0
  | .imm v => .val v
  | .pop c => s.source c
  | .push c => s.sink c
  | .reg n count _ use _ =>
    if (span n 1 count).any (fun i => !(s.hereCore.reg s.me i).full) then .park .reg
    else match (use.readOf n count).find? (fun i => (s.hereCore.reg s.me i).bad) with
      | some i => .trap .softError (word i)
      | Option.none => .val (s.reg n)

def Ready.value : Ready → Word
  | .val v => v
  | _ => 0

def Ready.park? : Ready → Option Reason
  | .park r => some r
  | _ => none

def Ready.trap? : Ready → Option (Cause × Word)
  | .trap c v => some (c, v)
  | _ => none

/-- What the gate finds. -/
inductive Gate where
  | ok (v : Vals)
  | trap (c : Cause) (v : Word)
  | park (r : Reason)
  deriving DecidableEq, Repr

/-- The first failed check's register number; when several operands fail the same check, which one is a free choice
(log 9). -/
def firstNumber (s : State) (l : List Nat) : Word := word (pickFrom l (s.free 1) 0)

/-- The checks of R31 steps 1 to 5, then the parks in the order T, S, D (R97), then the traps of operands. -/
def gate (s : State) (n : Needs) : Gate :=
  let ops := [n.t, n.s, n.d]
  if n.mem && decide (s.me.role = 2) then .trap .illegal (chainWord0 s)
  else if n.role.bad s || ops.any (fun o => o.roleBad s) then .trap .role (chainWord0 s)
  else if (ops.flatMap Opr.alignBad) ≠ [] then .trap .alignOperand (firstNumber s (ops.flatMap Opr.alignBad))
  else if (ops.flatMap (Opr.windowBad s.me.len)) ≠ [] then .trap .window (firstNumber s (ops.flatMap (Opr.windowBad s.me.len)))
  else if (ops.flatMap (Opr.emptyBad s)) ≠ [] then .trap .empty (firstNumber s (ops.flatMap (Opr.emptyBad s)))
  else
    let rs := ops.map (fun o => o.ready s)
    match firstSome rs Ready.park? with
    | some x => .park x
    | none =>
      match firstSome rs Ready.trap? with
      | some (c, v) => .trap c v
      | none => .ok ⟨(n.d.ready s).value, (n.s.ready s).value, (n.t.ready s).value⟩

/-- The stream sources that a chain pops when it takes effect (R97). Of a chain that names one stream as S and as T the spec does not say
whether it takes one entry or two: both operands have the head, and it is popped once, which is the model's choice (log 47). -/
def Needs.pops (n : Needs) : List Nat :=
  match n.s, n.t with
  | .pop a, .pop b => if a = b then [a] else [a, b]
  | .pop a, _ => [a]
  | _, .pop b => [b]
  | _, _ => []

/-- The thread of the issue context may run a chain: its package runs and it is READY. -/
def State.issuing (s : State) : Bool := decide (s.here.phase = .running) && decide (s.me.life = .ready)

/-- An OVERFLOW trap on the mailbox consumes the report of its head entry (R52, R149). -/
def State.consumeReport (s : State) (c : Cause) : State :=
  match c with
  | .overflow => s.onHereCore (fun k => { k with mbox := match k.mbox with
    | [] => []
    | e :: rest => { e with report := none } :: rest })
  | _ => s

/-- What a chain waits for that an unready operand parks: its registers, its stream, or, where a port toward another chip has room, that
chip's source unit (R28, R328). -/
def Opr.wait (s : State) : Opr → Wait
  | .reg n count _ _ _ => .regs n count
  | .pop c => .source c
  | .push c =>
    if 5 < c then .sink c
    else if s.sink c = .park .net then .unit (s.me.port c).peerChip
    else .ports [c]
  | _ => .none

/-- What a chain that parks at the gate waits for: the first unready operand in the order T, S, D (R97). -/
def Needs.wait (s : State) (n : Needs) : Wait :=
  (firstSome [n.t, n.s, n.d] (fun o => (o.ready s).park?.map (fun _ => o.wait s))).getD .none

/-- A chain that parks at the gate (R28). -/
def State.parkGate (s : State) (n : Needs) (r : Reason) : State := (s.parkFor (n.wait s) r).state

/-- One chain: its checks, then its effect; streams are popped only when it takes effect (R97). -/
def chain (s : State) (n : Needs) (body : Vals → State → Res) : Host.Outcome State Fault Refusal :=
  if s.issuing then
    .next (match gate s n with
      | .trap c v => (s.consumeReport c).takeTrap c 0 v
      | .park r => s.parkGate n r
      | .ok v =>
        let r := body v s
        (if r.took then r.map (fun s => n.pops.foldl State.pop s) else r).state)
  else .fault .notIssuing

/-- A cause of R31's step 6. -/
def Cause.late : Cause → Bool
  | .illegal | .role | .alignOperand | .window | .empty => false
  | _ => true

/-- A chain that names a grid slot of its die in an operand (R329): NOT-HOLDER comes first after the traps of R31 steps 1 to 5, and so
before those of its other operands; its parks come before it (R31). -/
def chainSlot (s : State) (n : Needs) (slot : Opr) (body : Vals → State → Res) : Host.Outcome State Fault Refusal :=
  match gate s n, slot.ready s with
  | .trap c _, .val v =>
    let i := bits v 5 0
    if c.late && decide (s.here.slotHolder (coreDie s.cur.core) i ≠ s.holder) then
      chain s {} (fun _ s => .trap s .notHolder 0 (word (slotRid (coreDie s.cur.core) i)))
    else chain s n body
  | _, _ => chain s n body

/-- A chain whose operands are ready and whose effect is one state. -/
def chainNext (s : State) (n : Needs) (body : Vals → State → State) : Host.Outcome State Fault Refusal :=
  chain s n (fun v s => .next (body v s))

/-- The value written to a destination that may be a stream (R98). -/
def State.writeDst (s : State) (d : Dst) (v : Word) : State :=
  match d with
  | .reg n => s.setReg n.toNat v
  | .stream c => s.push c.toNat v

end Sys2Proof.Machine
end

