-- ==== Sys2Proof/Machine/Flags.lean ====
section
/-! DEFINITION. The flags of tc.flags and how they are set and cleared (R23, R47-R49, R133). -/

namespace Sys2Proof.Machine

def flagNV : Nat := 16
def flagDZ : Nat := 8
def flagOF : Nat := 4
def flagUF : Nat := 2
def flagNX : Nat := 1

/-- The flags of a value that rounded: inexact, and overflow or underflow beside it (R47). -/
def flagIf (b : Bool) (f : Nat) : Nat := if b then f else 0

/-- Two sets of flags together. -/
def orFlags (a b : Nat) : Nat := a ||| b

/-- Flags set in a thread, which keeps those it has: they are sticky (R23). -/
def Thread.raise (t : Thread) (f : Nat) : Thread := { t with flags := t.flags ||| word (f % 32) }

def State.raise (s : State) (f : Nat) : State := s.onMe (fun t => t.raise f)

/-- Flags of an asynchronous operation set in the thread that issued it, while that thread lives (R48). -/
def Package.raise (p : Package) (o : Owner) (f : Nat) : Package :=
  if p.ownerLive o then p.onThread o.core o.slot (fun t => t.raise f) else p

/-- Flags cleared by CLRFLG (R133). -/
def Thread.clearFlags (t : Thread) (mask : Nat) : Thread := { t with flags := t.flags &&& ~~~ word (mask % 32) }

end Sys2Proof.Machine
end

