-- ==== Sys2Proof/Machine/Translate.lean ====
section
/-! DEFINITION. Address translation: roots, the five-level walk, its checks against the ownership map, the TLBs
(R356-R359), and the instruction fetch (R59, R68, R137, R138, R165, R224). -/

namespace Sys2Proof.Machine

/-- What a translation gives: a physical address, a failure with its DETAIL, or a walk still to come. -/
inductive Xlate where
  | ok (pa : Nat)
  | fail (f : XlateFail)
  | walk
  deriving DecidableEq, Repr

def notMapped : Nat := 1
def notHeld : Nat := 2
def noPermission : Nat := 3

/-- The DETAIL of a failed translation (R357, R358). -/
def XlateFail.detail : XlateFail → Nat
  | .notMapped => Machine.notMapped
  | .table _ | .page _ _ _ => notHeld
  | .permission => noPermission

/-- The permissions that an access needs (R357). -/
structure Perm where
  r : Bool := false
  w : Bool := false
  x : Bool := false
  deriving DecidableEq, Repr

/-- A holder's root: the address in its bound root slot, or 0 (R358, R397). -/
def Package.rootOf (p : Package) (h : Nat) : Nat :=
  match p.holderRec h with
  | some r => (match r.rootSlot with
    | some i => (tget p.roots i 0).toNat
    | none => 0)
  | none => 0

/-- A whole page lies in memory that the holder holds, or in the control window (R358). -/
def Package.pageHeld (p : Package) (h pa size : Nat) : Bool :=
  (decide (0x100000000 ≤ pa) && decide (pa + size ≤ 0x100010000)) || p.holds h pa size

/-- A failure against the ownership map is one still: what was not held has not come to the holder since (R358). -/
def Package.failsStill (p : Package) (h : Nat) : XlateFail → Bool
  | .table t => !p.holds h t 4096
  | .page _ base size => !p.pageHeld h base size
  | _ => true

/-- What a walk ends with. -/
inductive Walked where
  | page (e : TlbEntry)
  | fail (f : XlateFail)
  deriving DecidableEq, Repr

/-- Reserved bits of a table entry (R357). -/
def entryReserved (e : Nat) : Bool := decide (e / 2 ^ 52 ≠ 0) || decide (e / 128 % 32 ≠ 0) || decide (e / 2 % 2 = 1)

/-- The key of a table that a walk finds below a level, in a walk cache. -/
def stepKey (level va : Nat) : Nat := va / 2 ^ (12 + 9 * level) * 8 + level

/-- One level of the walk (R356-R358): the table at `table`, the entries above already followed. A group of 16 entries
under SPAN may disagree; each access may then take any of them that is a valid SPAN leaf (`pick`, log 49). A table that the walk cache names may be taken from there,
level by level (`old`), whatever memory holds now (R359); the cache goes along with what the walk finds. An uncorrectable error in an
entry is not seen (log 47). -/
def Package.walkLevel (p : Package) (h va pick old : Nat) : Tab Nat → Nat → Nat → Walked × Tab Nat
  | cache, level, table =>
    match level with
    | 0 => (leafOrFail 0 table, cache)
    | l + 1 =>
      let e := p.mem.read (table + va / 2 ^ (12 + 9 * (l + 1)) % 512 * 8) 8
      match (if old / 2 ^ l % 2 = 1 then tget? cache (stepKey (l + 1) va) else none) with
      | some next => p.walkLevel h va pick old cache l next
      | none =>
        if !p.holds h table 4096 then (.fail (.table table), cache)
        else if e % 2 = 0 ∨ entryReserved e then (.fail .notMapped, cache)
        else if e / 32 % 2 = 1 then (leafOrFail (l + 1) table, cache)
        else if e / 64 % 2 = 1 then (.fail .notMapped, cache)
        else
          let next := e % 2 ^ 52 / 4096 * 4096
          p.walkLevel h va pick old (tset cache (stepKey (l + 1) va) next) l next
where
  leafOrFail (level table : Nat) : Walked :=
    let index := va / 2 ^ (12 + 9 * level) % 512
    let e := p.mem.read (table + index * 8) 8
    if !p.holds h table 4096 then .fail (.table table)
    else if e % 2 = 0 ∨ entryReserved e then .fail .notMapped
    else if e / 32 % 2 = 0 ∨ level = 4 then .fail .notMapped
    else
      let spanned := e / 64 % 2 = 1
      if spanned ∧ level = 3 then .fail .notMapped
      else
        let e := if spanned then
            let g := p.mem.read (table + (index / 16 * 16 + pick % 16) * 8) 8
            if g % 2 = 1 ∧ g / 32 % 2 = 1 ∧ g / 64 % 2 = 1 ∧ !entryReserved g then g else e
          else e
        let size := 2 ^ (12 + 9 * level) * (if spanned then 16 else 1)
        let base := e % 2 ^ 52 / 4096 * 4096
        if base % size ≠ 0 then .fail .notMapped
        else if !p.pageHeld h base size then .fail (.page (base + va % size) base size)
        else .page ⟨va / size * size, size, base, e / 4 % 2 = 1, e / 8 % 2 = 1, e / 16 % 2 = 1, none⟩

/-- The walk of a holder's tables as memory holds them (R356). -/
def Package.walkTables (p : Package) (h va pick : Nat) : Walked := (p.walkLevel h va pick 0 [] 4 (p.rootOf h)).1

/-- The identity translation of a holder whose root is 0 (R358). -/
def Package.identity (p : Package) (h va : Nat) : Xlate :=
  if p.pageHeld h (va / 4096 * 4096) 4096 then .ok va else .fail (.page va (va / 4096 * 4096) 4096)

/-- A page contains an address. -/
def TlbEntry.covers (e : TlbEntry) (va : Nat) : Bool := decide (e.va ≤ va) && decide (va < e.va + e.size)

/-- Two pages meet. -/
def TlbEntry.meets (e o : TlbEntry) : Bool := decide (o.va < e.va + e.size) && decide (e.va < o.va + o.size)

/-- A page that a core's TLB holds and that contains an address. -/
def Core.tlbHit (k : Core) (va : Nat) : Option TlbEntry := k.tlb.find? (fun e => e.covers va)

/-- A page of a holder that the second level of a cluster holds. -/
def Cluster.tlbHit (k : Cluster) (h va : Nat) : Option TlbEntry :=
  (k.tlb.find? (fun e => decide (e.1 = h) && e.2.covers va)).map (·.2)

/-- A translated access judged by its page's permissions (R357). -/
def TlbEntry.access (e : TlbEntry) (va : Nat) (need : Perm) : Xlate :=
  match e.fail with
  | some d => .fail d
  | none =>
    if (need.r && !e.r) || (need.w && !e.w) || (need.x && !e.x) then .fail .permission else .ok (e.pa + (va - e.va))

/-- The translation of a virtual address by a core, under its holder's root (R356-R359). A cached translation may have
been replaced, in the core's TLB (`keep` false) or in the second level of its cluster (`deep` false). A failed walk whose cause the map
has removed since is made again (R358). -/
def Package.xlate (p : Package) (c va : Nat) (need : Perm) (keep deep : Bool) : Xlate :=
  let h := p.coreHolder c
  let second : Xlate := match (if deep then (p.cluster (clusterOf c)).tlbHit h va else none) with
    | some e => e.access va need
    | none => .walk
  if 2 ^ 57 ≤ va then .fail .notMapped
  else if p.rootOf h = 0 then p.identity h va
  else match (p.core c).tlbHit va with
    | some e => if (match e.fail with
        | some f => p.failsStill h f
        | none => keep) then e.access va need else second
    | none => second

/-- The result of a failed walk taken by the chain that waited for it. -/
def Package.takeFailure (p : Package) (c va : Nat) : Package :=
  p.onCore c (fun k => { k with tlb := k.tlb.filter (fun e => !(e.fail.isSome && e.covers va)) })

/-- Walks at work on a die: at most 32 (R359). -/
def Package.walksOn (p : Package) (die : Nat) : Nat :=
  (p.jobs (fun j => match j with
    | .walk cs _ => decide (coreDie (cs.headD 0) = die)
    | _ => false)).length

/-- A walk started. A core whose holder has the same walk in progress on its die waits for that one; and while the die has 32, none
is started and the chain tries again (R359). -/
def Package.startWalk (p : Package) (c va : Nat) : Package :=
  let page := va / 4096 * 4096
  let p := p.onCore c (fun k => { k with tlb := k.tlb.filter (fun e => !e.covers va) })
  match firstSome p.flights (fun e => match e.2 with
    | .walk cs v =>
      if v = page ∧ coreDie (cs.headD 0) = coreDie c ∧ p.coreHolder (cs.headD 0) = p.coreHolder c then some (e.1, cs) else none
    | _ => none) with
  | some (id, cs) => if cs.contains c then p else p.setJob id (.walk (cs ++ [c]) page)
  | none => if p.walksOn (coreDie c) < 32 then p.addJob (.walk [c] page) else p

/-- A translation of the issuing core. Cached entries may be dropped at any access: a free choice, level by level. -/
def State.xlate (s : State) (va : Nat) (need : Perm) (use : Nat) : Xlate :=
  let f := s.free (100 + use)
  s.here.xlate s.cur.core va need (decide (f % 2 = 0)) (decide (f / 2 % 2 = 0))

/-- A list of at most n entries without one of free choice, where it is full. -/
def roomFor {α : Type} (n pick : Nat) (l : List α) : List α := if l.length < n then l else l.eraseIdx (pick % l.length)

/-- A page in a core's TLB of 64 entries; which one a full TLB loses is a free choice. -/
def Core.addPage (k : Core) (e : TlbEntry) (pick : Nat) : Core :=
  { k with tlb := e :: roomFor 64 pick (k.tlb.filter (fun o => !e.meets o)) }

/-- A page in the second level of a cluster, of 1,024 entries. -/
def Cluster.addPage (k : Cluster) (h : Nat) (e : TlbEntry) (pick : Nat) : Cluster :=
  { k with tlb := (h, e) :: roomFor 1024 pick (k.tlb.filter (fun o => !(decide (o.1 = h) && e.meets o.2))) }

/-- A walk's end at one core that waited for it: a page enters both levels, a failure stands in the core's TLB until the chain takes
it, and the walk cache keeps the tables found. -/
def Package.walkEnds (p : Package) (c : Nat) (h va : Nat) (w : Walked × Tab Nat) (pick : Nat) : Package :=
  let p := p.onCore c (fun k => { k with walked := w.2 })
  match w.1 with
  | .page e => (p.onCore c (fun k => k.addPage e pick)).onCluster (clusterOf c) (fun k => k.addPage h e pick)
  | .fail d => p.onCore c (fun k => k.addPage ⟨va, 4096, 0, false, false, false, some d⟩ pick)

/-- TRANSLATION_WALK_COMPLETE (R357-R359): the walk of the core that asked for it first, with its walk cache. -/
def Package.finishWalk (p : Package) (cs : List Nat) (va pick old evict : Nat) : Package :=
  let first := cs.headD 0
  let h := p.coreHolder first
  let w := p.walkLevel h va pick old (p.core first).walked 4 (p.rootOf h)
  cs.foldl (fun p c => p.walkEnds c h va w evict) p

/-! ## A core may not take plain accesses between its scope's arrival and the refresh (R216) -/

/-- A commit of a core's scope is to come or under way. -/
def gates (c : Nat) : Job → Bool
  | .commit k => k.scope.contains c
  | _ => false

def Package.gated (p : Package) (c : Nat) : Bool := p.flights.any (fun e => gates c e.2)

/-! ## Fetch -/

/-- What fetching one word gives. -/
inductive Fetch where
  | word (h : Half)
  | fault (detail va : Nat)
  | wait (s : State)

/-- The halfword at an offset of a cached line. -/
def CacheLine.half (l : CacheLine) (va : Nat) : Half :=
  ((l.bytes[(va + 1) % 64]?).getD 0) ++ ((l.bytes[va % 64]?).getD 0)

/-- One instruction word through the instruction cache (R165, R205, R224). A missing line is translated and its fill
started; the chain is replayed until it is there (R100). -/
def State.fetchWord (s : State) (va use : Nat) : Fetch :=
  let line := lineOf va
  match s.hereCore.icache.find? (fun l => decide (l.va = line)) with
  | some l => .word (l.half va)
  | none =>
    match s.xlate va { x := true } use with
    | .fail d => .fault d.detail va
    | .walk => .wait (s.onHere (fun p => p.startWalk s.cur.core va))
    | .ok pa =>
      let j : Job := .fill s.cur.core line (lineOf pa)
      .wait (if (s.here.jobs (fun k => decide (k = j))).isEmpty then s.onHere (fun p => p.addJob j) else s)

/-- The words of the chain at a word address, up to its base word or a fifth prefix (R59, R66, R68). All are fetched before any is decoded,
so that a word that cannot be fetched comes before an ILLEGAL that an earlier one makes (log 49). -/
def State.fetchWords (s : State) (pc : BitVec 56) : Nat → Nat → List Half → Fetch × List Half
  | 0, _, acc => (.word 0, acc)
  | room + 1, k, acc =>
    match s.fetchWord ((pc.toNat + k) % 2 ^ 56 * 2) k with
    | .word h => if isPrefix h then s.fetchWords pc room (k + 1) (acc ++ [h]) else (.word h, acc ++ [h])
    | f => (f, acc)

/-- ICACHE_FILL: one line read for a core, from M for its own PRIVATE banks and from its view otherwise; a line with
unstable words comes from one version (R165, R224). A full cache loses a line of free choice. A word with an uncorrectable error is
fetched as its bytes stand, with no trap: R34 and R169 speak of data reads alone, and this is the model's choice (log 47). A line of a host
window is read whether or not the host link is up (log 28). -/
def Package.fillLine (p : Package) (c va pa free1 free2 : Nat) : Package :=
  let k := p.core c
  let fromM := p.inPrivate c pa || (free1 % 2 == 1 && (spanWords pa 64).any (fun w => (tget? k.unstable w).isSome))
  let m := if fromM then p.mem else k.view
  let line : CacheLine := ⟨va, (m.bytes pa 64).map (·.2)⟩
  let old := k.icache.filter (fun l => decide (l.va ≠ va))
  p.setCore c { k with icache := line :: (if old.length < 512 then old else old.eraseIdx (free2 % old.length)) }

/-! ## The barrel (R137-R139) -/

/-- A slot is eligible in the core's present cycle (R137). -/
def Core.eligible (k : Core) (slot : Nat) : Bool :=
  let t := k.thread slot
  decide (t.life = .ready) && decide (t.lastIssue + t.gap ≤ k.cycle)

/-- The slot that issues: slot 63 at service priority, else round robin from the pointer (R138). -/
def Core.selectSlot (k : Core) : Option Nat :=
  if k.eligible 63 && (k.thread 63).prio.getLsbD 0 then some 63
  else match firstIn k.ptr (64 - k.ptr) k.eligible with
    | some i => some i
    | none => firstIn 0 k.ptr k.eligible

/-- The core after a slot has been selected in this cycle: its gap counted and the pointer moved (R137, R138). The cycle is counted before
its chain reads the count (R167, log 49). -/
def Core.turnTaken (k : Core) (slot : Nat) : Core :=
  let service := slot == 63 && (k.thread 63).prio.getLsbD 0
  { (k.setThread slot { k.thread slot with lastIssue := k.cycle, gap := 8 }) with
    cycle := k.cycle + 1, ptr := if service then k.ptr else (slot + 1) % 64 }

/-- What a core cycle comes to: no chain (with the state it leaves), or a chain to be executed. -/
inductive Turn where
  | none (s : State)
  | issue (s : State) (i : Instr)

/-! ## Issue -/

/-- The home of a word (R157): a core, or the controller of an HBM channel (R354). -/
def homeOf (a : Nat) : Nat := if a < 0x20000000 then a / 0x80000 else 1024 + a / 4096 % 256

def FeOp.waits : FeOp → Bool
  | .ldf | .ldfe | .stef => true
  | _ => false

/-- The waiters that a home holds (R157). -/
def Package.waiters (p : Package) (home : Nat) : Nat :=
  (p.jobs (fun j => match j with | .fe h => h.enlisted && decide (homeOf h.addr = home) | _ => false)).length

/-- The network holds an operation that must wait back from a home whose list is full (R157). -/
def Package.heldBack (p : Package) (h : HomeFe) : Bool := h.op.waits && decide (256 ≤ p.waiters (homeOf h.addr))

/-- A thread whose claim is open: it is settled before the thread goes anywhere (R386). -/
def Package.claiming (p : Package) (t : Thread) : Bool :=
  match t.pend.bind p.job with
  | some (.claim _) => true
  | _ => false

/-- An issue turn of a thread whose request is out (R100): the chain has no effect, and cannot trap, until the reply is there; once its home
has it enlisted, or holds it back, the thread parks (R157, R175). -/
def State.heldTurn (s : State) : Job → State
  | .fe h => if h.enlisted || s.here.heldBack h then s.park .word else s
  | _ => s

/-- The issue of one slot: an open claim is waited for (R386); then cancellation and a lost resource (R30, R358), a request that is out (R100),
and the fetch of the chain (R68). -/
noncomputable def State.issueSlot (s : State) (chip core slot : Nat) : Turn :=
  let s := { (s.onPkg chip (fun p => p.onCore core (fun k => k.turnTaken slot))) with cur := ⟨chip, core, slot, []⟩ }
  let t := s.me
  if s.here.claiming t then .none s else
  match t.cancel with
  | some cell => .none (s.onHere (fun p => p.retireCancelled chip core slot cell))
  | Option.none =>
    match t.lost with
    | some r => .none (((s.onHere (fun p => p.dropJobs (withdrawnBy s.owner))).onMe (fun t => { t with lost := Option.none })).takeTrap .reclaimed 0 (Machine.word r))
    | Option.none =>
      match t.pend.bind s.here.job with
      | some j => .none (s.heldTurn j)
      | Option.none =>
      match s.fetchWords t.pc 5 0 [] with
      | (.wait s', _) => .none (if s.here.gated core then s else s')
      | (.fault d va, _) => .none ((s.onHere (fun p => p.takeFailure core va)).takeTrap .memFault d (Machine.word va))
      | (.word _, ws) =>
        let s := { s with cur := ⟨chip, core, slot, ws⟩ }
        match decode ws with
        | .ok (i, _) => .issue s i
        | .error e => .issue s (.illegalChain e)

/-- The cluster's clock runs for its cores while it is ACTIVE or GATED (R167, R378). -/
def Package.clocked (p : Package) (core : Nat) : Bool :=
  let k := p.cluster (clusterOf core)
  decide (k.power = .active) || decide (k.power = .gated)

/-- One cycle of a core (R137). -/
noncomputable def State.coreCycle (s : State) (chip core : Nat) : Turn :=
  let p := s.pkg chip
  if p.phase = .running ∧ p.clocked core then
    match (if (p.cluster (clusterOf core)).power = .active then (p.core core).selectSlot else Option.none) with
    | some slot => s.issueSlot chip core slot
    | Option.none => .none (s.onPkg chip (fun p => p.onCore core (fun k => { k with cycle := k.cycle + 1 })))
  else .none s

end Sys2Proof.Machine
end

