-- ==== Sys2Proof/Machine/Integer.lean ====
section
/-! DEFINITION. Pages 0 and 1 without floating point: integer arithmetic and logic, immediates, selection, bit fields, counts
and CRC (R104 to R111). -/

namespace Sys2Proof.Machine

/-! ## Arithmetic on words -/

/-- The low 32 bits, sign-extended (R104). -/
def sext32 (x : Word) : Word := (x.setWidth 32).signExtend 64

def boolWord (b : Bool) : Word := if b then 1 else 0

/-- The high half of the signed product (R104). -/
def mulHigh (a b : Word) : Word := BitVec.ofInt 64 (a.toInt * b.toInt / 2 ^ 64)

/-- Signed division that truncates toward zero (R105). -/
def divSigned (a b : Word) : Word :=
  if b = 0 then BitVec.allOnes 64
  else if a = BitVec.intMin 64 ∧ b = BitVec.allOnes 64 then a
  else BitVec.ofInt 64 (a.toInt.tdiv b.toInt)

def remSigned (a b : Word) : Word :=
  if b = 0 then a
  else if a = BitVec.intMin 64 ∧ b = BitVec.allOnes 64 then 0
  else BitVec.ofInt 64 (a.toInt - a.toInt.tdiv b.toInt * b.toInt)

def divUnsigned (a b : Word) : Word := if b = 0 then BitVec.allOnes 64 else word (a.toNat / b.toNat)
def remUnsigned (a b : Word) : Word := if b = 0 then a else word (a.toNat - a.toNat / b.toNat * b.toNat)

/-- A shift amount: bits [5:0] of S. -/
def amount (b : Word) : Nat := b.toNat % 64

/-- The length of a field under a control value, cut at bit 63 (R109). -/
def fieldLen (ctl : Word) : Nat := Nat.min (bits ctl 11 6 + 1) (64 - bits ctl 5 0)

/-- Extraction of a bit field (R109). -/
def extractField (v ctl : Word) : Word :=
  let n := fieldLen ctl
  let f := v.toNat / 2 ^ bits ctl 5 0 % 2 ^ n
  if ctl.getLsbD 12 ∧ 2 ^ (n - 1) ≤ f then BitVec.ofInt 64 ((f : Int) - 2 ^ n) else word f

/-- Insertion of a bit field (R109). -/
def insertField (d v ctl : Word) : Word :=
  let mask := word (2 ^ fieldLen ctl - 1) <<< bits ctl 5 0
  (d &&& ~~~mask) ||| ((v <<< bits ctl 5 0) &&& mask)

/-- Trailing zero bits, 64 for zero (R110). -/
def trailingZeros (v : Word) : Nat := (firstIn 0 64 v.getLsbD).getD 64

/-- The eight bytes in reverse order (R110). -/
def byteSwap (v : Word) : Word :=
  (span 0 1 8).foldl (fun r i => r ||| ((v >>> (8 * i) &&& 255) <<< (8 * (7 - i)))) 0

/-- Eight steps of the reflected CRC-32C polynomial (R111). -/
def crcBits : Nat → BitVec 32 → BitVec 32
  | 0, c => c
  | n + 1, c => crcBits n (if c.getLsbD 0 then (c >>> 1) ^^^ 0x82F63B78#32 else c >>> 1)

/-- CRC-32C over the low bytes of S, least significant first (R111). -/
def crcSteps (d v : Word) (n : Nat) : Word :=
  ((span 0 1 n).foldl (fun c i => crcBits 8 (c ^^^ ((v >>> (8 * i)).setWidth 8).setWidth 32)) (d.setWidth 32)).setWidth 64

/-! ## Shapes -/

/-- D read and written from D and S. -/
def binary (f : Word → Word → Word) (d : Reg) (src : Src) (s : State) : Host.Outcome State Fault Refusal :=
  chainNext s { s := srcOpr src, d := rwReg d } (fun v s => s.setReg d.toNat (f v.d v.s))

/-- D written from S. -/
def unary (f : Word → Word) (d : Reg) (src : Src) (s : State) : Host.Outcome State Fault Refusal :=
  chainNext s { s := srcOpr src, d := wrReg d } (fun v s => s.setReg d.toNat (f v.s))

/-- D read and written from D and an immediate. -/
def withImm (f : Word → Word) (d : Reg) (s : State) : Host.Outcome State Fault Refusal :=
  chainNext s { d := rwReg d } (fun v s => s.setReg d.toNat (f v.d))

/-! ## R104, R105 -/

def execAdd (d : Reg) (src : Src) (s : State) : Host.Outcome State Fault Refusal := binary (fun a b => a + b) d src s
def execAddW (d : Reg) (src : Src) (s : State) : Host.Outcome State Fault Refusal := binary (fun a b => sext32 (a + b)) d src s
def execSub (d : Reg) (src : Src) (s : State) : Host.Outcome State Fault Refusal := binary (fun a b => a - b) d src s
def execSubW (d : Reg) (src : Src) (s : State) : Host.Outcome State Fault Refusal := binary (fun a b => sext32 (a - b)) d src s
def execMul (d : Reg) (src : Src) (s : State) : Host.Outcome State Fault Refusal := binary (fun a b => a * b) d src s
def execMulW (d : Reg) (src : Src) (s : State) : Host.Outcome State Fault Refusal := binary (fun a b => sext32 (a * b)) d src s
def execMulh (d : Reg) (src : Src) (s : State) : Host.Outcome State Fault Refusal := binary mulHigh d src s
def execDiv (d : Reg) (src : Src) (s : State) : Host.Outcome State Fault Refusal := binary divSigned d src s
def execDivu (d : Reg) (src : Src) (s : State) : Host.Outcome State Fault Refusal := binary divUnsigned d src s
def execRem (d : Reg) (src : Src) (s : State) : Host.Outcome State Fault Refusal := binary remSigned d src s
def execRemu (d : Reg) (src : Src) (s : State) : Host.Outcome State Fault Refusal := binary remUnsigned d src s
def execAnd (d : Reg) (src : Src) (s : State) : Host.Outcome State Fault Refusal := binary (fun a b => a &&& b) d src s
def execOr (d : Reg) (src : Src) (s : State) : Host.Outcome State Fault Refusal := binary (fun a b => a ||| b) d src s
def execXor (d : Reg) (src : Src) (s : State) : Host.Outcome State Fault Refusal := binary (fun a b => a ^^^ b) d src s
def execShl (d : Reg) (src : Src) (s : State) : Host.Outcome State Fault Refusal := binary (fun a b => a <<< amount b) d src s
def execShlW (d : Reg) (src : Src) (s : State) : Host.Outcome State Fault Refusal :=
  binary (fun a b => sext32 (a <<< (b.toNat % 32))) d src s
def execShr (d : Reg) (src : Src) (s : State) : Host.Outcome State Fault Refusal := binary (fun a b => a >>> amount b) d src s
def execSar (d : Reg) (src : Src) (s : State) : Host.Outcome State Fault Refusal :=
  binary (fun a b => a.sshiftRight (amount b)) d src s
def execMin (d : Reg) (src : Src) (s : State) : Host.Outcome State Fault Refusal :=
  binary (fun a b => if a.toInt ≤ b.toInt then a else b) d src s
def execMax (d : Reg) (src : Src) (s : State) : Host.Outcome State Fault Refusal :=
  binary (fun a b => if a.toInt ≤ b.toInt then b else a) d src s
def execMinu (d : Reg) (src : Src) (s : State) : Host.Outcome State Fault Refusal :=
  binary (fun a b => if a.toNat ≤ b.toNat then a else b) d src s
def execMaxu (d : Reg) (src : Src) (s : State) : Host.Outcome State Fault Refusal :=
  binary (fun a b => if a.toNat ≤ b.toNat then b else a) d src s

/-- MOV (R104): D is only written, and may be a stream. -/
def execMov (d : Dst) (src : Src) (s : State) : Host.Outcome State Fault Refusal :=
  chainNext s { s := srcOpr src, d := dstOpr d } (fun v s => s.writeDst d v.s)

def execCeq (d : Reg) (src : Src) (s : State) : Host.Outcome State Fault Refusal :=
  binary (fun a b => boolWord (decide (a = b))) d src s
def execCne (d : Reg) (src : Src) (s : State) : Host.Outcome State Fault Refusal :=
  binary (fun a b => boolWord (decide (a ≠ b))) d src s
def execClt (d : Reg) (src : Src) (s : State) : Host.Outcome State Fault Refusal :=
  binary (fun a b => boolWord (decide (a.toInt < b.toInt))) d src s
def execCltu (d : Reg) (src : Src) (s : State) : Host.Outcome State Fault Refusal :=
  binary (fun a b => boolWord (decide (a.toNat < b.toNat))) d src s
def execCle (d : Reg) (src : Src) (s : State) : Host.Outcome State Fault Refusal :=
  binary (fun a b => boolWord (decide (a.toInt ≤ b.toInt))) d src s
def execCleu (d : Reg) (src : Src) (s : State) : Host.Outcome State Fault Refusal :=
  binary (fun a b => boolWord (decide (a.toNat ≤ b.toNat))) d src s

/-! ## R106 to R108 -/

def execAddi (d : Reg) (imm : Word) (s : State) : Host.Outcome State Fault Refusal := withImm (fun a => a + imm) d s

/-- LI (R106): D is only written, and may be a stream. -/
def execLi (d : Dst) (imm : Word) (s : State) : Host.Outcome State Fault Refusal :=
  chainNext s { d := dstOpr d } (fun _ s => s.writeDst d imm)

def execLih (d : Reg) (imm : Word) (s : State) : Host.Outcome State Fault Refusal :=
  withImm (fun a => (imm.setWidth 32 ++ a.setWidth 32 : BitVec 64)) d s
def execShli (d : Reg) (imm : Word) (s : State) : Host.Outcome State Fault Refusal := withImm (fun a => a <<< amount imm) d s
def execShri (d : Reg) (imm : Word) (s : State) : Host.Outcome State Fault Refusal := withImm (fun a => a >>> amount imm) d s

/-- LEA (R107): an address formed, nothing accessed. -/
def execLea (d : Reg) (b : RegOp) (disp : Word) (s : State) : Host.Outcome State Fault Refusal :=
  chainNext s { mem := true, s := rdOp b, d := wrReg d } (fun v s => s.setReg d.toNat (v.s + disp))

/-- SEL (R108): D is read, and kept when T is 0. -/
def execSel (d : Reg) (src : Src) (t : Tgt) (s : State) : Host.Outcome State Fault Refusal :=
  chainNext s { t := tgtOpr t, s := srcOpr src, d := rwReg d } (fun v s => if v.t = 0 then s else s.setReg d.toNat v.s)

/-! ## R109 to R111 -/

def execBfx (d : Reg) (src : Src) (s : State) : Host.Outcome State Fault Refusal := binary extractField d src s
def execBfi (d : Reg) (src : Src) (t : Tgt) (s : State) : Host.Outcome State Fault Refusal :=
  chainNext s { t := tgtOpr t, s := srcOpr src, d := rwReg d } (fun v s => s.setReg d.toNat (insertField v.d v.s v.t))
def execCtz (d : Reg) (src : Src) (s : State) : Host.Outcome State Fault Refusal :=
  unary (fun v => word (trailingZeros v)) d src s
def execBswap (d : Reg) (src : Src) (s : State) : Host.Outcome State Fault Refusal := unary byteSwap d src s
def execCrcB (d : Reg) (src : Src) (s : State) : Host.Outcome State Fault Refusal := binary (fun a b => crcSteps a b 1) d src s
def execCrcH (d : Reg) (src : Src) (s : State) : Host.Outcome State Fault Refusal := binary (fun a b => crcSteps a b 2) d src s
def execCrcW (d : Reg) (src : Src) (s : State) : Host.Outcome State Fault Refusal := binary (fun a b => crcSteps a b 4) d src s
def execCrcD (d : Reg) (src : Src) (s : State) : Host.Outcome State Fault Refusal := binary (fun a b => crcSteps a b 8) d src s

end Sys2Proof.Machine
end

