-- ==== Sys2Proof/Machine/Access.lean ====
section
/-! DEFINITION. Plain accesses: addresses and their checks (R120, R121), loads from outbox, home memory and view (R213),
stores to home memory or the outbox with its spills (R155, R156, R212), and LDZ, LDS, ST and JTAB. -/

namespace Sys2Proof.Machine

/-- The access size in bytes (R61). -/
def sizeBytes : Size → Nat
  | .b => 1 | .h => 2 | .w => 4 | .d => 8

/-- What the checks of an address give: a physical address, a trap, or another turn (R100). -/
inductive Addr where
  | ok (pa : Nat)
  | trap (c : Cause) (detail : Nat) (s : State)
  | replay (s : State)

/-- A physical address judged after its translation (R121, R355, R376). -/
def State.placeCheck (s : State) (pa : Nat) (need : Perm) : Addr :=
  match s.here.place pa with
  | .control => if need.w then .trap .memFault noPermission s else .ok pa
  | .host _ => if !s.here.linkUp && need.r then .trap .memFault noPermission s else .ok pa
  | .nowhere => .trap .memFault notHeld s
  | _ => if s.here.othersPrivate s.cur.core pa then .trap .notExported 0 s else .ok pa

/-- An address checked in the order of R121, steps 1 to 3. -/
def State.checkAddr (s : State) (a : Word) (n : Nat) (need : Perm) (use : Nat) : Addr :=
  if a.toNat % n ≠ 0 then .trap .memAlign 0 s
  else match s.xlate a.toNat need use with
    | .fail d => .trap .memFault d.detail (s.onHere (fun p => p.takeFailure s.cur.core a.toNat))
    | .walk => .replay (s.onHere (fun p => p.startWalk s.cur.core a.toNat))
    | .ok pa => s.placeCheck pa need

/-- A plain access: replayed while a commit of the core's scope is under way (R216), else its address checked. -/
def State.plainAddr (s : State) (a : Word) (n : Nat) (need : Perm) (use : Nat) : Addr :=
  if s.here.gated s.cur.core then .replay s else s.checkAddr a n need use

/-- A chain that goes on when its address is good; a trap has tc.value = the virtual address. -/
def Addr.bind (r : Addr) (a : Word) (body : Nat → Res) : Res :=
  match r with
  | .ok pa => body pa
  | .trap c d s' => .trap s' c d a
  | .replay s' => .replay s'

/-! ## Loads (R213) -/

/-- The youngest byte of the outbox or the log for an address. -/
def Core.outboxByte (k : Core) (a : Nat) : Option Byte :=
  match (k.outbox.find? (fun l => decide (l.line = lineOf a))).bind (fun l => tget? l.bytes (a % 64)) with
  | some b => some b
  | none => firstSome k.spilled.reverse (fun l => if l.line = lineOf a then tget? l.bytes (a % 64) else none)

/-- That byte's outbox word holds an uncorrectable error (R169). -/
def Core.outboxBad (k : Core) (a : Nat) : Bool :=
  let here (l : OutLine) : Option Bool :=
    if l.line = lineOf a then (tget? l.bytes (a % 64)).map (fun _ => l.bad.contains (a % 64 / 8)) else none
  match firstSome k.outbox here with
  | some b => b
  | none => (firstSome k.spilled.reverse here).getD false

/-- A word of the control window: an error counter or the identity block (R355, R381). -/
def Package.controlWord (p : Package) (chip w : Nat) : Word :=
  let off := w - 0x100000000
  if 0x1000 ≤ off ∧ off < 0x1080 then tget p.errors ((off - 0x1000) / 8) 0 else Config.identity chip off

/-- The version of a word that a plain load of a core takes where no outbox byte stands (R213); `pick` is the choice
among the versions of an unstable word. -/
def Package.versionFor (p : Package) (chip c w pick : Nat) : MemWord :=
  match p.place w with
  | .control => ⟨p.controlWord chip w, false, false⟩
  | _ =>
    if p.inPrivate c w then p.mem.version w
    else
      let k := p.core c
      let mine := k.view.version w
      match tget? k.unstable w with
      | none => mine
      | some vs => pickFrom (mine :: vs) pick mine

/-- What a plain load returns: its value, whether its word was uncorrectable, and its granule's tag. -/
structure Loaded where
  val : Nat
  bad : Bool
  tag : Bool
  deriving DecidableEq, Repr

/-- Bytes joined from the outbox and from one version, little-endian, with whether each came from the outbox. -/
def joinBytes (v : MemWord) (a : Nat) (out : Nat → Option Byte) : Nat → Nat × Bool × Bool
  | 0 => (0, false, false)
  | n + 1 =>
    let (rest, some_, all) := joinBytes v (a + 1) out n
    match out a with
    | some b => (b.toNat + 256 * rest, true, all)
    | none => (v.val.toNat / 2 ^ (8 * (a % 8)) % 256 + 256 * rest, some_, true)

/-- A plain load of up to 8 bytes of one word (R213). -/
def Package.plainLoad (p : Package) (chip c a n pick : Nat) : Loaded :=
  let k := p.core c
  let v := p.versionFor chip c (wordOf a) pick
  let (val, fromOut, fromVersion) := joinBytes v a k.outboxByte n
  ⟨val, (fromVersion && v.bad) || (span a 1 n).any k.outboxBad, v.tag && !fromOut⟩

/-- The plain load of the issuing core. -/
def State.plainLoad (s : State) (a n use : Nat) : Loaded := s.here.plainLoad s.cur.chip s.cur.core a n (s.free use)

/-! ## Stores (R155, R156, R212) -/

/-- Which bytes a line holds, bit i for byte i (R156). -/
def OutLine.mask (l : OutLine) : Nat := l.bytes.foldl (fun m b => m ||| 2 ^ b.1) 0

/-- The bytes of one 128-byte log entry (R156); data that the mask leaves out is 0 (log 49). -/
def logEntry (l : OutLine) (at_ : Nat) : List (Nat × Byte) :=
  (span 0 1 64).map (fun i => (at_ + i, tget l.bytes i 0)) ++ bytesAt (at_ + 64) l.line 8 ++ bytesAt (at_ + 72) l.mask 8 ++
    bytesAt (at_ + 80) 0 48

/-- Bytes merged into a line, the younger over the older (R155); a word written anew holds no error. -/
def OutLine.merge (l : OutLine) (ws : List (Nat × Byte)) : OutLine :=
  { l with
    bytes := ws.foldl (fun b w => tset b (w.1 % 64) w.2) l.bytes,
    bad := ws.foldl (fun b w => sdel b (w.1 % 64 / 8)) l.bad }

/-- The result of a store: a package, or the log address that could not be written (LOG-FULL). -/
inductive Stored where
  | ok (p : Package)
  | full (a : Nat)

/-- The place in the log region of the i-th entry that stands in the log: behind those that a commit has drained (R156, R217). -/
def Core.entryAddr (k : Core) (i : Nat) : Nat := k.logBase + 128 * (k.drained + i)

/-- The address of the next free log entry. -/
def Core.logAddr (k : Core) : Nat := k.entryAddr k.spilled.length

/-- A line taken in the outbox, spilling the oldest line when none is free (R155, R156). -/
def Package.outboxStore (p : Package) (c : Nat) (line : Nat) (ws : List (Nat × Byte)) : Stored :=
  let k := p.core c
  let fresh := OutLine.merge ⟨line, [], []⟩ ws
  if k.outbox.any (fun l => decide (l.line = line)) then
    .ok (p.setCore c { k with outbox := k.outbox.map (fun l => if l.line = line then l.merge ws else l) })
  else if k.outbox.length < 1024 then .ok (p.setCore c { k with outbox := k.outbox ++ [fresh] })
  else match k.outbox with
    | [] => .ok p
    | old :: rest =>
      if k.logSize / 128 ≤ k.drained + k.spilled.length ∨ p.holds (p.coreHolder c) k.logAddr 128 = false then .full k.logAddr
      else .ok ((p.setCore c { k with outbox := rest ++ [fresh], spilled := k.spilled ++ [old] }).writeQuiet
        (logEntry old k.logAddr))

/-- A plain store of some bytes of one line (R212). -/
def Package.plainStore (p : Package) (c a : Nat) (ws : List (Nat × Byte)) : Stored :=
  if p.inPrivate c a then .ok (p.writeQuiet ws) else p.outboxStore c (lineOf a) ws

/-- A store that ends its chain, or traps LOG-FULL (R121). -/
def State.storeThen (s : State) (pa : Nat) (v : Word) (n : Nat) (done : State → Res) : Res :=
  match s.here.plainStore s.cur.core pa (bytesAt pa v.toNat n) with
  | .ok p => done (s.onHere (fun _ => p))
  | .full a => .trap s .logFull 0 (word a)

/-! ## Results on their way (R18) -/

/-- A long-latency result for registers of the issuing thread. -/
def State.result (s : State) (fs : List Fill) : State :=
  fs.foldl (fun s f => s.emptyReg f.reg) (s.onHere (fun p => p.addJob (.result s.owner (.regs fs))))

/-- A value of n bytes, sign-extended. -/
def signExtendBytes (v n : Nat) : Word := if 2 ^ (8 * n - 1) ≤ v then BitVec.ofInt 64 ((v : Int) - 2 ^ (8 * n)) else word v

/-- A plain load into D (R120, R123). -/
def loadOp (signed : Bool) (sz : Size) (d : Reg) (b : RegOp) (disp : Word) (s : State) : Host.Outcome State Fault Refusal :=
  let n := sizeBytes sz
  chain s { mem := true, s := rdOp b, d := wrReg d } (fun v s =>
    let a := v.s + disp
    (s.plainAddr a n { r := true } 1).bind a (fun pa =>
      let l := s.plainLoad pa n 3
      .next (s.result [⟨d.toNat, if signed then signExtendBytes l.val n else word l.val, l.bad, false⟩])))

def execLdz (sz : Size) (d : Reg) (b : RegOp) (disp : Word) (s : State) : Host.Outcome State Fault Refusal :=
  loadOp false sz d b disp s

def execLds (sz : Size) (d : Reg) (b : RegOp) (disp : Word) (s : State) : Host.Outcome State Fault Refusal :=
  loadOp true sz d b disp s

def execSt (sz : Size) (d : Reg) (b : RegOp) (disp : Word) (s : State) : Host.Outcome State Fault Refusal :=
  let n := sizeBytes sz
  chain s { mem := true, s := rdOp b, d := rdReg d } (fun v s =>
    let a := v.s + disp
    (s.plainAddr a n { w := true } 1).bind a (fun pa => s.storeThen pa v.d n .next))

/-- JTAB (R117): the index in D, the table in S, the bound in T. -/
def execJtab (idx : Reg) (b : RegOp) (bound : RegOp) (s : State) : Host.Outcome State Fault Refusal :=
  chain s { mem := true, t := rdOp bound, s := rdOp b, d := rdReg idx } (fun v s =>
    if v.t.toNat ≤ v.d.toNat then .next s
    else
      let a := v.s + 8 * v.d
      (s.plainAddr a 8 { r := true } 1).bind a (fun pa =>
        let l := s.plainLoad pa 8 3
        if l.bad then .trap s .softError 0 a else .jump s (BitVec.ofNat 56 (l.val / 2))))

end Sys2Proof.Machine
end

