-- ==== Sys2Proof/Machine/Control.lean ====
section
/-! DEFINITION. Control transfer, the instructions without operands, and the thread's mode and control registers (R81,
R112 to R119, R132 to R135); JTAB stands with the loads. -/

namespace Sys2Proof.Machine

/-! ## Branches (R112 to R116) -/

/-- A relative target: the chain's own first word plus an offset in words (R112), modulo 2^56 (log 49). -/
def State.target (s : State) (off : Word) : BitVec 56 := s.me.pc + off.setWidth 56

/-- A taken or an untaken branch. -/
def State.branch (s : State) (taken : Bool) (off : Word) : Res := if taken then .jump s (s.target off) else .next s

/-- A branch on D alone (R113). -/
def branchOn (f : Word → Bool) (d : Reg) (off : Word) (s : State) : Host.Outcome State Fault Refusal :=
  chain s { d := rdReg d } (fun v s => s.branch (f v.d) off)

/-- A branch on D and S (R114). -/
def branchCmp (f : Word → Word → Bool) (d : Reg) (src : Src) (off : Word) (s : State) : Host.Outcome State Fault Refusal :=
  chain s { s := srcOpr src, d := rdReg d } (fun v s => s.branch (f v.d v.s) off)

def execBez (d : Reg) (off : Word) (s : State) : Host.Outcome State Fault Refusal := branchOn (fun a => decide (a = 0)) d off s
def execBnz (d : Reg) (off : Word) (s : State) : Host.Outcome State Fault Refusal := branchOn (fun a => decide (a ≠ 0)) d off s
def execBltz (d : Reg) (off : Word) (s : State) : Host.Outcome State Fault Refusal := branchOn (fun a => decide (a.toInt < 0)) d off s
def execBgez (d : Reg) (off : Word) (s : State) : Host.Outcome State Fault Refusal := branchOn (fun a => decide (0 ≤ a.toInt)) d off s
def execBeq (d : Reg) (src : Src) (off : Word) (s : State) : Host.Outcome State Fault Refusal :=
  branchCmp (fun a b => decide (a = b)) d src off s
def execBne (d : Reg) (src : Src) (off : Word) (s : State) : Host.Outcome State Fault Refusal :=
  branchCmp (fun a b => decide (a ≠ b)) d src off s
def execBlt (d : Reg) (src : Src) (off : Word) (s : State) : Host.Outcome State Fault Refusal :=
  branchCmp (fun a b => decide (a.toInt < b.toInt)) d src off s
def execBge (d : Reg) (src : Src) (off : Word) (s : State) : Host.Outcome State Fault Refusal :=
  branchCmp (fun a b => decide (b.toInt ≤ a.toInt)) d src off s
def execBltu (d : Reg) (src : Src) (off : Word) (s : State) : Host.Outcome State Fault Refusal :=
  branchCmp (fun a b => decide (a.toNat < b.toNat)) d src off s
def execBgeu (d : Reg) (src : Src) (off : Word) (s : State) : Host.Outcome State Fault Refusal :=
  branchCmp (fun a b => decide (b.toNat ≤ a.toNat)) d src off s

def execJ (off : Word) (s : State) : Host.Outcome State Fault Refusal := chain s {} (fun _ s => .jump s (s.target off))

/-- CALL (R115): g1 takes the word address of the chain that follows. -/
def execCall (off : Word) (s : State) : Host.Outcome State Fault Refusal :=
  chain s { d := wrReg 1 } (fun _ s => .jump (s.setReg 1 (s.nextPc.setWidth 64)) (s.target off))

def execJr (src : RegOp) (s : State) : Host.Outcome State Fault Refusal :=
  chain s { s := rdOp src } (fun v s => .jump s (returnTarget v.s))

def execRet (s : State) : Host.Outcome State Fault Refusal :=
  chain s { s := rdReg 1 } (fun v s => .jump s (returnTarget v.s))

/-! ## R118, R119, R81 -/

/-- YIELD (R118): the next issue is eligible 64 cycles after this one. -/
def execYield (s : State) : Host.Outcome State Fault Refusal :=
  chainNext s {} (fun _ s => s.onMe (fun t => { t with gap := 64 }))

def execRetire (s : State) : Host.Outcome State Fault Refusal := chain s {} (fun _ s => .retire s)
def execNop (s : State) : Host.Outcome State Fault Refusal := chainNext s {} (fun _ s => s)
def execTrap (code : Word) (s : State) : Host.Outcome State Fault Refusal := chain s {} (fun _ s => .trap s .trapInsn 0 code)
def execBkpt (code : Word) (s : State) : Host.Outcome State Fault Refusal := chain s {} (fun _ s => .trap s .break 0 code)

/-- A chain that is no instruction (R31, R81): tc.value is its first word, whatever the reason. -/
def execIllegalChain (_why : Illegal) (s : State) : Host.Outcome State Fault Refusal :=
  chain s {} (fun _ s => .trap s .illegal 0 (chainWord0 s))

/-! ## Mode and control registers (R132 to R135) -/

/-- tc.fmode with the overflow policy written, and the rounding mode when it is 1 to 5 (R23). -/
def fmodeWith (old : Word) (rm ovf : Nat) : Word :=
  word (ovf * 8 + (if 1 ≤ rm ∧ rm ≤ 5 then rm else old.toNat % 8))

def execSetrm (imm : Word) (s : State) : Host.Outcome State Fault Refusal :=
  chain s {} (fun _ s =>
    if bits imm 2 0 = 6 ∨ bits imm 2 0 = 7 then .trap s .illegal 0 (chainWord0 s)
    else .next (s.onMe (fun t => { t with fmode := fmodeWith t.fmode (bits imm 2 0) (bits imm 4 3) })))

def execRdflg (d : Reg) (s : State) : Host.Outcome State Fault Refusal :=
  chainNext s { d := wrReg d } (fun _ s => s.setReg d.toNat (word (bits s.me.flags 4 0)))

def execClrflg (imm : Word) (s : State) : Host.Outcome State Fault Refusal :=
  chainNext s {} (fun _ s => s.onMe (fun t => t.clearFlags imm.toNat))

/-- A control register by its number (R23). -/
def Thread.control (t : Thread) (n : Nat) : Word :=
  match n with
  | 0 => t.vec | 1 => t.cause | 2 => t.value | 3 => t.epc | 4 => t.fmode | 5 => t.flags | 6 => t.role
  | _ => t.prio

/-- A control register written (R135); `service` says that the thread stands in slot 63. tc.role stays. -/
def Thread.setControl (t : Thread) (service : Bool) (n : Nat) (v : Word) : Thread :=
  match n with
  | 0 => { t with vec := word (bits v 55 0) }
  | 1 => { t with cause := word (bits v 16 0) }
  | 2 => { t with value := v }
  | 3 => { t with epc := word (bits v 55 0) }
  | 4 => { t with fmode := fmodeWith t.fmode (bits v 2 0) (bits v 4 3) }
  | 5 => { t with flags := word (bits v 4 0) }
  | 6 => t
  | _ => { t with prio := if service then word (bits v 0 0) else 0 }

def execSread (d : Reg) (n : BitVec 3) (s : State) : Host.Outcome State Fault Refusal :=
  chainNext s { d := wrReg d } (fun _ s => s.setReg d.toNat (s.me.control n.toNat))

def execSwrite (d : Reg) (n : BitVec 3) (s : State) : Host.Outcome State Fault Refusal :=
  chainNext s { role := if n = 6 then .never else .any, d := rdReg d } (fun v s =>
    s.onMe (fun t => t.setControl (decide (s.cur.slot = 63)) n.toNat v.d))

/-- The flags of a core's live threads together, when a holder holds the core (R49). -/
def Package.coreFlags (p : Package) (h c : Nat) : Nat :=
  if p.coreHolder c = h then
    (p.core c).threads.foldl (fun f e => if e.2.live then f ||| bits e.2.flags 4 0 else f) 0
  else 0

/-- SREAD of the cluster's flags (R49): each turn gathers some of the four cores, a free choice; the chain ends when all
have been gathered. `reply` keeps the cores gathered in bits [8:5] and their flags in bits [4:0]. R49 speaks of flags that are set: one
that its thread clears while the read is in flight appears only if its core was gathered before, which is the model's choice (log 47). -/
def execSreadClusterFlags (d : Reg) (s : State) : Host.Outcome State Fault Refusal :=
  chain s { d := wrReg d } (fun _ s =>
    let k := clusterOf s.cur.core
    let old := (s.me.reply.getD 0).toNat
    let now := s.free 2 % 16
    let got := (span 0 1 4).foldl (fun g pos =>
      if now / 2 ^ pos % 2 = 1 ∧ old / 2 ^ (5 + pos) % 2 = 0 then
        g ||| 2 ^ (5 + pos) ||| s.here.coreFlags s.holder (clusterCore k pos)
      else g) old
    if got / 32 % 16 = 15 then .next (s.setReg d.toNat (word (got % 32)))
    else .replay (s.onMe (fun t => { t with reply := some (word got) })))

end Sys2Proof.Machine
end

