-- ==== Sys2Proof/Machine/Budget.lean ====
section
/-! DEFINITION. The form of the steps that act on items in flight; and power as arrivals see it (R378). -/

namespace Sys2Proof.Machine

/-- A step on an item in flight of a running package, when it may be taken. -/
def jobStep (chip id : Nat) (s : State) (f : Package → Job → Option Package) : Host.Outcome State Fault Refusal :=
  if (s.pkg chip).phase = .running then
    (match ((s.pkg chip).job id).bind (f (s.pkg chip)) with
    | some p => .next (s.setPkg chip p)
    | none => .fault .notEnabled)
  else .fault .notEnabled

/-- A step of a running package, when it may be taken. -/
def pkgStep (chip : Nat) (s : State) (f : Package → Option Package) : Host.Outcome State Fault Refusal :=
  if (s.pkg chip).phase = .running then
    (match f (s.pkg chip) with
    | some p => .next (s.setPkg chip p)
    | none => .fault .notEnabled)
  else .fault .notEnabled

/-- A step that may concern several packages, when it may be taken. -/
def sysStep (s : State) (f : State → Option State) : Host.Outcome State Fault Refusal :=
  match f s with
  | some t => .next t
  | none => .fault .notEnabled

/-- A value under a condition. -/
def when {α : Type} (b : Bool) (x : α) : Option α := if b then some x else none

/-- Writes to an address are not held by a cluster in a power state (R378). -/
def Package.awakeAt (p : Package) (a : Nat) : Bool :=
  match p.place a with
  | .scratch c _ => p.awake c
  | _ => true

end Sys2Proof.Machine
end

