-- ==== Sys2Proof/Machine/Home.lean ====
section
/-! DEFINITION. Full/empty words and atomics at their homes (R157, R172 to R179, R215), the register form of SETE, and the
arrival of long-latency results (R18, R22). -/

namespace Sys2Proof.Machine

/-! ## Addresses and homes -/

/-- A physical address of a full/empty operation or an atomic judged after its translation (R172). -/
def State.homeCheck (s : State) (pa : Nat) : Addr :=
  match s.here.place pa with
  | .scratch _ _ => if s.here.othersPrivate s.cur.core pa then .trap .notExported 0 s else .ok pa
  | .hbm | .dump => .ok pa
  | _ => .trap .memFault noPermission s

/-- The checks of R172. -/
def State.homeAddr (s : State) (a : Word) (n : Nat) (need : Perm) : Addr :=
  if a.toNat % n ≠ 0 then .trap .memAlign 0 s
  else match s.xlate a.toNat need 1 with
    | .fail d => .trap .memFault d.detail (s.onHere (fun p => p.takeFailure s.cur.core a.toNat))
    | .walk => .replay (s.onHere (fun p => p.startWalk s.cur.core a.toNat))
    | .ok pa => s.homeCheck pa

/-! ## Effects on the issuing core's copies (R177, R215) -/

/-- A line without some bytes. -/
def OutLine.without (l : OutLine) (as : List Nat) : OutLine := { l with bytes := l.bytes.filter (fun b => !as.contains (l.line + b.1)) }

/-- Bytes removed from the outbox lines and the log entries of a core. A line or an entry that loses its last byte keeps its place
(log 42). -/
def Core.dropBytes (k : Core) (as : List Nat) : Core :=
  { k with outbox := k.outbox.map (·.without as), spilled := k.spilled.map (·.without as) }

/-- The byte masks, in the log region, of the log entries that lose some bytes (R156, R177). -/
def Package.cutMasks (p : Package) (c : Nat) (as : List Nat) : List (Nat × Byte) :=
  let k := p.core c
  ((span 0 1 k.spilled.length).zip k.spilled).flatMap (fun e =>
    let l := e.2.without as
    if l.bytes.length < e.2.bytes.length ∧ p.holds (p.coreHolder c) (k.entryAddr e.1) 128 = true then bytesAt (k.entryAddr e.1 + 72) l.mask 8
    else [])

/-- The log entries in the log region without some bytes. -/
def Package.cutLog (p : Package) (c : Nat) (as : List Nat) : Package :=
  match p.cutMasks c as with
  | [] => p
  | ws => p.writeQuiet ws

/-- A synchronising write for a thread of core c: the outbox and its log, M, the view, and the other cores' unstable sets. -/
def Package.syncWrite (p : Package) (c : Nat) (ws : List (Nat × Byte)) : Package :=
  let as := ws.map (·.1)
  ((((p.cutLog c as).writeM [c] ws).onCore c (fun k => k.dropBytes as)).acquire c (wordsOf ws))

/-- The words covered by the completed fences of a flag word, acquired with it (R221). -/
def Package.acquireFlag (p : Package) (c w : Nat) : Package := (p.acquire c [w]).acquire c (tget p.covers w [])

/-! ## Completion of a chain whose request has been settled -/

/-- The chain whose request has been performed is complete: the thread goes on past it, its registers filled. -/
def Package.finishChain (p : Package) (o : Owner) (len : Nat) (fs : List Fill) : Package :=
  if p.ownerLive o then
    let p := p.onCore o.core (fun k => fs.foldl (fun k f => k.fillReg (k.thread o.slot) f) k)
    p.onThread o.core o.slot (fun t => { t with
      pc := t.pc + BitVec.ofNat 56 len, pend := none, reply := none, chain := [], reason := none,
      life := if t.life = .parked then .ready else t.life })
  else p

/-! ## Full/empty operations (R173, R174) -/

/-- A waiting operation's condition (R173). -/
def HomeFe.ready (h : HomeFe) (m : Memory) : Bool :=
  match h.op with
  | .ldf | .ldfe => m.full h.addr || m.isBad h.addr
  | .stef => !m.full h.addr
  | _ => true

/-- One operation performed at its home: its effect, and the register it fills. -/
def Package.performFe (p : Package) (h : HomeFe) : Package × List Fill :=
  let c := h.owner.core
  let v := p.mem.version h.addr
  let full (b : Bool) (p : Package) : Package := ({ p with mem := p.mem.setFull h.addr b } : Package).dropRows [h.addr]
  let fill (x : Word) : List Fill := [⟨h.reg, x, v.bad, false⟩]
  match h.op with
  | .ldf => (p.acquireFlag c h.addr, fill v.val)
  | .ldfe => ((if v.bad then p else full false p).acquireFlag c h.addr, fill v.val)
  | .stef | .stf => (full true (p.syncWrite c (bytesAt h.addr h.val.toNat 8)), [])
  | .sete => (full false p, [])
  | .feqry => (p, fill (boolWord (p.mem.full h.addr)))

/-- The first waiter of a word whose condition holds, after a place in the list. -/
def Package.nextWaiter (p : Package) (w after : Nat) : Option (Nat × HomeFe) :=
  firstSome p.flights (fun e => match e.2 with
    | .fe h => if h.addr = w ∧ h.enlisted ∧ after ≤ e.1 ∧ h.ready p.mem then some (e.1, h) else none
    | _ => none)

/-- The scan of a word's waiters (R174): passes in arrival order, repeated until one performs none. `fuel` bounds the
operations performed: each leaves the list. -/
def Package.scan (p : Package) (w : Nat) : Nat → Nat → Package
  | 0, _ => p
  | fuel + 1, after =>
    match p.nextWaiter w after with
    | some (id, h) =>
      let (p, fs) := (p.dropJob id).performFe h
      (p.finishChain h.owner h.len fs).scan w fuel (id + 1)
    | none => if after = 0 then p else p.scan w fuel 0

def Package.scanWord (p : Package) (w : Nat) : Package := p.scan w (2 * p.flights.length + 2) 0

/-- An operation that arrives at its home (R174): performed at once, or enlisted under a new id and scanned. -/
def Package.arriveFe (p : Package) (id : Nat) (h : HomeFe) : Package :=
  if h.op.waits then
    let new := p.nextId
    let p := (p.dropJob id).addJob (.fe { h with enlisted := true })
    let p := p.onThread h.owner.core h.owner.slot (fun t => { t with pend := some new })
    p.scanWord h.addr
  else
    let before := p.mem.full h.addr
    let (q, fs) := (p.dropJob id).performFe h
    let q := q.finishChain h.owner h.len fs
    if q.mem.full h.addr = before then q else q.scanWord h.addr

/-- An atomic of the same thread to the same home that was issued earlier is still to be performed (R178). -/
def Package.atomicBefore (p : Package) (o : Owner) (home before : Nat) : Bool :=
  p.flights.any (fun e => match e.2 with
    | .amo a => decide (e.1 < before ∧ a.owner = o ∧ homeOf a.addr = home)
    | _ => false)

/-- A full/empty operation may be taken at its home now. -/
def Package.feMayArrive (p : Package) (id : Nat) (h : HomeFe) : Bool :=
  !h.enlisted && p.awakeAt h.addr && !p.atomicBefore h.owner (homeOf h.addr) id && !p.heldBack h

/-- A chain that stands on its request: replayed until the home has it, parked with WORD once it is enlisted (R175) or held back
(R157). -/
def State.awaitHome (s : State) (id : Nat) : Option Res :=
  match s.here.job id with
  | some (.fe h) => some (if h.enlisted || s.here.heldBack h then .park s .word else .replay s)
  | _ => none

/-- The issue of a full/empty operation (R172, R175). On the core's own scratchpad the home is the core itself. -/
def State.issueFe (s : State) (op : FeOp) (need : Perm) (a : Word) (reg : Nat) (val : Word) : Res :=
  match s.me.pend.bind s.awaitHome with
  | some r => r
  | none =>
    (s.homeAddr a 8 need).bind a (fun pa =>
      let id := s.here.nextId
      let h : HomeFe := ⟨s.owner, op, pa, reg, val, s.cur.words.length, false⟩
      let s := (s.onHere (fun p => p.addJob (.fe h))).onMe (fun t => { t with pend := some id })
      if homeOf pa = s.cur.core ∧ s.here.feMayArrive id h then
        let s := s.onHere (fun p => p.arriveFe id h)
        if s.me.pend = none then .moved s else .park s .word
      else if s.here.heldBack h then .park s .word
      else .replay s)

def feRead (op : FeOp) (need : Perm) (d : Reg) (b : RegOp) (disp : Word) (s : State) : Host.Outcome State Fault Refusal :=
  chain s { mem := true, s := rdOp b, d := wrReg d } (fun v s => s.issueFe op need (v.s + disp) d.toNat 0)

def feWrite (op : FeOp) (d : Reg) (b : RegOp) (disp : Word) (s : State) : Host.Outcome State Fault Refusal :=
  chain s { mem := true, s := rdOp b, d := rdReg d } (fun v s => s.issueFe op { w := true } (v.s + disp) 0 v.d)

def execLdf (d : Reg) (b : RegOp) (disp : Word) (s : State) : Host.Outcome State Fault Refusal := feRead .ldf { r := true } d b disp s
def execLdfe (d : Reg) (b : RegOp) (disp : Word) (s : State) : Host.Outcome State Fault Refusal :=
  feRead .ldfe { r := true, w := true } d b disp s
def execStef (d : Reg) (b : RegOp) (disp : Word) (s : State) : Host.Outcome State Fault Refusal := feWrite .stef d b disp s
def execStf (d : Reg) (b : RegOp) (disp : Word) (s : State) : Host.Outcome State Fault Refusal := feWrite .stf d b disp s
def execSeteMemory (b : RegOp) (disp : Word) (s : State) : Host.Outcome State Fault Refusal :=
  chain s { mem := true, s := rdOp b } (fun v s => s.issueFe .sete { w := true } (v.s + disp) 0 0)
def execFeqry (d : Reg) (b : RegOp) (disp : Word) (s : State) : Host.Outcome State Fault Refusal :=
  feRead .feqry { r := true } d b disp s

/-- SETE of a register (R176): emptied with no producer. -/
def execSeteRegister (d : Reg) (s : State) : Host.Outcome State Fault Refusal :=
  chainNext s { d := wrReg d } (fun _ s => s.emptyReg d.toNat)

/-- HOME_FE_OPERATION (R174): an operation arrives at its home. -/
def execHomeFeOperation (chip : Nat) (id : Nat) (s : State) : Host.Outcome State Fault Refusal :=
  jobStep chip id s (fun p j => match j with
    | .fe h => when (p.feMayArrive id h) (p.arriveFe id h)
    | _ => none)

/-! ## Atomics (R178, R179) -/

def atomicBytes (double : Bool) : Nat := if double then 8 else 4

/-- A value of an atomic's size, as its reply gives it. -/
def atomicValue (double : Bool) (v : Nat) : Word := if double then word v else signExtendBytes (v % 2 ^ 32) 4

/-- The new value of an atomic, from the old one and the operand, both of n bytes (R178). -/
def atomicNew (op : AmoOp) (double : Bool) (old operand : Word) : Word :=
  let a := atomicValue double old.toNat
  let b := atomicValue double operand.toNat
  let ua := a.toNat % 2 ^ (8 * atomicBytes double)
  let ub := b.toNat % 2 ^ (8 * atomicBytes double)
  match op with
  | .add => a + b
  | .and => a &&& b
  | .or => a ||| b
  | .xor => a ^^^ b
  | .min => if a.toInt ≤ b.toInt then a else b
  | .max => if a.toInt ≤ b.toInt then b else a
  | .minu => if ua ≤ ub then a else b
  | .maxu => if ua ≤ ub then b else a
  | .swap | .cas => b

/-- An atomic at its home: the package after it, the old value, and whether the word was uncorrectable. `spare` are the
cores whose unstable sets do not grow; `own` is the issuing core on the same chip. -/
def Package.atomic (p : Package) (own : Option Nat) (op : AmoOp) (double : Bool) (addr : Nat) (operand swap : Word) :
    Package × Word × Bool :=
  let n := atomicBytes double
  let old := atomicValue double (p.mem.read addr n)
  if p.mem.isBad (wordOf addr) then (match own with | some c => p.acquire c [wordOf addr] | none => p, old, true)
  else
    let writes := match op with
      | .cas => decide (old = atomicValue double operand.toNat)
      | _ => true
    let new := match op with
      | .cas => swap
      | _ => atomicNew op double old operand
    let ws := bytesAt addr new.toNat n
    let p := if writes then (match own with | some c => p.syncWrite c ws | none => p.writeM [] ws) else p
    (match own with | some c => p.acquire c [wordOf addr] | none => p, old, false)

/-- The issue of an atomic (R178): D is read as the operand and emptied; the chain is complete. -/
def atomicOp (op : AmoOp) (double : Bool) (d : Reg) (b : RegOp) (disp : Word) (t : Opr) (s : State) :
    Host.Outcome State Fault Refusal :=
  chain s { mem := true, t := t, s := rdOp b, d := rwReg d } (fun v s =>
    let a := v.s + disp
    (s.homeAddr a (atomicBytes double) { r := true, w := true }).bind a (fun pa =>
      .next ((s.onHere (fun p => p.addJob (.amo ⟨s.owner, op, double, pa, d.toNat, v.d, v.t⟩))).emptyReg d.toNat)))

/-- HOME_ATOMIC (R178): an atomic is performed at its home and its reply sent. -/
def execHomeAtomic (chip : Nat) (id : Nat) (s : State) : Host.Outcome State Fault Refusal :=
  jobStep chip id s (fun p j => match j with
    | .amo a => when (p.awakeAt a.addr && !p.atomicBefore a.owner (homeOf a.addr) id)
        (let (q, old, bad) := (p.dropJob id).atomic (some a.owner.core) a.op a.double a.addr a.operand a.swap
         q.addJob (.result a.owner (.regs [⟨a.reg, old, bad, false⟩])))
    | _ => none)

def execAmoAddD (d : Reg) (b : RegOp) (disp : Word) (s : State) : Host.Outcome State Fault Refusal :=
  atomicOp .add true d b disp .none s
def execAmoAndD (d : Reg) (b : RegOp) (disp : Word) (s : State) : Host.Outcome State Fault Refusal :=
  atomicOp .and true d b disp .none s
def execAmoOrD (d : Reg) (b : RegOp) (disp : Word) (s : State) : Host.Outcome State Fault Refusal :=
  atomicOp .or true d b disp .none s
def execAmoXorD (d : Reg) (b : RegOp) (disp : Word) (s : State) : Host.Outcome State Fault Refusal :=
  atomicOp .xor true d b disp .none s
def execAmoMinD (d : Reg) (b : RegOp) (disp : Word) (s : State) : Host.Outcome State Fault Refusal :=
  atomicOp .min true d b disp .none s
def execAmoMaxD (d : Reg) (b : RegOp) (disp : Word) (s : State) : Host.Outcome State Fault Refusal :=
  atomicOp .max true d b disp .none s
def execAmoMinuD (d : Reg) (b : RegOp) (disp : Word) (s : State) : Host.Outcome State Fault Refusal :=
  atomicOp .minu true d b disp .none s
def execAmoMaxuD (d : Reg) (b : RegOp) (disp : Word) (s : State) : Host.Outcome State Fault Refusal :=
  atomicOp .maxu true d b disp .none s
def execAmoSwapD (d : Reg) (b : RegOp) (disp : Word) (s : State) : Host.Outcome State Fault Refusal :=
  atomicOp .swap true d b disp .none s
def execAmoAddW (d : Reg) (b : RegOp) (disp : Word) (s : State) : Host.Outcome State Fault Refusal :=
  atomicOp .add false d b disp .none s
def execAmoAndW (d : Reg) (b : RegOp) (disp : Word) (s : State) : Host.Outcome State Fault Refusal :=
  atomicOp .and false d b disp .none s
def execAmoOrW (d : Reg) (b : RegOp) (disp : Word) (s : State) : Host.Outcome State Fault Refusal :=
  atomicOp .or false d b disp .none s
def execAmoXorW (d : Reg) (b : RegOp) (disp : Word) (s : State) : Host.Outcome State Fault Refusal :=
  atomicOp .xor false d b disp .none s
def execAmoMinW (d : Reg) (b : RegOp) (disp : Word) (s : State) : Host.Outcome State Fault Refusal :=
  atomicOp .min false d b disp .none s
def execAmoMaxW (d : Reg) (b : RegOp) (disp : Word) (s : State) : Host.Outcome State Fault Refusal :=
  atomicOp .max false d b disp .none s
def execAmoMinuW (d : Reg) (b : RegOp) (disp : Word) (s : State) : Host.Outcome State Fault Refusal :=
  atomicOp .minu false d b disp .none s
def execAmoMaxuW (d : Reg) (b : RegOp) (disp : Word) (s : State) : Host.Outcome State Fault Refusal :=
  atomicOp .maxu false d b disp .none s
def execAmoSwapW (d : Reg) (b : RegOp) (disp : Word) (s : State) : Host.Outcome State Fault Refusal :=
  atomicOp .swap false d b disp .none s
def execAcasD (d : Reg) (b : RegOp) (disp : Word) (t : RegOp) (s : State) : Host.Outcome State Fault Refusal :=
  atomicOp .cas true d b disp (rdOp t) s
def execAcasW (d : Reg) (b : RegOp) (disp : Word) (t : RegOp) (s : State) : Host.Outcome State Fault Refusal :=
  atomicOp .cas false d b disp (rdOp t) s

/-! ## Long-latency results (R18, R22, R199) -/

/-- A load-queue entry filled (R199). -/
def Core.fillQueue (k : Core) (pair : Nat) (second : Bool) (key : Nat) (v : Word) (bad : Bool) : Core :=
  match tget? k.pairs pair with
  | none => k
  | some q =>
    let fill (l : List QEntry) := l.map (fun e => if e.key = key ∧ e.val = none then { e with val := some v, bad := bad } else e)
    { k with pairs := tset k.pairs pair (if second then { q with lq1 := fill q.lq1 } else { q with lq0 := fill q.lq0 }) }

/-- LONG_LATENCY_RESULT_ARRIVAL (R18): registers are filled, unless their thread is gone (R22). -/
def execLongLatencyResultArrival (chip : Nat) (id : Nat) (s : State) : Host.Outcome State Fault Refusal :=
  jobStep chip id s (fun p j => match j with
    | .result o t => when (p.awake o.core)
        ((p.dropJob id).onCore o.core (fun k => match t with
          | .regs fs => if p.ownerLive o then fs.foldl (fun k f => k.fillReg (k.thread o.slot) f) k else k
          | .lq pair second key v bad => k.fillQueue pair second key v bad))
    | _ => none)

end Sys2Proof.Machine
end

