-- ==== Sys2Proof/Machine/Save.lean ====
section
/-! DEFINITION. The save copy of a pre-emption (R259, R260): what a core's save-area register names, the pieces that copy it, and
the count of packed cores that begins it. -/

namespace Sys2Proof.Machine

/-! ## The save-area register (R259) -/

def areaSet (w : Word) : Bool := w.getLsbD 44
def areaContact (w : Word) : Nat := bits w 63 54
def areaBase (w : Word) : Nat := bits w 35 0 * 65536
/-- The marked banks, in ascending order. -/
def areaBanks (w : Word) : List Nat := (span 0 1 8).filter (fun b => w.getLsbD (46 + b))
/-- What is saved, in order: bank numbers, and 8 for the tile. -/
def areaParts (w : Word) : List Nat := areaBanks w ++ (if w.getLsbD 45 then [8] else [])

/-! ## Pieces of the save copy -/

/-- The piece that saves one part of a core to its place. -/
def savePiece (id c part target : Nat) : Piece :=
  { copy := id, streamer := blockClusterClove (clusterOf c), save := some (c, part, target),
    stage := if part = 8 then .writing else .reading,
    toRead := if part = 8 then [] else span (c * 0x80000 + part * 0x10000) 64 1024,
    cap := Memory.empty,
    toWrite := if part = 8 then span target 64 1024 else [],
    refused := false }

/-- The pieces of a core's save copy; none when its register is not set. -/
def Package.savePieces (p : Package) (id c : Nat) : List Piece :=
  let w := (p.core c).saveArea
  let parts := areaParts w
  if areaSet w then ((span 0 1 parts.length).zip parts).map (fun e => savePiece id c e.2 (areaBase w + 65536 * e.1)) else []

/-- The save copy begins once every affected core has packed (R260, step 6). -/
def Package.startSave (p : Package) (id : Nat) : Package :=
  match p.job id with
  | some (.preempt q) =>
    if q.started ∧ ¬ q.saving ∧ q.starting = [] ∧ (q.cores.all (fun c => (p.core c).packed)) = true then
      (q.cores.flatMap (p.savePieces id)).foldl (fun p x => p.addJob (.piece x)) (p.setJob id (.preempt { q with saving := true }))
    else p
  | _ => p

/-- A core counted as packed (R260, steps 3 and 5). -/
def Package.countPacked (p : Package) (id c : Nat) : Package :=
  (p.onCore c (fun k => { k with packed := true })).startSave id

end Sys2Proof.Machine
end

