-- ==== Sys2Proof/Machine/Messages.lean ====
section
/-! DEFINITION. Messages: handlers and mailboxes (R140 to R151), injection (R444), SEND, WAITM, TAKEM, HTAB, MCFG (R180 to
R184), and the arrival of messages. -/

namespace Sys2Proof.Machine

/-! ## Injection (R444) -/

/-- Injection entries in use by a core. -/
def Package.injecting (p : Package) (chip c : Nat) : Nat :=
  (p.jobs (fun j => match j with | .msg m => m.inject && decide (m.src = c ∧ m.srcChip = chip) | _ => false)).length

/-- The network refuses n messages of the issuing core. -/
def State.msgRefused (s : State) (n : Nat) : Bool :=
  decide (16 < s.here.injecting s.cur.chip s.cur.core + n) || (decide (n ≠ 0) && !s.here.admits (blockNi s.cur.core) s.holder)

/-- A USER message of the issuing thread, sent and charged. -/
def State.sendMsg (s : State) (m : Msg) : State :=
  s.onHere (fun p => (p.charge (blockNi s.cur.core) s.holder 1).send { m with inject := true, srcChip := s.cur.chip })

/-- The words of a group of registers. -/
def State.group (s : State) (n count : Nat) : List Word := (span n 1 count).map s.reg

/-- SEND (R180). -/
def sendOp (toThread : Bool) (d : Reg) (handler : BitVec 6) (payload : Option RegOp) (count : BitVec 3) (s : State) :
    Host.Outcome State Fault Refusal :=
  let t : Opr := match payload with
    | some r => .reg r.n.toNat count.toNat false .read r.trap
    | none => .none
  chain s { t := t, d := rdReg d } (fun v s =>
    if s.msgRefused 1 then .park s .net
    else
      let pay := match payload with
        | some r => s.group r.n.toNat count.toNat
        | none => []
      let dst := if toThread then handleCore v.d.toNat else bits v.d 9 0
      let m := Msg.plain s.cur.core dst (header 0 handler.toNat s.holder s.self 0) pay
      .next (s.sendMsg { m with toThread := if toThread then some (bits v.d 23 0) else none }))

def execSendT (d : Reg) (handler : BitVec 6) (payload : Option RegOp) (count : BitVec 3) (s : State) :
    Host.Outcome State Fault Refusal := sendOp true d handler payload count s
def execSendC (d : Reg) (handler : BitVec 6) (payload : Option RegOp) (count : BitVec 3) (s : State) :
    Host.Outcome State Fault Refusal := sendOp false d handler payload count s

/-! ## The mailbox from its core (R148 to R150, R181, R182) -/

/-- The issuing thread joins the threads parked in WAITM, as the youngest (R150). -/
def State.joinWaitm (s : State) : State :=
  s.onHereCore (fun k => { k with waitm := k.waitm.filter (· ≠ s.cur.slot) ++ [s.cur.slot] })

def execWaitm (s : State) : Host.Outcome State Fault Refusal :=
  chain s {} (fun _ s => if s.hereCore.mbox.isEmpty then .park s.joinWaitm .mbox else .next s)

/-- TAKEM (R182): an empty mailbox is a reason to park before an empty register is. -/
def execTakem (d : Reg) (s : State) : Host.Outcome State Fault Refusal :=
  chain s { d := .named d.toNat 4 true } (fun _ s =>
    match s.hereCore.mbox with
    | [] => s.parkFor (.source 11) .mbox
    | e :: _ =>
      if (span d.toNat 1 4).any (fun i => !(s.hereCore.reg s.me i).full) then s.parkFor (.regs d.toNat 4) .reg
      else match e.report with
        | some w => .trap (s.consumeReport .overflow) .overflow 0 w
        | none =>
          let n := d.toNat
          .next ((s.onHere (fun p => p.takeMbox s.cur.core)).result
            [⟨n, e.hdr, false, false⟩, ⟨n + 1, e.w1, false, false⟩, ⟨n + 2, e.w2, false, false⟩, ⟨n + 3, e.w3, false, false⟩]))

/-! ## Handlers and configuration (R183, R184) -/

def execHtab (d : Reg) (src : Src) (s : State) : Host.Outcome State Fault Refusal :=
  chainNext s { s := srcOpr src, d := rdReg d } (fun v s =>
    s.onHereCore (fun k => { k with handlers := tset k.handlers (lowBits v.s 6) (v.d &&& 0xCFFFFFFFFFFFFFFF) }))

def execMcfgReadConfig (d : Reg) (s : State) : Host.Outcome State Fault Refusal :=
  chainNext s { d := wrReg d } (fun _ s => s.setReg d.toNat s.hereCore.elig)
def execMcfgWriteConfig (d : Reg) (s : State) : Host.Outcome State Fault Refusal :=
  chainNext s { d := rdReg d } (fun v s => s.onHereCore (fun k => { k with elig := word (bits v.d 62 0) }))
def execMcfgReadDropCounter (d : Reg) (s : State) : Host.Outcome State Fault Refusal :=
  chainNext s { d := wrReg d } (fun _ s =>
    (s.setReg d.toNat (word s.hereCore.drops)).onHereCore (fun k => { k with drops := 0 }))
def execMcfgReadAccept (d : Reg) (n : BitVec 4) (s : State) : Host.Outcome State Fault Refusal :=
  chainNext s { d := wrReg d } (fun _ s => s.setReg d.toNat (word (tget s.hereCore.accept n.toNat 0)))
def execMcfgWriteAccept (d : Reg) (n : BitVec 4) (s : State) : Host.Outcome State Fault Refusal :=
  chainNext s { d := rdReg d } (fun v s => s.onHereCore (fun k => { k with accept := tset k.accept n.toNat (bits v.d 15 0) }))

/-! ## Arrival (R146, R147) -/

/-- A sender's holder is accepted by a core (R142). -/
def Package.accepts (p : Package) (c h : Nat) : Bool :=
  decide (h = p.coreHolder c) || (decide (h ≠ 0) && (p.core c).accept.any (fun e => decide (e.2 = h)))

/-- The pre-emption in progress on a core. -/
def Package.preempting (p : Package) (c : Nat) : Option Nat :=
  firstSome p.flights (fun e => match e.2 with
    | .preempt q => if q.started ∧ q.cores.contains c then some e.1 else none
    | _ => none)

/-- What becomes of a message at its target. -/
inductive Verdict where
  | refuse | deposit | latch | wait
  | start (slot base len : Nat)
  deriving DecidableEq, Repr

/-- The last check of R146: a slot and a window. A PREEMPT request goes past a message that waits in the latch for the pre-emption's
end (R260). -/
def Package.judgeSlot (p : Package) (id : Nat) (m : Msg) (entry : Word) (service : Bool) : Verdict :=
  let k := p.core m.dst
  if service then
    (match k.latch with
    | some l =>
      if (l = id ∨ m.preempt.isSome) ∧ k.slotFree 63 then .start 63 2016 32 else .wait
    | none => if k.slotFree 63 then .start 63 2016 32 else .latch)
  else if k.elig = 0 then .refuse
  else
    let len := 8 * (bits entry 59 56 + 1)
    match firstIn 0 63 (fun i => k.elig.getLsbD i && k.slotFree i), k.fitWindow len with
    | some slot, some base => .start slot base len
    | _, _ => .wait

/-- The thread that a SEND.t names is not there (R146, step 2). -/
def Package.handleAbsent (p : Package) (c : Nat) : Option Nat → Bool
  | none => false
  | some h =>
    let t := p.thread c (handleSlot h)
    decide (t.gen ≠ handleGen h) || !(t.live && decide (t.life ≠ .migrating))

/-- The checks of R146 in their order. A change of the accept list does not touch a message that has arrived: one that waits has been let
in, and one that was refused stays so (R184). -/
def Package.judge (p : Package) (id : Nat) (m : Msg) : Verdict :=
  let k := p.core m.dst
  let kind := bits m.hdr 63 56
  let handler := bits m.hdr 55 48
  let room : Verdict := if k.mbox.length < 64 then .deposit else .wait
  if m.refused then .refuse
  else if m.bounce then (if k.mbox.length < 64 then .deposit else .refuse)
  else if kind ≠ 3 ∧ kind ≠ 1 ∧ m.waiting = false ∧ p.accepts m.dst (bits m.hdr 47 32) = false then .refuse
  else if p.handleAbsent m.dst m.toThread then .refuse
  else if handler = 0 ∧ kind ≠ 3 then room
  else
    let entry := tget k.handlers handler 0
    if entry.getLsbD 63 = false then .refuse
    else
      let v := p.judgeSlot id m entry (entry.getLsbD 62 || decide (kind = 3))
      if v ≠ .refuse ∧ ((p.preempting m.dst).isSome ∨ p.transferring m.dst = true) ∧ m.preempt = none then .wait else v

/-- An entry deposited; the oldest thread parked in WAITM wakes (R148, R150). -/
def Package.deposit (p : Package) (m : Msg) : Package :=
  let e : MboxEntry := ⟨m.hdr, m.pay.headD 0, m.pay.tail.headD 0, m.pay.tail.tail.headD 0, m.report, m.acquire⟩
  let p := p.onCore m.dst (fun k => { k with mbox := k.mbox ++ [e] })
  match (p.core m.dst).waitm with
  | [] => p
  | slot :: rest =>
    let p := p.onCore m.dst (fun k => { k with waitm := rest })
    p.onThread m.dst slot (fun t => if t.life = .parked ∧ t.reason = some .mbox then { t with life := .ready, reason := none } else t)

/-- A host packet's outcome. -/
def Package.settle (p : Package) (packet : Nat) (ok : Bool) : Package :=
  match p.job packet with
  | some (.packet k) => p.setJob packet (.packet { k with outcome := some ok })
  | _ => p

/-- A handler thread started for a message, under a new launch cell (R16, R143, R146, R310); none while the die has no
free cell. A report of R52 that comes with the message reaches no one: the handler reads its header in a register (log 47). -/
def Package.startHandler (p : Package) (m : Msg) (slot base len start : Nat) : Option Package :=
  let k := p.core m.dst
  let h := p.coreHolder m.dst
  let parent := match m.launch with
    | some (_, c) => c
    | none => ((p.holderRec h).map (·.rootCell)).getD 0
  match p.newCell (coreDie m.dst) start h 0 parent 1 silent false with
  | none => none
  | some (p, cell) =>
    let entry := tget k.handlers (bits m.hdr 55 48) 0
    let regs := (0, word (bits m.hdr 31 8)) :: (1, m.hdr) :: (span 2 1 m.pay.length).zip m.pay
    let p := p.onCore m.dst (fun k =>
      let k := k.startThread slot base len (entry.setWidth 56) regs 0 (some cell) (p.cellCancelled cell)
      let k := if m.tagged then k.setPairTag (k.thread slot) 2 true else k
      k.setThread slot { k.thread slot with preempt := m.preempt.isSome })
    some (match m.launch with
      | none => p
      | some (packet, _) => match p.job packet with
        | some (.packet q) => p.setJob packet (.packet { q with cell := some cell })
        | _ => p)

/-- A bounce of a refused message (R147). -/
def Msg.bounced (m : Msg) : Msg :=
  { Msg.plain m.dst m.src (word (bits m.hdr 63 8 * 256 + 1)) (m.pay.take 3) with bounce := true }

/-- The message leaves flight, and the latch if it stood there. -/
def Package.take (p : Package) (id : Nat) (m : Msg) : Package :=
  (p.dropJob id).onCore m.dst (fun k => { k with latch := if k.latch = some id then none else k.latch })

/-- A refused message (R147): by its kind. None while it must wait. -/
def State.refuse (s : State) (chip id : Nat) (m : Msg) : Option State :=
  let p := s.pkg chip
  let kind := bits m.hdr 63 56
  if m.bounce then
    some (s.setPkg chip ((p.take id m).onCore m.dst (fun k => { k with drops := Nat.min (2 ^ 32 - 1) (k.drops + 1) })))
  else if m.preempt.isSome then some (s.setPkg chip ((p.take id m).countPacked (m.preempt.getD 0) m.dst))
  else if kind = 4 then
    some (s.setPkg chip (match m.launch with
      | some (packet, _) => (p.take id m).settle packet false
      | none => p.take id m))
  else if kind = 0 then
    (if m.srcChip = chip then some (s.setPkg chip ((p.take id m).send { m.bounced with srcChip := chip }))
    else if s.unitAccepts chip m.srcChip (bits m.hdr 47 32) then
      some ((s.setPkg chip (p.take id m)).inject (Packet.of chip m.srcChip (bits m.hdr 47 32) (.mcast { m.bounced with srcChip := chip })))
    else none)
  else if (p.core m.dst).mbox.length < 64 then some (s.setPkg chip ((p.take id m).deposit m))
  else none

/-- A message delivered, refused, or left to wait: none when nothing changes. -/
def State.deliver (s : State) (chip id : Nat) (m : Msg) : Option State :=
  let p := s.pkg chip
  match p.judge id m with
  | .refuse => s.refuse chip id m
  | .deposit =>
    let p := (p.take id m).deposit m
    some (s.setPkg chip (match m.launch with
      | some (packet, _) => p.settle packet true
      | none => p))
  | .start slot base len => ((p.take id m).startHandler m slot base len (s.free 4)).map (s.setPkg chip)
  | .latch => some (s.setPkg chip ((p.setJob id (.msg { m with waiting := true })).onCore m.dst (fun k => { k with latch := some id })))
  | .wait => none

/-- Who sends a message into the package network, apart from its source `src`: a core itself (USER and FAULT messages, bounces, and the
MAP messages that a core sends on or for its pre-emption), a streamer or a die's completion cells (COMPLETION messages, whose source is
that unit), the map block, or the host interface. The PREEMPT request comes from its cluster's controller, which sends one at a time. -/
def Msg.sender (m : Msg) : Option Nat :=
  match bits m.hdr 63 56 with
  | 0 | 2 => some 0
  | 1 => some 1
  | 3 => if m.preempt.isSome then none else some (if m.src < 1024 then 0 else 3)
  | 4 => some 4
  | _ => none

/-- The chip that a message in the network of a chip comes from: a multicast copy or a bounce may come from another, every other
message is of this one. -/
def Msg.origin (m : Msg) (chip : Nat) : Nat := if bits m.hdr 63 56 = 0 then m.srcChip else chip

/-- An item in flight is a packet of some sender on its way from one core to another (R300): a message that has not been delivered
or latched, a deposit that has not reached its buffer, or a port value. -/
def Package.packetOf (p : Package) (chip fromChip src dst sender id : Nat) : Job → Bool
  | .msg n => decide (n.sender = some sender ∧ n.origin chip = fromChip ∧ n.src = src ∧ n.dst = dst ∧ (p.core dst).latch ≠ some id)
  | .depo d => decide (sender = 0 ∧ fromChip = chip ∧ d.owner.core = src ∧ d.dst = dst ∧ d.stage = .travelling)
  | .portv v => decide (sender = 0 ∧ fromChip = chip ∧ v.src.core = src ∧ v.dst = dst)
  | _ => false

/-- An earlier packet of one sender to the same core has not arrived: it is not overtaken (R180, R300). -/
def Package.packetBefore (p : Package) (chip fromChip src dst sender id : Nat) : Bool :=
  p.flights.any (fun e => decide (e.1 < id) && p.packetOf chip fromChip src dst sender e.1 e.2)

/-- A message must not be delivered yet: one of its sender before it has not been. -/
def Package.messageBefore (p : Package) (chip id : Nat) (m : Msg) : Bool :=
  match m.sender with
  | some k => p.packetBefore chip (m.origin chip) m.src m.dst k id
  | none => false

/-- MESSAGE_ARRIVAL (R146): a message reaches its target core; one that must wait waits there, and one that is refused may have to wait
for its bounce or for room in the mailbox (R147). -/
def execMessageArrival (chip : Nat) (id : Nat) (s : State) : Host.Outcome State Fault Refusal :=
  sysStep s (fun s =>
    let p := s.pkg chip
    match p.job id with
    | some (.msg m) =>
      if p.phase = .running ∧ ¬ m.waiting ∧ p.awake m.dst ∧ ¬ p.messageBefore chip id m then
        (match s.deliver chip id m with
        | some t => some t
        | none => some (s.setPkg chip (p.setJob id (.msg { m with waiting := true, refused := m.refused || decide (p.judge id m = .refuse) }))))
      else none
    | _ => none)

/-- MESSAGE_DELIVERY_RETRY (R146): a waiting message is checked again; one that is refused now may have to wait all the same. -/
def execMessageDeliveryRetry (chip : Nat) (id : Nat) (s : State) : Host.Outcome State Fault Refusal :=
  sysStep s (fun s =>
    let p := s.pkg chip
    match p.job id with
    | some (.msg m) =>
      if p.phase = .running ∧ m.waiting ∧ p.awake m.dst ∧ ¬ p.messageBefore chip id m then
        (match s.deliver chip id m with
        | some t => some t
        | none => when (!m.refused && decide (p.judge id m = .refuse)) (s.setPkg chip (p.setJob id (.msg { m with refused := true }))))
      else none
    | _ => none)

/-- PREEMPT_HANDLER_START (R260): the PREEMPT message of a core starts handler 0 in slot 63, or counts the core as packed
when there is no such handler. -/
def execPreemptHandlerStart (chip core : Nat) (s : State) : Host.Outcome State Fault Refusal :=
  sysStep s (fun s =>
    if (s.pkg chip).phase = .running then
      firstSome (s.pkg chip).flights (fun e => match e.2 with
        | .msg m => if m.preempt.isSome ∧ m.dst = core then s.deliver chip e.1 m else none
        | _ => none)
    else none)

end Sys2Proof.Machine
end

