-- ==== Sys2Proof/Machine/Ports.lean ====
section
/-! DEFINITION. Neighbour ports (R158 to R161, R185 to R188) and register deposits (R162, R189). -/

namespace Sys2Proof.Machine

def portCode : Port → Nat
  | .e => 0 | .w => 1 | .n => 2 | .s => 3 | .up => 4 | .dn => 5

/-- The partner's chip and core of a port (R158). -/
def State.partnerOf (s : State) (chip core port : Nat) : Nat × Nat :=
  let crosses : Option Nat := match port with
    | 0 => if meshX core = 31 then some 0 else none
    | 1 => if meshX core = 0 then some 1 else none
    | 2 => if meshY core = 0 then some 3 else none
    | 3 => if meshY core = 31 then some 2 else none
    | _ => none
  ((crosses.map (s.neighbour chip)).getD chip, partnerCore core port)

/-- A thread has no partner on a port (R158, R185). -/
def noPartner (slot port : Nat) : Bool :=
  decide (slot = 63) || (decide (port = 4) && decide (slot = 62)) || (decide (port = 5) && decide (slot = 0))

/-- The issuing thread's port let go before it is bound to a chip anew, and the news of that on its way to another chip (R185, R424). -/
def State.freed (s : State) (port chip : Nat) : State :=
  let t := s.onHere (fun p => p.unbind s.cur.chip s.cur.core s.cur.slot port)
  if chip = s.cur.chip then t else t.tell s.cur.chip

/-- The source unit toward a chip takes a bind request of that port, behind the news. -/
def State.mayBind (s : State) (port chip : Nat) : Bool :=
  decide (chip = s.cur.chip) || ((s.freed port chip).unitAccepts s.cur.chip chip s.holder && decide ((s.freed port chip).here.owed = []))

/-- PBIND (R185). A request to another chip follows the news that this one owes, that of the binding just let go among it (R424); the
chain parks while its source unit does not take all of it. -/
def execPbind (port : Port) (src : Src) (s : State) : Host.Outcome State Fault Refusal :=
  chain s { s := srcOpr src } (fun v s =>
    let q := portCode port
    let named := lowBits v.s 6
    if noPartner s.cur.slot q || (decide (q ≤ 3) && decide (named = 63)) then .trap s .portUnbound 0 (word q)
    else
      let slot := if q = 4 then s.cur.slot + 1 else if q = 5 then s.cur.slot - 1 else named
      let (chip, core) := s.partnerOf s.cur.chip s.cur.core q
      let b : BindReq := ⟨s.owner, s.holder, q, s.cur.chip, core, slot, false⟩
      if !s.mayBind q chip then s.parkUnit chip
      else
        let s := (s.freed q chip).onMe (fun t => t.setPort q ⟨.binding, chip, slot, []⟩)
        .next (if chip = s.cur.chip then s.onHere (fun p => p.addJob (.bind b)) else s.inject (s.request chip 0 0 0 (.portBind b))))

def execPunbind (port : Port) (s : State) : Host.Outcome State Fault Refusal :=
  chainNext s {} (fun _ s => s.onHere (fun p => p.unbind s.cur.chip s.cur.core s.cur.slot (portCode port)))

/-- A port's state word (R161). The queue toward a partner that has let go was discarded, so that OUTN of a BROKEN port is 0. What
still travels counts in OUTN, and not in INN (log 49). -/
def State.portWord (s : State) (core slot port : Nat) : Word :=
  let t := s.here.thread core slot
  let r := t.port port
  let st := match r.st with
    | .unbound => 0 | .binding => 1 | .bound => 2 | .broken => 3
  let out := if st = 2 then s.queuedTo r.peerChip (handleCore r.peer) (handleSlot r.peer) (handleGen r.peer) (opposite port) else 0
  word (((r.peer * 256 + out) * 256 + r.queue.length) * 0x1000000 + st)

/-- PSTAT (R187): the issuer's own port, or that of a thread of its core. -/
def execPstat (d : Reg) (port : Port) (t : Option RegOp) (s : State) : Host.Outcome State Fault Refusal :=
  let o : Opr := match t with | some r => rdOp r | none => .none
  chainNext s { t := o, d := wrReg d } (fun v s =>
    s.setReg d.toNat (match t with
      | none => s.portWord s.cur.core s.cur.slot (portCode port)
      | some _ =>
        let h := v.t.toNat
        let th := s.hereCore.thread (handleSlot h)
        if handleCore h = s.cur.core ∧ th.gen = handleGen h ∧ th.life ≠ .free then s.portWord s.cur.core (handleSlot h) (portCode port)
        else 0))

/-- PUSH (R188): all ports of the mask, or none. With an empty mask a stream S is read and popped as in any chain that takes
effect (R97), where the pseudocode returns before it names the pop (log 47). -/
def execPush (d : Reg) (src : Src) (s : State) : Host.Outcome State Fault Refusal :=
  chain s { s := srcOpr src, d := rdReg d } (fun v s =>
    let ps := (span 0 1 6).filter v.d.getLsbD
    match ps.find? (fun q => decide (s.myPort q = .unbound ∨ s.myPort q = .broken)) with
    | some q => .trap s .portUnbound 0 (word q)
    | none =>
      if ps.any (fun q => decide (s.myPort q = .binding)) then s.parkFor (.ports ps) .bind
      else if ps.any (fun q => !s.portRoom q) then s.parkFor (.ports ps) .portFull
      else match ps.find? (fun q => decide ((s.me.port q).peerChip ≠ s.cur.chip) && !s.unitAccepts s.cur.chip (s.me.port q).peerChip s.holder) with
        | some q => s.parkUnit (s.me.port q).peerChip
        | none => .next (ps.foldl (fun s q => s.push q v.s) s))

/-! ## Bindings and values on their way -/

/-- A port that is still BINDING to a slot. -/
def Thread.bindingTo (t : Thread) (port slot : Nat) : Bool :=
  t.live && decide ((t.port port).st = .binding ∧ (t.port port).peer = slot)

/-- A request of one end has been accepted by the partner core and waits there. -/
def Package.bindAccepted (p : Package) (chip : Nat) (o : Owner) (port : Nat) : Bool :=
  p.flights.any (fun e => isBindOf chip o port e.2 && (match e.2 with | .bind r => r.arrived | _ => false))

/-- A request stands: the port of its issuer is BINDING to the slot that it names. -/
def Package.bindStands (p : Package) (b : BindReq) : Bool :=
  p.ownerLive b.owner && (p.thread b.owner.core b.owner.slot).bindingTo b.port b.slot

/-- News that an end of a thread's port has let go, or withdrawn its request. -/
def PortNews.letsGo (n : PortNews) (core slot port : Nat) : Bool := decide (n.refused = false ∧ n.owner.core = core ∧ n.owner.slot = slot ∧ n.port = port)

/-- Such news of a port is on its way from a chip, or owed by it: until it is settled, a request of that port at the other chip may be
one that has been withdrawn. -/
def State.lettingGo (s : State) (chip core slot port : Nat) : Bool :=
  (s.pkg chip).owed.any (fun o => match o with
    | .news _ n _ => n.letsGo core slot port
    | .cell _ _ _ => false) ||
  s.packets.any (fun e => decide (e.2.src = chip ∧ e.2.original = none) && (match e.2.load with
    | .portNews n => n.letsGo core slot port
    | _ => false))

/-- The thread in the partner slot of a request has bound the opposite port to the requester's slot (R159, R185): the request of each has
been accepted by the other's core, and both stand. `chip` is the partner's. Where the two cores are on different chips, no news that
one of them has let go is on its way (log 27). -/
def State.answersBind (s : State) (chip : Nat) (b : BindReq) : Bool :=
  let t := (s.pkg chip).thread b.dst b.slot
  let q := opposite b.port
  t.bindingTo q b.owner.slot && decide ((t.port q).peerChip = b.fromChip ∧ partnerCore b.dst q = b.owner.core) &&
    (s.pkg b.fromChip).bindAccepted chip ⟨b.dst, b.slot, t.gen⟩ q &&
    (s.pkg b.fromChip).bindStands b && (s.pkg b.fromChip).awake b.owner.core &&
    (decide (b.fromChip = chip) || (!s.lettingGo chip b.dst b.slot q && !s.lettingGo b.fromChip b.owner.core b.owner.slot b.port))

/-- A port of a thread BOUND to a thread of a chip. -/
def Package.bindTo (p : Package) (o : Owner) (port chip peer : Nat) : Package :=
  p.onThread o.core o.slot (fun t => t.setPort port ⟨.bound, chip, peer, []⟩)

/-- A request that meets its match: both ports become BOUND at once, on one chip and between two (R159, log 27), and the requests are
gone. -/
def State.completeBind (s : State) (chip : Nat) (b : BindReq) : State :=
  let o : Owner := ⟨b.dst, b.slot, ((s.pkg chip).thread b.dst b.slot).gen⟩
  let q := opposite b.port
  let s := s.onPkg chip (fun p => (p.dropJobs (isBindOf b.fromChip b.owner b.port)).bindTo o q b.fromChip
    (handleOf b.owner.gen b.owner.core b.owner.slot))
  s.onPkg b.fromChip (fun p => (p.dropJobs (isBindOf chip o q)).bindTo b.owner b.port chip (handleOf o.gen o.core o.slot))

/-- The requester learns that the partner core's accept list has refused it. A port that no partner has bound holds PEER 0
(log 47). -/
def Package.refuseBind (p : Package) (chip : Nat) (b : BindReq) : Package :=
  if b.fromChip = chip then p.onThread b.owner.core b.owner.slot (fun t => t.setPort b.port ⟨.broken, chip, 0, []⟩)
  else p.owe (.news b.fromChip ⟨b.owner, b.port, b.dst, b.slot, true⟩ (p.coreHolder b.dst))

/-- PORT_BIND_REQUEST (R185): a request reaches the partner core, is refused there, completes the binding, or waits; one that
waits is taken up again when the partner slot has bound the opposite port. A request of another chip is dropped by the news of its
withdrawal (R424). -/
def execPortBindRequest (chip : Nat) (id : Nat) (s : State) : Host.Outcome State Fault Refusal :=
  let p := s.pkg chip
  match p.job id with
  | some (.bind b) =>
    if p.phase ≠ .running ∨ ¬ p.awake b.dst then .fault .notEnabled
    else if b.fromChip = chip ∧ ¬ p.bindStands b then .next (s.setPkg chip (p.dropJob id))
    else if !b.arrived && !p.accepts b.dst b.holder then .next (s.setPkg chip ((p.dropJob id).refuseBind chip b))
    else if s.answersBind chip b then .next (s.completeBind chip b)
    else if b.arrived then .fault .notEnabled
    else .next (s.setPkg chip (p.setJob id (.bind { b with arrived := true })))
  | _ => .fault .notEnabled

/-- A later bind request of a port than the one that a chip has refused is on its way there, or waits there. -/
def State.asksAnew (s : State) (chip dst : Nat) (n : PortNews) : Bool :=
  (s.pkg dst).flights.any (fun e => isBindOf chip n.owner n.port e.2) ||
  s.packets.any (fun e => decide (e.2.src = chip ∧ e.2.dst = dst) && !s.performed e.2 && (match e.2.load with
    | .portBind b => decide (b.owner = n.owner ∧ b.port = n.port)
    | _ => false))

/-- News of a binding reaches its end (R161, R424): a request that was withdrawn is dropped, a port bound to the end that let go
becomes BROKEN, and so does a port whose request was refused. -/
def Package.hearNews (p : Package) (fromChip : Nat) (n : PortNews) : Package :=
  if n.refused then
    let t := p.thread n.owner.core n.owner.slot
    if p.ownerLive n.owner ∧ (t.port n.port).peerChip = fromChip ∧ t.bindingTo n.port n.slot = true then
      p.setThread n.owner.core n.owner.slot (t.setPort n.port ⟨.broken, fromChip, 0, []⟩)
    else p
  else
    let p := p.dropJobs (isBindOf fromChip n.owner n.port)
    let t := p.thread n.dst n.slot
    let r := t.port (opposite n.port)
    if t.live ∧ r.st = .bound ∧ r.peerChip = fromChip ∧ r.peer = handleOf n.owner.gen n.owner.core n.owner.slot then
      p.setThread n.dst n.slot (t.setPort (opposite n.port) { r with st := .broken })
    else p

/-- A value enters the queue of its port, unless that port no longer belongs to the binding (R160, R161). -/
def Package.acceptValue (p : Package) (fromChip : Nat) (v : PortValue) : Package :=
  let t := p.thread v.dst v.slot
  let r := t.port v.port
  if t.live ∧ t.gen = v.gen ∧ (r.st = .bound ∨ r.st = .broken) ∧ r.peerChip = fromChip ∧
      r.peer = handleOf v.src.gen v.src.core v.src.slot then
    p.setThread v.dst v.slot (t.setPort v.port { r with queue := r.queue ++ [v.val] })
  else p

/-- PORT_VALUE_ARRIVAL (R160): in the order in which the values were pushed. -/
def execPortValueArrival (chip : Nat) (id : Nat) (s : State) : Host.Outcome State Fault Refusal :=
  jobStep chip id s (fun p j => match j with
    | .portv v =>
      when (p.awake v.dst && !p.packetBefore chip chip v.src.core v.dst 0 id) ((p.dropJob id).acceptValue chip v)
    | _ => none)

/-! ## Deposits (R162, R189) -/

/-- DEPR (R189): the deposit is sent, and the thread parks until the target core replies. -/
def execDepr (d : Reg) (src : Src) (idx : BitVec 5) (s : State) : Host.Outcome State Fault Refusal :=
  chain s { s := srcOpr src, d := rdReg d } (fun v s =>
    match s.me.pend with
    | some _ => .park s .depr
    | none =>
      let h := v.d.toNat
      let id := s.here.nextId
      let dep : Deposit := ⟨s.owner, handleCore h, handleSlot h, handleGen h, idx.toNat, v.s, .travelling, d.toNat, s.cur.words.length,
        ({ s := srcOpr src } : Needs).pops⟩
      .park ((s.onHere (fun p => p.addJob (.depo dep))).onMe (fun t => { t with pend := some id })) .depr)

/-- A register of a thread that a producer still in flight will fill. -/
def State.producing (s : State) (chip : Nat) (o : Owner) (reg : Nat) : Bool :=
  (s.pkg chip).flights.any (fun e => match e.2 with
    | .result w (.regs fs) => decide (w = o) && fs.any (fun f => decide (f.reg = reg))
    | .amo a => decide (a.owner = o ∧ a.reg = reg)
    | .spawn r => decide (r.owner = o ∧ r.reg = reg)
    | .tstat r => decide (r.owner = o ∧ r.reg = reg)
    | _ => false) ||
  s.packets.any (fun e => e.2.awaits chip o && decide (e.2.reg = reg ∨ e.2.reg2 = reg))

/-- DEPOSIT_ARRIVAL (R162): the buffer of the target core, or a refusal; held back while the buffer is full. -/
def execDepositArrival (chip : Nat) (id : Nat) (s : State) : Host.Outcome State Fault Refusal :=
  jobStep chip id s (fun p j => match j with
    | .depo d =>
      let t := p.thread d.dst d.slot
      let ok := p.accepts d.dst (p.coreHolder d.owner.core) && !p.handleAbsent d.dst (some (handleOf d.gen d.dst d.slot)) && decide (d.reg < t.len)
      let buffered := (p.jobs (fun j => match j with | .depo e => decide (e.dst = d.dst ∧ e.stage = .buffered) | _ => false)).length
      if d.stage ≠ .travelling ∨ ¬ p.awake d.dst ∨ p.packetBefore chip chip d.owner.core d.dst 0 id then none
      else if !ok then some (p.setJob id (.depo { d with stage := .refused }))
      else when (decide (buffered < 8))
        (let q := (p.dropJob id).addJob (.depo { d with stage := .buffered })
         q.onThread d.owner.core d.owner.slot (fun t => if t.pend = some id then { t with pend := some p.nextId } else t))
    | _ => none)

/-- DEPOSIT_WRITE (R162): the oldest buffered deposit of a register, once the register is empty with no producer. -/
def execDepositWrite (chip : Nat) (id : Nat) (s : State) : Host.Outcome State Fault Refusal :=
  sysStep s (fun s =>
    let p := s.pkg chip
    match p.job id with
    | some (.depo d) =>
      let older := p.flights.any (fun e => match e.2 with
        | .depo x => decide (e.1 < id ∧ x.stage = .buffered ∧ x.dst = d.dst ∧ x.slot = d.slot ∧ x.reg = d.reg)
        | _ => false)
      let t := p.thread d.dst d.slot
      if p.phase = .running ∧ d.stage = .buffered ∧ ¬ older ∧ ((p.core d.dst).reg t d.reg).full = false ∧
          p.ownerLive ⟨d.dst, d.slot, d.gen⟩ ∧ t.life ≠ .migrating ∧ s.producing chip ⟨d.dst, d.slot, d.gen⟩ d.reg = false then
        some (s.setPkg chip ((p.onCore d.dst (fun k => k.writeReg t d.reg d.val)).setJob id (.depo { d with stage := .written })))
      else none
    | _ => none)

/-- Streams popped for a thread whose chain completes away from its own turn, as R97 has it (log 49). -/
def State.popFor (s : State) (chip : Nat) (o : Owner) (pops : List Nat) : State :=
  if (s.pkg chip).ownerLive o then
    { pops.foldl State.pop { s with cur := ⟨chip, o.core, o.slot, []⟩ } with cur := s.cur }
  else s

/-- DEPOSIT_REPLY (R189): the sender's chain completes, with D := 0 on a refusal. -/
def execDepositReply (chip : Nat) (id : Nat) (s : State) : Host.Outcome State Fault Refusal :=
  sysStep s (fun s =>
    match (s.pkg chip).job id with
    | some (.depo d) =>
      if (s.pkg chip).phase = .running ∧ (d.stage = .written ∨ d.stage = .refused) then
        some ((s.popFor chip d.owner d.pops).onPkg chip (fun p =>
          (p.dropJob id).finishChain d.owner d.len (if d.stage = .refused then [⟨d.d, 0, false, false⟩] else [])))
      else none
    | _ => none)

end Sys2Proof.Machine
end

