-- ==== Sys2Proof/Machine/Threads.lean ====
section
/-! DEFINITION. Creating, inspecting and stopping threads (R190 to R198), access/execute pairs (R199 to R201), and the release
of a slot (R29). -/

namespace Sys2Proof.Machine

/-! ## Creation (R190 to R193) -/

def failNoSlot : Nat := 1
def failNoWindow : Nat := 2
def failNotHolder : Nat := 3

/-- The creation result word (R190). -/
def createdWord (handle handle2 : Nat) : Word := word (handle2 * 2 ^ 24 + handle)
def failedWord (reason : Nat) : Word := word (2 ^ 63 + reason)

/-- What a creation comes to: a result word, or a die without a free cell. -/
inductive Created where
  | done (p : Package) (w : Word)
  | noCell

/-- One thread created on a core under a new launch cell of the creating core's die (R191, R192, R310). -/
def Package.spawnOn (p : Package) (c die creator : Nat) (entry : BitVec 56) (cfg : Word) (parent start : Nat) : Created :=
  let k := p.core c
  let len := 8 * (bits cfg 3 0 + 1)
  match k.pickSlot with
  | none => .done p (failedWord failNoSlot)
  | some slot =>
    match k.fitWindow len with
    | none => .done p (failedWord failNoWindow)
    | some base =>
      match p.newCell die start (p.coreHolder c) 0 parent 1 silent false with
      | none => .noCell
      | some (p, cell) =>
        let p := p.onCore c (fun k => k.startThread slot base len entry
          [(0, word creator), (2, word (bits cfg 63 16))] 0 (some cell) (p.cellCancelled cell))
        .done p (createdWord (handleOf (k.thread slot).gen c slot) 0)

/-- The parent of the launch of the issuing thread (R310): a thread that runs under a job cell itself launches below it, and one
whose launch is on another chip below its holder's root job cell (log 40). -/
def State.launchParent (s : State) : Nat :=
  match s.me.cell with
  | some c => if (s.here.cellAt c).level = 3 then c else (s.here.cellAt c).parent
  | none => ((s.here.holderRec s.holder).map (·.rootCell)).getD 0

def execSpawnL (d : Reg) (src : RegOp) (t : Tgt) (s : State) : Host.Outcome State Fault Refusal :=
  chain s { t := tgtOpr t, s := rdOp src, d := wrReg d } (fun v s =>
    match s.here.spawnOn s.cur.core (coreDie s.cur.core) s.self (v.s.setWidth 56) v.t s.launchParent (s.free 4) with
    | .noCell => .replay s
    | .done p w => .next ((s.onHere (fun _ => p)).setReg d.toNat w))

/-- SPAWN.c (R192): D is read, emptied, and filled when the target replies. The chain is replayed while its own die has no free
cell (R310). -/
def execSpawnC (d : Reg) (src : RegOp) (t : Tgt) (s : State) : Host.Outcome State Fault Refusal :=
  chain s { t := tgtOpr t, s := rdOp src, d := rwReg d } (fun v s =>
    if (s.here.freeCell (coreDie s.cur.core) 0).isNone then .replay s
    else .next ((s.onHere (fun p => p.addJob (.spawn ⟨s.owner, bits v.d 9 0, d.toNat, v.s.setWidth 56, v.t, s.launchParent⟩))).emptyReg d.toNat))

/-- SPAWN_REMOTE_CREATE (R192): the target core creates the thread and replies; it waits for a free cell of the creator's die. -/
def execSpawnRemoteCreate (chip : Nat) (id : Nat) (s : State) : Host.Outcome State Fault Refusal :=
  jobStep chip id s (fun p j => match j with
    | .spawn r =>
      let reply (p : Package) (w : Word) : Package := p.addJob (.result r.owner (.regs [⟨r.reg, w, false, false⟩]))
      if ¬ p.awake r.dst ∨ p.transferring r.dst then none
      else if p.coreHolder r.dst ≠ p.coreHolder r.owner.core then some (reply (p.dropJob id) (failedWord failNotHolder))
      else match (p.dropJob id).spawnOn r.dst (coreDie r.owner.core) (handleOf r.owner.gen r.owner.core r.owner.slot) r.entry r.cfg r.parent (s.free 4) with
        | .noCell => none
        | .done p w => some (reply p w)
    | _ => none)

def Pair.fresh (acc exe : Nat) : Pair := ⟨some acc, some exe, [], [], [], [], [], [], none, [], false, false⟩

/-- Two threads more under the cell that counts the issuing thread, on this chip or on another (R310). -/
def State.joinLaunch (s : State) : State :=
  match s.me.cell, s.me.away with
  | some c, _ => s.onHere (fun p => p.cellRaise c 2)
  | none, some (chip, c) => s.onPkg chip (fun p => p.cellRaise c 2)
  | none, none => s

/-- The CANCEL that the issuing thread's launch stands under (R312). -/
def State.launchCancelled (s : State) : Option Nat :=
  match s.me.cell, s.me.away with
  | some c, _ => s.here.cellCancelled c
  | none, some (chip, c) => (s.pkg chip).cellCancelled c
  | none, none => none

/-- FORKAE's two threads (R193). -/
def State.forkPair (s : State) (acc exe : BitVec 56) (cfg : Word) : State × Word :=
  let k := s.hereCore
  let la := 8 * (bits cfg 3 0 + 1)
  let le := 8 * (bits cfg 7 4 + 1)
  let cell := s.me.cell
  let cancel := s.launchCancelled
  let fail (r : Nat) : State × Word := (s, failedWord r)
  match firstIn 0 8 (fun i => (tget? k.pairs i).isNone), k.pickSlot with
  | some q, some a =>
    -- the slot as taken, so that the second choice passes over it
    let taken := k.setThread a { Thread.fresh with life := .ready, base := 2048, len := 0, gen := (k.thread a).gen }
    (match taken.pickSlot with
    | none => fail failNoSlot
    | some e =>
      match k.fitWindow la with
      | none => fail failNoWindow
      | some ba =>
        let ha := handleOf (k.thread a).gen s.cur.core a
        let he := handleOf (k.thread e).gen s.cur.core e
        let arg := word (bits cfg 63 16)
        let k1 := k.startThread a ba la acc [(0, word s.self), (2, arg), (3, word he)] 1 cell cancel
        match k1.fitWindow le with
        | none => fail failNoWindow
        | some be =>
          let k2 := k1.startThread e be le exe [(0, word s.self), (2, arg), (3, word ha)] 2 cell cancel
          let member (t : Thread) : Thread := { t with pair := some q, paired := true, away := s.me.away }
          let k3 := (k2.setThread a (member (k2.thread a))).setThread e (member (k2.thread e))
          let k4 := { k3 with pairs := tset k3.pairs q (Pair.fresh a e) }
          (s.joinLaunch.onHere (fun p => p.setCore s.cur.core k4), createdWord ha he))
  | _, _ => fail failNoSlot

def execForkae (d : Reg) (src : RegOp) (t : Tgt) (s : State) : Host.Outcome State Fault Refusal :=
  chainNext s { role := .notPair, t := tgtOpr t, s := rdGroup src 2, d := wrReg d } (fun v s =>
    let (s, w) := s.forkPair (v.s.setWidth 56) ((s.reg (src.n.toNat + 1)).setWidth 56) v.t
    s.setReg d.toNat w)

/-! ## TSTAT (R194) -/

def Life.code : Life → Nat
  | .free => 0 | .ready => 1 | .parked => 2 | .trapped => 3 | .migrating => 4 | .retired => 5

def Reason.code : Reason → Nat
  | .reg => 0x01 | .portFull => 0x02 | .portEmpty => 0x03 | .bind => 0x04 | .queue => 0x05 | .word => 0x06 | .mbox => 0x07
  | .depr => 0x08 | .engine => 0x09 | .acc => 0x0A | .barrier => 0x0B | .phase => 0x0C | .halo => 0x0D | .fence => 0x0E
  | .net => 0x0F | .rdv => 0x10

/-- The report on a slot (R194), for a holder. -/
def Package.statWord (p : Package) (h c slot : Nat) : Word :=
  if p.coreHolder c ≠ h then word (2 ^ 63)
  else
    let t := p.thread c slot
    let reason := if t.life = .parked then (t.reason.map Reason.code).getD 0 else 0
    let win := if t.life = .free then 0 else t.len / 8
    word ((((t.gen * 256 + bits t.cause 7 0) * 256 + reason) * 256 + win) * 256 + t.life.code)

def execTstat (d : Reg) (src : RegOp) (s : State) : Host.Outcome State Fault Refusal :=
  chainNext s { s := rdOp src, d := wrReg d } (fun v s =>
    let c := handleCore v.s.toNat
    let slot := handleSlot v.s.toNat
    if c = s.cur.core then s.setReg d.toNat (s.here.statWord s.holder c slot)
    else (s.onHere (fun p => p.addJob (.tstat ⟨s.owner, d.toNat, c, slot⟩))).emptyReg d.toNat)

/-- TSTAT_REMOTE_REPLY (R194): the other core answers. -/
def execTstatRemoteReply (chip : Nat) (id : Nat) (s : State) : Host.Outcome State Fault Refusal :=
  jobStep chip id s (fun p j => match j with
    | .tstat r => when (p.awake r.dst)
        ((p.dropJob id).addJob (.result r.owner (.regs [⟨r.reg, p.statWord (p.coreHolder r.owner.core) r.dst r.slot, false, false⟩])))
    | _ => none)

/-! ## TREG and TWREG (R195, R198) -/

/-- The slot of a thread of the issuing core that a handle names (R195). -/
def State.target? (s : State) (h : Word) : Option Nat :=
  let n := h.toNat
  let t := s.hereCore.thread (handleSlot n)
  if handleCore n = s.cur.core ∧ t.gen = handleGen n ∧ t.life ≠ .free ∧ t.life ≠ .retired then some (handleSlot n) else none

/-- Presence bits of 64 registers of a thread. -/
def Core.presence (k : Core) (t : Thread) (lo : Nat) : Nat :=
  (span 0 1 64).foldl (fun m i => if lo + i < t.len ∧ (k.reg t (lo + i)).full then m + 2 ^ i else m) 0

/-- An item of a thread as TREG reads it (R198). -/
def Core.item (k : Core) (slot sel : Nat) : Word :=
  let t := k.thread slot
  if sel < 128 then (if sel < t.len then (k.reg t sel).val else 0)
  else if sel < 136 then t.control (sel - 128)
  else if sel = 136 then t.pc.setWidth 64
  else if sel = 137 then word (k.presence t 0)
  else if sel = 138 then word (k.presence t 64)
  else if sel = 139 then word (t.len * 65536 + t.base)
  else 0

def execTreg (d : Reg) (src : RegOp) (t : Tgt) (s : State) : Host.Outcome State Fault Refusal :=
  chainNext s { t := tgtOpr t, s := rdOp src, d := wrReg d } (fun v s =>
    s.setReg d.toNat (match s.target? v.s with
      | none => 0
      | some slot => s.hereCore.item slot (lowBits v.t 8)))

/-- The number that marks a discarded producer: no window has it. -/
def discarded : Nat := 999

/-- The fills of a result without those of one register; what remains of a pair has no tag (R409). -/
def dropFills (fs : List Fill) (reg : Nat) : List Fill :=
  (fs.filter (fun f => decide (f.reg ≠ reg))).map (fun f => if f.reg / 2 = reg / 2 then { f with tag := false } else f)

/-- A producer still in flight toward a register is discarded on arrival (R198). -/
def State.discardProducer (s : State) (chip : Nat) (o : Owner) (reg : Nat) : State :=
  let s := s.onPkg chip (fun p => { p with flights := p.flights.map (fun e => (e.1, match e.2 with
    | .result w (.regs fs) => if w = o then .result w (.regs (dropFills fs reg)) else e.2
    | .amo a => if a.owner = o ∧ a.reg = reg then .amo { a with reg := discarded } else e.2
    | .spawn r => if r.owner = o ∧ r.reg = reg then .spawn { r with reg := discarded } else e.2
    | .tstat r => if r.owner = o ∧ r.reg = reg then .tstat { r with reg := discarded } else e.2
    | j => j)) })
  { s with packets := s.packets.map (fun e => (e.1,
    if e.2.awaits chip o then
      { e.2 with reg := if e.2.reg = reg then discarded else e.2.reg, reg2 := if e.2.reg2 = reg then discarded else e.2.reg2 }
    else e.2)) }

/-- Presence bits written (R198): a set bit fills its register as it stands, a cleared one empties it with no producer. A set bit
for a register that a producer in flight would fill leaves the old bits there and discards the producer, as a written register
does (log 47). A register that is filled keeps its poison mark (log 49). -/
def State.setPresence (s : State) (slot lo : Nat) (v : Word) : State :=
  let t := s.hereCore.thread slot
  let o : Owner := ⟨s.cur.core, slot, t.gen⟩
  ((span 0 1 64).filter (fun i => decide (lo + i < t.len))).foldl (fun s i =>
    let s := if (s.hereCore.reg t (lo + i)).full && v.getLsbD i then s else s.discardProducer s.cur.chip o (lo + i)
    s.onHereCore (fun k =>
      if v.getLsbD i then { k with regs := tset k.regs (t.base + (lo + i)) { k.reg t (lo + i) with full := true } }
      else if (k.reg t (lo + i)).full then k.emptyReg t (lo + i) else k)) s

/-- An item of a TRAPPED thread written (R198). -/
def State.writeItem (s : State) (slot sel : Nat) (v : Word) : State :=
  let t := s.hereCore.thread slot
  if sel < 128 then
    (if sel < t.len then (s.discardProducer s.cur.chip ⟨s.cur.core, slot, t.gen⟩ sel).onHereCore (fun k => k.writeReg t sel v) else s)
  else if sel < 136 then s.onHereCore (fun k => k.setThread slot (t.setControl (decide (slot = 63)) (sel - 128) v))
  else if sel = 136 then s.onHereCore (fun k => k.setThread slot { t with pc := v.setWidth 56 })
  else if sel = 137 then s.setPresence slot 0 v
  else if sel = 138 then s.setPresence slot 64 v
  else s

def execTwreg (d : Reg) (src : RegOp) (t : RegOp) (s : State) : Host.Outcome State Fault Refusal :=
  chainNext s { role := .unless t.n.toNat 134, t := rdOp t, s := rdOp src, d := rdReg d } (fun v s =>
    match s.target? v.s with
    | none => s
    | some slot => if (s.hereCore.thread slot).life = .trapped then s.writeItem slot (lowBits v.t 8) v.d else s)

/-! ## TSTOP and TRESUME (R196, R197) -/

/-- What a stop finds of a thread's outstanding request (R175, R189, R196): it may stop at once, it stops with its request
withdrawn, or it must be settled first. -/
inductive Settling where
  | clear | withdraw | later
  deriving DecidableEq, Repr

def Package.settling (p : Package) (t : Thread) : Settling :=
  match t.wait, t.pend with
  | .fence _ _, _ => .later
  | _, none => .clear
  | _, some id => match p.job id with
    | none => .clear
    | some (.fe h) => if h.enlisted then .withdraw else .later
    | some (.depo d) => if d.stage = .buffered then .withdraw else .later
    | some (.trade _) | some (.cellOp _) => .withdraw
    | some _ => .later

/-- The thread's arrival at RDV, if it waits there, is withdrawn. -/
def Core.withdrawRdv (k : Core) (t : Thread) : Core :=
  match t.pair with
  | none => k
  | some q => match tget? k.pairs q with
    | none => k
    | some r =>
      if t.reason = some .rdv ∧ r.left = false then
        { k with pairs := tset k.pairs q (if t.role = 2 then { r with exeRdv := none, exePops := [] } else { r with accRdv := false }) }
      else k

/-- A READY or PARKED thread stopped (R29, R196); one under a cancelled cell then retires (R30). -/
def Package.stop (p : Package) (chip c slot : Nat) : Package :=
  let t := p.thread c slot
  let p := match t.pend with
    | some id => if p.settling t = Settling.withdraw then p.dropJob id else p
    | none => p
  let p := p.onCore c (fun k => { k.withdrawRdv t with waitm := k.waitm.filter (· ≠ slot) })
  ((p.onThread c slot (fun t => { t with life := .trapped, reason := none, wait := .none, pend := none, reply := none, chain := [] })).orphan
    ⟨c, slot, t.gen⟩).retireStopped chip c slot

def execTstop (src : RegOp) (s : State) : Host.Outcome State Fault Refusal :=
  chain s { s := rdOp src } (fun v s =>
    match s.target? v.s with
    | none => .next s
    | some slot =>
      let t := s.hereCore.thread slot
      if slot = s.cur.slot then .moved ((s.advance.onMe (fun t => { t with life := .trapped })).onHere (fun p => p.orphan s.owner))
      else match t.life with
        | .trapped => .next s
        | .ready | .parked =>
          if s.here.settling t = Settling.later then .replay s else .next (s.onHere (fun p => p.stop s.cur.chip s.cur.core slot))
        | _ => .replay s)

def execTresume (src : RegOp) (s : State) : Host.Outcome State Fault Refusal :=
  chainNext s { s := rdOp src } (fun v s =>
    match s.target? v.s with
    | none => s
    | some slot => s.onHereCore (fun k =>
        if (k.thread slot).life = .trapped then k.setThread slot { k.thread slot with life := .ready } else k))

/-! ## Access/execute pairs (R199 to R201) -/

def State.onPair (s : State) (f : Pair → Pair) : State :=
  match s.me.pair with
  | none => s
  | some q => s.onHereCore (fun k => match tget? k.pairs q with
    | none => k
    | some r => { k with pairs := tset k.pairs q (f r) })

/-- QLD (R199): an entry is reserved at issue and filled on arrival. -/
def execQld (sz : Size) (q : Bool) (b : RegOp) (disp : Word) (s : State) : Host.Outcome State Fault Refusal :=
  let n := sizeBytes sz
  chain s { mem := true, role := .loadQueue q, s := rdOp b } (fun v s =>
    match s.pair, s.me.pair with
    | some r, some i =>
      if r.loadFull q then s.parkFor (.queue true q) .queue
      else
        let a := v.s + disp
        (s.plainAddr a n { r := true } 1).bind a (fun pa =>
          let l := s.plainLoad pa n 3
          let key := s.here.nextId
          let s := s.onPair (fun r => if q then { r with lq1 := r.lq1 ++ [⟨none, false, key⟩] } else { r with lq0 := r.lq0 ++ [⟨none, false, key⟩] })
          .next (s.onHere (fun p => p.addJob (.result s.owner (.lq i q key (word l.val) l.bad)))))
    | _, _ => .trap s .role 0 (chainWord0 s))

/-- QST (R200): the head of a store queue stored, and popped when the store takes effect. -/
def execQst (sz : Size) (q : Bool) (b : RegOp) (disp : Word) (s : State) : Host.Outcome State Fault Refusal :=
  let n := sizeBytes sz
  chain s { mem := true, role := .storeQueue q, s := rdOp b } (fun v s =>
    match s.pair with
    | some r =>
      (match (if q then r.sq1 else r.sq0) with
      | [] => s.parkFor (.queue false q) .queue
      | x :: _ =>
        let a := v.s + disp
        (s.plainAddr a n { w := true } 1).bind a (fun pa =>
          s.storeThen pa x n (fun s => .next (s.onPair (fun r => if q then { r with sq1 := r.sq1.tail } else { r with sq0 := r.sq0.tail })))))
    | none => .trap s .role 0 (chainWord0 s))

/-- The queues of a pair emptied, and its first member to pass RDV gone from it (R201). -/
def Pair.parted (q : Pair) : Pair :=
  { q with lq0 := [], lq1 := [], sq0 := [], sq1 := [], bqToExe := [], bqToAcc := [], left := true }

/-- The access thread passes RDV: the execute thread's S has been taken, with the streams it pops, which are popped only now (log 49);
the pair stands until the execute thread has passed too. -/
def State.accessLeaves (s : State) (i : Nat) (q : Pair) : State :=
  let s := match q.exeSlot with
    | some e => s.popFor s.cur.chip ⟨s.cur.core, e, (s.hereCore.thread e).gen⟩ q.exePops
    | none => s
  let s := s.onPair (fun q => { q.parted with exePops := [] })
  (s.onHereCore (fun k => k.leavePair i s.cur.slot)).onMe (fun t => { t with pair := none })

/-- RDV (R201): the first member to arrive waits, and wakes when the other arrives. The access thread takes the execute
thread's S and leaves the pair; the execute thread retires. Once the other has passed, the S that came through bq, which is gone with the
queues, is not read again. -/
def execRdv (d : Reg) (src : Src) (s : State) : Host.Outcome State Fault Refusal :=
  let past := (s.pair.map (·.left)).getD false
  chain s { role := .rdv, s := if past && (s.isExe || decide (src = .stream 10)) then .none else srcOpr src,
            d := if s.isExe then .named d.toNat 1 false else wrReg d } (fun v s =>
    match s.pair, s.me.pair with
    | some q, some i =>
      if s.isExe then
        (if q.left then .retire s
         else if q.accRdv then .retire (s.onPair (fun q => { q.parted with exeRdv := some v.s }))
         else .park (s.onPair (fun q => { q with exeRdv := some v.s, exePops := ({ s := srcOpr src } : Needs).pops })) .rdv)
      else match q.exeRdv with
        | none => .park (s.onPair (fun q => { q with accRdv := true })) .rdv
        | some x => .next ((s.accessLeaves i q).setReg d.toNat x)
    | _, _ => .trap s .role 0 (chainWord0 s))

/-! ## The release of a slot (R26, R29) -/

/-- A long-latency producer is still aimed at the window of a thread. -/
def State.owes (s : State) (chip : Nat) (o : Owner) : Bool :=
  (s.pkg chip).flights.any (fun e => match e.2 with
    | .result w (.regs _) => decide (w = o)
    | .amo a => decide (a.owner = o)
    | .spawn r => decide (r.owner = o)
    | .tstat r => decide (r.owner = o)
    | _ => false) ||
  s.packets.any (fun e => e.2.awaits chip o)

/-- SLOT_RELEASE (R29): a RETIRED slot becomes FREE and its generation advances; its last issue still counts for its gap (R137). -/
def execSlotRelease (chip core slot : Nat) (s : State) : Host.Outcome State Fault Refusal :=
  sysStep s (fun s =>
    let t := (s.pkg chip).thread core slot
    if (s.pkg chip).phase = .running ∧ t.life = .retired ∧ s.owes chip ⟨core, slot, t.gen⟩ = false then
      some (s.onPkg chip (fun p => (p.setThread core slot { Thread.freshIn slot with
        gen := (t.gen + 1) % 256, lastIssue := t.lastIssue, gap := t.gap }).forgetOps ⟨core, slot, (t.gen + 1) % 256⟩))
    else none)

end Sys2Proof.Machine
end

