-- ==== Sys2Proof/Machine/Banks.lean ====
section
/-! DEFINITION. Bank formats and sharing modes, the log region, and code visibility (R153, R154, R202 to R206). -/

namespace Sys2Proof.Machine

/-- The value of a selector operand (R202): an immediate, or a register as it stands. -/
def State.selector (s : State) (src : Src) : Word :=
  match src with
  | .imm v => v
  | .reg r => s.reg r.n.toNat
  | .stream _ => 0

/-- D under a selector: written when its read bit is set, read otherwise. -/
def State.selD (s : State) (src : Src) (bit : Nat) (d : Reg) : Opr :=
  if (s.selector src).getLsbD bit then wrReg d else rdReg d

/-- BFMT (R202). -/
def bfmtOp (d : Reg) (src : Src) (s : State) : Host.Outcome State Fault Refusal :=
  chain s { s := srcOpr src, d := s.selD src 3 d } (fun v s =>
    let bank := lowBits v.s 3
    if v.s.getLsbD 3 then .next (s.setReg d.toNat (tget s.hereCore.bankFmt bank 0))
    else if 13 ≤ bits v.d 3 0 ∨ bits v.d 5 4 ≠ 0 then .trap s .format 0 (word (bits v.d 3 0))
    else .next (s.onHereCore (fun k => { k with bankFmt := tset k.bankFmt bank (v.d &&& 0xFFFF000F) })))

def execBfmtRead (d : Reg) (src : Src) (s : State) : Host.Outcome State Fault Refusal := bfmtOp d src s
def execBfmtWrite (d : Reg) (src : Src) (s : State) : Host.Outcome State Fault Refusal := bfmtOp d src s

/-- A bank in a list of EXPORTED banks, or out of it. -/
def setBank (l : List Nat) (bank : Nat) (b : Bool) : List Nat := if b then sadd l bank else sdel l bank

/-- BMODE (R203). -/
def bmodeOp (d : Reg) (src : Src) (s : State) : Host.Outcome State Fault Refusal :=
  chainNext s { s := srcOpr src, d := s.selD src 3 d } (fun v s =>
    let bank := lowBits v.s 3
    if v.s.getLsbD 3 then
      s.setReg d.toNat (word ((if s.hereCore.pending.contains bank then 2 else 0) + (if s.hereCore.exported.contains bank then 1 else 0)))
    else s.onHereCore (fun k => { k with pending := setBank k.pending bank (v.d.getLsbD 0) }))

def execBmodeRead (d : Reg) (src : Src) (s : State) : Host.Outcome State Fault Refusal := bmodeOp d src s
def execBmodeWrite (d : Reg) (src : Src) (s : State) : Host.Outcome State Fault Refusal := bmodeOp d src s

/-- A range that lies wholly in the window of HBM, or in the memory behind one second-tier port (R204, R353). -/
def Package.inLogWindow (p : Package) (a n : Nat) : Bool :=
  let within (lo len : Nat) : Bool := decide (lo ≤ a) && decide (a + n ≤ lo + len)
  within 0x10000000000 0x8000000000 || within 0x20000000000 p.tier0 || within 0x80000000000 p.tier1

/-- A log region recorded (R204): at once while the log is empty, else at the next commit. -/
def Core.setLog (k : Core) (base size : Nat) : Core :=
  if k.spilled.isEmpty then { k with logBase := base, logSize := size, logNext := none }
  else { k with logNext := some (base, size) }

def execLogset (d : Reg) (src : RegOp) (s : State) : Host.Outcome State Fault Refusal :=
  chain s { mem := true, s := rdOp src, d := rdReg d } (fun v s =>
    let base := v.d.toNat
    let size := v.s.toNat
    if size = 0 then .next (s.onHereCore (fun k => k.setLog base 0))
    else if base % 128 ≠ 0 ∨ size % 128 ≠ 0 then .trap s .memAlign 0 v.d
    else if !s.here.inLogWindow base size then .trap s .memFault noPermission v.d
    else if !s.here.holds s.holder base size then .trap s .memFault notHeld v.d
    else .next (s.onHereCore (fun k => k.setLog base size)))

/-- A rectangle of the package mesh (R205). -/
def inRect (t : Word) (c : Nat) : Bool :=
  decide (bits t 4 0 ≤ meshX c ∧ meshX c ≤ bits t 14 10 ∧ bits t 9 5 ≤ meshY c ∧ meshY c ≤ bits t 19 15)

/-- The cached lines that overlap a range are invalid (R205). -/
def Core.dropLines (k : Core) (a n : Nat) : Core :=
  { k with icache := k.icache.filter (fun l => !(decide (l.va < a + n) && decide (a < l.va + 64))) }

def execCpub (d : Reg) (src : RegOp) (t : RegOp) (s : State) : Host.Outcome State Fault Refusal :=
  chainNext s { mem := true, t := rdOp t, s := rdOp src, d := rdReg d } (fun v s =>
    if v.s = 0 then s
    else s.onHere (fun p =>
      { p with cores := p.cores.map (fun e =>
          (e.1, if inRect v.t e.1 ∧ p.coreHolder e.1 = s.holder then e.2.dropLines v.d.toNat v.s.toNat else e.2)) }))

def execIfence (s : State) : Host.Outcome State Fault Refusal :=
  chainNext s {} (fun _ s => s.onHereCore (fun k => { k with icache := [] }))

end Sys2Proof.Machine
end

