-- ==== Sys2Proof/Machine/Float.lean ====
section
/-! DEFINITION. Floating-point values and arithmetic, exact and rounded once (R35 to R38, R44, R47, R50, R51, R124 to R131). -/

namespace Sys2Proof.Machine

/-! ## Exact values -/

/-- The exact number m × 2^e. -/
structure Dyadic where
  m : Int
  e : Int
  deriving DecidableEq, Repr

/-- The integer of a dyadic number counted in units of 2^e, for an e no larger than its own. -/
def Dyadic.units (a : Dyadic) (e : Int) : Int := a.m * 2 ^ (a.e - e).toNat

def Dyadic.add (a b : Dyadic) : Dyadic :=
  let e := if a.e ≤ b.e then a.e else b.e
  ⟨a.units e + b.units e, e⟩

def Dyadic.mul (a b : Dyadic) : Dyadic := ⟨a.m * b.m, a.e + b.e⟩
def Dyadic.neg (a : Dyadic) : Dyadic := ⟨-a.m, a.e⟩

/-- A decoded operand: a NaN, quiet or signalling, an infinity, a signed zero, or a finite value other than zero. -/
inductive Num where
  | nan (sig : Bool)
  | inf (neg : Bool)
  | zero (neg : Bool)
  | fin (d : Dyadic)
  deriving DecidableEq, Repr

/-! ## Formats (R38) -/

/-- A floating format: field widths, bias, whether it has infinities and NaNs, its largest finite value and its default NaN
as encodings without sign. -/
structure Fmt where
  ebits : Nat
  mbits : Nat
  bias : Nat
  hasInf : Bool
  hasNan : Bool
  largest : Nat
  nan : Nat
  deriving DecidableEq, Repr

def fp64 : Fmt := ⟨11, 52, 1023, true, true, 0x7FEFFFFFFFFFFFFF, 0x7FF8000000000000⟩
def fp32 : Fmt := ⟨8, 23, 127, true, true, 0x7F7FFFFF, 0x7FC00000⟩
def bf16 : Fmt := ⟨8, 7, 127, true, true, 0x7F7F, 0x7FC0⟩
def fp16 : Fmt := ⟨5, 10, 15, true, true, 0x7BFF, 0x7E00⟩
def e5m2 : Fmt := ⟨5, 2, 15, true, true, 0x7B, 0x7E⟩
def e4m3 : Fmt := ⟨4, 3, 7, false, true, 0x7E, 0x7F⟩
def e3m2 : Fmt := ⟨3, 2, 3, false, false, 0x1F, 0⟩
def e2m3 : Fmt := ⟨2, 3, 1, false, false, 0x1F, 0⟩
def e2m1 : Fmt := ⟨2, 1, 1, false, false, 0x7, 0⟩

def Fmt.width (f : Fmt) : Nat := 1 + f.ebits + f.mbits
def Fmt.signBit (f : Fmt) : Nat := 2 ^ (f.ebits + f.mbits)
def Fmt.inf (f : Fmt) : Nat := (2 ^ f.ebits - 1) * 2 ^ f.mbits
/-- The exponent of the smallest normal. -/
def Fmt.emin (f : Fmt) : Int := 1 - f.bias

def Fmt.withSign (f : Fmt) (neg : Bool) (x : Nat) : Nat := if neg then f.signBit + x else x

def signed (neg : Bool) (m : Nat) : Int := if neg then -m else m

/-- A finite encoding's exact value. -/
def Fmt.finite (f : Fmt) (neg : Bool) (mag : Nat) : Num :=
  let e := mag / 2 ^ f.mbits
  let m := mag % 2 ^ f.mbits
  if mag = 0 then .zero neg
  else if e = 0 then .fin ⟨signed neg m, f.emin - f.mbits⟩
  else .fin ⟨signed neg (2 ^ f.mbits + m), (e : Int) - f.bias - f.mbits⟩

/-- An encoding decoded (R38). -/
def Fmt.decode (f : Fmt) (x : Nat) : Num :=
  let neg := x / f.signBit % 2 = 1
  let mag := x % f.signBit
  if f.hasInf ∧ mag = f.inf then .inf neg
  else if f.hasInf ∧ f.inf < mag then .nan (mag / 2 ^ (f.mbits - 1) % 2 = 0)
  else if f.hasInf = false ∧ f.hasNan ∧ mag = f.nan then .nan false
  else f.finite neg mag

/-! ## Rounding (R44) -/

/-- m / 2^sh rounded to an integer, and whether it was inexact. -/
def roundShift (rm : Nat) (neg : Bool) (m sh : Nat) : Nat × Bool :=
  let n := m / 2 ^ sh
  let r := m % 2 ^ sh
  let up := match rm with
    | 2 => false
    | 3 => neg && decide (r ≠ 0)
    | 4 => !neg && decide (r ≠ 0)
    | 5 => decide (r ≠ 0) && decide (2 ^ sh ≤ 2 * r)
    | _ => decide (2 ^ sh < 2 * r) || (decide (2 ^ sh = 2 * r) && decide (n % 2 = 1) && decide (r ≠ 0))
  (if up then n + 1 else n, decide (r ≠ 0))

/-- A dyadic number rounded to a multiple of 2^q. -/
def roundAt (rm : Nat) (d : Dyadic) (q : Int) : Nat × Bool :=
  if q ≤ d.e then (d.m.natAbs * 2 ^ (d.e - q).toNat, false)
  else roundShift rm (decide (d.m < 0)) d.m.natAbs (q - d.e).toNat

/-- The exponent of the leading bit. -/
def Dyadic.top (d : Dyadic) : Int := (Nat.log2 d.m.natAbs : Int) + d.e

/-- The magnitude n × 2^q as an encoding without sign; n has at most one bit more than the fraction. -/
def Fmt.pack (f : Fmt) (n : Nat) (q : Int) : Nat :=
  if n < 2 ^ f.mbits then n
  else if n = 2 ^ (f.mbits + 1) then (q + 1 + f.mbits + f.bias).toNat * 2 ^ f.mbits
  else (q + f.mbits + f.bias).toNat * 2 ^ f.mbits + (n - 2 ^ f.mbits)

/-- A rounded value: the encoding of its magnitude, its flags, and whether it overflowed (R47, R50). -/
structure Rounded where
  mag : Nat
  flags : Nat
  ovf : Bool
  deriving DecidableEq, Repr

/-- A non-zero exact value rounded to a format. -/
def Fmt.round (f : Fmt) (rm : Nat) (d : Dyadic) : Rounded :=
  let free := d.top - f.mbits
  let q := if f.emin - f.mbits ≤ free then free else f.emin - f.mbits
  let (n, inexact) := roundAt rm d q
  let (nu, _) := roundAt rm d free
  let tiny := decide (free + f.mbits < f.emin) && !(decide (nu = 2 ^ (f.mbits + 1)) && decide (free + 1 + f.mbits = f.emin))
  let mag := f.pack n q
  if f.largest < mag then ⟨f.largest, flagOF ||| flagNX, true⟩
  else ⟨mag, (if inexact then flagNX else 0) ||| (if inexact && tiny then flagUF else 0), false⟩

/-- A result as bits and flags. -/
structure FRes where
  bits : Nat
  flags : Nat
  deriving DecidableEq, Repr

/-- The sign of an exact zero sum (R44, R124). -/
def Fmt.zeroSum (f : Fmt) (rm : Nat) : FRes := ⟨f.withSign (decide (rm = 3)) 0, 0⟩

/-- An overflowing arithmetic result (R124). -/
def Fmt.overflowed (f : Fmt) (rm : Nat) (neg : Bool) : Nat :=
  f.withSign neg (match rm with
    | 2 => f.largest
    | 3 => if neg then f.inf else f.largest
    | 4 => if neg then f.largest else f.inf
    | _ => f.inf)

/-- An exact value rounded as an arithmetic result. -/
def Fmt.arith (f : Fmt) (rm : Nat) (d : Dyadic) : FRes :=
  if d.m = 0 then f.zeroSum rm
  else
    let r := f.round rm d
    let neg := decide (d.m < 0)
    ⟨if r.ovf then f.overflowed rm neg else f.withSign neg r.mag, r.flags⟩

def Fmt.invalid (f : Fmt) : FRes := ⟨f.nan, flagNV⟩

/-! ## Arithmetic (R36, R124 to R126) -/

def Num.sig : Num → Bool
  | .nan b => b
  | _ => false

def Num.isNan : Num → Bool
  | .nan _ => true
  | _ => false

def Num.neg? : Num → Bool
  | .inf n | .zero n => n
  | .fin d => decide (d.m < 0)
  | .nan _ => false

def Num.flip : Num → Num
  | .inf n => .inf (!n)
  | .zero n => .zero (!n)
  | .fin d => .fin d.neg
  | .nan b => .nan b

/-- The default NaN, with NV when an operand was signalling. -/
def Fmt.quiet (f : Fmt) (sig : Bool) : FRes := ⟨f.nan, if sig then flagNV else 0⟩

/-- A value that a format holds, as a result. -/
def Fmt.exact (f : Fmt) (rm : Nat) : Num → FRes
  | .nan b => f.quiet b
  | .inf n => ⟨f.withSign n f.inf, 0⟩
  | .zero n => ⟨f.withSign n 0, 0⟩
  | .fin d => f.arith rm d

def Fmt.addNum (f : Fmt) (rm : Nat) (a b : Num) : FRes :=
  match a, b with
  | .nan x, y => f.quiet (x || y.sig)
  | x, .nan y => f.quiet (x.sig || y)
  | .inf x, .inf y => if x = y then ⟨f.withSign x f.inf, 0⟩ else f.invalid
  | .inf x, _ => ⟨f.withSign x f.inf, 0⟩
  | _, .inf y => ⟨f.withSign y f.inf, 0⟩
  | .zero x, .zero y => if x = y then ⟨f.withSign x 0, 0⟩ else f.zeroSum rm
  | .zero _, .fin d => f.arith rm d
  | .fin d, .zero _ => f.arith rm d
  | .fin d, .fin c => f.arith rm (d.add c)

/-- An exact product; none for infinity times zero. -/
def Num.times (a b : Num) : Option Num :=
  match a, b with
  | .nan x, y => some (.nan (x || y.sig))
  | x, .nan y => some (.nan (x.sig || y))
  | .inf x, .inf y => some (.inf (x != y))
  | .inf _, .zero _ => none
  | .zero _, .inf _ => none
  | .inf x, .fin d => some (.inf (x != decide (d.m < 0)))
  | .fin d, .inf x => some (.inf (x != decide (d.m < 0)))
  | .zero x, y => some (.zero (x != y.neg?))
  | x, .zero y => some (.zero (x.neg? != y))
  | .fin d, .fin c => some (.fin (d.mul c))

def Fmt.mulNum (f : Fmt) (rm : Nat) (a b : Num) : FRes :=
  match a.times b with
  | none => f.invalid
  | some p => f.exact rm p

/-- S × T + D, rounded once; infinity times zero is invalid whatever D is (R126). -/
def Fmt.fmaNum (f : Fmt) (rm : Nat) (a b c : Num) : FRes :=
  match a.times b with
  | none => f.invalid
  | some p => f.addNum rm p c

/-- A quotient or a root with a sticky last bit, precise enough to be rounded. -/
def sticky (neg : Bool) (n : Nat) (rem : Bool) (e : Int) : Dyadic := ⟨signed neg (2 * n + (if rem then 1 else 0)), e - 1⟩

def Fmt.divNum (f : Fmt) (rm : Nat) (a b : Num) : FRes :=
  match a, b with
  | .nan x, y => f.quiet (x || y.sig)
  | x, .nan y => f.quiet (x.sig || y)
  | .inf _, .inf _ => f.invalid
  | .zero _, .zero _ => f.invalid
  | .inf x, y => ⟨f.withSign (x != y.neg?) f.inf, 0⟩
  | x, .inf y => ⟨f.withSign (x.neg? != y) 0, 0⟩
  | .zero x, y => ⟨f.withSign (x != y.neg?) 0, 0⟩
  | .fin d, .zero y => ⟨f.withSign (decide (d.m < 0) != y) f.inf, flagDZ⟩
  | .fin d, .fin c =>
    let m := d.m.natAbs * 2 ^ 192
    f.arith rm (sticky (decide (d.m < 0) != decide (c.m < 0)) (m / c.m.natAbs) (decide (m % c.m.natAbs ≠ 0)) (d.e - c.e - 192))

/-- The integer square root, bit by bit from 2^(n-1) down. -/
def sqrtBits (x : Nat) : Nat → Nat → Nat
  | 0, r => r
  | n + 1, r => sqrtBits x n (if (r + 2 ^ n) * (r + 2 ^ n) ≤ x then r + 2 ^ n else r)

/-- The root of a positive dyadic number, with a sticky bit. -/
def Dyadic.root (d : Dyadic) : Dyadic :=
  let k : Nat := if d.e % 2 = 0 then 256 else 257
  let m := d.m.natAbs * 2 ^ k
  let r := sqrtBits m (Nat.log2 m / 2 + 1) 0
  sticky false r (decide (r * r ≠ m)) ((d.e - k) / 2)

def Fmt.sqrtNum (f : Fmt) (rm : Nat) (a : Num) : FRes :=
  match a with
  | .nan x => f.quiet x
  | .inf true => f.invalid
  | .inf false => ⟨f.inf, 0⟩
  | .zero n => ⟨f.withSign n 0, 0⟩
  | .fin d => if d.m < 0 then f.invalid else f.arith rm d.root

/-! ## Comparison, classes, signs (R127 to R130) -/

/-- An encoding's place in the order of non-NaN values; −0 below +0 when `split`. -/
def Fmt.rank (f : Fmt) (split : Bool) (x : Nat) : Int :=
  let mag : Int := x % f.signBit
  if x / f.signBit % 2 = 1 then -mag - (if split then 1 else 0) else mag

/-- FMIN and FMAX (R127): `less` says which of two ranks is wanted. -/
def Fmt.select (f : Fmt) (less : Bool) (x y : Nat) : FRes :=
  let a := f.decode x
  let b := f.decode y
  let nv := if a.sig || b.sig then flagNV else 0
  if a.isNan && b.isNan then ⟨f.nan, nv⟩
  else if a.isNan then ⟨y, nv⟩
  else if b.isNan then ⟨x, nv⟩
  else ⟨if (f.rank true x ≤ f.rank true y) = less then x else y, 0⟩

/-- FEQ, FLT, FLE (R128): `any` says that every NaN raises NV. -/
def Fmt.compare (f : Fmt) (any : Bool) (rel : Int → Int → Bool) (x y : Nat) : FRes :=
  let a := f.decode x
  let b := f.decode y
  if a.isNan || b.isNan then ⟨0, if any || a.sig || b.sig then flagNV else 0⟩
  else ⟨if rel (f.rank false x) (f.rank false y) then 1 else 0, 0⟩

/-- FCLASS (R129). -/
def Fmt.classify (f : Fmt) (x : Nat) : Nat :=
  let neg := decide (x / f.signBit % 2 = 1)
  2 ^ (match f.decode x with
    | .nan sig => if sig then 8 else 9
    | .inf n => if n then 0 else 7
    | .zero n => if n then 3 else 4
    | .fin _ =>
      if x % f.signBit / 2 ^ f.mbits = 0 then (if neg then 2 else 5) else (if neg then 1 else 6))

/-- A value with another sign (R130). -/
def Fmt.resign (f : Fmt) (x : Nat) (neg : Bool) : Nat :=
  if (f.decode x).isNan then f.nan else f.withSign neg (x % f.signBit)

def Fmt.isNeg (f : Fmt) (x : Nat) : Bool := decide (x / f.signBit % 2 = 1)

/-! ## Conversions (R50, R51, R131) -/

/-- A conversion's result as under policies 00 to 10 (11 as 00), and whether it overflowed. -/
structure Conv where
  bits : Nat
  flags : Nat
  ovf : Bool
  deriving DecidableEq, Repr

/-- What an overflow gives under a policy (R50). -/
def Fmt.overflowBits (f : Fmt) (policy : Nat) (neg : Bool) : Nat :=
  match policy with
  | 1 => if f.hasInf then f.withSign neg f.inf else if f.hasNan then f.nan else f.withSign neg f.largest
  | 2 => if f.hasNan then f.nan else f.withSign neg f.largest
  | _ => f.withSign neg f.largest

def Fmt.overflow (f : Fmt) (policy : Nat) (neg : Bool) : Conv := ⟨f.overflowBits policy neg, flagOF ||| flagNX, true⟩

/-- A conversion to a floating format; NV of a signalling NaN is the caller's. -/
def Fmt.convert (f : Fmt) (rm policy : Nat) : Num → Conv
  | .nan _ => if f.hasNan then ⟨f.nan, 0, false⟩ else ⟨0, flagNV, false⟩
  | .inf n => if f.hasInf then ⟨f.withSign n f.inf, 0, false⟩ else f.overflow policy n
  | .zero n => ⟨f.withSign n 0, 0, false⟩
  | .fin d =>
    let r := f.round rm d
    let neg := decide (d.m < 0)
    if r.ovf then f.overflow policy neg else ⟨f.withSign neg r.mag, r.flags, false⟩

/-- The integer nearest a dyadic number in a mode, and whether it differs. -/
def Dyadic.toInteger (d : Dyadic) (rm : Nat) : Int × Bool :=
  let (n, inexact) := roundAt rm d 0
  (signed (decide (d.m < 0)) n, inexact)

/-- A conversion to an integer range, the result as an integer (R50, R131). -/
def convertInt (rm : Nat) (lo hi : Int) : Num → Int × Nat × Bool
  | .nan _ => (0, flagNV, false)
  | .inf n => (if n then lo else hi, flagOF ||| flagNX, true)
  | .zero _ => (0, 0, false)
  | .fin d =>
    let (i, inexact) := d.toInteger rm
    if i < lo then (lo, flagOF ||| flagNX, true)
    else if hi < i then (hi, flagOF ||| flagNX, true)
    else (i, if inexact then flagNX else 0, false)

/-- An integer as an operand. -/
def intNum (i : Int) : Num := if i = 0 then .zero false else .fin ⟨i, 0⟩

end Sys2Proof.Machine
end

