-- ==== Sys2Proof/Machine/Layout.lean ====
section
/-! DEFINITION. Layout records and operands (R92, R243 to R245), and elements in memory: their places, their bits, their exact
values and their encoding (R37 to R42). -/

namespace Sys2Proof.Machine

/-! ## Element formats -/

/-- Views that need no bank format, numbered beside the codes of R37: 32-bit signed and unsigned words, FP64, bytes. -/
def viewInt32 : Nat := 32
def viewUint32 : Nat := 33
def viewFp64 : Nat := 34
def viewByte : Nat := 36

/-- The width of an element (R37). -/
def elemBits (fmt : Nat) : Nat :=
  match fmt with
  | 0 => 32 | 1 => 16 | 2 => 16 | 3 => 8 | 4 => 8 | 5 => 6 | 6 => 6 | 7 => 4 | 8 => 16 | 9 => 8 | 10 => 4 | 11 => 8 | 12 => 4
  | 32 => 32 | 33 => 32 | 34 => 64
  | _ => 8

def isScaled (fmt : Nat) : Bool := decide (fmt = 11) || decide (fmt = 12)
def isInteger (fmt : Nat) : Bool := decide (fmt = 8) || decide (fmt = 9) || decide (fmt = 10)

/-- The floating format of a code. -/
def floatFmt (fmt : Nat) : Fmt :=
  match fmt with
  | 1 => bf16 | 2 => fp16 | 3 => e5m2 | 4 => e4m3 | 5 => e3m2 | 6 => e2m3 | 7 => e2m1 | 11 => e4m3 | 34 => fp64
  | _ => fp32

/-- The magnitude of a Q4 code below 8, in eighths (R41). -/
def q4Eighths (type_ c : Nat) : Nat :=
  match type_ with
  | 0 => 8 * c
  | 1 => (([0, 4, 8, 12, 16, 24, 32, 48] : List Nat)[c]?).getD 0
  | 2 => (([0, 1, 2, 4, 8, 16, 32, 64] : List Nat)[c]?).getD 0
  | _ => (([0, 8, 16, 24, 32, 48, 64, 96] : List Nat)[c]?).getD 0

def q4Num (type_ c : Nat) : Num :=
  let num (i : Int) : Num := if i = 0 then .zero false else .fin ⟨i, -3⟩
  if type_ = 0 then num (8 * (if 8 ≤ c then (c : Int) - 16 else c))
  else if c = 8 then .zero true
  else if 8 < c then num (-(q4Eighths type_ (c - 8) : Int))
  else num (q4Eighths type_ c)

/-- A value times 2^k. -/
def Num.shift (x : Num) (k : Int) : Num :=
  match x with
  | .fin d => .fin ⟨d.m, d.e + k⟩
  | y => y

/-- A raw two's complement or unsigned number of some width. -/
def rawInt (w raw : Nat) (isSigned : Bool) : Int := if isSigned ∧ 2 ^ (w - 1) ≤ raw then (raw : Int) - 2 ^ w else raw

/-- NaNs are all quiet to the engines (R36). -/
def Num.calm : Num → Num
  | .nan _ => .nan false
  | y => y

/-- An element's exact value: its bits, its block's scale byte, and the signedness of an integer format (R38 to R42). -/
def decodeElem (fmt raw scale : Nat) (isSigned : Bool) : Num :=
  if isInteger fmt then intNum (rawInt (elemBits fmt) raw isSigned)
  else if fmt = 32 then intNum (rawInt 32 raw true)
  else if fmt = 33 then intNum raw
  else if fmt = 12 then (q4Num (scale / 64 % 4) raw).shift ((scale % 64 : Nat) - 32)
  else if fmt = 11 then ((e4m3.decode raw).calm).shift ((scale % 64 : Nat) - 32)
  else ((floatFmt fmt).decode raw).calm

/-- The range of an integer target. -/
def intRange (fmt : Nat) (isSigned : Bool) : Int × Int :=
  if fmt = 33 then (0, 2 ^ 32 - 1)
  else
    let w := elemBits fmt
    if isSigned then (-2 ^ (w - 1), 2 ^ (w - 1) - 1) else (0, 2 ^ w - 1)

/-- A value encoded in a target format (R50, R51). -/
def encodeElem (fmt rm policy : Nat) (isSigned : Bool) (x : Num) : Conv :=
  if isInteger fmt ∨ fmt = 32 ∨ fmt = 33 then
    let (lo, hi) := intRange fmt isSigned
    let (i, fl, ov) := convertInt rm lo hi x
    ⟨(i % 2 ^ elemBits fmt).toNat, fl, ov⟩
  else (floatFmt fmt).convert rm policy x

/-! ## Records (R92, R243) -/

structure Layout where
  n : Nat
  va : Word
  bank : Nat
  e0 : Nat
  e1 : Nat
  e2 : Nat
  e3 : Nat
  s0 : Int
  s1 : Int
  s2 : Int
  s3 : Int
  deriving DecidableEq, Repr

def Core.layout (k : Core) (n : Nat) : Layout :=
  let r : BitVec 256 := tget k.recs n 0
  let f (lo w : Nat) : Nat := r.toNat / 2 ^ lo % 2 ^ w
  let st (lo : Nat) : Int := (BitVec.ofNat 32 (f lo 32)).toInt
  { n := n, va := word (f 0 48), bank := f 48 3, e0 := f 64 16, e1 := f 80 16, e2 := f 96 16, e3 := f 112 16,
    s0 := st 128, s1 := st 160, s2 := st 192, s3 := st 224 }

def Layout.extentBad (r : Layout) : Bool := decide (r.e0 = 0 ∨ r.e1 = 0 ∨ r.e2 = 0 ∨ r.e3 = 0)
def Layout.sameExtents (a b : Layout) : Bool := decide (a.e0 = b.e0 ∧ a.e1 = b.e1 ∧ a.e2 = b.e2 ∧ a.e3 = b.e3)
def Layout.plane (r : Layout) : Bool := decide (r.e2 = 1 ∧ r.e3 = 1)

/-- The least and the greatest sum of index offsets over the corners of the extents. -/
def Layout.lowest (r : Layout) : Int :=
  let f (e : Nat) (s : Int) : Int := if s < 0 then s * ((e : Int) - 1) else 0
  f r.e0 r.s0 + f r.e1 r.s1 + f r.e2 r.s2 + f r.e3 r.s3

def Layout.highest (r : Layout) : Int :=
  let f (e : Nat) (s : Int) : Int := if s < 0 then 0 else s * ((e : Int) - 1)
  f r.e0 r.s0 + f r.e1 r.s1 + f r.e2 r.s2 + f r.e3 r.s3

/-- The second stage of R244, apart from the bank: alignment of the base, and elements within the bank or unit. -/
def Layout.spanBad (r : Layout) (fmt off : Nat) : Bool :=
  let b := elemBits fmt
  let eb : Int := off * 8 / b
  decide (off * 8 % b ≠ 0) || (decide (b = 6) && decide (off % 3 ≠ 0)) || decide (eb + r.lowest < 0) ||
  decide ((524288 : Int) < (eb + r.highest + 1) * b)

/-! ## Operands -/

def Operand.count (o : Operand) : Nat := o.e0 * o.e1 * o.e2 * o.e3

/-- The element index at coordinates (R243). -/
def Operand.index (o : Operand) (i0 i1 i2 i3 : Nat) : Nat :=
  ((o.off * 8 / elemBits o.fmt : Nat) + o.s0 * i0 + o.s1 * i1 + o.s2 * i2 + o.s3 * i3).toNat

/-- The element index at a place in traversal order: i0 fastest. -/
def Operand.at_ (o : Operand) (j : Nat) : Nat :=
  o.index (j % o.e0) (j / o.e0 % o.e1) (j / (o.e0 * o.e1) % o.e2) (j / (o.e0 * o.e1 * o.e2))

/-- The physical address of a byte of the bank or unit. -/
def Operand.addr (o : Operand) (byte : Nat) : Nat := tget o.pages (byte / 4096) 0 + byte % 4096

/-- The bytes of the bank or unit that an element touches. -/
def Operand.bytesOf (o : Operand) (n : Nat) : List Nat :=
  let b := elemBits o.fmt
  span (n * b / 8) 1 ((n * b % 8 + b + 7) / 8)

/-- The byte of an element's scale, counted from the first byte of the bank or unit (R40, R244). -/
def Operand.scaleByte (o : Operand) (n : Nat) : Nat := o.scaleOff + n / 32

/-- The bytes that the reading of an element takes: its own, then its scale's. -/
def Operand.sourceBytes (o : Operand) (n : Nat) : List Nat := o.bytesOf n ++ (if isScaled o.fmt then [o.scaleByte n] else [])

/-- The bits of an element in a memory. -/
def Operand.raw (o : Operand) (m : Memory) (n : Nat) : Nat :=
  let b := elemBits o.fmt
  let v := (o.bytesOf n).foldr (fun i acc => (m.byte (o.addr i)).toNat + 256 * acc) 0
  v / 2 ^ (n * b % 8) % 2 ^ b

def Operand.scale (o : Operand) (m : Memory) (n : Nat) : Nat :=
  if isScaled o.fmt then (m.byte (o.addr (o.scaleByte n))).toNat else 0

/-- The first uncorrectable word that the reading of an element meets. -/
def Operand.badWord (o : Operand) (m : Memory) (n : Nat) : Option Nat :=
  ((o.sourceBytes n).map (fun i => wordOf (o.addr i))).find? m.isBad

/-- An element's exact value, integers as signed. -/
def Operand.value (o : Operand) (m : Memory) (n : Nat) : Num := decodeElem o.fmt (o.raw m n) (o.scale m n) true

/-- The bytes of an element to be written: address, the bits of the byte that belong to it, and their value. -/
def Operand.pieces (o : Operand) (n v : Nat) : List (Nat × Nat × Nat) :=
  let b := elemBits o.fmt
  let lo := n * b % 8
  let bytes := o.bytesOf n
  ((span 0 1 bytes.length).zip bytes).map (fun e =>
    (o.addr e.2, (2 ^ b - 1) * 2 ^ lo / 256 ^ e.1 % 256, v % 2 ^ b * 2 ^ lo / 256 ^ e.1 % 256))

/-- The rows of 256 bytes that the reading of some elements takes, in ascending element order (R246); each stands once.
Those of an element's scale byte follow its own (log 14). -/
def Operand.rows (o : Operand) (ns : List Nat) : List Nat :=
  ((ns.foldl sadd []).flatMap (fun n => (o.sourceBytes n).map (fun i => o.addr i / 256))).foldl
    (fun l r => if l.contains r then l else l ++ [r]) []

/-- The lines that hold an operand's elements, as a destination. -/
def Operand.targetLines (o : Operand) : List Nat :=
  (span 0 1 o.count).foldl (fun l j => (o.bytesOf (o.at_ j)).foldl (fun l i => sadd l (lineOf (o.addr i))) l) []

/-- The virtual address of an element, or of the byte that holds it (R253). -/
def Operand.vaOf (o : Operand) (n : Nat) : Word := o.va + word (n * elemBits o.fmt / 8) - word o.off

/-! ## Written elements -/

/-- An image of the memory that an operation has read and written, with the bits written of each byte, and those of them that were
written poisoned last. -/
structure Image where
  mem : Memory
  mask : Tab Nat
  bad : Tab Nat
  flags : Nat
  overflow : Option (Nat × Word)
  soft : Option (Nat × Word)
  deriving DecidableEq, Repr

def Image.of (m : Memory) : Image := ⟨m, [], [], 0, none, none⟩

/-- A byte with some of its bits replaced. -/
def mixByte (old : Byte) (mask v : Nat) : Byte := BitVec.ofNat 8 (old.toNat - (old.toNat &&& mask) + (v &&& mask))

/-- Some bits of a byte added to a table, or taken from it. -/
def addBits (t : Tab Nat) (a bits : Nat) : Tab Nat := tset t a (tget t a 0 ||| bits)
def dropBits (t : Tab Nat) (a bits : Nat) : Tab Nat :=
  let left := tget t a 0 - (tget t a 0 &&& bits)
  if left = 0 then tdel t a else tset t a left

/-- A word of the image holds poisoned bits. -/
def Image.poisoned (g : Image) (w : Nat) : Bool := g.bad.any (fun e => decide (wordOf e.1 = w))

/-- An element written in the image. Of elements that coincide the last remains, poison and all (R244, R445). -/
def Image.put (g : Image) (o : Operand) (n v : Nat) : Image :=
  let ps := o.pieces n v
  let g := ps.foldl (fun g b =>
    { g with
      mem := g.mem.write [(b.1, mixByte (g.mem.byte b.1) b.2.1 b.2.2)], mask := addBits g.mask b.1 b.2.1, bad := dropBits g.bad b.1 b.2.1 }) g
  { g with mem := (ps.map (fun b => wordOf b.1)).foldl (fun m w => if g.poisoned w then m.setBad w true else m) g.mem }

/-- A written element poisoned. -/
def Image.taint (g : Image) (o : Operand) (n : Nat) : Image :=
  let ps := o.pieces n 0
  { g with
    bad := ps.foldl (fun t b => addBits t b.1 b.2.1) g.bad, mem := ps.foldl (fun m b => m.setBad (wordOf b.1) true) g.mem }

/-- An element written poisoned, with a free value (R445); the first one's address is the report. -/
def Image.poison (g : Image) (o : Operand) (n j : Nat) (seed : Nat) : Image :=
  let g := (g.put o n ((Config.freeWord seed n).toNat % 2 ^ elemBits o.fmt)).taint o n
  { g with soft := some (g.soft.getD (j, o.vaOf n)) }

/-- A converted element written, with its flags and its overflow report (R48, R52). -/
def Image.conv (g : Image) (o : Operand) (n j policy : Nat) (c : Conv) (src : Word) (fl : Nat) : Image :=
  let g := g.put o n c.bits
  { g with
    flags := g.flags ||| fl ||| c.flags,
    overflow := if c.ovf ∧ policy = 3 ∧ g.overflow.isNone then some (j, src) else g.overflow }

/-- The masked bytes of one line, over what memory holds now (R218). -/
def Image.line (g : Image) (m : Memory) (line : Nat) : LineWrite :=
  let bytes := (g.mask.filter (fun e => decide (lineOf e.1 = line))).map (fun e =>
    (e.1 - line, mixByte (m.byte e.1) e.2 (g.mem.byte e.1).toNat))
  ⟨line, bytes, (wordsOf (bytes.map (fun b => (line + b.1, b.2)))).filter g.poisoned⟩

end Sys2Proof.Machine
end

