-- ==== Sys2Proof/Machine/Engine.lean ====
section
/-! DEFINITION. What the engines compute: matrix products (R53, R54), requantisation (R55 to R57), vector operations (R278 to R284). -/

namespace Sys2Proof.Machine

/-! ## Exact sums and products -/

/-- An exact sum of terms (R54, R281): its value, and whether infinities of both signs met. -/
structure Total where
  sum : Dyadic
  posInf : Bool
  negInf : Bool
  nan : Bool
  allNegZero : Bool
  deriving DecidableEq, Repr

def Total.zero : Total := ⟨⟨0, 0⟩, false, false, false, true⟩

def Total.add (t : Total) (x : Num) : Total :=
  match x with
  | .nan _ => { t with nan := true, allNegZero := false }
  | .inf n => if n then { t with negInf := true, allNegZero := false } else { t with posInf := true, allNegZero := false }
  | .zero n => { t with allNegZero := t.allNegZero && n }
  | .fin d => { t with sum := t.sum.add d, allNegZero := false }

/-- A product for the matrix engine (R54): zero products are +0. -/
def matProduct (a b : Num) : Num × Nat :=
  match a.times b with
  | none => (.nan false, flagNV)
  | some (.zero _) => (.zero false, 0)
  | some p => (p, 0)

/-- A result with only the flags that MMA records (R48). -/
def nvOf (f : Nat) : Nat := f &&& (flagNV ||| flagOF)

/-- The sum of a group rounded to FP32, RNE, an exact zero +0 (R53, R54). A NaN product comes before infinities of both
signs, which then set no NV (log 49). -/
def groupSum (ps : List (Num × Nat)) : FRes :=
  let t := ps.foldl (fun t p => t.add p.1) Total.zero
  let fl := ps.foldl (fun f p => f ||| p.2) 0
  if t.nan then ⟨fp32.nan, fl⟩
  else if t.posInf && t.negInf then ⟨fp32.nan, fl ||| flagNV⟩
  else if t.posInf then ⟨fp32.inf, fl⟩
  else if t.negInf then ⟨fp32.withSign true fp32.inf, fl⟩
  else if t.sum.m = 0 then ⟨0, fl⟩
  else
    let r := fp32.arith 1 t.sum
    ⟨r.bits, fl ||| nvOf r.flags⟩

/-- AddFP32 of R54: RNE, and an exact zero result is +0. -/
def addAcc (a b : Nat) : FRes :=
  let r := fp32.addNum 1 ((fp32.decode a).calm) ((fp32.decode b).calm)
  ⟨if r.bits % fp32.signBit = 0 then 0 else r.bits, nvOf r.flags⟩

/-- The groups of 32 of a list. -/
def groups32 {α : Type} : Nat → List α → List (List α)
  | 0, _ => []
  | fuel + 1, l => if l.isEmpty then [] else l.take 32 :: groups32 fuel (l.drop 32)

/-- FloatElement (R53). -/
def floatElement (mode : MmaMode) (alpha c : Nat) (ps : List (Num × Nat)) : FRes :=
  let start : FRes := match mode with
    | .ovr => ⟨0, 0⟩
    | .decay =>
      let r := fp32.mulNum 1 ((fp32.decode alpha).calm) ((fp32.decode c).calm)
      ⟨r.bits, nvOf r.flags⟩
    | _ => ⟨c, 0⟩
  (groups32 ps.length ps).foldl (fun acc g =>
    let s := groupSum g
    let r := addAcc acc.bits s.bits
    ⟨r.bits, acc.flags ||| s.flags ||| r.flags⟩) start

/-- IntElement (R53). -/
def intElement (mode : MmaMode) (sat : Bool) (c : Nat) (ps : List Int) : FRes :=
  let start : Int := match mode with
    | .ovr => 0
    | _ => (BitVec.ofNat 32 c).toInt
  let (acc, fl) := (groups32 ps.length ps).foldl (fun (acc : Int × Nat) g =>
    let x := acc.1 + g.foldl (· + ·) 0
    if x < -2 ^ 31 ∨ 2 ^ 31 - 1 < x then
      (if mode = .sat ∨ sat then (if x < 0 then -2 ^ 31 else 2 ^ 31 - 1) else (BitVec.ofInt 32 x).toInt, acc.2 ||| flagOF)
    else (x, acc.2)) (start, 0)
  ⟨(BitVec.ofInt 32 acc).toNat, fl⟩

/-- One element of an MMA from captured sources: row i of A and column j of B. -/
def mmaElement (mode : MmaMode) (a b : Operand) (ctl : Word) (sat : Bool) (m : Memory) (c i j : Nat) : FRes :=
  if isInteger a.fmt then
    intElement mode sat c ((span 0 1 a.e1).map (fun k =>
      rawInt (elemBits a.fmt) (a.raw m (a.index i k 0 0)) (ctl.getLsbD 0) *
      rawInt (elemBits b.fmt) (b.raw m (b.index k j 0 0)) (ctl.getLsbD 1)))
  else
    floatElement mode (bits ctl 63 32) c ((span 0 1 a.e1).map (fun k =>
      matProduct (a.value m (a.index i k 0 0)) (b.value m (b.index k j 0 0))))

/-! ## Requantisation (R55 to R57) -/

/-- One element of DRAIN.i: encoded bits, flags, overflow, and w. -/
def drainInt (acc corr : Nat) (param : Word) (zp : Int) (fmt : Nat) (outSigned : Bool) : Conv × Word :=
  let v := (BitVec.ofNat 32 acc).toInt - (BitVec.ofNat 32 corr).toInt
  let p := v * (BitVec.ofNat 32 (bits param 31 0)).toInt
  let q := signed (decide (p < 0)) (roundShift 1 (decide (p < 0)) p.natAbs (bits param 37 32)).1
  let w := q + zp
  if bits param 63 38 ≠ 0 then (⟨0, flagNV, false⟩, 0)
  else (encodeElem fmt 1 0 outSigned (intNum w), BitVec.ofInt 64 w)

/-- One element of DRAIN.f: encoded bits, flags, overflow, and u. -/
def drainFloat (acc corr : Nat) (param : Word) (fmt rm policy : Nat) : Conv × Word :=
  if bits param 63 38 ≠ 0 then (⟨if (floatFmt fmt).hasNan then (floatFmt fmt).nan else 0, flagNV, false⟩, 0)
  else
    let t := fp32.addNum rm ((fp32.decode acc).calm) ((fp32.decode corr).calm.flip)
    let u := fp32.mulNum rm (fp32.decode t.bits) ((fp32.decode (bits param 31 0)).calm)
    let c := (floatFmt fmt).convert rm policy ((fp32.decode u.bits).calm)
    (⟨c.bits, t.flags ||| u.flags ||| c.flags, c.ovf⟩, word u.bits)

/-! ## Correctly rounded functions (R280) -/

/-- ln 2 in units of 2^-n: the series of 1/(k 2^k). -/
def ln2Units (n : Nat) : Nat := ((span 1 1 n).map (fun k => 2 ^ n / (k * 2 ^ k))).foldl (· + ·) 0

/-- The exponential series of a fixed-point number in units of 2^-n, term by term. -/
def expSeries (n : Nat) (r : Int) : Nat → Nat → Int → Int → Int
  | 0, _, _, acc => acc
  | fuel + 1, k, term, acc =>
    let t := (term * r).tdiv (2 ^ n * k)
    expSeries n r fuel (k + 1) t (acc + t)

/-- e^x for a finite x other than 0, precise enough to be rounded (log 15): 384 fractional bits with a sticky bit, or 1 + x
with a sticky bit where x is tiny. Results beyond every format's range are cut at exponents that overflow or vanish. -/
def expDyadic (x : Dyadic) : Dyadic :=
  if x.top < -200 then
    let y := (Dyadic.add ⟨1, 0⟩ x)
    ⟨2 * y.m + 1, y.e - 1⟩
  else if 14 < x.top then (if x.m < 0 then ⟨1, -40000⟩ else ⟨1, 40000⟩)
  else
    let n : Nat := 384
    let xf : Int := if 0 ≤ x.e + n then x.m * 2 ^ (x.e + n).toNat else x.m.tdiv (2 ^ (-(x.e + n)).toNat)
    let l : Int := ln2Units n
    let k := xf.fdiv l
    let r := xf - k * l
    let s := expSeries n r 120 1 (2 ^ n) (2 ^ n)
    ⟨2 * s + 1, k - n - 1⟩

def vexp (f : Fmt) (rm : Nat) : Num → FRes
  | .nan _ => ⟨f.nan, 0⟩
  | .inf n => ⟨if n then 0 else f.inf, 0⟩
  | .zero _ => f.arith rm ⟨1, 0⟩
  | .fin d => f.arith rm (expDyadic d)

def vrcp (f : Fmt) (rm : Nat) (x : Num) : FRes := f.divNum rm (.fin ⟨1, 0⟩) x

/-- 1/√x for a positive x, with a sticky bit. -/
def rsqDyadic (d : Dyadic) : Dyadic :=
  let m := if d.e % 2 = 0 then d.m.natAbs else 2 * d.m.natAbs
  let e := if d.e % 2 = 0 then d.e else d.e - 1
  let q := 2 ^ 512 / m
  let r := sqrtBits q 257 0
  sticky false r (decide (r * r * m ≠ 2 ^ 512)) (-256 - e / 2)

def vrsq (f : Fmt) (rm : Nat) : Num → FRes
  | .nan _ => ⟨f.nan, 0⟩
  | .inf true => f.invalid
  | .inf false => ⟨0, 0⟩
  | .zero n => ⟨f.withSign n f.inf, flagDZ⟩
  | .fin d => if d.m < 0 then f.invalid else f.arith rm (rsqDyadic d)

/-! ## Vector operations (R278 to R284) -/

/-- Comparison of exact values; none for an unordered pair. -/
def Num.order (a b : Num) : Option Ordering :=
  let rank (x : Num) : Option (Int × Dyadic) := match x with
    | .nan _ => none
    | .inf n => some (if n then -1 else 1, ⟨0, 0⟩)
    | .zero _ => some (0, ⟨0, 0⟩)
    | .fin d => some (0, d)
  match rank a, rank b with
  | some (i, x), some (j, y) =>
    if i < j then some .lt else if j < i then some .gt
    else
      let d := (x.add y.neg).m
      some (if d < 0 then .lt else if 0 < d then .gt else .eq)
  | _, _ => none

/-- VMIN and VMAX on values, under R127; −0 lies below +0. -/
def numMin (less : Bool) (a b : Num) : Num :=
  if a.isNan then (if b.isNan then .nan false else b)
  else if b.isNan then a
  else match a.order b with
    | some .lt => if less then a else b
    | some .gt => if less then b else a
    | _ => if a.neg? = b.neg? then a else if a.neg? = less then a else b

/-- The working format of a vector operation. -/
def workFmt (double : Bool) : Fmt := if double then fp64 else fp32

/-- A value rounded to the working format: exact for every decoded element (R51). -/
def toWork (f : Fmt) (x : Num) : FRes := f.exact 1 x.calm

/-- An element-wise result in the working format, from the values of d, s and t (R280, R283); none leaves d unchanged. -/
def vecResult (fn : VFn) (f : Fmt) (rm : Nat) (scalar : Num) (d s t : Num) : Option FRes :=
  let truth (b : Bool) (fl : Nat) : Option FRes := some (let r := toWork f (if b then .fin ⟨1, 0⟩ else .zero false); ⟨r.bits, fl⟩)
  let unordered := if s.isNan || t.isNan then flagNV else 0
  match fn with
  | .add => some (f.addNum rm d s)
  | .sub => some (f.addNum rm d s.flip)
  | .mul => some (f.mulNum rm d s)
  | .fma => some (f.fmaNum rm s t d)
  | .fms => some (f.fmaNum rm s t d.flip)
  | .min => some (toWork f (numMin true d s))
  | .max => some (toWork f (numMin false d s))
  | .exp => some (vexp f rm s)
  | .rcp => some (vrcp f rm s)
  | .rsq => some (vrsq f rm s)
  | .eq => truth (decide (s.order t = some .eq)) 0
  | .lt => truth (decide (s.order t = some .lt)) unordered
  | .le => truth (decide (s.order t = some .lt ∨ s.order t = some .eq)) unordered
  | .sel => (match t with
    | .zero _ => none
    | _ => some (toWork f s))
  | .scale => some (f.mulNum rm s scalar)
  | .fill => some (toWork f scalar)
  | .cvt => some (toWork f s)

/-- Which of d, s and t an operation reads. -/
def VFn.readsD : VFn → Bool
  | .add | .sub | .mul | .fma | .fms | .min | .max => true
  | _ => false

/-- Some elements of an element-wise operation on an image (R279), by their places in traversal order: one at a time. `ops` are the
records of d, s and t; those that a form lacks stand as d. -/
def vecRun (fn : VFn) (double : Bool) (d s t : Operand) (sources : List Operand) (scalar : Word) (rm policy seed : Nat)
    (places : List Nat) (g : Image) : Image :=
  let f := workFmt double
  places.foldl (fun g j =>
    let n := d.at_ j
    let bad := sources.any (fun o => (o.badWord g.mem (o.at_ j)).isSome)
    if bad then g.poison d n j seed
    else if fn = .fill ∧ double then g.put d n scalar.toNat
    else if fn = .cvt then
      g.conv d n j policy (encodeElem d.fmt rm policy true (s.value g.mem (s.at_ j))) (word (s.raw g.mem (s.at_ j))) 0
    else match vecResult fn f rm ((f.decode (scalar.toNat % 2 ^ f.width)).calm) (d.value g.mem n) (s.value g.mem (s.at_ j)) (t.value g.mem (t.at_ j)) with
      | none => g
      | some r =>
        if double then { (g.put d n r.bits) with flags := g.flags ||| r.flags }
        else g.conv d n j policy (encodeElem d.fmt rm policy true ((f.decode r.bits).calm)) (word r.bits) r.flags) g

/-- The exact sum of a reduction, rounded once (R281). A NaN comes before infinities of both signs, which then set no NV (log 49). -/
def redSum (f : Fmt) (rm : Nat) (xs : List Num) : FRes :=
  let t := xs.foldl Total.add Total.zero
  if t.nan then ⟨f.nan, 0⟩
  else if t.posInf && t.negInf then ⟨f.nan, flagNV⟩
  else if t.posInf then ⟨f.inf, 0⟩
  else if t.negInf then ⟨f.withSign true f.inf, 0⟩
  else if t.sum.m = 0 then ⟨f.withSign (t.allNegZero || decide (rm = 3)) 0, 0⟩
  else f.arith rm t.sum

/-- One reduction of a list of values, which is not empty. -/
def redResult (fn : RedFn) (f : Fmt) (rm : Nat) (xs : List Num) : FRes :=
  match fn with
  | .sum => redSum f rm xs
  | .max => toWork f (xs.tail.foldl (numMin false) (xs.headD (.zero false)))
  | .min => toWork f (xs.tail.foldl (numMin true) (xs.headD (.zero false)))

/-- The elements of S that an element of D reduces (R281), by its place. -/
def reduced (s : Operand) (j : Nat) : List Nat := (span 0 1 s.e0).map (fun i => s.at_ (j * s.e0 + i))

/-- Some reductions along dimension 0 (R281), by their places in D's traversal order: one at a time, each reading
what an earlier one has written (log 49). -/
def redRun (fn : RedFn) (double : Bool) (d s : Operand) (rm policy seed : Nat) (places : List Nat) (g : Image) : Image :=
  let f := workFmt double
  places.foldl (fun g j =>
    let n := d.at_ j
    let ns := reduced s j
    if ns.any (fun k => (s.badWord g.mem k).isSome) then g.poison d n j seed
    else
      let r := redResult fn f rm (ns.map (s.value g.mem))
      if double then { (g.put d n r.bits) with flags := g.flags ||| r.flags }
      else g.conv d n j policy (encodeElem d.fmt rm policy true ((f.decode r.bits).calm)) (word r.bits) r.flags) g

end Sys2Proof.Machine
end

