-- ==== Sys2Proof/Machine/Scalar.lean ====
section
/-! DEFINITION. The scalar floating-point instructions of page 1 (R124 to R131). -/

namespace Sys2Proof.Machine

/-- The rounding mode and overflow policy of a chain (R45): its PAGE prefix, or the thread's mode. -/
def State.rounding (s : State) (r : Rnd) : Nat × Nat :=
  if r.mode = 0 then (bits s.me.fmode 2 0, bits s.me.fmode 4 3) else (r.mode.toNat, r.ovp.toNat)

/-- An operand of a format: FP32 ignores the high half (R35). -/
def Fmt.operand (f : Fmt) (v : Word) : Nat := v.toNat % 2 ^ f.width

/-- A result written, with its flags. -/
def State.setFloat (s : State) (d : Reg) (r : FRes) : State := (s.raise r.flags).setReg d.toNat (word r.bits)

/-- D from D and S, with rounding. -/
def float2 (f : Fmt) (op : Nat → Num → Num → FRes) (r : Rnd) (d : Reg) (src : Src) (s : State) :
    Host.Outcome State Fault Refusal :=
  chainNext s { s := srcOpr src, d := rwReg d } (fun v s =>
    s.setFloat d (op (s.rounding r).1 (f.decode (f.operand v.d)) (f.decode (f.operand v.s))))

/-- D from the encodings of D and S, without rounding. -/
def floatBits (f : Fmt) (op : Nat → Nat → FRes) (d : Reg) (src : Src) (s : State) : Host.Outcome State Fault Refusal :=
  chainNext s { s := srcOpr src, d := rwReg d } (fun v s => s.setFloat d (op (f.operand v.d) (f.operand v.s)))

/-- D from S × T and D, each with a sign (R126). -/
def float3 (f : Fmt) (negProd negAdd : Bool) (r : Rnd) (d : Reg) (src : Src) (t : Tgt) (s : State) :
    Host.Outcome State Fault Refusal :=
  chainNext s { t := tgtOpr t, s := srcOpr src, d := rwReg d } (fun v s =>
    let a := f.decode (f.operand v.s)
    let c := f.decode (f.operand v.d)
    s.setFloat d (f.fmaNum (s.rounding r).1 (if negProd then a.flip else a) (f.decode (f.operand v.t)) (if negAdd then c.flip else c)))

def execFaddD (r : Rnd) (d : Reg) (src : Src) (s : State) : Host.Outcome State Fault Refusal := float2 fp64 fp64.addNum r d src s
def execFaddS (r : Rnd) (d : Reg) (src : Src) (s : State) : Host.Outcome State Fault Refusal := float2 fp32 fp32.addNum r d src s
def execFsubD (r : Rnd) (d : Reg) (src : Src) (s : State) : Host.Outcome State Fault Refusal :=
  float2 fp64 (fun rm a b => fp64.addNum rm a b.flip) r d src s
def execFsubS (r : Rnd) (d : Reg) (src : Src) (s : State) : Host.Outcome State Fault Refusal :=
  float2 fp32 (fun rm a b => fp32.addNum rm a b.flip) r d src s
def execFmulD (r : Rnd) (d : Reg) (src : Src) (s : State) : Host.Outcome State Fault Refusal := float2 fp64 fp64.mulNum r d src s
def execFmulS (r : Rnd) (d : Reg) (src : Src) (s : State) : Host.Outcome State Fault Refusal := float2 fp32 fp32.mulNum r d src s
def execFdivD (r : Rnd) (d : Reg) (src : Src) (s : State) : Host.Outcome State Fault Refusal := float2 fp64 fp64.divNum r d src s
def execFdivS (r : Rnd) (d : Reg) (src : Src) (s : State) : Host.Outcome State Fault Refusal := float2 fp32 fp32.divNum r d src s

/-- FSQRT (R125): D is not read. -/
def sqrtOp (f : Fmt) (r : Rnd) (d : Reg) (src : Src) (s : State) : Host.Outcome State Fault Refusal :=
  chainNext s { s := srcOpr src, d := wrReg d } (fun v s => s.setFloat d (f.sqrtNum (s.rounding r).1 (f.decode (f.operand v.s))))

def execFsqrtD (r : Rnd) (d : Reg) (src : Src) (s : State) : Host.Outcome State Fault Refusal := sqrtOp fp64 r d src s
def execFsqrtS (r : Rnd) (d : Reg) (src : Src) (s : State) : Host.Outcome State Fault Refusal := sqrtOp fp32 r d src s

def execFmaD (r : Rnd) (d : Reg) (src : Src) (t : Tgt) (s : State) : Host.Outcome State Fault Refusal := float3 fp64 false false r d src t s
def execFmaS (r : Rnd) (d : Reg) (src : Src) (t : Tgt) (s : State) : Host.Outcome State Fault Refusal := float3 fp32 false false r d src t s
def execFmsD (r : Rnd) (d : Reg) (src : Src) (t : Tgt) (s : State) : Host.Outcome State Fault Refusal := float3 fp64 false true r d src t s
def execFmsS (r : Rnd) (d : Reg) (src : Src) (t : Tgt) (s : State) : Host.Outcome State Fault Refusal := float3 fp32 false true r d src t s
def execFnmaD (r : Rnd) (d : Reg) (src : Src) (t : Tgt) (s : State) : Host.Outcome State Fault Refusal := float3 fp64 true false r d src t s
def execFnmaS (r : Rnd) (d : Reg) (src : Src) (t : Tgt) (s : State) : Host.Outcome State Fault Refusal := float3 fp32 true false r d src t s
def execFnmsD (r : Rnd) (d : Reg) (src : Src) (t : Tgt) (s : State) : Host.Outcome State Fault Refusal := float3 fp64 true true r d src t s
def execFnmsS (r : Rnd) (d : Reg) (src : Src) (t : Tgt) (s : State) : Host.Outcome State Fault Refusal := float3 fp32 true true r d src t s

def execFminD (d : Reg) (src : Src) (s : State) : Host.Outcome State Fault Refusal := floatBits fp64 (fp64.select true) d src s
def execFminS (d : Reg) (src : Src) (s : State) : Host.Outcome State Fault Refusal := floatBits fp32 (fp32.select true) d src s
def execFmaxD (d : Reg) (src : Src) (s : State) : Host.Outcome State Fault Refusal := floatBits fp64 (fp64.select false) d src s
def execFmaxS (d : Reg) (src : Src) (s : State) : Host.Outcome State Fault Refusal := floatBits fp32 (fp32.select false) d src s

def execFeqD (d : Reg) (src : Src) (s : State) : Host.Outcome State Fault Refusal :=
  floatBits fp64 (fp64.compare false (fun a b => decide (a = b))) d src s
def execFeqS (d : Reg) (src : Src) (s : State) : Host.Outcome State Fault Refusal :=
  floatBits fp32 (fp32.compare false (fun a b => decide (a = b))) d src s
def execFltD (d : Reg) (src : Src) (s : State) : Host.Outcome State Fault Refusal :=
  floatBits fp64 (fp64.compare true (fun a b => decide (a < b))) d src s
def execFltS (d : Reg) (src : Src) (s : State) : Host.Outcome State Fault Refusal :=
  floatBits fp32 (fp32.compare true (fun a b => decide (a < b))) d src s
def execFleD (d : Reg) (src : Src) (s : State) : Host.Outcome State Fault Refusal :=
  floatBits fp64 (fp64.compare true (fun a b => decide (a ≤ b))) d src s
def execFleS (d : Reg) (src : Src) (s : State) : Host.Outcome State Fault Refusal :=
  floatBits fp32 (fp32.compare true (fun a b => decide (a ≤ b))) d src s

/-- FCLASS (R129): D is not read. -/
def classOp (f : Fmt) (d : Reg) (src : Src) (s : State) : Host.Outcome State Fault Refusal :=
  chainNext s { s := srcOpr src, d := wrReg d } (fun v s => s.setReg d.toNat (word (f.classify (f.operand v.s))))

def execFclassD (d : Reg) (src : Src) (s : State) : Host.Outcome State Fault Refusal := classOp fp64 d src s
def execFclassS (d : Reg) (src : Src) (s : State) : Host.Outcome State Fault Refusal := classOp fp32 d src s

/-- The sign instructions (R130): the new sign from the signs of D and S. -/
def signOp (f : Fmt) (g : Bool → Bool → Bool) (d : Reg) (src : Src) (s : State) : Host.Outcome State Fault Refusal :=
  floatBits f (fun x y => ⟨f.resign x (g (f.isNeg x) (f.isNeg y)), 0⟩) d src s

def execFsgnD (d : Reg) (src : Src) (s : State) : Host.Outcome State Fault Refusal := signOp fp64 (fun _ b => b) d src s
def execFsgnS (d : Reg) (src : Src) (s : State) : Host.Outcome State Fault Refusal := signOp fp32 (fun _ b => b) d src s
def execFsgnnD (d : Reg) (src : Src) (s : State) : Host.Outcome State Fault Refusal := signOp fp64 (fun _ b => !b) d src s
def execFsgnnS (d : Reg) (src : Src) (s : State) : Host.Outcome State Fault Refusal := signOp fp32 (fun _ b => !b) d src s
def execFsgnxD (d : Reg) (src : Src) (s : State) : Host.Outcome State Fault Refusal := signOp fp64 (fun a b => a != b) d src s
def execFsgnxS (d : Reg) (src : Src) (s : State) : Host.Outcome State Fault Refusal := signOp fp32 (fun a b => a != b) d src s

/-! ## Conversions (R131) -/

/-- Between floating formats: NV for a signalling NaN, OVERFLOW under policy 11. -/
def convertFloat (from_ to_ : Fmt) (r : Rnd) (d : Reg) (src : Src) (s : State) : Host.Outcome State Fault Refusal :=
  chain s { s := srcOpr src, d := wrReg d } (fun v s =>
    let x := from_.operand v.s
    let n := from_.decode x
    let c := to_.convert (s.rounding r).1 (s.rounding r).2 n
    if c.ovf ∧ (s.rounding r).2 = 3 then .trap s .overflow 0 (word x)
    else .next (s.setFloat d ⟨c.bits, c.flags ||| (if n.sig then flagNV else 0)⟩))

/-- From an integer. -/
def fromInt (signed_ : Bool) (to_ : Fmt) (r : Rnd) (d : Reg) (src : Src) (s : State) : Host.Outcome State Fault Refusal :=
  chainNext s { s := srcOpr src, d := wrReg d } (fun v s =>
    s.setFloat d (to_.exact (s.rounding r).1 (intNum (if signed_ then v.s.toInt else v.s.toNat))))

/-- To an integer. -/
def toInt (from_ : Fmt) (lo hi : Int) (r : Rnd) (d : Reg) (src : Src) (s : State) : Host.Outcome State Fault Refusal :=
  chain s { s := srcOpr src, d := wrReg d } (fun v s =>
    let x := from_.operand v.s
    let (i, fl, ov) := convertInt (s.rounding r).1 lo hi (from_.decode x)
    if ov ∧ (s.rounding r).2 = 3 then .trap s .overflow 0 (word x)
    else .next ((s.raise fl).setReg d.toNat (BitVec.ofInt 64 i)))

def execFcvtSD (r : Rnd) (d : Reg) (src : Src) (s : State) : Host.Outcome State Fault Refusal := convertFloat fp64 fp32 r d src s
def execFcvtDS (r : Rnd) (d : Reg) (src : Src) (s : State) : Host.Outcome State Fault Refusal := convertFloat fp32 fp64 r d src s
def execFcvtDL (r : Rnd) (d : Reg) (src : Src) (s : State) : Host.Outcome State Fault Refusal := fromInt true fp64 r d src s
def execFcvtDLu (r : Rnd) (d : Reg) (src : Src) (s : State) : Host.Outcome State Fault Refusal := fromInt false fp64 r d src s
def execFcvtSL (r : Rnd) (d : Reg) (src : Src) (s : State) : Host.Outcome State Fault Refusal := fromInt true fp32 r d src s
def execFcvtSLu (r : Rnd) (d : Reg) (src : Src) (s : State) : Host.Outcome State Fault Refusal := fromInt false fp32 r d src s
def execFcvtLD (r : Rnd) (d : Reg) (src : Src) (s : State) : Host.Outcome State Fault Refusal := toInt fp64 (-2 ^ 63) (2 ^ 63 - 1) r d src s
def execFcvtLuD (r : Rnd) (d : Reg) (src : Src) (s : State) : Host.Outcome State Fault Refusal := toInt fp64 0 (2 ^ 64 - 1) r d src s
def execFcvtLS (r : Rnd) (d : Reg) (src : Src) (s : State) : Host.Outcome State Fault Refusal := toInt fp32 (-2 ^ 63) (2 ^ 63 - 1) r d src s
def execFcvtLuS (r : Rnd) (d : Reg) (src : Src) (s : State) : Host.Outcome State Fault Refusal := toInt fp32 0 (2 ^ 64 - 1) r d src s

end Sys2Proof.Machine
end

