-- ==== Sys2Proof/Machine/Cassia.lean ====
section
/-! DEFINITION. Cassia: the checks and the dispatch of its operations (R263 to R284, R289, R290), their start, their line steps,
and the exchange of a tile's banks (R240 to R253, R445). -/

namespace Sys2Proof.Machine

/-! ## Checks at issue (R236, R244, R245, R267) -/

/-- A check that gives a value or ends the chain. -/
abbrev Check := Except Res

def State.stopWhen (s : State) (bad : Bool) (c : Cause) (detail : Nat) (v : Word) : Check Unit :=
  if bad then .error (.trap s c detail v) else .ok ()

/-- A tile's owning core is held by the issuer's holder (R236). -/
def State.checkTile (s : State) (t : Nat) : Check Unit :=
  let c := clusterCore (clusterOf s.cur.core) t
  s.stopWhen (decide (s.here.coreHolder c ≠ s.holder)) .notHolder 0 (word c)

/-- The first stage of R244 for one record. -/
def State.checkShape (s : State) (r : Layout) (bad : Bool) : Check Unit :=
  s.stopWhen (r.extentBad || bad) .layout 0 (word r.n)

/-- A translation at issue, or the end of the chain (R245), with the DETAIL that a failure has. -/
def State.checkXlateAs (s : State) (detail : XlateFail → Nat) (va : Word) (need : Perm) (use : Nat) : Check Nat :=
  match s.xlate va.toNat need use with
  | .ok pa => .ok pa
  | .walk => .error (.replay (s.onHere (fun p => p.startWalk s.cur.core va.toNat)))
  | .fail d => .error (.trap (s.onHere (fun p => p.takeFailure s.cur.core va.toNat)) .memFault (detail d) va)

/-- A translation at issue, or the end of the chain (R245). -/
def State.checkXlate (s : State) (va : Word) (need : Perm) (use : Nat) : Check Nat := s.checkXlateAs XlateFail.detail va need use

/-- The DETAIL of a Cassia operand's failed translation: PERMISSION where it lies in a scratchpad bank of a core that its holder does not hold
(R245, R277), and else what R358 gives (log 28). -/
def Package.operandDetail (p : Package) (h : Nat) (f : XlateFail) : Nat :=
  match f with
  | .page pa _ _ => (match p.place pa with
    | .scratch c _ => if p.coreHolder c = h then notHeld else noPermission
    | _ => notHeld)
  | _ => f.detail

/-- The base of a Cassia operand: in a scratchpad bank of a held core of this cluster; a destination's bank is PRIVATE. -/
def State.checkBase (s : State) (va : Word) (need : Perm) (use : Nat) : Check Nat := do
  let pa ← s.checkXlateAs (s.here.operandDetail s.holder) va need use
  match s.here.place pa with
  | .scratch c b =>
    if clusterOf c = clusterOf s.cur.core ∧ s.here.coreHolder c = s.holder ∧ ¬ (need.w ∧ (s.here.core c).exported.contains b) then
      return pa
    else .error (.trap s .memFault noPermission va)
  | _ => .error (.trap s .memFault noPermission va)

/-- The sixteen pages of a scratchpad bank, as physical addresses. A scale byte whose offset passes the end of its bank is taken
from the bank's first bytes (log 47). -/
def bankPages (pa : Nat) : Tab Nat := (span 0 1 18).map (fun i => (i, pa / 65536 * 65536 + i % 16 * 4096))

/-- The format register of the bank in which a physical address lies. -/
def Package.formatAt (p : Package) (pa : Nat) : Word := tget (p.core (pa / 0x80000)).bankFmt (pa / 0x10000 % 8) 0

def Layout.operand (r : Layout) (off fmt scaleOff : Nat) (pages : Tab Nat) : Operand :=
  { recNo := r.n, va := r.va, off := off, fmt := fmt, scaleOff := scaleOff, e0 := r.e0, e1 := r.e1, e2 := r.e2, e3 := r.e3,
    s0 := r.s0, s1 := r.s1, s2 := r.s2, s3 := r.s3, pages := pages }

/-- The second stage of R244 for a scratchpad operand on its translated base; `view` stands in for the bank's format. -/
def State.checkSpan (s : State) (r : Layout) (pa : Nat) (view : Option Nat) : Check Operand := do
  let f := s.here.formatAt pa
  let fmt := view.getD (bits f 3 0)
  s.stopWhen (decide (pa / 0x10000 % 8 ≠ r.bank) || r.spanBad fmt (pa % 65536)) .layout 0 (word r.n)
  return r.operand (pa % 65536) fmt (bits f 31 16) (bankPages pa)

/-- A vector of `len` bytes of `n` elements named by its address (R277): wholly within one bank of this cluster. -/
def State.checkVector (s : State) (va : Word) (fmt n use : Nat) : Check Operand := do
  let pa ← s.checkBase va { r := true } use
  s.stopWhen (decide (65536 < pa % 65536 + n * (elemBits fmt / 8))) .memFault noPermission va
  return (Layout.mk 0 va 0 n 1 1 1 1 0 0 0).operand (pa % 65536) fmt 0 (bankPages pa)

/-- A destination format that no vector operation and no DRAIN writes (R58). -/
def State.checkTarget (s : State) (fmt : Nat) (bad : Bool) : Check Unit := s.stopWhen bad .format 0 (word fmt)

/-- A chain whose checks give its end, or stop it. -/
def Check.run (c : Check Res) : Res :=
  match c with
  | .ok r => r
  | .error r => r

/-! ## Tiles, locks and the sets of operations (R240, R252) -/

def CassiaFn.tile : CassiaFn → Option Nat
  | .mma _ t _ _ _ | .accz t | .accswap t | .accrd t _ _ | .accwr t _ _ => some t
  | .drain _ _ _ _ _ win _ _ => some (bits win 1 0)
  | _ => none

/-- The operations that set a tile's lock (R252). -/
def CassiaFn.locks : CassiaFn → Bool
  | .mma _ _ _ _ _ | .accz _ | .accswap _ | .drain _ _ _ _ _ _ _ _ => true
  | _ => false

/-- The pipe that an operation needs (R237): 0 the matrix pipe, 1 the vector pipe, none. -/
def CassiaFn.pipe : CassiaFn → Option Nat
  | .mma _ _ _ _ _ => some 0
  | .accz _ | .accswap _ => none
  | _ => some 1

/-- Started operations of a cluster, with their ids. -/
def Package.started (p : Package) (k : Nat) : List (Nat × CassiaOp) :=
  p.flights.filterMap (fun e => match e.2 with
    | .cassia o => if clusterOf o.owner.core = k then some (e.1, o) else none
    | _ => none)

/-- Incomplete operations of a cluster: queued and started. -/
def Package.incomplete (p : Package) (k : Nat) : List CassiaOp :=
  (span 0 1 4).flatMap (fun i => (p.core (clusterCore k i)).dispatch) ++ (p.started k).map (·.2)

def Package.tileOf (p : Package) (k t : Nat) : Tile := (p.core (clusterCore k t)).tile

def Package.onTile (p : Package) (k t : Nat) (f : Tile → Tile) : Package :=
  p.onCore (clusterCore k t) (fun c => { c with tile := f c.tile })

/-- A tile is locked (R252). -/
def Package.locked (p : Package) (k t : Nat) : Bool :=
  (p.tileOf k t).compat && (p.incomplete k).any (fun o => o.fn.locks && decide (o.fn.tile = some t))

/-! ## Dispatch (R240, R268) -/

def CassiaOp.new (o : Owner) (fn : CassiaFn) (afterCopy : Option Nat) : CassiaOp :=
  { owner := o, fn := fn, afterCopy := afterCopy, stage := .queued, satMode := false, group := 0, need := [], got := [], toRead := [], orphan := false, left := false, cap := Memory.empty,
    toWrite := [], wrote := [], flags := 0, overflow := none, soft := none, seed := 0 }

def State.enqueue (s : State) (op : CassiaOp) : State := s.onHereCore (fun k => { k with dispatch := k.dispatch ++ [op] })

/-- The operation enters the tail of the core's queue, or the chain parks. -/
def State.dispatch (s : State) (fn : CassiaFn) : Res :=
  if 8 ≤ s.hereCore.dispatch.length then .park s .engine else .next (s.enqueue (CassiaOp.new s.owner fn none))

def tileNo (t : TileNo) : Nat := t.toNat
def State.layout (s : State) (n : Rec) : Layout := s.hereCore.layout n.toNat

/-- The shape rules of an MMA (R271), and its records with their bases and spans. -/
def mmaShapeA (ra : Layout) : Bool := !ra.plane || decide (128 < ra.e0)
def mmaShapeB (ra rb : Layout) : Bool := !rb.plane || decide (128 < rb.e1) || decide (rb.e0 ≠ ra.e1)

/-- The format rules of an MMA (R43). -/
def State.checkClasses (s : State) (mode : MmaMode) (a b : Operand) : Check Unit :=
  s.stopWhen (decide (isInteger a.fmt ≠ isInteger b.fmt) || (decide (mode = .decay) && isInteger a.fmt) ||
    (decide (mode = .sat) && !isInteger a.fmt)) .format 0 (word a.fmt)

/-- MMA (R271). -/
def mmaOp (mode : MmaMode) (tile : TileNo) (la lb : Rec) (c : RegOp) (disp : Word) (s : State) : Host.Outcome State Fault Refusal :=
  chain s { s := rdOp c } (fun v s => Check.run (do
    let ra := s.layout la
    let rb := s.layout lb
    s.checkTile (tileNo tile)
    s.checkShape ra (mmaShapeA ra)
    s.checkShape rb (mmaShapeB ra rb)
    let pa ← s.checkBase ra.va { r := true } 1
    let pb ← s.checkBase rb.va { r := true } 2
    let a ← s.checkSpan ra pa none
    let b ← s.checkSpan rb pb none
    s.checkClasses mode a b
    return s.dispatch (.mma mode (tileNo tile) a b (v.s + disp))))

def execMmaOvr (tile : TileNo) (la lb : Rec) (c : RegOp) (disp : Word) (s : State) : Host.Outcome State Fault Refusal :=
  mmaOp .ovr tile la lb c disp s
def execMmaAcc (tile : TileNo) (la lb : Rec) (c : RegOp) (disp : Word) (s : State) : Host.Outcome State Fault Refusal :=
  mmaOp .acc tile la lb c disp s
def execMmaDecay (tile : TileNo) (la lb : Rec) (c : RegOp) (disp : Word) (s : State) : Host.Outcome State Fault Refusal :=
  mmaOp .decay tile la lb c disp s
def execMmaSat (tile : TileNo) (la lb : Rec) (c : RegOp) (disp : Word) (s : State) : Host.Outcome State Fault Refusal :=
  mmaOp .sat tile la lb c disp s

def execAccz (tile : TileNo) (s : State) : Host.Outcome State Fault Refusal :=
  chain s {} (fun _ s => Check.run (do s.checkTile (tileNo tile); return s.dispatch (.accz (tileNo tile))))
def execAccswap (tile : TileNo) (s : State) : Host.Outcome State Fault Refusal :=
  chain s {} (fun _ s => Check.run (do s.checkTile (tileNo tile); return s.dispatch (.accswap (tileNo tile))))

def winRow (w : Word) : Nat := bits w 14 8
def winCol (w : Word) : Nat := bits w 22 16

/-- The shape rule of a window (R274). -/
def windowShape (r : Layout) (w : Word) : Bool := !r.plane || decide (128 < winRow w + r.e0) || decide (128 < winCol w + r.e1)

/-- ACCRD and ACCWR (R274): in compatibility mode a locked tile parks the chain (R252), before a full dispatch queue does (log 49). -/
def accMove (reads : Bool) (tile : TileNo) (rec : Rec) (w : RegOp) (disp : Word) (s : State) : Host.Outcome State Fault Refusal :=
  chain s { s := rdOp w } (fun v s => Check.run (do
    let r := s.layout rec
    let win := v.s + disp
    s.checkTile (tileNo tile)
    s.checkShape r (windowShape r win)
    let pa ← s.checkBase r.va (if reads then { w := true } else { r := true }) 1
    let o ← s.checkSpan r pa (some viewUint32)
    return if s.here.locked (clusterOf s.cur.core) (tileNo tile) then s.parkOn .acc (rid 0 (clusterCore (clusterOf s.cur.core) (tileNo tile)))
      else s.dispatch (if reads then .accrd (tileNo tile) o win else .accwr (tileNo tile) o win)))

def execAccrd (tile : TileNo) (rec : Rec) (w : RegOp) (disp : Word) (s : State) : Host.Outcome State Fault Refusal :=
  accMove true tile rec w disp s
def execAccwr (tile : TileNo) (rec : Rec) (w : RegOp) (disp : Word) (s : State) : Host.Outcome State Fault Refusal :=
  accMove false tile rec w disp s

/-- A tile's mode register (R250). -/
def Tile.modeWord (t : Tile) : Word :=
  word ((if t.vpoison then 8 else 0) + (if t.wpoison then 4 else 0) + (if t.compat then 2 else 0) + (if t.sat then 1 else 0))

/-- ACCMODE (R275). -/
def accmodeOp (d : Reg) (src : Src) (s : State) : Host.Outcome State Fault Refusal :=
  chain s { s := srcOpr src, d := s.selD src 2 d } (fun v s => Check.run (do
    let t := lowBits v.s 2
    let k := clusterOf s.cur.core
    s.checkTile t
    return if v.s.getLsbD 2 then .next (s.setReg d.toNat (s.here.tileOf k t).modeWord)
      else if (s.here.incomplete k).any (fun o => decide (o.fn.tile = some t)) then .replay s
      else .next (s.onHere (fun p => p.onTile k t (fun x => { x with compat := v.d.getLsbD 1, sat := v.d.getLsbD 0 })))))

def execAccmodeRead (d : Reg) (src : Src) (s : State) : Host.Outcome State Fault Refusal := accmodeOp d src s
def execAccmodeWrite (d : Reg) (src : Src) (s : State) : Host.Outcome State Fault Refusal := accmodeOp d src s

/-- DRAIN (R277). Of the translations the record's base comes first, then the correction vector, then the column vector (log 49). -/
def drainOp (float : Bool) (rnd : Rnd) (rec : Rec) (grp : RegOp) (s : State) : Host.Outcome State Fault Refusal :=
  chain s { mem := true, s := rdGroup grp 4 } (fun _ s => Check.run (do
    let r := s.layout rec
    let g (i : Nat) : Word := s.reg (grp.n.toNat + i)
    let win := g 3
    s.checkShape r (windowShape r win)
    s.checkTile (bits win 1 0)
    s.stopWhen (decide (g 0 ≠ 0) && decide (bits (g 0) 1 0 ≠ 0)) .memAlign 0 (g 0)
    s.stopWhen (decide (bits (g 1) 2 0 ≠ 0)) .memAlign 0 (g 1)
    let pa ← s.checkBase r.va { w := true } 1
    let corr ← (if g 0 = 0 then Except.ok none else do
      let o ← s.checkVector (g 0) viewUint32 r.e1 2
      return some o : Check (Option Operand))
    let col ← s.checkVector (g 1) viewFp64 r.e1 3
    let o ← s.checkSpan r pa none
    s.checkTarget o.fmt (if float then decide (7 < o.fmt) else !isInteger o.fmt)
    let (rm, pol) := s.rounding rnd
    return s.dispatch (.drain float o corr col (g 2) win rm pol)))

def execDrainI (r : Rnd) (rec : Rec) (grp : RegOp) (s : State) : Host.Outcome State Fault Refusal := drainOp false r rec grp s
def execDrainF (r : Rnd) (rec : Rec) (grp : RegOp) (s : State) : Host.Outcome State Fault Refusal := drainOp true r rec grp s

/-! ## Vector operations at issue (R278 to R284) -/

/-- Element-wise operations: their records in the order D, S, T, each with its view. -/
def State.vecIssue (s : State) (fn : VFn) (double : Bool) (rnd : Rnd) (ld : Rec) (ls lt : Option Rec) (dv sv : Option Nat)
    (scalar : Word) : Res :=
  Check.run (do
    let rd := s.layout ld
    let rs := ls.map s.layout
    let rt := lt.map s.layout
    s.checkShape rd false
    (match rs with | some r => s.checkShape r (!r.sameExtents rd) | none => .ok ())
    (match rt with | some r => s.checkShape r (!r.sameExtents rd) | none => .ok ())
    let pd ← s.checkBase rd.va { r := fn.readsD, w := true } 1
    let ps ← (match rs with | some r => s.checkBase r.va { r := true } 2 | none => .ok 0)
    let pt ← (match rt with | some r => s.checkBase r.va { r := true } 3 | none => .ok 0)
    let od ← s.checkSpan rd pd dv
    let os ← (match rs with | some r => s.checkSpan r ps sv | none => .ok od)
    let ot ← (match rt with | some r => s.checkSpan r pt sv | none => .ok od)
    s.checkTarget od.fmt (isScaled od.fmt)
    let (rm, pol) := s.rounding rnd
    let sources := (if fn.readsD then [od] else []) ++ (if ls.isSome then [os] else []) ++ (if lt.isSome then [ot] else [])
    return s.dispatch (.vec fn double (od :: os :: ot :: sources) scalar rm pol))

def noRnd : Rnd := ⟨0, 0⟩

/-- The view of a .d operation's records. -/
def dView (double : Bool) : Option Nat := if double then some viewFp64 else none

def vec2 (fn : VFn) (double : Bool) (r : Rnd) (ld ls : Rec) (s : State) : Host.Outcome State Fault Refusal :=
  chain s {} (fun _ s => s.vecIssue fn double r ld (some ls) none (dView double) (dView double) 0)
def vec3 (fn : VFn) (double : Bool) (r : Rnd) (ld ls lt : Rec) (s : State) : Host.Outcome State Fault Refusal :=
  chain s {} (fun _ s => s.vecIssue fn double r ld (some ls) (some lt) (dView double) (dView double) 0)

/-- VRED (R281). -/
def redOp (fn : RedFn) (double : Bool) (rnd : Rnd) (ld ls : Rec) (s : State) : Host.Outcome State Fault Refusal :=
  chain s {} (fun _ s => Check.run (do
    let rd := s.layout ld
    let rs := s.layout ls
    s.checkShape rd (decide (rd.e0 ≠ 1 ∨ rd.e1 ≠ rs.e1 ∨ rd.e2 ≠ rs.e2 ∨ rd.e3 ≠ rs.e3))
    s.checkShape rs false
    let pd ← s.checkBase rd.va { w := true } 1
    let ps ← s.checkBase rs.va { r := true } 2
    let od ← s.checkSpan rd pd (dView double)
    let os ← s.checkSpan rs ps (dView double)
    s.checkTarget od.fmt (isScaled od.fmt)
    let (rm, pol) := s.rounding rnd
    return s.dispatch (.red fn double od os rm pol)))

def execVaddS (r : Rnd) (ld ls : Rec) (s : State) : Host.Outcome State Fault Refusal := vec2 .add false r ld ls s
def execVaddD (r : Rnd) (ld ls : Rec) (s : State) : Host.Outcome State Fault Refusal := vec2 .add true r ld ls s
def execVsubS (r : Rnd) (ld ls : Rec) (s : State) : Host.Outcome State Fault Refusal := vec2 .sub false r ld ls s
def execVsubD (r : Rnd) (ld ls : Rec) (s : State) : Host.Outcome State Fault Refusal := vec2 .sub true r ld ls s
def execVmulS (r : Rnd) (ld ls : Rec) (s : State) : Host.Outcome State Fault Refusal := vec2 .mul false r ld ls s
def execVmulD (r : Rnd) (ld ls : Rec) (s : State) : Host.Outcome State Fault Refusal := vec2 .mul true r ld ls s
def execVminS (r : Rnd) (ld ls : Rec) (s : State) : Host.Outcome State Fault Refusal := vec2 .min false r ld ls s
def execVminD (ld ls : Rec) (s : State) : Host.Outcome State Fault Refusal := vec2 .min true noRnd ld ls s
def execVmaxS (r : Rnd) (ld ls : Rec) (s : State) : Host.Outcome State Fault Refusal := vec2 .max false r ld ls s
def execVmaxD (ld ls : Rec) (s : State) : Host.Outcome State Fault Refusal := vec2 .max true noRnd ld ls s
def execVexpS (r : Rnd) (ld ls : Rec) (s : State) : Host.Outcome State Fault Refusal := vec2 .exp false r ld ls s
def execVexpD (r : Rnd) (ld ls : Rec) (s : State) : Host.Outcome State Fault Refusal := vec2 .exp true r ld ls s
def execVrcpS (r : Rnd) (ld ls : Rec) (s : State) : Host.Outcome State Fault Refusal := vec2 .rcp false r ld ls s
def execVrcpD (r : Rnd) (ld ls : Rec) (s : State) : Host.Outcome State Fault Refusal := vec2 .rcp true r ld ls s
def execVrsqS (r : Rnd) (ld ls : Rec) (s : State) : Host.Outcome State Fault Refusal := vec2 .rsq false r ld ls s
def execVrsqD (r : Rnd) (ld ls : Rec) (s : State) : Host.Outcome State Fault Refusal := vec2 .rsq true r ld ls s
def execVfmaS (r : Rnd) (ld ls lt : Rec) (s : State) : Host.Outcome State Fault Refusal := vec3 .fma false r ld ls lt s
def execVfmaD (r : Rnd) (ld ls lt : Rec) (s : State) : Host.Outcome State Fault Refusal := vec3 .fma true r ld ls lt s
def execVfmsS (r : Rnd) (ld ls lt : Rec) (s : State) : Host.Outcome State Fault Refusal := vec3 .fms false r ld ls lt s
def execVfmsD (r : Rnd) (ld ls lt : Rec) (s : State) : Host.Outcome State Fault Refusal := vec3 .fms true r ld ls lt s
def execVcmpEqS (r : Rnd) (ld ls lt : Rec) (s : State) : Host.Outcome State Fault Refusal := vec3 .eq false r ld ls lt s
def execVcmpEqD (ld ls lt : Rec) (s : State) : Host.Outcome State Fault Refusal := vec3 .eq true noRnd ld ls lt s
def execVcmpLtS (r : Rnd) (ld ls lt : Rec) (s : State) : Host.Outcome State Fault Refusal := vec3 .lt false r ld ls lt s
def execVcmpLtD (ld ls lt : Rec) (s : State) : Host.Outcome State Fault Refusal := vec3 .lt true noRnd ld ls lt s
def execVcmpLeS (r : Rnd) (ld ls lt : Rec) (s : State) : Host.Outcome State Fault Refusal := vec3 .le false r ld ls lt s
def execVcmpLeD (ld ls lt : Rec) (s : State) : Host.Outcome State Fault Refusal := vec3 .le true noRnd ld ls lt s
def execVselS (r : Rnd) (ld ls lt : Rec) (s : State) : Host.Outcome State Fault Refusal := vec3 .sel false r ld ls lt s
def execVselD (ld ls lt : Rec) (s : State) : Host.Outcome State Fault Refusal := vec3 .sel true noRnd ld ls lt s
def execVredSumS (r : Rnd) (ld ls : Rec) (s : State) : Host.Outcome State Fault Refusal := redOp .sum false r ld ls s
def execVredSumD (r : Rnd) (ld ls : Rec) (s : State) : Host.Outcome State Fault Refusal := redOp .sum true r ld ls s
def execVredMaxS (r : Rnd) (ld ls : Rec) (s : State) : Host.Outcome State Fault Refusal := redOp .max false r ld ls s
def execVredMaxD (ld ls : Rec) (s : State) : Host.Outcome State Fault Refusal := redOp .max true noRnd ld ls s
def execVredMinS (r : Rnd) (ld ls : Rec) (s : State) : Host.Outcome State Fault Refusal := redOp .min false r ld ls s
def execVredMinD (ld ls : Rec) (s : State) : Host.Outcome State Fault Refusal := redOp .min true noRnd ld ls s

/-- VSCALE (R282): the scalar is T. -/
def vscaleOp (double : Bool) (r : Rnd) (ld ls : Rec) (t : Tgt) (s : State) : Host.Outcome State Fault Refusal :=
  chain s { t := tgtOpr t } (fun v s => s.vecIssue .scale double r ld (some ls) none (dView double) (dView double) v.t)
def execVscaleS (r : Rnd) (ld ls : Rec) (t : Tgt) (s : State) : Host.Outcome State Fault Refusal := vscaleOp false r ld ls t s
def execVscaleD (r : Rnd) (ld ls : Rec) (t : Tgt) (s : State) : Host.Outcome State Fault Refusal := vscaleOp true r ld ls t s

/-- VFILL (R282): the scalar is S. -/
def vfillOp (double : Bool) (r : Rnd) (ld : Rec) (src : Src) (s : State) : Host.Outcome State Fault Refusal :=
  chain s { s := srcOpr src } (fun v s => s.vecIssue .fill double r ld none none (dView double) none v.s)
def execVfillS (r : Rnd) (ld : Rec) (src : Src) (s : State) : Host.Outcome State Fault Refusal := vfillOp false r ld src s
def execVfillD (ld : Rec) (src : Src) (s : State) : Host.Outcome State Fault Refusal := vfillOp true noRnd ld src s

/-- A view code of VCVT (R284). -/
def viewOf (n : Nat) : Option Nat :=
  match n with
  | 1 => some viewInt32
  | 2 => some viewUint32
  | 3 => some viewFp64
  | _ => none

/-- VCVT, which fetches as .s operations do whatever its views are (log 14). -/
def execVcvt (r : Rnd) (ld ls : Rec) (view : BitVec 4) (s : State) : Host.Outcome State Fault Refusal :=
  chain s {} (fun _ s => s.vecIssue .cvt false r ld (some ls) none (viewOf (view.toNat / 4)) (viewOf (view.toNat % 4)) 0)

/-! ## LAYOUT and RDBC (R269, R270) -/

/-- LAYOUT (R269). Each word of the record is a plain load. -/
def execLayout (rec : Rec) (b : RegOp) (disp : Word) (s : State) : Host.Outcome State Fault Refusal :=
  chain s { mem := true, s := rdOp b } (fun v s =>
    let a := v.s + disp
    (s.plainAddr a 32 { r := true } 1).bind a (fun pa =>
      let l (i : Nat) : Loaded := s.plainLoad (pa + 8 * i) 8 (10 + i)
      if (span 0 1 4).any (fun i => (l i).bad) then .trap s .softError 0 a
      else if (l 0).val / 2 ^ 51 ≠ 0 then .trap s .layout 0 (word rec.toNat)
      else
        let w := BitVec.ofNat 256 ((l 0).val + 2 ^ 64 * (l 1).val + 2 ^ 128 * (l 2).val + 2 ^ 192 * (l 3).val)
        .next (s.onHereCore (fun k => { k with recs := tset k.recs rec.toNat w }))))

def execRdbcRead (d : Reg) (s : State) : Host.Outcome State Fault Refusal :=
  chainNext s { d := wrReg d } (fun _ s => s.setReg d.toNat s.hereCore.conflicts)
def execRdbcReadClear (d : Reg) (s : State) : Host.Outcome State Fault Refusal :=
  chainNext s { d := wrReg d } (fun _ s => (s.setReg d.toNat s.hereCore.conflicts).onHereCore (fun k => { k with conflicts := 0 }))

/-! ## ESYNC and ESTAT (R289, R290) -/

/-- The incomplete Cassia operations that a thread has dispatched from a slot. -/
def Package.pendingOf (p : Package) (o : Owner) : List CassiaOp :=
  (p.incomplete (clusterOf o.core)).filter (fun x => decide (x.owner = o))

/-- The completed ones. -/
def Package.finishedOf (p : Package) (o : Owner) : List CassiaOp := (p.core o.core).finished.filter (fun x => decide (x.owner = o))

/-- The slots of this chip from which the issuing thread has dispatched operations: its own, and those that it has migrated from
(R218, R419). Those that it dispatched on another chip count no more (log 49). -/
def State.owners (s : State) : List Owner := s.owner :: (s.me.former.filter (fun f => decide (f.1 = s.cur.chip))).map (·.2)

/-- The issuing thread's incomplete Cassia operations. -/
def State.pendingOps (s : State) : List CassiaOp := s.owners.flatMap s.here.pendingOf

/-- The issuing thread's completed Cassia operations. -/
def State.finishedOps (s : State) : List CassiaOp := s.owners.flatMap s.here.finishedOf

/-- A report of a completed operation: OVERFLOW before SOFT-ERROR. -/
def CassiaOp.report (o : CassiaOp) : Option (Cause × Word) :=
  match o.overflow, o.soft with
  | some (_, w), _ => some (.overflow, w)
  | none, some (_, w) => some (.softError, w)
  | none, none => none

/-- The first report consumed. -/
def consumeFirst : List CassiaOp → Owner → List CassiaOp
  | [], _ => []
  | x :: l, o =>
    if x.owner = o ∧ x.report.isSome then
      (match x.overflow with
      | some _ => { x with overflow := none }
      | none => { x with soft := none }) :: l
    else x :: consumeFirst l o

/-- ESYNC (R218, R289). -/
def execEsync (s : State) : Host.Outcome State Fault Refusal :=
  chain s {} (fun _ s =>
    if !s.pendingOps.isEmpty then .park s .engine
    else
      match firstSome s.finishedOps CassiaOp.report with
      | some (c, w) => .trap (s.onHereCore (fun k => { k with finished := consumeFirst k.finished s.owner })) c 0 w
      | none => .next (s.onHere (fun p => s.finishedOps.foldl (fun p x => p.acquire s.cur.core x.wrote) p)))

/-- ESTAT (R290). RPT shows the reports of completed operations (log 49). -/
def execEstat (d : Reg) (s : State) : Host.Outcome State Fault Refusal :=
  chainNext s { d := wrReg d } (fun _ s =>
    let k := clusterOf s.cur.core
    let rpt := s.finishedOps.any (fun x => x.report.isSome)
    let mask (f : Nat → Bool) : Nat := (span 0 1 4).foldl (fun m i => if f i then m + 2 ^ i else m) 0
    let lock := mask (s.here.locked k)
    let busy := mask (fun i => (s.here.started k).any (fun x => decide (x.2.fn.tile = some i)))
    let out := Nat.min 255 s.pendingOps.length
    s.setReg d.toNat (word (((((if rpt then 1 else 0) * 16 + lock) * 16 + busy) * 256 + s.hereCore.dispatch.length) * 256 + out)))

/-! ## Start and completion (R241, R251) -/

/-- A core's queue head that may start. -/
def Package.eligibleHead (p : Package) (c : Nat) : Option CassiaOp :=
  match (p.core c).dispatch with
  | [] => none
  | o :: _ =>
    let st := p.started (clusterOf c)
    if st.any (fun x => decide (x.2.owner.core = c)) then none
    else if (match o.afterCopy with | some id => (p.job id).isSome | none => false) then none
    else if st.any (fun x => match x.2.fn with | .accswap t => decide (o.fn.tile = some t) | _ => false) then none
    else some o

/-- K elements that the matrix pipe consumes in a cycle (R238); below 1, a fetch group spans 8 or 4 cycles. -/
def kStep (fmt : Nat) : Nat :=
  match fmt with
  | 0 | 8 | 1 | 2 => 1
  | 7 | 10 | 12 => 4
  | _ => 2

/-- Elements that the vector pipe takes in a cycle (R238). -/
def vecRate (fn : VFn) (double : Bool) : Nat :=
  let r := if double then 256 else 512
  match fn with
  | .exp | .rcp | .rsq => r / 4
  | _ => r

/-- Places i·n to i·n + n of a traversal, as far as it goes. -/
def takeGroup (count n i : Nat) : List Nat := span (n * i) 1 (Nat.min n (count - n * i))

/-- The source elements of a fetch group, by operand (R246). -/
def CassiaFn.groupOf (f : CassiaFn) (i : Nat) : List (Operand × List Nat) :=
  match f with
  | .mma _ _ a b _ =>
    let ks := takeGroup a.e1 (Nat.min (kStep a.fmt) (kStep b.fmt)) i
    [(a, ks.flatMap (fun k => (span 0 1 a.e0).map (fun r => a.index r k 0 0))),
     (b, ks.flatMap (fun k => (span 0 1 b.e1).map (fun c => b.index k c 0 0)))]
  | .accwr _ d _ => [(d, (takeGroup d.count 512 i).map d.at_)]
  | .drain _ d corr col _ _ _ _ =>
    let columns := (takeGroup d.count 512 i).map (fun j => j / d.e0 % d.e1)
    (col :: corr.toList).map (fun o => (o, columns.map o.at_))
  | .vec fn double ops _ _ _ => (ops.drop 3).map (fun o => (o, (takeGroup o.count (vecRate fn double) i).map o.at_))
  | .red _ double _ s _ _ => [(s, (takeGroup s.count (if double then 256 else 512) i).map s.at_)]
  | _ => []

/-- What a fetch group needs. -/
def CassiaFn.needs (f : CassiaFn) (i : Nat) : List Need := (f.groupOf i).map (fun e => ⟨e.1.rows e.2, false⟩)

/-- Something is still to be delivered. -/
def waiting (ns : List Need) : Bool := ns.any (fun n => !n.rows.isEmpty)

/-- What an operation writes, one entry a step: lines of its destination, or rows of its tile. -/
def CassiaFn.writes : CassiaFn → List Nat
  | .mma _ _ a _ _ => span 0 1 a.e0
  | .accwr _ d _ => span 0 1 d.e0
  | .accrd _ d _ => d.targetLines
  | .drain _ d _ _ _ _ _ _ => d.targetLines
  | .vec _ _ ops _ _ _ => (ops.head?.map Operand.targetLines).getD []
  | .red _ _ d _ _ _ => d.targetLines
  | _ => []

/-- A completed operation: its flags, its reports, and what its thread is to acquire (R48, R52, R218, R289). Of a thread that has
stopped or migrated since, the flags and reports are discarded (R268, R419). -/
def Package.completeOp (p : Package) (id : Nat) (o : CassiaOp) : Package :=
  let p := if o.orphan then p.dropJob id else (p.dropJob id).raise o.owner o.flags
  let o := if o.orphan then { o with overflow := none, soft := none } else o
  if p.ownerLive o.owner ∨ o.left then
    p.onCore o.owner.core (fun k => { k with finished := k.finished ++ [{ o with stage := .done, got := [], toRead := [], cap := Memory.empty }] })
  else p

/-- ACCZ's effect (R272). -/
def Tile.clear (t : Tile) : Tile :=
  { t with
    working := [], wbad := [], wpoison := false, vpoison := false,
    visible := if t.compat then t.visible else [], vbad := if t.compat then t.vbad else [] }

/-- A queue head started. -/
def Package.startOp (p : Package) (c : Nat) (o : CassiaOp) (seed : Nat) : Package :=
  let k := clusterOf c
  let p := p.onCore c (fun x => { x with dispatch := x.dispatch.tail })
  let needs := o.fn.needs 0
  let o := { o with
    stage := if waiting needs then .reading else .writing, need := needs, toWrite := o.fn.writes, seed := seed,
    satMode := match o.fn.tile with | some t => (p.tileOf k t).sat | none => false }
  match o.fn with
  | .accz t => (p.onTile k t Tile.clear).addJob (.cassia o) |>.completeOp p.nextId o
  | _ => p.addJob (.cassia o)

/-- CASSIA_OP_START (R241): the scan takes the first eligible head, if the pipe that it needs is free. -/
def execCassiaOpStart (chip cluster : Nat) (s : State) : Host.Outcome State Fault Refusal :=
  pkgStep chip s (fun p =>
    let k := p.cluster cluster
    (firstSome (span 0 1 4) (fun i =>
      let pos := (k.scan + i) % 4
      (p.eligibleHead (clusterCore cluster pos)).map (fun o => (pos, o)))).bind (fun e =>
        let pos := e.1
        let o := e.2
        let free := match o.fn.pipe with
          | none => true
          | some q => !(p.started cluster).any (fun x => decide (x.2.fn.pipe = some q))
        when (decide (k.power = .active) && free)
          ((p.startOp (clusterCore cluster pos) o s.tick).onCluster cluster (fun k => { k with scan := (pos + 1) % 4 }))))

/-- ACCSWAP_EXCHANGE (R251): once no started operation on the tile is in progress; in compatibility mode nothing moves (R252). -/
def execAccswapExchange (chip : Nat) (id : Nat) (s : State) : Host.Outcome State Fault Refusal :=
  jobStep chip id s (fun p j => match j with
    | .cassia o =>
      match o.fn with
      | .accswap t =>
        let k := clusterOf o.owner.core
        when (!(p.started k).any (fun x => decide (x.1 ≠ id ∧ x.2.fn.tile = some t)))
          ((p.onTile k t (fun x =>
            if x.compat then x
            else { x with
              working := x.visible, visible := x.working, wbad := x.vbad, vbad := x.wbad, wpoison := x.vpoison, vpoison := x.wpoison })).completeOp
                id o)
      | _ => none
    | _ => none)

/-! ## Line steps (R218) -/

/-- A tile's bank that ACCRD, ACCWR and DRAIN use (R249, R252). -/
def Tile.bank (t : Tile) : Tab (BitVec 32) := if t.compat then t.working else t.visible
def Tile.bankPoison (t : Tile) : Bool := if t.compat then t.wpoison else t.vpoison
def tileElem (b : Tab (BitVec 32)) (i j : Nat) : Nat := (tget b (128 * i + j) 0).toNat

/-- The elements of a rectangle of a bank. -/
def rectangle (row col rows cols : Nat) : List Nat :=
  (span row 1 rows).flatMap (fun i => span (128 * i + col) 1 cols)

/-- Elements of that bank written: a parity error that stood in one is gone. -/
def Tile.setBank (t : Tile) (b : Tab (BitVec 32)) (poison : Bool) (written : List Nat) : Tile :=
  if t.compat then { t with working := b, wpoison := t.wpoison || poison, wbad := t.wbad.filter (fun e => !written.contains e) }
  else { t with visible := b, vpoison := t.vpoison || poison, vbad := t.vbad.filter (fun e => !written.contains e) }

/-- Elements of that bank read by Cassia: a parity error found in one poisons the bank (R253). -/
def Tile.readBank (t : Tile) (elements : List Nat) : Tile :=
  if t.compat then { t with wpoison := t.wpoison || t.wbad.any elements.contains }
  else { t with vpoison := t.vpoison || t.vbad.any elements.contains }

/-- One row of an MMA written to the working bank. An uncorrectable word in a row of an operand poisons the bank, and so does a
parity error found in an element read (R253). -/
def Package.mmaRow (p : Package) (k : Nat) (o : CassiaOp) (mode : MmaMode) (t : Nat) (a b : Operand) (ctl : Word) (i : Nat) :
    Package × Nat :=
  let x := p.tileOf k t
  let (w, fl) := (span 0 1 b.e1).foldl (fun (acc : Tab (BitVec 32) × Nat) j =>
    let r := mmaElement mode a b ctl o.satMode o.cap (tileElem x.working i j) i j
    (tset acc.1 (128 * i + j) (BitVec.ofNat 32 r.bits), acc.2 ||| r.flags)) (x.working, 0)
  let row := rectangle i 0 1 b.e1
  let found := decide (mode ≠ .ovr) && x.wbad.any row.contains
  (p.onTile k t (fun x => { x with
    working := w, wpoison := x.wpoison || !o.cap.bad.isEmpty || found, wbad := x.wbad.filter (fun e => !row.contains e) }), fl)

/-- One row of ACCWR written to the tile (R274, R445). -/
def Package.accRow (p : Package) (k t : Nat) (d : Operand) (win : Word) (cap : Memory) (i : Nat) : Package :=
  p.onTile k t (fun x =>
    let (w, bad) := (span 0 1 d.e1).foldl (fun (acc : Tab (BitVec 32) × Bool) j =>
      let n := d.index i j 0 0
      (tset acc.1 (128 * (winRow win + i) + winCol win + j) (BitVec.ofNat 32 (d.raw cap n)), acc.2 || (d.badWord cap n).isSome)) (x.bank, false)
    x.setBank w bad (rectangle (winRow win + i) (winCol win) 1 d.e1))

/-- The window of a tile that an operation reads (R274, R277). -/
def windowElems (d : Operand) (win : Word) : List Nat := rectangle (winRow win) (winCol win) d.e0 d.e1

/-- The elements of a destination that touch a line, by their places in traversal order. -/
def Operand.inLine (d : Operand) (line : Nat) : List Nat :=
  (span 0 1 d.count).filter (fun j => (d.bytesOf (d.at_ j)).any (fun b => decide (lineOf (d.addr b) = line)))

/-- What ACCRD writes in one line (R253, R274). -/
def accrdImage (t : Tile) (d : Operand) (win : Word) (seed line : Nat) : Image :=
  (d.inLine line).foldl (fun g j =>
    let n := d.at_ j
    if t.bankPoison then g.poison d n j seed
    else g.put d n (tileElem t.bank (winRow win + j % d.e0) (winCol win + j / d.e0 % d.e1))) (Image.of Memory.empty)

/-- What DRAIN writes in one line (R56, R57, R253, R277, R445). -/
def drainImage (float : Bool) (t : Tile) (d : Operand) (corr : Option Operand) (col : Operand) (zp win : Word) (rm policy : Nat)
    (cap : Memory) (seed line : Nat) : Image :=
  (d.inLine line).foldl (fun g j =>
    let n := d.at_ j
    let i := j % d.e0
    let c := j / d.e0 % d.e1
    let cn := col.at_ c
    let bad := t.bankPoison || (col.badWord cap cn).isSome || (match corr with | some o => (o.badWord cap (o.at_ c)).isSome | none => false)
    let acc := tileElem t.bank (winRow win + i) (winCol win + c)
    let cr := match corr with | some o => o.raw cap (o.at_ c) | none => 0
    let param := word (col.raw cap cn)
    if bad then g.poison d n j seed
    else
      let r := if float then drainFloat acc cr param d.fmt rm policy
        else drainInt acc cr param (BitVec.ofNat 32 zp.toNat).toInt d.fmt (win.getLsbD 2)
      g.conv d n j policy r.1 r.2 0) (Image.of Memory.empty)

/-- The earlier of two reports. -/
def earlier (a b : Option (Nat × Word)) : Option (Nat × Word) :=
  match a, b with
  | some x, some y => if x.1 ≤ y.1 then some x else some y
  | some x, none => some x
  | none, y => y

/-- One line of an image written, with what it adds to the operation. -/
def Package.writeImage (p : Package) (o : CassiaOp) (g : Image) (line : Nat) : Package × CassiaOp :=
  let l := g.line p.mem line
  (p.writeLine [] l, { o with
    wrote := l.bytes.foldl (fun w b => sadd w (wordOf (l.line + b.1))) o.wrote, flags := o.flags ||| g.flags,
    overflow := earlier o.overflow g.overflow, soft := earlier o.soft g.soft })

/-! ## What a write step needs (R218, R279) -/

/-- The source elements that a place of a destination is computed from. -/
def CassiaFn.sourcesAt (f : CassiaFn) (j : Nat) : List (Operand × Nat) :=
  match f with
  | .drain _ d corr col _ _ _ _ => (col :: corr.toList).map (fun o => (o, o.at_ (j / d.e0 % d.e1)))
  | .vec _ _ ops _ _ _ => (ops.drop 3).map (fun o => (o, o.at_ j))
  | .red _ _ _ s _ _ => (reduced s j).map (fun n => (s, n))
  | _ => []

/-- The destination in memory. -/
def CassiaFn.target : CassiaFn → Option Operand
  | .accrd _ d _ => some d
  | .drain _ d _ _ _ _ _ _ => some d
  | .vec _ _ ops _ _ _ => ops.head?
  | .red _ _ d _ _ _ => some d
  | _ => none

/-- Some place's element is written where a later place's sources stand, so that the later one reads its new value (R279). -/
def CassiaFn.feedsItself (f : CassiaFn) (d : Operand) : Bool :=
  (span 0 1 d.count).any (fun j => (f.sourcesAt j).any (fun e => (e.1.sourceBytes e.2).any (fun i =>
    (span 0 1 j).any (fun k => (d.bytesOf (d.at_ k)).any (fun b => decide (d.addr b = e.1.addr i))))))

/-- The places that the writing of a line computes: those in the line, or all up to its last one where an element may read what an
earlier one wrote. -/
def CassiaFn.places (f : CassiaFn) (line : Nat) : List Nat :=
  match f.target with
  | some d =>
    let inside := d.inLine line
    if f.feedsItself d then span 0 1 ((inside.getLast?.map (· + 1)).getD 0) else inside
  | none => []

/-- The source elements that one write step needs: of a line, or of a row of a tile. -/
def CassiaFn.sourcesOf (f : CassiaFn) (x : Nat) : List (Operand × Nat) :=
  match f with
  | .mma _ _ a b _ =>
    let ks := span 0 1 a.e1
    ks.map (fun k => (a, a.index x k 0 0)) ++ ks.flatMap (fun k => (span 0 1 b.e1).map (fun j => (b, b.index k j 0 0)))
  | .accwr _ d _ => (span 0 1 d.e1).map (fun j => (d, d.index x j 0 0))
  | _ => (f.places x).flatMap f.sourcesAt

/-- A line of the destination holds bytes of a source, of whichever element. -/
def CassiaFn.readsLine (f : CassiaFn) (line : Nat) : Bool :=
  match f.target with
  | some d => (span 0 1 d.count).any (fun j => (f.sourcesAt j).any (fun e => (e.1.sourceBytes e.2).any (fun i => decide (lineOf (e.1.addr i) = line))))
  | none => false

/-- A source line at an address has been read. -/
def CassiaOp.hasRead (o : CassiaOp) (a : Nat) : Bool := o.got.contains (a / 256) && !o.toRead.contains (lineOf a)

/-- Every source line that a write step needs has been read, and a line that it writes is no source still to be read: an element reads
what earlier ones wrote, and nothing that later ones do (R279). A DRAIN reads the lines of its vectors once, before it writes to them
(log 49). -/
def CassiaOp.ready (o : CassiaOp) (x : Nat) : Bool :=
  (o.fn.sourcesOf x).all (fun e => (e.1.sourceBytes e.2).all (fun i => o.hasRead (e.1.addr i))) &&
  (!o.fn.readsLine x || o.hasRead x)

/-- One write step of an operation. -/
def Package.opWrite (p : Package) (o : CassiaOp) (x : Nat) : Package × CassiaOp :=
  let k := clusterOf o.owner.core
  match o.fn with
  | .mma mode t a b ctl =>
    let (p, fl) := p.mmaRow k o mode t a b ctl x
    (p, { o with flags := o.flags ||| fl })
  | .accwr t d win => (p.accRow k t d win o.cap x, o)
  | .accrd t d win =>
    let p := p.onTile k t (fun x => x.readBank (windowElems d win))
    p.writeImage o (accrdImage (p.tileOf k t) d win o.seed x) x
  | .drain float d corr col zp win rm pol =>
    let p := p.onTile k (bits win 1 0) (fun x => x.readBank (windowElems d win))
    p.writeImage o (drainImage float (p.tileOf k (bits win 1 0)) d corr col zp win rm pol o.cap o.seed x) x
  | .vec fn double (d :: s :: t :: sources) scalar rm pol =>
    p.writeImage o (vecRun fn double d s t sources scalar rm pol o.seed (o.fn.places x) (Image.of o.cap)) x
  | .red fn double d s rm pol => p.writeImage o (redRun fn double d s rm pol o.seed (o.fn.places x) (Image.of o.cap)) x
  | _ => (p, o)

/-- The words of a line captured, with their full/empty bits. -/
def Memory.capture (m from_ : Memory) (line : Nat) : Memory :=
  (span line 8 8).foldl (fun m w => (m.setVersion w (from_.version w)).setFull w (from_.full w)) m

/-! ## Fetch cycles (R246 to R248) -/

/-- A row used: it stands first in the row buffer, which holds 32 (R248). -/
def Cluster.useRow (k : Cluster) (row : Nat) : Cluster := { k with rows := (row :: k.rows.filter (· ≠ row)).take 32 }

/-- The bank of a row, and its scratchpad, by number. -/
def rowBank (row : Nat) : Nat := row / 256
def rowPad (row : Nat) : Nat := row / 2048

/-- A scratchpad can still deliver a row in this cycle: two at most, from different banks (R246). -/
def Cluster.canDeliver (k : Cluster) (row : Nat) : Bool :=
  !k.banks.contains (rowBank row) && decide ((k.banks.filter (fun b => decide (b / 8 = rowPad row))).length < 2)

/-- What a cycle has fetched so far: the cluster, the rows delivered, and the conflicts met. -/
structure Fetched where
  cluster : Cluster
  rows : List Nat
  gain : Nat
  deriving DecidableEq, Repr

/-- The rows of one operand delivered in the present cycle, in their order, until one must wait: from the row buffer at no cost,
or read. Each row read beyond the operand's first in its group is a conflict (R247). -/
def Fetched.operand (f : Fetched) (read : Bool) : List Nat → Fetched × Need
  | [] => (f, ⟨[], read⟩)
  | row :: rest =>
    let g : Fetched := { f with cluster := f.cluster.useRow row, rows := f.rows ++ [row] }
    if f.cluster.rows.contains row then g.operand read rest
    else if f.cluster.canDeliver row then
      Fetched.operand { g with
        cluster := { g.cluster with banks := rowBank row :: g.cluster.banks }, gain := if read then g.gain + 1 else g.gain } true rest
    else (f, ⟨row :: rest, read⟩)

/-- The rows of a group's operands delivered in the present cycle. A cycle in which a row must wait is a conflict (R247). -/
def Fetched.group (f : Fetched) : List Need → Fetched × List Need
  | [] => (f, [])
  | n :: rest =>
    let (f, m) := f.operand n.read n.rows
    let (f, ms) := f.group rest
    (f, m :: ms)

/-- The four lines of a row of 256 bytes. -/
def rowLines (row : Nat) : List Nat := span (256 * row) 64 4

/-- The fetch cycle in which an operation takes part: the one in progress, when the other pipe's operation is alone in it and the
choice falls so, or a new one. -/
def Package.fetchCycle (p : Package) (k id choice : Nat) : Cluster :=
  let c := p.cluster k
  if choice % 2 = 1 ∧ ¬ c.fetched.contains id ∧ (c.fetched.all (fun i => (p.job i).isSome)) = true then { c with fetched := id :: c.fetched }
  else { c with fetched := [id], banks := [] }

/-- An operation whose rows have all been delivered and whose lines have all been read goes on to what it has left to write. -/
def CassiaOp.endReading (o : CassiaOp) : CassiaOp :=
  if o.toRead.isEmpty && !waiting o.need then { o with stage := .writing } else o

/-- One fetch cycle of an operation. Its operands' rows are delivered, A's first or B's first, and their lines stand to be read; the
dispatching core's counter gains the conflicts (R246 to R248). -/
def Package.opFetch (p : Package) (id : Nat) (o : CassiaOp) (joins turn : Nat) : Package :=
  let k := clusterOf o.owner.core
  let flip (l : List Need) : List Need := if turn % 2 = 1 then l.reverse else l
  let (f, ns) := Fetched.group ⟨p.fetchCycle k id joins, [], 0⟩ (flip o.need)
  let ns := flip ns
  let new := f.rows.filter (fun r => !o.got.contains r)
  let o := { o with toRead := (new.flatMap rowLines).foldl sadd o.toRead, got := new.foldl sadd o.got }
  let gain := f.gain + (if waiting ns then 1 else 0)
  let next := o.fn.needs (o.group + 1)
  let o := if waiting ns then { o with need := ns }
    else if waiting next then { o with group := o.group + 1, need := next }
    else { o with need := [] }
  ((p.onCluster k (fun _ => f.cluster)).setJob id (.cassia o.endReading)).onCore o.owner.core (fun c =>
    { c with conflicts := word (Nat.min (2 ^ 64 - 1) (c.conflicts.toNat + gain)) })

/-- One source line read from M, as M holds it at this step (R210, R218). -/
def Package.opLine (p : Package) (id : Nat) (o : CassiaOp) (y : Nat) : Package :=
  p.setJob id (.cassia ({ o with cap := o.cap.capture p.mem y, toRead := sdel o.toRead y } : CassiaOp).endReading)

/-- A read step: a line of the rows delivered is read, or the next fetch cycle takes place; which of the two, and which line, is
free. -/
def Package.opRead (p : Package) (id : Nat) (o : CassiaOp) (joins turn choice : Nat) : Option Package :=
  if o.stage = .reading then
    (match o.toRead with
    | [] => some (p.opFetch id o joins turn)
    | y :: rest =>
      if waiting o.need ∧ choice % 2 = 1 then some (p.opFetch id o joins turn)
      else some (p.opLine id o (pickFrom (y :: rest) (choice / 2) y)))
  else none

/-- ENGINE_LINE_WRITE (R218): one line, or one row of a tile; the last one completes the operation. While source lines are still to be
read, a write step is one whose own sources have been read, and is not the last. -/
def execEngineLineWrite (chip : Nat) (id : Nat) (s : State) : Host.Outcome State Fault Refusal :=
  jobStep chip id s (fun p j => match j with
    | .cassia o =>
      (match o.stage, o.toWrite with
      | .writing, x :: rest =>
        let y := pickFrom (x :: rest) (s.free 7) x
        let (p, o) := p.opWrite o y
        let o := { o with toWrite := sdel o.toWrite y }
        some (if o.toWrite.isEmpty then p.completeOp id o else p.setJob id (.cassia o))
      | .reading, _ :: _ :: _ =>
        (match o.toWrite.filter o.ready with
        | [] => none
        | x :: rest =>
          let y := pickFrom (x :: rest) (s.free 7) x
          let (p, o) := p.opWrite o y
          some (p.setJob id (.cassia { o with toWrite := sdel o.toWrite y })))
      | _, _ => none)
    | _ => none)

end Sys2Proof.Machine
end

