-- ==== Sys2Proof/Machine/Clove.lean ====
section
/-! DEFINITION. Clove: the issue of copies (R285 to R288), their pieces and line steps (R254 to R256), their completion (R257), and
the line reads of every engine (R218). -/

namespace Sys2Proof.Machine

/-! ## Operands of copies (R244, R245, R286) -/

/-- The bytes of a bank or unit that a span reaches, as far as they lie in it: a page outside is not translated (log 25). -/
def Layout.byteSpan (r : Layout) (fmt off : Nat) : Nat × Nat :=
  let b := elemBits fmt
  let eb : Int := (off * 8 / b : Nat)
  let lo := (eb + r.lowest).toNat * b / 8
  let hi := ((eb + r.highest + 1).toNat * b + 7) / 8
  (Nat.min lo 65535, Nat.max 1 (Nat.min hi 65536))

/-- The 4 KiB pages that a span of bytes overlaps, with the first byte of the span in each. -/
def pagesOf (lo hi : Nat) : List (Nat × Nat) :=
  (span (lo / 4096) 1 ((hi - 1) / 4096 + 1 - lo / 4096)).map (fun p => (p, Nat.max lo (4096 * p)))

/-- The pages of an operand: those of its elements, then those of its scale bytes, each with the offset that is translated. The
scale bytes of a memory operand may lie past its unit (R244); in a bank they lie within the bank (R40, log 47). -/
def Layout.pageList (r : Layout) (scratch : Bool) (fmt off scaleOff : Nat) : List (Nat × Nat) :=
  let (lo, hi) := r.byteSpan fmt off
  pagesOf lo hi ++ (if isScaled fmt then
      ((span (lo * 8 / elemBits fmt / 32) 1 (((hi - 1) * 8 / elemBits fmt) / 32 + 1 - lo * 8 / elemBits fmt / 32)).map (scaleOff + ·)).foldl
        (fun l i => if l.any (fun e => decide (e.1 = i / 4096)) then l else l ++ [(i / 4096, if scratch then i % 65536 else i)]) []
    else [])

/-- A page of a copy's operand judged after its translation: a destination in an EXPORTED bank, or a place that no copy
may use; the control window is none for a source either (log 28). -/
def State.clovePlace (s : State) (base va : Word) (pa : Nat) (writes : Bool) : Check Unit :=
  match s.here.place pa with
  | .scratch c b => s.stopWhen (writes && (s.here.core c).exported.contains b) .memFault noPermission base
  | .control | .nowhere => .error (.trap s .memFault noPermission va)
  | _ => .ok ()

/-- The pages of an operand translated one after the other. -/
def State.clovePages (s : State) (base unit : Word) (need : Perm) (use : Nat) : List (Nat × Nat) → Tab Nat → Check (Tab Nat)
  | [], acc => .ok acc
  | (p, b) :: rest, acc => do
    let va := unit + word b
    let pa ← s.checkXlate va need (use + p)
    s.clovePlace base va pa need.w
    s.clovePages base unit need use rest (tset acc p (pa / 4096 * 4096))

/-- A copy's operand with every page that its span overlaps translated (R245), its base's before the others (log 25), and whether its bank
field is wrong. -/
def State.cloveOperand (s : State) (r : Layout) (need : Perm) (view : Option Nat) (use : Nat) : Check (Operand × Bool) := do
  let pa ← s.checkXlate r.va need use
  let scratch := match s.here.place pa with | .scratch _ _ => true | _ => false
  let f := if scratch then s.here.formatAt pa else tget s.hereCore.bankFmt r.bank 0
  let fmt := view.getD (bits f 3 0)
  let off := if scratch then pa % 65536 else r.va.toNat % 65536
  let pages ← s.clovePages r.va (r.va - word off) need use (r.pageList scratch fmt off (bits f 31 16)) []
  return (r.operand off fmt (bits f 31 16) pages, scratch && decide (pa / 0x10000 % 8 ≠ r.bank))

/-- The streamer that owns a place, by the number of its block (R254, R327). -/
def Package.streamerAt (p : Package) (a : Nat) : Nat :=
  match p.place a with
  | .scratch c _ => blockClusterClove (clusterOf c)
  | .tier k => blockOuter k
  | .host _ => blockOuter 2
  | _ => blockChannel (a / 4096 % 256)

/-- The streamer of an element of a source: that of its first byte, which also reads the rest of an element that reaches into
another channel's unit, and the element's scale byte wherever that lies (log 47). -/
def Package.streamerOf (p : Package) (o : Operand) (j : Nat) : Nat :=
  p.streamerAt (o.addr (o.at_ j * elemBits o.fmt / 8))

/-- The places in traversal order of a piece's elements. -/
def Package.pieceElems (p : Package) (c : Copy) (streamer : Nat) : List Nat :=
  (span 0 1 c.src.count).filter (fun j => decide (p.streamerOf c.src j = streamer))

/-! ## Issue (R286, R288) -/

def Copy.new (owner : Owner) (holder : Nat) (spec tag : Word) (bytes : Bool) (dst src : Operand) (rm ovf : Nat) (packet : Option Nat) : Copy :=
  { owner := owner, holder := holder, spec := spec, tag := tag, bytes := bytes, dst := dst, src := src, rm := rm, ovf := ovf,
    pieces := 0, untaken := 0, written := 0, firstBad := none, status := 0, wrote := [], flags := 0, report := none, packet := packet }

/-- A copy and its pieces sent to their streamers; the copy's id is the old `nextId`. -/
def Package.startCopy (p : Package) (c : Copy) : Package :=
  let ss := (span 0 1 c.src.count).foldl (fun l j => sadd l (p.streamerOf c.src j)) []
  let id := p.nextId
  let p := p.addJob (.copy { c with pieces := ss.length, untaken := ss.length })
  ss.foldl (fun p x => p.addJob (.piece
    { copy := id, streamer := x, save := none, stage := .queued, toRead := [], cap := Memory.empty, toWrite := [],
      refused := false })) p

/-- The network refuses a copy: the core has 8 whose pieces are not all taken (R444). -/
def Package.copyRefused (p : Package) (c : Nat) : Bool :=
  decide (8 ≤ (p.jobs (fun j => match j with
    | .copy k => decide (k.owner.core = c ∧ k.untaken ≠ 0) && k.packet.isNone
    | _ => false)).length)

/-- The FORMAT rule of copies (R58). -/
def State.checkConversion (s : State) (d o : Operand) : Check Unit :=
  s.stopWhen (isScaled d.fmt && decide (d.fmt ≠ o.fmt)) .format 0 (word d.fmt)

/-- COPY.b and COPY.l (R286). -/
def copyOp (bytes : Bool) (rnd : Rnd) (ld ls : Rec) (t : RegOp) (s : State) : Host.Outcome State Fault Refusal :=
  chain s { mem := true, t := rdGroup t 2 } (fun v s => Check.run (do
    let rd := s.layout ld
    let rs := s.layout ls
    let view := if bytes then some viewByte else none
    s.checkShape rd false
    s.checkShape rs (!rs.sameExtents rd)
    let d ← s.cloveOperand rd { w := true } view 200
    let o ← s.cloveOperand rs { r := true } view 220
    s.stopWhen (d.2 || rd.spanBad d.1.fmt d.1.off) .layout 0 (word rd.n)
    s.stopWhen (o.2 || rs.spanBad o.1.fmt o.1.off) .layout 0 (word rs.n)
    s.checkConversion d.1 o.1
    let (rm, pol) := s.rounding rnd
    return if s.here.copyRefused s.cur.core then .park s .net
      else .next (s.onHere (fun p => p.startCopy
        (Copy.new s.owner s.holder v.t (s.reg (t.n.toNat + 1)) bytes d.1 o.1 rm pol none)))))

def execCopyB (ld ls : Rec) (t : RegOp) (s : State) : Host.Outcome State Fault Refusal := copyOp true noRnd ld ls t s
def execCopyL (r : Rnd) (ld ls : Rec) (t : RegOp) (s : State) : Host.Outcome State Fault Refusal := copyOp false r ld ls t s

/-- The mode of a carried MMA (R288). -/
def mmaModeOf (n : Nat) : MmaMode :=
  match n with
  | 0 => .ovr
  | 1 => .acc
  | 2 => .decay
  | _ => .sat

/-- The control word of a carried MMA. -/
def carriedControl (w : Word) : Word := word (bits w 63 32 * 2 ^ 32 + bits w 13 12)

/-- COPYM (R258, R288); a full dispatch queue is reported before a refused injection (log 49). -/
def execCopym (r : Rnd) (ld ls : Rec) (t : RegOp) (s : State) : Host.Outcome State Fault Refusal :=
  chain s { mem := true, t := rdGroup t 3 } (fun v s => Check.run (do
    let m := s.reg (t.n.toNat + 2)
    let tile := bits m 3 2
    let mode := mmaModeOf (bits m 1 0)
    let rd := s.layout ld
    let rs := s.layout ls
    let ra := s.hereCore.layout (bits m 7 4)
    let rb := s.hereCore.layout (bits m 11 8)
    s.checkTile tile
    s.checkShape rd false
    s.checkShape rs (!rs.sameExtents rd)
    s.checkShape ra (mmaShapeA ra)
    s.checkShape rb (mmaShapeB ra rb)
    let d ← s.cloveOperand rd { w := true } none 200
    let o ← s.cloveOperand rs { r := true } none 220
    let pa ← s.checkBase ra.va { r := true } 240
    let pb ← s.checkBase rb.va { r := true } 241
    s.stopWhen (d.2 || rd.spanBad d.1.fmt d.1.off) .layout 0 (word rd.n)
    s.stopWhen (o.2 || rs.spanBad o.1.fmt o.1.off) .layout 0 (word rs.n)
    let a ← s.checkSpan ra pa none
    let b ← s.checkSpan rb pb none
    s.checkConversion d.1 o.1
    s.checkClasses mode a b
    let (rm, pol) := s.rounding r
    return if 8 ≤ s.hereCore.dispatch.length then .park s .engine
      else if s.here.copyRefused s.cur.core then .park s .net
      else
        let id := s.here.nextId
        let s := s.onHere (fun p => p.startCopy
          (Copy.new s.owner s.holder v.t (s.reg (t.n.toNat + 1)) false d.1 o.1 rm pol none))
        .next (s.enqueue (CassiaOp.new s.owner (.mma mode tile a b (carriedControl m)) (some id)))))

/-! ## Completion (R257) -/

/-- A copy whose pieces have all ended: its flags, its packet, and its message, which the streamer of its last piece sends. A report goes with the message, unless the copy's
thread has retired (R52, R118); a copy that asks for no message reports nothing (log 47). -/
def Package.finishCopy (p : Package) (id streamer : Nat) (c : Copy) : Package :=
  let p := (p.dropJob id).raise c.owner c.flags
  let p := match c.packet with
    | some k => p.settle k (decide (c.status = 0))
    | none => p
  if c.spec.getLsbD 63 then p
  else
    let hdr := header 1 (bits c.spec 5 0) c.holder (handleOf c.owner.gen c.owner.core c.owner.slot) c.status
    let bad := match c.firstBad with | some x => x.2 | none => 0
    p.send { Msg.plain streamer (bits c.spec 25 16) hdr [c.tag, word c.written, word bad] with
      report := if p.ownerLive c.owner then c.report.map (·.2) else none, acquire := c.wrote }

/-- One piece of a copy has ended. Of two pieces that end otherwise than OK, the first gives the copy's status (log 47). -/
def Package.endPiece (p : Package) (id : Nat) (x : Piece) (status : Nat) : Package :=
  let p := p.dropJob id
  match p.job x.copy with
  | some (.copy c) =>
    let c := { c with
      pieces := c.pieces - 1, untaken := if x.stage = .queued then c.untaken - 1 else c.untaken,
      status := if c.status = 0 then status else c.status }
    if c.pieces = 0 then p.finishCopy x.copy x.streamer c else p.setJob x.copy (.copy c)
  | _ => p

/-! ## Pieces (R255) -/

/-- The lines that a piece reads, and those that it writes. -/
def Copy.linesOf (o : Operand) (js : List Nat) (scales : Bool) : List Nat :=
  js.foldl (fun l j =>
    let n := o.at_ j
    (o.bytesOf n ++ (if scales then [o.scaleByte n] else [])).foldl (fun l i => sadd l (lineOf (o.addr i))) l) []

/-- The lines that a piece touches: those of its sources, and those of its destinations. -/
def Package.pieceLines (p : Package) (c : Copy) (streamer : Nat) : List Nat × List Nat :=
  let js := p.pieceElems c streamer
  (Copy.linesOf c.src js (isScaled c.src.fmt), Copy.linesOf c.dst js (isScaled c.dst.fmt))

/-- Scale bytes move with the elements (R58). -/
def Copy.moves (c : Copy) : Bool := decide (c.dst.fmt = c.src.fmt)

/-- A line that a map gate refuses to a holder, or that lies in a host window whose link is down (R257, R376). -/
def Package.lineStatus (p : Package) (holder line : Nat) : Nat :=
  if !p.holds holder line 1 then 0x09
  else match p.place line with
    | .host _ => if p.linkUp then 0 else 0x02
    | _ => 0

def Package.linesStatus (p : Package) (holder : Nat) (lines : List Nat) : Nat :=
  (lines.map (p.lineStatus holder)).foldl (fun a b => if a = 0 then b else a) 0

/-- The streamer's cluster takes arrivals (R378). -/
def Package.streamerAwake (p : Package) (streamer : Nat) : Bool :=
  decide (streamer < 2000 ∨ 3000 ≤ streamer) || decide ((p.cluster (streamer - 2000)).power = .active)

/-- The block that counts a piece's bytes: its streamer, or the host's for a copy that the host has asked for (R327). -/
def Piece.block (x : Piece) (c : Copy) : Nat := if c.packet.isSome then blockOuter 2 else x.streamer

/-- The holders whose pieces wait at a block for their turn to be taken or to move a line. -/
def Package.pieceWaiters (p : Package) (block : Nat) : List Nat :=
  p.flights.filterMap (fun e => match e.2 with
    | .piece x => match x.save, p.job x.copy with
      | none, some (.copy c) =>
        if x.block c = block ∧ p.streamerAwake x.streamer = true ∧ (x.stage = .queued ∨ x.toRead ≠ []) then some c.holder else none
      | _, _ => none
    | _ => none)

/-- CLOVE_PIECE_ARRIVAL (R255, R257, R327): the streamer takes a piece as its Clove byte budget admits. The map gate judges the
piece here, once: a refused piece ends with nothing read or written. -/
def execClovePieceArrival (chip : Nat) (id : Nat) (s : State) : Host.Outcome State Fault Refusal :=
  jobStep chip id s (fun p j => match j with
    | .piece x =>
      (match x.stage, p.job x.copy with
      | .queued, some (.copy c) =>
        let block := x.block c
        when (p.streamerAwake x.streamer && p.serves block c.holder (p.pieceWaiters block))
          (let (reads, writes) := p.pieceLines c x.streamer
           let st := if x.refused then 0x09 else p.linesStatus c.holder (reads ++ writes)
           let p := p.charge block c.holder 0
           if st ≠ 0 then p.endPiece id x st
           else (p.setJob id (.piece { x with stage := .reading, toRead := reads, toWrite := writes })).setJob x.copy
            (.copy { c with untaken := c.untaken - 1 }))
      | _, _ => none)
    | _ => none)

/-- An element moved without conversion, with its uncorrectable mark, and its scale byte in a scaled format (R256, R257). Each element
rewrites its block's scale byte, so that the last one of a piece stands (R58, log 49). -/
def Image.move (g : Image) (d o : Operand) (cap : Memory) (nd no : Nat) : Image :=
  let one (g : Image) (d : Operand) (n v : Nat) (from_ : List Nat) : Image :=
    let g := g.put d n v
    if from_.any (fun i => cap.isBad (wordOf (o.addr i))) then g.taint d n else g
  let g := one g d nd (o.raw cap no) (o.bytesOf no)
  if isScaled d.fmt then one g { d with fmt := viewByte } (d.scaleByte nd) (o.scale cap no) [o.scaleByte no] else g

/-- What some elements of a piece write (R256, R287). The report of an overflow holds the element's own bits, without its block's
scale (R52, log 47). -/
def copyImage (c : Copy) (cap : Memory) (js : List Nat) (seed : Nat) : Image :=
  js.foldl (fun g j =>
    let nd := c.dst.at_ j
    let no := c.src.at_ j
    if c.moves then g.move c.dst c.src cap nd no
    else if (c.src.badWord cap no).isSome then g.poison c.dst nd j seed
    else g.conv c.dst nd j c.ovf (encodeElem c.dst.fmt c.rm c.ovf true (c.src.value cap no)) (word (c.src.raw cap no)) 0)
    (Image.of Memory.empty)

/-- The first uncorrectable source word that a piece meets. -/
def firstBadOf (c : Copy) (cap : Memory) (js : List Nat) : Option (Nat × Nat) :=
  firstSome js (fun j => (c.src.badWord cap (c.src.at_ j)).map (fun w => (j, w)))

/-- The earlier of two uncorrectable source words. -/
def earlierBad (a b : Option (Nat × Nat)) : Option (Nat × Nat) :=
  match a, b with
  | some x, some y => if x.1 ≤ y.1 then some x else some y
  | some x, none => some x
  | none, y => y

/-- The elements of a piece that touch a line of the destination. -/
def Package.elemsInto (p : Package) (c : Copy) (streamer line : Nat) : List Nat :=
  (p.pieceElems c streamer).filter (fun j => (Copy.linesOf c.dst [j] (isScaled c.dst.fmt)).contains line)

/-- A line of the destination can be written: every source line of its elements has been read (R287). -/
def Package.lineReady (p : Package) (x : Piece) (c : Copy) (y : Nat) : Bool :=
  (Copy.linesOf c.src (p.elemsInto c x.streamer y) (isScaled c.src.fmt)).all (fun l => !x.toRead.contains l)

/-- One line of a piece written. Each byte that a line step writes counts among the bytes written, a scale byte or one that another piece or
element has written as well (log 49). -/
def Package.pieceLine (p : Package) (id : Nat) (x : Piece) (c : Copy) (y seed : Nat) : Package :=
  let js := p.elemsInto c x.streamer y
  let g := copyImage c x.cap js seed
  let l := g.line p.mem y
  let c := { c with
    written := c.written + l.bytes.length, flags := c.flags ||| g.flags, report := earlier c.report g.overflow,
    wrote := l.bytes.foldl (fun w b => sadd w (wordOf (l.line + b.1))) c.wrote,
    firstBad := earlierBad c.firstBad (firstBadOf c x.cap js) }
  let p := (p.writeLine [] l).setJob x.copy (.copy c)
  let x := { x with toWrite := sdel x.toWrite y }
  if x.toWrite.isEmpty then p.endPiece id x 0 else p.setJob id (.piece x)

/-! ## The save copy (R259, R260) -/

/-- The line of a bank or of a visible tile bank that stands at an offset of its part of the save area. -/
def Package.saveLine (p : Package) (x : Piece) (core part target y : Nat) : LineWrite :=
  let off := y - target
  let t := (p.core core).tile
  if part = 8 then
    ⟨y, (span 0 1 64).map (fun i => (i, BitVec.ofNat 8 ((tget t.visible ((off + i) / 4) 0).toNat / 256 ^ (i % 4)))),
      if t.vpoison || t.vbad.any (fun e => decide (off / 4 ≤ e ∧ e < off / 4 + 16)) then spanWords y 64 else []⟩
  else
    let from_ := core * 0x80000 + part * 0x10000 + off
    ⟨y, (span 0 1 64).map (fun i => (i, x.cap.byte (from_ + i))),
      (spanWords y 64).filter (fun w => x.cap.isBad (from_ + (w - y)))⟩

/-- One line of the save copy written, with its full/empty bits (R259); a line that the core's holder no longer holds is not. The words of a tile's
bank, which have no such bit, are saved full (log 22). -/
def Package.saveWrite (p : Package) (id : Nat) (x : Piece) (core part target y : Nat) : Package :=
  let left := sdel x.toWrite y
  let p := if left.isEmpty then p.dropJob id else p.setJob id (.piece { x with toWrite := left })
  if p.holds (p.coreHolder core) y 64 then
    let p := p.writeLine [] (p.saveLine x core part target y)
    let full (w : Nat) : Bool := if part = 8 then true else x.cap.full (core * 0x80000 + part * 0x10000 + (w - target))
    let p : Package := { p with mem := (spanWords y 64).foldl (fun m w => m.setFull w (full w)) p.mem }
    match p.job x.copy with
    | some (.preempt q) => p.setJob x.copy (.preempt { q with saved := tset q.saved core (tget q.saved core 0 + 64) })
    | _ => p
  else p

/-- CLOVE_PIECE_WRITE (R255, R287): one destination line, as soon as its sources have been read. -/
def execClovePieceWrite (chip : Nat) (id : Nat) (s : State) : Host.Outcome State Fault Refusal :=
  jobStep chip id s (fun p j => match j with
    | .piece x =>
      (match x.toWrite with
      | z :: rest =>
        let y := pickFrom (z :: rest) (s.free 7) z
        if ¬ p.awakeAt y then none
        else match x.save, p.job x.copy with
          | some (core, part, target), _ => when (decide (x.stage = .writing)) (p.saveWrite id x core part target y)
          | none, some (.copy c) => when (decide (x.stage = .reading) && p.lineReady x c y) (p.pieceLine id x c y s.tick)
          | none, _ => none
      | [] => none)
    | _ => none)

/-! ## Line reads (R218) -/

/-- The bytes of a line that a piece's sources take. -/
def Package.bytesFrom (p : Package) (x : Piece) (c : Copy) (line : Nat) : Nat :=
  let taken := (p.pieceElems c x.streamer).flatMap (fun j => (c.src.sourceBytes (c.src.at_ j)).map c.src.addr)
  ((span line 1 64).filter taken.contains).length

/-- One source line of a piece read, as the holder's Clove byte budget admits (R327, R328). A save copy is outside every budget
(R260), and writes once its bank has been read. -/
def Package.pieceRead (p : Package) (id : Nat) (x : Piece) (pick : Nat) : Option Package :=
  match x.stage, x.toRead with
  | .reading, z :: rest =>
    let y := pickFrom (z :: rest) pick z
    let left := sdel x.toRead y
    let x := { x with cap := x.cap.capture p.mem y, toRead := left }
    match x.save, p.job x.copy with
    | some (_, _, target), _ =>
      some (p.setJob id (.piece (if left.isEmpty then { x with stage := .writing, toWrite := span target 64 1024 } else x)))
    | none, some (.copy c) => when (p.serves (x.block c) c.holder (p.pieceWaiters (x.block c)))
      ((p.charge (x.block c) c.holder (p.bytesFrom x c y)).setJob id (.piece x))
    | none, _ => none
  | _, _ => none

/-- ENGINE_LINE_READ (R218): a Cassia operation or a piece reads one source line from M. -/
def execEngineLineRead (chip : Nat) (id : Nat) (s : State) : Host.Outcome State Fault Refusal :=
  jobStep chip id s (fun p j => match j with
    | .cassia o => p.opRead id o (s.free 7) (s.free 8) (s.free 9)
    | .piece x => p.pieceRead id x (s.free 7)
    | _ => none)

end Sys2Proof.Machine
end

