-- ==== Sys2Proof/Machine/Preempt.lean ====
section
/-! DEFINITION. SAVEAREA and PACK (R291, R292), and the pre-emption of cores by their cluster's controller (R260 to R262). -/

namespace Sys2Proof.Machine

/-! ## SAVEAREA and PACK -/

/-- The writable bits of the save-area register (R259). -/
def areaMask : Word := 0xFFFFF00FFFFFFFFF

def execSaveareaWrite (d : Reg) (s : State) : Host.Outcome State Fault Refusal :=
  chain s { mem := true, d := rdReg d } (fun v s =>
    let w := v.d &&& areaMask
    let base := areaBase w
    let n := 65536 * (areaParts w).length
    if areaSet w ∧ n ≠ 0 ∧ ¬ (0x10000000000 ≤ base ∧ base + n ≤ 0x18000000000) then .trap s .memFault noPermission (word base)
    else if areaSet w ∧ n ≠ 0 ∧ s.here.holds s.holder base n = false then .trap s .memFault notHeld (word base)
    else .next (s.onHereCore (fun k => { k with saveArea := w })))

def execSaveareaRead (d : Reg) (s : State) : Host.Outcome State Fault Refusal :=
  chainNext s { mem := true, d := wrReg d } (fun _ s => s.setReg d.toNat s.hereCore.saveArea)

/-- Every Cassia operation that a core has dispatched has completed. -/
def Package.cassiaIdle (p : Package) (c : Nat) : Bool :=
  (p.core c).dispatch.isEmpty && (p.started (clusterOf c)).all (fun x => decide (x.2.owner.core ≠ c))

/-- PACK (R292). -/
def execPack (s : State) : Host.Outcome State Fault Refusal :=
  chain s {} (fun _ s =>
    match s.here.preempting s.cur.core with
    | some id =>
      if !s.me.preempt then .next s
      else if !s.here.cassiaIdle s.cur.core then .replay s
      else .retire (s.onHere (fun p => p.countPacked id s.cur.core))
    | none => .next s)

/-! ## The end of a pre-emption (R261, R262) -/

/-- The core that a core's PREEMPT-DONE or LOST message goes to. -/
def Package.contactOf (p : Package) (q : Preempt) (c : Nat) : Option Nat :=
  let w := (p.core c).saveArea
  if areaSet w ∧ ¬ q.cores.contains (areaContact w) then some (areaContact w) else p.noticeCore q.former (q.cores ++ p.leaving q.former)

/-- The message of one affected core: MAP, handler 0. -/
def Package.lastWord (p : Package) (q : Preempt) (c status base saved : Nat) : Package :=
  match p.contactOf q c with
  | none => p
  | some dst => p.send (Msg.plain c dst (header 3 0 0 0 status) [word c, word base, word saved])

/-- Every live thread of a core retired. -/
def Package.retireAll (p : Package) (chip c : Nat) : Package :=
  (p.core c).threads.foldl (fun p e => if (p.thread c e.1).live then p.retire chip c e.1 else p) p

/-- A transfer whose core is empty commits that core alone (R365, step 2). -/
def Package.coreEmptied (p : Package) (tid : Nat) : Package :=
  match p.job tid with
  | some (.transfer t) =>
    (p.setJob tid (.transfer { t with emptied := true })).addJob
      (.commit { scope := [ridIndex t.rid], started := false, todo := [], reg := none, transfer := some tid })
  | _ => p

/-- The pre-emption ends: its cores are no longer packed, and its transfers go on. -/
def Package.closePreempt (p : Package) (id : Nat) (q : Preempt) : Package :=
  let p := q.cores.foldl (fun p c => p.onCore c (fun k => { k with packed := false })) (p.dropJob id)
  q.transfers.foldl Package.coreEmptied p

/-- The cores are taken hard (R261). -/
def Package.takeHard (p : Package) (chip id : Nat) (q : Preempt) : Package :=
  let mine (j : Job) : Bool := match j with
    | .msg m => decide (m.preempt = some id)
    | _ => false
  let stale : List Nat := (p.jobs mine).map (·.1)
  let p := p.dropJobs mine
  let p := q.cores.foldl (fun p c =>
    (p.retireAll chip c).onCore c (fun k => { k with
      dispatch := [], latch := match k.latch with
        | some l => if stale.contains l then none else some l
        | none => none })) p
  let p := q.cores.foldl (fun p c => p.lastWord q c 0x03 0 0) p
  p.closePreempt id q

/-- PREEMPT_BUDGET_EXPIRY (R261): the count reaches the budget before every affected core has packed. -/
def execPreemptBudgetExpiry (chip cluster : Nat) (s : State) : Host.Outcome State Fault Refusal :=
  pkgStep chip s (fun p => firstSome p.flights (fun e => match e.2 with
    | .preempt q => if q.cluster = cluster ∧ q.started ∧ ¬ q.saving then some (p.takeHard chip e.1 q) else none
    | _ => none))

/-- PREEMPT_DONE (R260, step 7): after the save copy, the messages leave and the cores pass on. -/
def execPreemptDone (chip cluster : Nat) (s : State) : Host.Outcome State Fault Refusal :=
  pkgStep chip s (fun p => firstSome p.flights (fun e => match e.2 with
    | .preempt q =>
      if q.cluster = cluster ∧ q.saving ∧ (p.jobs (fun j => match j with
          | .piece x => x.save.isSome && decide (x.copy = e.1)
          | _ => false)).isEmpty then
        some (let p := q.cores.foldl (fun p c =>
                let w := (p.core c).saveArea
                p.lastWord q c 0x08 (if areaSet w then bits w 35 0 else 0) (tget q.saved c 0)) p
              (q.cores.foldl (fun p c => p.retireAll chip c) p).closePreempt e.1 q)
      else none
    | _ => none))

/-! ## The request (R260, steps 1 to 3) -/

/-- A thread that a pre-emption must still stop. -/
def Core.unstopped (k : Core) (slot : Nat) : Bool :=
  let t := k.thread slot
  decide (slot ≠ 63) && (decide (t.life = .ready) || decide (t.life = .parked))

/-- The threads of a core stopped as TSTOP stops them, as far as they can be now. -/
def Package.stopThreads (p : Package) (chip c : Nat) : Package :=
  (p.core c).threads.foldl (fun p e =>
    if (p.core c).unstopped e.1 ∧ p.settling (p.thread c e.1) ≠ Settling.later then p.stop chip c e.1 else p) p

/-- The PREEMPT message of a core, or its count as packed when it has no handler 0. -/
def Package.askCore (p : Package) (id : Nat) (q : Preempt) (c : Nat) : Package :=
  if (tget (p.core c).handlers 0 0).getLsbD 63 then
    let mask := q.cores.foldl (fun m x => m + 2 ^ positionOf x) 0
    p.send { Msg.plain c c (header 3 0 0 0 0x07) [word q.why, word q.budget, word mask] with preempt := some id }
  else p.onCore c (fun k => { k with packed := true })

/-- One round of stopping: the cores whose threads all stand still are asked to pack. -/
def Package.stopRound (p : Package) (chip id : Nat) (q : Preempt) : Package :=
  let p := q.starting.foldl (fun p c => p.stopThreads chip c) p
  let still (c : Nat) : Bool := (p.core c).threads.all (fun e => !(p.core c).unstopped e.1)
  let q' := { q with starting := q.starting.filter (fun c => !still c) }
  let p := p.setJob id (.preempt q')
  ((q.starting.filter still).foldl (fun p c => p.askCore id q c) p).startSave id

/-- PREEMPT_REQUEST (R260): the request reaches its cluster controller, once an earlier one for the cluster has ended; the
step is taken again while threads are still to be settled (R196). -/
def execPreemptRequest (chip : Nat) (id : Nat) (s : State) : Host.Outcome State Fault Refusal :=
  jobStep chip id s (fun p j => match j with
    | .preempt q =>
      if q.started then when (!q.starting.isEmpty) (p.stopRound chip id q)
      else if decide ((p.cluster q.cluster).power = .active) && (p.jobs (fun k => match k with
          | .preempt r => r.started && decide (r.cluster = q.cluster)
          | _ => false)).isEmpty then
        let q := { q with started := true, starting := q.cores }
        some (if q.budget = 0 then p.takeHard chip id q else (p.setJob id (.preempt q)).stopRound chip id q)
      else none
    | _ => none)

end Sys2Proof.Machine
end

