-- ==== Sys2Proof/Machine/Barrier.lean ====
section
/-! DEFINITION. Barriers (R301 to R305, R331, R332), phases (R313, R314, R340) and the commits of R217. -/

namespace Sys2Proof.Machine

/-! ## Barrier registers (R301) -/

def Bar.fresh : Bar := ⟨0, false, 0, 0, false, [], false, [], [], [], [], [], []⟩

def Package.bar (p : Package) (c n : Nat) : Bar := tget (p.core c).bars n Bar.fresh
def Package.setBar (p : Package) (c n : Nat) (b : Bar) : Package := p.onCore c (fun k => { k with bars := tset k.bars n b })

/-- The corners of a rectangle. -/
def rectX0 (r : Nat) : Nat := r % 16
def rectY0 (r : Nat) : Nat := r / 16 % 16
def rectX1 (r : Nat) : Nat := r / 256 % 16
def rectY1 (r : Nat) : Nat := r / 4096 % 16

def dieCore (die x y : Nat) : Nat := die * 256 + y * 16 + x

/-- The cores of a rectangle of a die, in ascending order. -/
def rectCores (die r : Nat) : List Nat :=
  (span (rectY0 r) 1 (rectY1 r + 1 - rectY0 r)).flatMap (fun y =>
    (span (rectX0 r) 1 (rectX1 r + 1 - rectX0 r)).map (fun x => dieCore die x y))

/-- The register as BARSET reads it. -/
def Bar.word (b : Bar) : Word :=
  Machine.word (((b.arrived * 2 + (if b.epoch then 1 else 0)) * 128 + b.count) * 2 ^ 33 + b.rect)

/-- The PHASE.b arrivals that a register set anew leaves standing: those of episodes in which the core has arrived. -/
def Bar.phasesKept (b : Bar) : List Nat := if b.closed then b.phases else b.phases.filter (· ≠ b.rect)

/-- BARSET with the read bit clear (R331): every core of the rectangle is checked before the value is. Of several that are
not held, the lowest-numbered is named (log 49). The register forgets that its core has arrived, also where it takes the same rectangle (log 16). -/
def State.setBarrier (s : State) (n : Nat) (v : Word) : Res :=
  let r := bits v 15 0
  let count := bits v 39 33
  let c := s.cur.core
  let bad := decide (rectX1 r < rectX0 r ∨ rectY1 r < rectY0 r ∨ 64 < count) || !(rectCores (coreDie c) r).contains c
  match (rectCores (coreDie c) r).find? (fun k => decide (s.here.coreHolder k ≠ s.holder)) with
  | some k => .trap s .notHolder 0 (word k)
  | none =>
    let b := s.here.bar c n
    .next (s.onHere (fun p => p.setBar c n { b with
      arrived := 0, closed := false, phases := b.phasesKept, phaseNext := false,
      count := if bad then 0 else count, rect := if bad then 0 else r }))

def execBarsetRead (d : Reg) (n : BitVec 2) (s : State) : Host.Outcome State Fault Refusal :=
  chainNext s { d := wrReg d } (fun _ s => s.setReg d.toNat (s.here.bar s.cur.core n.toNat).word)
def execBarsetWrite (d : Reg) (n : BitVec 2) (s : State) : Host.Outcome State Fault Refusal :=
  chain s { d := rdReg d } (fun v s => s.setBarrier n.toNat v.d)

/-! ## Arrivals (R302, R313, R332) -/

/-- The core has arrived in the open episode of a rectangle: its episode is closed, or its signal is sent, and the release of that
episode is not on its way to it. -/
def Bar.hasArrived (b : Bar) (r : Nat) : Bool :=
  !b.due.contains r && ((b.closed && decide (b.rect = r ∧ b.count ≠ 0)) || b.rowSent.contains r || b.colSent.contains r)

/-- An arrival may not be counted before the release (R332). -/
def Bar.blocked (b : Bar) : Bool := b.closed && decide (b.arrived + 1 = b.count)

/-- One arrival counted (R302). -/
def Bar.countOne (b : Bar) (phase : Bool) : Bar :=
  if b.closed then { b with arrived := b.arrived + 1, phaseNext := b.phaseNext || phase }
  else
    let b := { b with phases := if phase then sadd b.phases b.rect else b.phases }
    if b.arrived + 1 = b.count then { b with arrived := 0, closed := true } else { b with arrived := b.arrived + 1 }

/-- The commit of a PHASE.b episode comes about when its last core has arrived (R313). -/
def Package.openCommit (p : Package) (c n : Nat) : Package :=
  let b := p.bar c n
  let cores := rectCores (coreDie c) b.rect
  let there (j : Job) : Bool := match j with
    | .commit k => decide (k.reg = some (n, b.rect) ∧ k.scope = cores)
    | _ => false
  if b.closed ∧ cores.all (fun k => (p.bar k n).hasArrived b.rect) ∧ cores.any (fun k => (p.bar k n).phases.contains b.rect) ∧ (p.jobs there).isEmpty then
    p.addJob (.commit { scope := cores, started := false, todo := [], reg := some (n, b.rect), transfer := none })
  else p

/-- An arrival that may be counted. -/
def Package.arriveAt (p : Package) (c n : Nat) (phase : Bool) : Package :=
  (p.setBar c n ((p.bar c n).countOne phase)).openCommit c n

/-- BAR, BARA and PHASE.b on a set register (R332, R340). -/
def State.arrive (s : State) (n kind d : Nat) (done : Bar → State → Res) : Res :=
  let b := s.here.bar s.cur.core n
  if b.count = 0 then .trap s .illegal 0 (chainWord0 s)
  else if b.blocked then .park (s.onMe (fun t => { t with wait := .arrive n kind d s.cur.words.length })) .barrier
  else done b (s.onHere (fun p => p.arriveAt s.cur.core n (decide (kind = 2))))

def execBar (n : BitVec 2) (s : State) : Host.Outcome State Fault Refusal :=
  chain s {} (fun _ s => s.arrive n.toNat 0 0 (fun b s => .parkNext s .barrier (.epoch n.toNat b.epoch)))

def execBara (d : Reg) (n : BitVec 2) (s : State) : Host.Outcome State Fault Refusal :=
  chain s { d := wrReg d } (fun _ s =>
    s.arrive n.toNat 1 d.toNat (fun b s => .next (s.setReg d.toNat (word (if b.epoch then 1 else 0)))))

def execBarw (d : Reg) (n : BitVec 2) (s : State) : Host.Outcome State Fault Refusal :=
  chain s { d := rdReg d } (fun v s =>
    if (s.here.bar s.cur.core n.toNat).epoch = v.d.getLsbD 0 then .park s .barrier else .next s)

def execPhaseB (n : BitVec 2) (s : State) : Host.Outcome State Fault Refusal :=
  chain s {} (fun _ s => s.arrive n.toNat 2 0 (fun b s => .parkNext s .phase (.phase n.toNat b.rect b.closed)))

/-- PHASE.c (R313): the issuing core alone. -/
def execPhaseC (s : State) : Host.Outcome State Fault Refusal :=
  chain s {} (fun _ s =>
    let id := s.here.nextId
    .parkNext (s.onHere (fun p => p.addJob
      (.commit { scope := [s.cur.core], started := false, todo := [], reg := none, transfer := none }))) .phase (.commit id))

/-- PHASE.h (R313): the open episode of the holder that the core has not yet arrived in, or a new one. A core of the scope that held no live
thread has not arrived once it has one: that thread's PHASE.h counts in the open episode (log 49). -/
def execPhaseH (s : State) : Host.Outcome State Fault Refusal :=
  chain s {} (fun _ s =>
    let h := s.holder
    let c := s.cur.core
    match firstSome s.here.flights (fun e => match e.2 with
      | .phaseH q => if q.holder = h ∧ q.scope.contains c ∧ ¬ q.arrived.contains c then some (e.1, q) else none
      | _ => none) with
    | some (id, q) =>
      .parkNext (s.onHere (fun p => p.setJob id (.phaseH { q with arrived := sadd q.arrived c }))) .phase (.commit id)
    | none =>
      let id := s.here.nextId
      let scope := (span 0 1 1024).filter (fun k => decide (s.here.coreHolder k = h))
      .parkNext (s.onHere (fun p => p.addJob (.phaseH ⟨h, scope, [c]⟩))) .phase (.commit id))

/-- The cores of a PHASE.h scope have arrived: each by a PHASE.h, or because it holds no live thread (R313). A core without one
stops counting when a thread is created on it before the last has arrived (log 49). -/
def Package.phaseDone (p : Package) (q : PhaseH) : Bool :=
  q.scope.all (fun c => q.arrived.contains c || (p.core c).threads.all (fun e => !e.2.live))

/-- An episode whose last core has arrived is closed, and its commit is to come (R313). -/
def Package.closePhase (p : Package) : Job → Job
  | .phaseH q => if p.phaseDone q then .commit { scope := q.scope, started := false, todo := [], reg := none, transfer := none } else .phaseH q
  | j => j

/-- The PHASE.h episodes of a package that are complete when a step ends. -/
def Package.closePhases (p : Package) : Package :=
  if p.flights.any (fun e => decide (p.closePhase e.2 ≠ e.2)) then { p with flights := p.flights.map (fun e => (e.1, p.closePhase e.2)) } else p

/-- Every package's, when a step ends. -/
def State.phased (s : State) : State :=
  { s with chips := s.chips.map (fun e => (e.1, e.2.closePhases)) }

/-! ## The sweep and the release (R303, R304) -/

/-- The step of BARRIER_SIGNAL_HOP: the row signal of a core, or the column signal of a row's first core. -/
def Package.hop (p : Package) (c n : Nat) : Option Package :=
  let b := p.bar c n
  let r := b.rect
  let x := coreX c
  let y := coreY c
  let row := b.closed && decide (b.count ≠ 0) && (decide (x = rectX1 r) || b.rowIn.contains r)
  if row ∧ rectX0 r < x ∧ r ∉ b.rowSent then
    let p := p.setBar c n { b with rowSent := sadd b.rowSent r }
    some (p.setBar (c - 1) n { p.bar (c - 1) n with rowIn := sadd (p.bar (c - 1) n).rowIn r })
  else if row ∧ x = rectX0 r ∧ rectY0 r < y ∧ r ∉ b.colSent ∧ (y = rectY1 r ∨ r ∈ b.colIn) then
    let p := p.setBar c n { b with colSent := sadd b.colSent r }
    some (p.setBar (c - 16) n { p.bar (c - 16) n with colIn := sadd (p.bar (c - 16) n).colIn r })
  else none

def execBarrierSignalHop (chip core reg : Nat) (s : State) : Host.Outcome State Fault Refusal :=
  pkgStep chip s (fun p => p.hop core reg)

/-- An arrival that waited for the release is counted (R332). -/
def Package.countWaiting (p : Package) (c slot n : Nat) : Package :=
  let t := p.thread c slot
  match t.wait with
  | .arrive reg kind d len =>
    let b := p.bar c n
    if t.life ≠ .parked ∨ reg ≠ n ∨ b.blocked then p
    else
      let p := p.arriveAt c n (decide (kind = 2))
      let past := { t with pc := t.pc + BitVec.ofNat 56 len, chain := [] }
      match kind with
      | 0 => p.setThread c slot { past with wait := .epoch n b.epoch }
      | 1 =>
        let p := p.setThread c slot { past with life := .ready, reason := none, wait := .none }
        p.onCore c (fun k => k.writeReg (k.thread slot) d (word (if b.epoch then 1 else 0)))
      | _ => p.setThread c slot { past with reason := some .phase, wait := .phase n b.rect b.closed }
  | _ => p

/-- A thread as the release of a rectangle's episode on register n leaves it. -/
def Thread.onRelease (t : Thread) (n r : Nat) (epoch : Bool) : Thread :=
  match t.wait with
  | .epoch reg e => if t.life = .parked ∧ reg = n ∧ e ≠ epoch then { t with life := .ready, reason := none, wait := .none } else t
  | .phase reg rect true => if reg = n ∧ rect = r then { t with wait := .phase reg rect false } else t
  | _ => t

/-- The register as the release of a rectangle's episode leaves it (R302, R304): EPOCH toggles, and where the register still names that
rectangle its next episode begins. -/
def Bar.toggled (b : Bar) (r : Nat) : Bar :=
  let gone (x : List Nat) : List Nat := x.filter (· ≠ r)
  let b := { b with
    epoch := !b.epoch, phases := gone b.phases, rowIn := gone b.rowIn, colIn := gone b.colIn, rowSent := gone b.rowSent,
    colSent := gone b.colSent, released := gone b.released, due := gone b.due }
  if b.rect = r then { b with closed := false, phases := if b.phaseNext then sadd b.phases r else b.phases, phaseNext := false } else b

/-- EPOCH toggles on a core (R302): its waiters wake, and the next episode begins. -/
def Package.toggle (p : Package) (c n r : Nat) : Package :=
  let b := p.bar c n
  let p := p.setBar c n (b.toggled r)
  let p := p.onCore c (fun k => { k with threads := k.threads.map (fun e => (e.1, e.2.onRelease n r (!b.epoch))) })
  (p.core c).threads.foldl (fun p e => p.countWaiting c e.1 n) p

/-- The release goes on down the first column and east along each row (R303). -/
def Package.pass (p : Package) (c n r : Nat) : Package :=
  let give (p : Package) (k : Nat) : Package := p.setBar k n { p.bar k n with released := (p.bar k n).released ++ [r] }
  let p := if coreX c < rectX1 r then give p (c + 1) else p
  if coreX c = rectX0 r ∧ coreY c < rectY1 r then give p (c + 16) else p

/-- The corner core holds both signals, and no commit of the episode is still to come (R303, R313). -/
def Package.mayRelease (p : Package) (c n : Nat) : Bool :=
  let b := p.bar c n
  let r := b.rect
  b.closed && decide (b.count ≠ 0 ∧ coreX c = rectX0 r ∧ coreY c = rectY0 r) &&
  (decide (rectX0 r = rectX1 r) || b.rowIn.contains r) && (decide (rectY0 r = rectY1 r) || b.colIn.contains r) &&
  (rectCores (coreDie c) r).all (fun k => !((p.bar k n).phases.contains r && (p.bar k n).hasArrived r))

/-- The release of a rectangle's episode leaves the corner: it is due at every core. -/
def Package.announce (p : Package) (c n r : Nat) : Package :=
  (rectCores (coreDie c) r).foldl (fun p k => p.setBar k n { p.bar k n with due := sadd (p.bar k n).due r }) p

def execBarrierRelease (chip core reg : Nat) (s : State) : Host.Outcome State Fault Refusal :=
  pkgStep chip s (fun p =>
    match (p.bar core reg).released with
    | r :: _ => some ((p.toggle core reg r).pass core reg r)
    | [] =>
      let r := (p.bar core reg).rect
      when (p.mayRelease core reg) (((p.announce core reg r).toggle core reg r).pass core reg r))

/-! ## Commits (R217, R314) -/

/-- No commit in progress meets a scope. -/
def Package.scopeFree (p : Package) (scope : List Nat) : Bool :=
  (p.jobs (fun j => match j with
    | .commit k => k.started && k.scope.any scope.contains
    | _ => false)).isEmpty

def execPhaseCommitStart (chip : Nat) (id : Nat) (s : State) : Host.Outcome State Fault Refusal :=
  jobStep chip id s (fun p j => match j with
    | .commit k => when (!k.started && p.scopeFree k.scope) (p.setJob id (.commit { k with started := true, todo := k.scope }))
    | _ => none)

/-- A core's oldest entry, spilled ones first, and the core without it. An entry of the log keeps its place while others are drained; a log
without entries begins anew. -/
def Core.oldest (k : Core) : Option (OutLine × Core) :=
  match k.spilled, k.outbox with
  | l :: rest, _ => some (l, { k with spilled := rest, drained := if rest.isEmpty then 0 else k.drained + 1 })
  | [], l :: rest => some (l, { k with outbox := rest })
  | [], [] => none

/-- A commit discards an entry into memory that the core's holder no longer holds, or into a host window whose link is down
(R365, R376). -/
def Package.discards (p : Package) (c : Nat) (l : OutLine) : Bool := decide (p.linesStatus (p.coreHolder c) [l.line] ≠ 0)

/-- One entry applied to M (R217), or discarded and counted (R381); a word with an uncorrectable error is written poisoned
(R169). -/
def Package.applyEntry (p : Package) (scope : List Nat) (c : Nat) (l : OutLine) : Package :=
  if p.discards c l then p.count (coreDie c) 3
  else p.writeLine scope ⟨l.line, l.bytes,
    ((span 0 1 8).filter (fun w => l.bad.contains w && l.bytes.any (fun b => decide (b.1 / 8 = w)))).map (fun w => l.line + 8 * w)⟩

/-- COMMIT_ENTRY_APPLY (R217, R314): the oldest entry of the lowest core that has one; while its line's cluster is not awake, no
other core's entry goes before it. -/
def execCommitEntryApply (chip : Nat) (id : Nat) (s : State) : Host.Outcome State Fault Refusal :=
  jobStep chip id s (fun p j => match j with
    | .commit k =>
      if k.started then
        (firstSome k.todo (fun c => ((p.core c).oldest).map (fun e => (c, e)))).bind (fun (c, e) => when (p.awakeAt e.1.line)
          (((p.setCore c e.2).applyEntry k.scope c e.1).setJob id (.commit { k with todo := k.todo.filter (fun x => decide (c ≤ x)) })))
      else none
    | _ => none)

/-- A core at its boundary (R154, R204, R217). -/
def Core.refresh (k : Core) (m : Memory) : Core :=
  let k := { k with view := m, unstable := [], exported := k.pending }
  match k.logNext with
  | some (b, n) => { k with logBase := b, logSize := n, logNext := none }
  | none => k

/-- A thread whose PHASE is complete (R340). -/
def Thread.onCommit (t : Thread) (id : Nat) (reg : Option (Nat × Nat)) : Thread :=
  let done : Bool := match t.wait with
    | .commit i => decide (i = id)
    | .phase n r false => decide (reg = some (n, r))
    | _ => false
  if t.life = .parked ∧ done then { t with life := .ready, reason := none, wait := .none } else t

/-- A core of the scope after the refresh: its PHASE chains are complete, and its episode may be released. -/
def Core.committed (k : Core) (id : Nat) (reg : Option (Nat × Nat)) : Core :=
  { k with
    threads := k.threads.map (fun e => (e.1, e.2.onCommit id reg)),
    bars := match reg with
      | some (n, r) => k.bars.map (fun e => (e.1, if e.1 = n then { e.2 with phases := e.2.phases.filter (· ≠ r) } else e.2))
      | none => k.bars }

/-- COMMIT_REFRESH (R217): the views of the scope become M, and its PHASE chains complete. -/
def execCommitRefresh (chip : Nat) (id : Nat) (s : State) : Host.Outcome State Fault Refusal :=
  jobStep chip id s (fun p j => match j with
    | .commit k =>
      when (k.started && k.todo.all (fun c => ((p.core c).oldest).isNone))
        (let q := k.scope.foldl (fun p c => p.onCore c (fun x => (x.refresh p.mem).committed id k.reg)) (p.dropJob id)
         match k.transfer with
         | none => q
         | some t => match q.job t with
           | some (.transfer x) => q.setJob t (.transfer { x with committed := true })
           | _ => q)
    | _ => none)

end Sys2Proof.Machine
end

