-- ==== Sys2Proof/Machine/Cells.lean ====
section
/-! DEFINITION. Range forks and join cells (R306 to R308, R333, R334), completion cells and cancellation (R309 to R312, R335 to
R339). -/

namespace Sys2Proof.Machine

def failEmpty : Nat := 4
def failLevel : Nat := 6

/-! ## Join cells (R308) -/

def joinRid (id : Nat) : Nat := 0x60000000 + id

def Package.joinCell (p : Package) (id : Nat) : Word := tget (p.die (id / 1024)).joins (id % 1024) 0
def Package.setJoin (p : Package) (id : Nat) (w : Word) : Package :=
  p.onDie (id / 1024) (fun d => { d with joins := tset d.joins (id % 1024) w })

/-- A join cell's word of a count and OVR. A COUNT past 2^32 - 1 wraps (log 49). -/
def joinWord (count : Nat) (ovr : Bool) : Word := word (count % 2 ^ 32 + if ovr then 2 ^ 63 else 0)

/-! ## RFORK (R306, R307, R333) -/

/-- The Morton index of a core (R306). -/
def morton (c : Nat) : Nat :=
  (span 0 1 4).foldl (fun m i => m + coreX c / 2 ^ i % 2 * 4 ^ i + coreY c / 2 ^ i % 2 * 2 * 4 ^ i) 0

/-- The cores of a die in Morton order. -/
def mortonCores (die : Nat) : List Nat :=
  (span 0 1 256).filterMap (fun m => (span 0 1 256).find? (fun i => decide (morton i = m)) |>.map (fun i => die * 256 + i))

/-- A core has a FREE slot in 0 to 62 and room for a window. -/
def Core.hasRoom (k : Core) (len : Nat) : Bool := k.pickSlot.isSome && (k.fitWindow len).isSome

/-- The candidates of a range fork in their order (R306). -/
def Package.candidates (p : Package) (own h len : Nat) : List Nat :=
  (if (p.core own).hasRoom len then [own] else []) ++
  (mortonCores (coreDie own)).filter (fun c => decide (c ≠ own ∧ p.coreHolder c = h) &&
    (p.core c).threads.all (fun e => decide (e.1 = 63) || !e.2.live) && (p.core c).hasRoom len)

/-- The number of chunks (R333). -/
def chunks (lo hi : Int) (c : Nat) : Nat := if hi ≤ lo ∨ c = 0 then 0 else ((hi - lo).toNat + c - 1) / c

/-- A recruit's thread (R307). -/
def Package.recruit (p : Package) (core len : Nat) (entry : BitVec 56) (regs : List (Nat × Word)) (cell : Nat) : Package :=
  let k := p.core core
  match k.pickSlot, k.fitWindow len with
  | some slot, some base => p.setCore core (k.startThread slot base len entry regs 0 (some cell) (p.cellCancelled cell))
  | _, _ => p

/-- The recruits' threads, with their runs of chunks: the place of the recruit and the chunks before it are carried along. -/
def Package.recruitAll (p : Package) (creator len : Nat) (entry : BitVec 56) (lo hi : Int) (c n k join cell : Nat) :
    List Nat → Nat → Nat → Package
  | [], _, _ => p
  | core :: rest, i, b =>
    let q := n / k + if i < n % k then 1 else 0
    let first := lo + c * b
    let last := lo + c * (b + q)
    let regs := [(0, word creator), (2, BitVec.ofInt 64 first), (3, BitVec.ofInt 64 (if hi < last then hi else last)),
      (4, word join), (5, word c)]
    (p.recruit core len entry regs cell).recruitAll creator len entry lo hi c n k join cell rest (i + 1) (b + q)

/-- A completion cell that may be a parent: a live cell of the holder above a level (R309, R333, R338). -/
def Package.mayParent (p : Package) (h id level : Nat) : Bool :=
  p.cellLive id && decide ((p.cellAt id).holder = h ∧ level < (p.cellAt id).level)

def execRfork (d : Reg) (src : RegOp) (t : Tgt) (s : State) : Host.Outcome State Fault Refusal :=
  chain s { t := tgtOpr t, s := rdGroup src 4, d := wrReg d } (fun v s =>
    let g (i : Nat) : Word := s.reg (src.n.toNat + i)
    let join := bits v.t 43 32
    let named := bits v.t 63 44
    let h := s.holder
    let len := 8 * (bits v.t 3 0 + 1)
    if (s.here.entry (joinRid join)).holder ≠ h then .trap s .notHolder 0 (word (joinRid join))
    else if named ≠ 0 ∧ s.here.mayParent h named 0 = false then .trap s .notHolder 0 (word named)
    else
      let lo := v.s.toInt
      let hi := (g 1).toInt
      let c := (g 2).toNat
      let n := chunks lo hi c
      if n = 0 then .next (s.setReg d.toNat (failedWord failEmpty))
      else
        let cs := (s.here.candidates s.cur.core h len).take n
        let k := cs.length
        if k = 0 then .next (s.setReg d.toNat (failedWord failNoSlot))
        else match s.here.newCell (coreDie s.cur.core) (s.free 4) h 0 (if named = 0 then s.launchParent else named) k silent false with
          | none => .replay s
          | some (p, cell) =>
            let w := p.joinCell join
            let p := p.setJoin join (joinWord (bits w 31 0 + k) (w.getLsbD 63))
            let p := p.recruitAll s.self len ((g 3).setWidth 56) lo hi c n k join cell cs 0 0
            .next ((s.onHere (fun _ => p)).setReg d.toNat (word (cell * 2 ^ 32 + k))))

/-! ## Operations of cells at their die (R308, R335) -/

/-- A chain that is performed at a cell's die: sent once, then replayed until the reply (R100). -/
def State.cellRequest (s : State) (act : CellAct) (ref : Word) (reg : Nat) (amount : Word) : Res :=
  match s.me.pend with
  | some _ => .replay s
  | none =>
    let id := s.here.nextId
    .replay ((s.onHere (fun p => p.addJob (.cellOp ⟨s.owner, act, ref, reg, amount, s.cur.words.length⟩))).onMe
      (fun t => { t with pend := some id }))

def execJoin (src : RegOp) (s : State) : Host.Outcome State Fault Refusal :=
  chain s { s := rdOp src } (fun v s => s.cellRequest .join v.s 0 0)
def execCellRd (d : Reg) (src : RegOp) (s : State) : Host.Outcome State Fault Refusal :=
  chain s { s := rdOp src, d := wrReg d } (fun v s => s.cellRequest .rd v.s d.toNat 0)
def execCellAdd (d : Reg) (src : RegOp) (s : State) : Host.Outcome State Fault Refusal :=
  chain s { s := rdOp src, d := rdReg d } (fun v s => s.cellRequest .add v.s 0 v.d)
def execCancel (src : RegOp) (s : State) : Host.Outcome State Fault Refusal :=
  chain s { s := rdOp src } (fun v s => s.cellRequest .cancel v.s 0 0)

/-- CELL.new (R338): on the issuing core's die. A parent reference with J = 1 does not qualify, and LEVEL is reported before NOT-HOLDER
(log 49). -/
def execCellNew (d : Reg) (src : RegOp) (t : Tgt) (s : State) : Host.Outcome State Fault Refusal :=
  chain s { t := tgtOpr t, s := rdGroup src 2, d := wrReg d } (fun v s =>
    let level := bits v.t 61 60
    let id := bits v.s 19 0
    let h := s.holder
    let root := ((s.here.holderRec h).map (·.rootCell)).getD 0
    if level = 0 ∨ (level = 3 ∧ id ≠ 0) then .next (s.setReg d.toNat (failedWord failLevel))
    else if v.s.getLsbD 20 ∨ (level ≠ 3 ∧ id ≠ 0 ∧ s.here.mayParent h id level = false) then .next (s.setReg d.toNat (failedWord failNotHolder))
    else match s.here.newCell (coreDie s.cur.core) (s.free 4) h level (if level = 3 then 0 else if id = 0 then root else id)
        (bits v.t 31 0) (s.reg (src.n.toNat + 1)) false with
      | none => .replay s
      | some (p, cell) => .next ((s.onHere (fun _ => p)).setReg d.toNat (word cell)))

/-- A cell's state word (R309). -/
def Cell.stateWord (c : Cell) : Word :=
  word ((((if c.cancel then 8 else 0) + c.level) * 2 ^ 20 + c.parent) * 2 ^ 40 + c.live)

/-- CELL.rd of a completion cell (R309, R336). -/
def Package.readCell (p : Package) (h id : Nat) (notify : Bool) : Word :=
  let c := p.cellAt id
  if c.gen ≠ cellGen id then word (2 ^ 62)
  else if c.used = false ∨ c.holder ≠ h then 0
  else if notify then c.notify
  else c.stateWord

/-- A count changed by a signed amount, within bounds. -/
def clampCount (low n : Nat) (d : Int) : Nat := Nat.min (2 ^ 32 - 1) (Nat.max low ((n : Int) + d).toNat)

/-- CELL.add of a completion cell (R311, R337). -/
def Package.addCell (p : Package) (h id : Nat) (d : Int) : Package :=
  let c := p.cellAt id
  if p.cellLive id = false ∨ c.holder ≠ h then p
  else
    let live := clampCount (if c.root then 1 else 0) c.live d
    let p := p.setCell id { c with live := live }
    if live = 0 ∧ c.live ≠ 0 then
      (if c.level = 3 then p.cellFinish id else (p.cellFinish id).cellDrop 8 c.parent)
    else p

/-! ## Cancellation (R30, R312) -/

/-- The cells in use of a package, by id. -/
def Package.cellIds (p : Package) : List Nat :=
  p.dies.flatMap (fun d => (d.2.cells.filter (fun e => e.2.used)).map (fun e => cellId e.2.gen d.1 e.1))

/-- A cell's descendants: those whose parent is already in the set; `fuel` bounds the levels. -/
def Package.descendants (p : Package) : Nat → List Nat → List Nat
  | 0, l => l
  | fuel + 1, l =>
    p.descendants fuel (l ++ p.cellIds.filter (fun i =>
      !l.contains i && decide ((p.cellAt i).level ≠ 3) && l.contains (p.cellAt i).parent))

/-- A thread under a cancelled cell: woken to retire at its next issue, or retired at once (R30). Its enlisted home operation
and its buffered deposit are withdrawn. -/
def Package.cancelThread (p : Package) (chip c slot by_ : Nat) : Package :=
  let t := p.thread c slot
  let o : Owner := ⟨c, slot, t.gen⟩
  match t.life with
  | .trapped => p.retireCancelled chip c slot by_
  | .ready => p.setThread c slot { t with cancel := some (t.cancel.getD by_) }
  | .parked =>
    match t.wait with
    | .fence _ _ => p.setThread c slot { t with cancel := some (t.cancel.getD by_) }
    | _ =>
    let p := p.dropJobs (fun j => match j with
      | .fe h => h.enlisted && decide (h.owner = o)
      | .depo d => decide (d.owner = o ∧ d.stage = .buffered)
      | _ => false)
    (p.onCore c (fun k => { k.withdrawRdv t with waitm := k.waitm.filter (· ≠ slot) })).setThread c slot
      { t with life := .ready, reason := none, wait := .none, chain := [], cancel := some (t.cancel.getD by_) }
  | _ => p

/-- CANCEL (R312, R339). -/
def Package.cancelCell (p : Package) (chip h id : Nat) : Package :=
  if p.cellLive id = false ∨ (p.cellAt id).holder ≠ h then p
  else
    let all := p.descendants 4 [id]
    let p := all.foldl (fun p i =>
      let c := p.cellAt i
      p.setCell i { c with cancel := true, cancelBy := if c.cancel then c.cancelBy else id }) p
    p.cores.foldl (fun p k => k.2.threads.foldl (fun p e =>
      match e.2.cell with
      | some i => if all.contains i then p.cancelThread chip k.1 e.1 id else p
      | none => p) p) p

/-- A cell operation performed: its reply completes the chain, or traps or retires the thread. -/
def Package.performCell (p : Package) (chip : Nat) (c : CellReq) : Package :=
  let h := p.coreHolder c.owner.core
  let join := c.ref.getLsbD 20 || decide (c.act = .join)
  let id := if join then bits c.ref 11 0 else bits c.ref 19 0
  let w := p.joinCell id
  let n := bits w 31 0
  if join ∧ c.act ≠ .cancel ∧ (p.entry (joinRid id)).holder ≠ h then
    p.trapReply chip c.owner.core c.owner.slot .notHolder (word (joinRid id))
  else
    let done (p : Package) (fs : List Fill) : Package := p.finishChain c.owner c.len fs
    match c.act with
    | .join =>
      if 2 ≤ n then (p.setJoin id (joinWord (n - 1) (w.getLsbD 63))).retire chip c.owner.core c.owner.slot
      else done (p.setJoin id (joinWord 0 (w.getLsbD 63 || decide (n = 0)))) []
    | .rd => done p [⟨c.reg, if join then w else p.readCell h id (c.ref.getLsbD 21), false, false⟩]
    | .add =>
      done (if join then p.setJoin id (joinWord (clampCount 0 n c.amount.toInt) false) else p.addCell h id c.amount.toInt) []
    | .cancel => if join then done p [] else (done p []).cancelCell chip h id

/-- A thread that one of some cells of another chip counts (R310, R419). -/
def Thread.awayUnder (t : Thread) (chip : Nat) (cells : List Nat) : Bool :=
  match t.away with
  | some (from_, c) => decide (from_ = chip) && cells.contains c
  | none => false

/-- Threads under cancelled cells that are on other chips: guests and the pairs that they made, and those on their way, which retire at their first
issue (R30, R312). -/
def State.cancelAway (s : State) (chip : Nat) (cells : List Nat) (by_ : Nat) : State :=
  let s := s.chips.foldl (fun s e =>
    if e.1 = chip then s
    else e.2.cores.foldl (fun s k => k.2.threads.foldl (fun s t =>
      if t.2.live && t.2.awayUnder chip cells then s.onPkg e.1 (fun p => p.cancelThread e.1 k.1 t.1 by_) else s) s) s) s
  { s with packets := s.packets.map (fun e => (e.1, match e.2.load with
    | .migrate t regs h homing origin =>
      if t.awayUnder chip cells then { e.2 with load := .migrate { t with cancel := some (t.cancel.getD by_) } regs h homing origin } else e.2
    | _ => e.2)) }

/-- The cells that a CANCEL sets: none when the cell is not one of the issuer's holder in use (R309, R312). -/
def Package.cancelled (p : Package) (c : CellReq) : List Nat :=
  let id := bits c.ref 19 0
  if c.act = .cancel ∧ c.ref.getLsbD 20 = false ∧ p.cellLive id ∧ (p.cellAt id).holder = p.coreHolder c.owner.core then p.descendants 4 [id]
  else []

/-- CELL_OPERATION (R308, R335). -/
def execCellOperation (chip : Nat) (id : Nat) (s : State) : Host.Outcome State Fault Refusal :=
  sysStep s (fun s =>
    let p := s.pkg chip
    match p.job id with
    | some (.cellOp c) =>
      if p.phase = .running ∧ p.ownerLive c.owner then
        some ((s.setPkg chip ((p.dropJob id).performCell chip c)).cancelAway chip (p.cancelled c) (bits c.ref 19 0))
      else none
    | _ => none)

end Sys2Proof.Machine
end

