-- ==== Sys2Proof/Machine/Grid.lean ====
section
/-! DEFINITION. Grids: descriptors and their geometry (R316 to R323), GRID, GBIND, LDH, HWAIT, GSTAT (R341, R342, R344 to R346),
and budgets (R326, R348). -/

namespace Sys2Proof.Machine

/-! ## Descriptors (R316) -/

/-- A grid descriptor: its eight words. -/
abbrev Desc := List Word

def Desc.w (d : Desc) (i : Nat) : Word := (d[i]?).getD 0

def Desc.stale (d : Desc) : Bool := (d.w 0).getLsbD 61
def Desc.depth (d : Desc) : Nat := bits (d.w 0) 60 59 + 1
def Desc.dims (d : Desc) : Nat := bits (d.w 0) 58 57
def Desc.fmt (d : Desc) : Nat := bits (d.w 0) 56 52
def Desc.place (d : Desc) : Nat := bits (d.w 0) 47 0
def Desc.global (d : Desc) (k : Nat) : Nat := bits (d.w 1) (16 * k + 15) (16 * k)
def Desc.parts (d : Desc) (k : Nat) : Nat := bits (d.w 2) (16 * k + 15) (16 * k)
def Desc.tile (d : Desc) (k : Nat) : Nat := bits (d.w 3) (16 * k + 15) (16 * k)
def Desc.rule (d : Desc) (f : Nat) : Nat := bits (d.w 4) (26 + 3 * f) (24 + 3 * f)
def Desc.width (d : Desc) (f : Nat) : Nat := bits (d.w 4) (4 * f + 3) (4 * f)

/-- The element size in bytes. -/
def Desc.elem (d : Desc) : Nat := if d.fmt = 16 then 8 else elemBits d.fmt / 8

/-- H_f (R317). -/
def Desc.halo (d : Desc) (f : Nat) : Nat := d.depth * d.width f

/-- F_k (R319). -/
def Desc.frame (d : Desc) (k : Nat) : Nat := d.tile k + d.halo (2 * k) + d.halo (2 * k + 1)

/-- The bytes of a plane, and of a frame with its step area (R319). -/
def Desc.cells (d : Desc) : Nat := d.frame 0 * d.frame 1 * d.frame 2
def Desc.plane (d : Desc) : Nat := (d.cells * d.elem + 63) / 64 * 64
def Desc.size (d : Desc) : Nat := 2 * d.plane + 64

def Desc.fmtOk (d : Desc) : Bool := decide (d.fmt ≤ 4) || decide (d.fmt = 8) || decide (d.fmt = 9) || decide (d.fmt = 16)

/-- A case of R317 is charged to a word. -/
def Desc.charged (d : Desc) (word : Nat) : Bool :=
  let ks := span 0 1 3
  let fs := span 0 1 6
  let beyond (k : Nat) : Bool := decide (d.dims ≤ k)
  match word with
  | 0 => decide (bits (d.w 0) 63 62 ≠ 0 ∨ bits (d.w 0) 51 48 ≠ 0 ∨ d.dims = 0) || !d.fmtOk ||
      fs.any (fun f => decide (d.tile (f / 2) < d.halo f))
  | 1 => decide (bits (d.w 1) 63 48 ≠ 0) || ks.any (fun k => decide (d.global k = 0 ∨ d.global k ≠ d.parts k * d.tile k)) ||
      ks.any (fun k => beyond k && decide (d.global k ≠ 1))
  | 2 => decide (bits (d.w 2) 63 48 ≠ 0) || ks.any (fun k => decide (d.parts k = 0)) || ks.any (fun k => beyond k && decide (d.parts k ≠ 1))
  | 3 => decide (bits (d.w 3) 63 48 ≠ 0) || ks.any (fun k => decide (d.tile k = 0)) || ks.any (fun k => beyond k && decide (d.tile k ≠ 1))
  | 4 => decide (bits (d.w 4) 63 42 ≠ 0) ||
      fs.any (fun f => beyond (f / 2) && decide (d.width f ≠ 0 ∨ d.rule f ≠ 0)) ||
      fs.any (fun f => decide (5 ≤ d.rule f ∨ 8 < d.width f)) ||
      ks.any (fun k => decide (d.rule (2 * k) = 0) != decide (d.rule (2 * k + 1) = 0))
  | 5 => decide ((d.w 5).toNat / 2 ^ (8 * d.elem) ≠ 0)
  | _ => decide (d.w word ≠ 0)

/-- The smallest word that R317 charges. -/
def Desc.fault (d : Desc) : Option Nat := firstIn 0 8 d.charged

/-! ## Cells -/

/-- The offset in its plane of the cell at frame coordinates, counted from the frame's first cell (R319). -/
def Desc.offset (d : Desc) (x y z : Nat) : Nat := d.elem * ((z * d.frame 1 + y) * d.frame 0 + x)

/-- The cells of a box, given by its start and length in each dimension. -/
def boxCells (lo len : Nat → Nat) : List (Nat × Nat × Nat) :=
  (span (lo 2) 1 (len 2)).flatMap (fun z => (span (lo 1) 1 (len 1)).flatMap (fun y => (span (lo 0) 1 (len 0)).map (fun x => (x, y, z))))

/-- Start and length of a slab's box along a dimension other than its own (R321). -/
def Desc.across (d : Desc) (k j : Nat) : Nat × Nat := if j < k then (0, d.frame j) else (d.halo (2 * j), d.tile j)

/-- Where the halo layers of a face begin, along its dimension. -/
def Desc.haloStart (d : Desc) (g : Nat) : Nat := if g % 2 = 0 then 0 else d.halo (g - 1) + d.tile (g / 2)

/-- Where the interior layers that a face's slab takes begin: `h` layers next to the face. -/
def Desc.edgeStart (d : Desc) (f h : Nat) : Nat :=
  if f % 2 = 0 then d.halo f else d.halo (f - 1) + d.tile (f / 2) - h

/-- The cells that stand in a slab's box at a start along the face's dimension. -/
def Desc.slabBox (d : Desc) (f start h : Nat) : List (Nat × Nat × Nat) :=
  let k := f / 2
  boxCells (fun j => if j = k then start else (d.across k j).1) (fun j => if j = k then h else (d.across k j).2)

def Desc.offsetOf (d : Desc) (c : Nat × Nat × Nat) : Nat := d.offset c.1 c.2.1 c.2.2

/-- The halo cells of a face, as offsets in their plane. -/
def Desc.haloCells (d : Desc) (g : Nat) : List Nat := (d.slabBox g (d.haloStart g) (d.halo g)).map d.offsetOf

/-- The interior cells of the slab sent across face f, as offsets, in the order of the receiving face's halo cells (R321). -/
def Desc.edgeCells (d : Desc) (f : Nat) : List Nat :=
  let h := d.halo (opposite f)
  (d.slabBox f (d.edgeStart f h) h).map d.offsetOf

/-- A tile's position along a dimension (R318). -/
def Desc.position (d : Desc) (t k : Nat) : Nat :=
  match k with
  | 0 => t % d.parts 0
  | 1 => t / d.parts 0 % d.parts 1
  | _ => t / (d.parts 0 * d.parts 1)

def Desc.tiles (d : Desc) : Nat := d.parts 0 * d.parts 1 * d.parts 2

/-- The tile across a face, around the end of its dimension when need be. -/
def Desc.neighbour (d : Desc) (t f : Nat) : Nat :=
  let k := f / 2
  let p := d.position t k
  let n := d.parts k
  let q := if f % 2 = 0 then (p + n - 1) % n else (p + 1) % n
  let at_ (j : Nat) : Nat := if j = k then q else d.position t j
  at_ 0 + d.parts 0 * (at_ 1 + d.parts 1 * at_ 2)

/-- A face on a global boundary whose rule is not PERIODIC (R320). -/
def Desc.boundary (d : Desc) (t f : Nat) : Bool :=
  let k := f / 2
  decide (d.rule f ≠ 0) && decide (d.position t k = if f % 2 = 0 then 0 else d.parts k - 1)

/-- The faces of the dimensions in use. -/
def Desc.faces (d : Desc) : List Nat := span 0 1 (2 * d.dims)

/-- A step is an exchange step of a tile (R320). -/
def Desc.exchanges (d : Desc) (s0 t : BitVec 32) : Bool := decide ((t - s0).toNat % d.depth = 0)

/-- The faces of a tile that Anise fills for a step (R321). -/
def Desc.filled (d : Desc) (tile : Nat) (s0 t : BitVec 32) (f : Nat) : Bool :=
  decide (0 < d.halo f) && (d.boundary tile f || d.exchanges s0 t)

/-- a is at or later than b (R319). -/
def atOrLater (a b : BitVec 32) : Bool := decide ((a - b).toNat < 2 ^ 31)

/-! ## Grid slots -/

def Grid.fresh : Grid := ⟨none, [], [], 0, 0, 0, false⟩
def Package.grid (p : Package) (die slot : Nat) : Grid := tget (p.die die).grids slot Grid.fresh
def Package.onGrid (p : Package) (die slot : Nat) (f : Grid → Grid) : Package :=
  p.onDie die (fun d => { d with grids := tset d.grids slot (f (p.grid die slot)) })

def Grid.tileOn (g : Grid) (core : Nat) : Option Bound := g.bound.find? (fun b => decide (b.core = core))

def Package.onBound (p : Package) (die slot core : Nat) (f : Bound → Bound) : Package :=
  p.onGrid die slot (fun g => { g with bound := g.bound.map (fun b => if b.core = core then f b else b) })

def Bound.face (b : Bound) (f : Nat) : BitVec 32 := tget b.faces f (b.s0 - 1)

/-- The issuing die's slot n is held by the issuer's core holder (R329). -/
def State.checkSlot (s : State) (n : Nat) : Check Unit :=
  let r := slotRid (coreDie s.cur.core) n
  s.stopWhen (decide ((s.here.entry r).holder ≠ s.holder)) .notHolder 0 (word r)

/-- A step area word written as STF writes it (R319): value, full, tag cleared, waiters scanned. -/
def Package.writeStep (p : Package) (a : Nat) (v : BitVec 32) : Package :=
  let p := p.writeM [] (bytesAt a v.toNat 8)
  (({ p with mem := p.mem.setFull a true } : Package).dropRows [a]).scanWord a

/-- Face g's register and step area word set (R320, R321). -/
def Package.setFace (p : Package) (die slot core g : Nat) (t : BitVec 32) : Package :=
  match (p.grid die slot).tileOn core, (p.grid die slot).desc with
  | some b, some d => (p.onBound die slot core (fun b => { b with faces := tset b.faces g t })).writeStep (b.base + 2 * Desc.plane d + 8 * g) t
  | _, _ => p

/-! ## GRID and GBIND (R341, R342) -/

/-- The first of some words whose address fails in step 2 of R121, or, when `late`, in step 3. -/
def State.wordsFail (s : State) (xs : List (Word × Nat)) (late : Bool) : Option Res :=
  firstSome xs (fun e => match s.checkAddr e.1 8 { r := true } (300 + e.2) with
    | .ok _ => none
    | .trap c d t => if decide (c = .notExported) = late then some (.trap t c d e.1) else none
    | .replay t => if late then none else some (.replay t))

/-- What plain loads of some words give, each with its address. -/
def State.wordLoads (s : State) (xs : List (Word × Nat)) : List (Word × Loaded) :=
  xs.filterMap (fun e => match s.checkAddr e.1 8 { r := true } (300 + e.2) with
    | .ok pa => some (e.1, s.plainLoad pa 8 (10 + e.2))
    | _ => none)

/-- Consecutive words read by plain loads (R341, R438): step 2 of R121 is taken on all of them, then step 3, and then they are read. -/
def State.readWords (s : State) (a : Word) (n : Nat) (body : List Word → Res) : Res :=
  let xs := (span 0 1 n).map (fun i => (a + word (8 * i), i))
  if s.here.gated s.cur.core then .replay s
  else match s.wordsFail xs false, s.wordsFail xs true with
    | some r, _ => r
    | none, some r => r
    | none, none =>
      let ls := s.wordLoads xs
      match ls.find? (·.2.bad) with
      | some e => .trap s .softError 0 e.1
      | none => body (ls.map (fun e => word e.2.val))

def execGrid (d : Reg) (b : RegOp) (disp : Word) (s : State) : Host.Outcome State Fault Refusal :=
  chain s { mem := true, s := rdOp b, d := rwReg d } (fun v s => Check.run (do
    let a := v.s + disp
    let die := coreDie s.cur.core
    let n := bits v.d 5 0
    s.stopWhen (decide (a.toNat % 8 ≠ 0)) .memAlign 0 a
    s.checkSlot n
    return s.readWords a 8 (fun ws =>
      match Desc.fault ws with
      | some i => .trap s .format 0 (word i)
      | none =>
        if (s.here.grid die n).desc.isSome then .next (s.setReg d.toNat 1)
        else .next ((s.onHere (fun p => p.onGrid die n (fun g => { g with desc := some ws }))).setReg d.toNat 0))))

/-- A frame lies wholly in PRIVATE banks of a core (R319). -/
def Package.inPrivateSpan (p : Package) (c a n : Nat) : Bool :=
  decide (c * 0x80000 ≤ a) && decide (a + n ≤ (c + 1) * 0x80000) &&
  (span (a / 0x10000) 1 ((a + n - 1) / 0x10000 + 1 - a / 0x10000)).all (fun b => (p.core c).private_ (b % 8))

/-- GBIND (R342). The page of the base must allow both reads and writes (log 49). -/
def execGbind (d : Reg) (src : RegOp) (t : Tgt) (s : State) : Host.Outcome State Fault Refusal :=
  chainSlot s { mem := true, t := tgtOpr t, s := rdOp src, d := rwReg d } (rwReg d) (fun v s => Check.run (do
    let die := coreDie s.cur.core
    let n := bits v.d 5 0
    let s0 : BitVec 32 := BitVec.ofNat 32 (bits v.t 63 32)
    let tile := bits v.t 31 0
    s.checkSlot n
    s.stopWhen (decide (v.s.toNat % 64 ≠ 0)) .memAlign 0 v.s
    let pa ← s.checkXlateAs (s.here.operandDetail s.holder) v.s { r := true, w := true } 1
    let inCluster := match s.here.place pa with
      | .scratch c _ => decide (clusterOf c = clusterOf s.cur.core ∧ s.here.coreHolder c = s.holder)
      | _ => false
    s.stopWhen (!inCluster) .memFault noPermission v.s
    let g := s.here.grid die n
    match g.desc with
    | none => return .next (s.setReg d.toNat 1)
    | some ds =>
      s.stopWhen (!s.here.inPrivateSpan s.cur.core pa (Desc.size ds)) .memFault noPermission v.s
      if (g.tileOn s.cur.core).isSome then return .next (s.setReg d.toNat 2)
      else if Desc.tiles ds ≤ tile then return .next (s.setReg d.toNat 3)
      else
        let b : Bound :=
          { core := s.cur.core, index := tile, base := pa, s0 := s0, published := s0 - 1,
            faces := (span 0 1 6).map (fun f => (f, s0 - 1)), notices := [] }
        return .next ((s.onHere (fun p =>
          (span 0 1 6).foldl (fun p f => p.writeStep (pa + 2 * Desc.plane ds + 8 * f) (s0 - 1))
            (p.onGrid die n (fun g => { g with bound := g.bound ++ [b] })))).setReg d.toNat 0)))

/-! ## LDH and HWAIT (R324, R344, R345) -/

/-- The words of a face's slabs in both planes of a frame. -/
def Desc.slabWords (d : Desc) (base g : Nat) : List Nat :=
  (d.haloCells g).foldl (fun l o =>
    [0, d.plane].foldl (fun l pl => (spanWords (base + pl + o) d.elem).foldl sadd l) l) []

/-- Where an address lies in a frame (R324): in no halo cell, or in a halo cell of a face (R321). -/
def Desc.classify (d : Desc) (off : Nat) : Option Nat :=
  let o := off % d.plane
  if 2 * d.plane ≤ off ∨ d.cells * d.elem ≤ o then none
  else
    let n := o / d.elem
    let at_ (k : Nat) : Nat := match k with
      | 0 => n % d.frame 0
      | 1 => n / d.frame 0 % d.frame 1
      | _ => n / (d.frame 0 * d.frame 1)
    firstSome [2, 1, 0] (fun k =>
      if at_ k < d.halo (2 * k) then some (2 * k)
      else if d.halo (2 * k) + d.tile k ≤ at_ k then some (2 * k + 1)
      else none)

/-- The bound frame of a core that holds a physical address: its slot, its tile and its descriptor. -/
def Package.frameAt (p : Package) (c a : Nat) : Option (Nat × Bound × Desc) :=
  firstSome (p.die (coreDie c)).grids (fun e =>
    match e.2.tileOn c, e.2.desc with
    | some b, some d => if b.base ≤ a ∧ a < b.base + Desc.size d then some (e.1, b, d) else none
    | _, _ => none)

/-- LDH's value, written in the chain's step; on a flag word it acquires that word's cover sets, and not the word itself (R221). -/
def State.haloLoad (s : State) (d pa n : Nat) (ws : List Nat) : State :=
  let v := s.here.mem.read pa n
  let bad := s.here.mem.isBad (wordOf pa)
  (s.onHere (fun p => p.acquire s.cur.core (tget p.covers (wordOf pa) [] ++ ws))).onHereCore (fun k => k.fillReg (k.thread s.cur.slot) ⟨d, word v, bad, false⟩)

/-- A thread parks with reason HALO until some faces of its tile of a grid slot hold a step. -/
def State.parkHalo (s : State) (slot : Nat) (fs : List Nat) (step : BitVec 32) : Res :=
  (s.onMe (fun t => { t with wait := .faces slot fs step })).parkOn .halo (slotRid (coreDie s.cur.core) slot)

/-- LDH (R344). -/
def execLdh (sz : Size) (d : Reg) (b : RegOp) (disp : Word) (t : Tgt) (s : State) : Host.Outcome State Fault Refusal :=
  let n := sizeBytes sz
  chain s { mem := true, t := tgtOpr t, s := rdOp b, d := wrReg d } (fun v s =>
    let a := v.s + disp
    (s.checkAddr a n { r := true } 1).bind a (fun pa =>
      match s.here.frameAt s.cur.core pa with
      | none => .trap s .memFault noPermission a
      | some (slot, bd, ds) =>
        match Desc.classify ds (pa - bd.base) with
        | none => .next (s.haloLoad d.toNat pa n [])
        | some f =>
          if atOrLater (bd.face f) (v.t.setWidth 32) then .next (s.haloLoad d.toNat pa n (Desc.slabWords ds bd.base f))
          else if Desc.stale ds then .trap s .staleHalo 0 a
          else s.parkHalo slot [f] (v.t.setWidth 32)))

/-- The calling core's tile of a slot, with the slot's descriptor, or RECLAIMED (R343, R345). -/
def State.myTile (s : State) (n : Nat) : Check (Bound × Desc) := do
  s.checkSlot n
  let die := coreDie s.cur.core
  match (s.here.grid die n).tileOn s.cur.core, (s.here.grid die n).desc with
  | some b, some d => return (b, d)
  | _, _ => .error (.trap s .reclaimed 0 (word (slotRid die n)))

/-- The chain waits until some faces hold a step, and acquires their slabs. -/
def State.waitFaces (s : State) (n : Nat) (b : Bound) (d : Desc) (fs : List Nat) (step : BitVec 32) : Res :=
  if fs.all (fun f => atOrLater (b.face f) step) then
    .next (s.onHere (fun p => p.acquire s.cur.core (fs.flatMap (Desc.slabWords d b.base))))
  else s.parkHalo n fs step

def execHwait (d : Reg) (src : RegOp) (s : State) : Host.Outcome State Fault Refusal :=
  chainSlot s { s := rdOp src, d := rdReg d } (rdReg d) (fun v s => Check.run (do
    let n := bits v.d 5 0
    let (b, ds) ← s.myTile n
    return s.waitFaces n b ds ((Desc.faces ds).filter (fun f => decide (0 < Desc.halo ds f))) (v.s.setWidth 32)))

def execHwaitF (d : Reg) (src : RegOp) (t : Tgt) (s : State) : Host.Outcome State Fault Refusal :=
  chainSlot s { t := tgtOpr t, s := rdOp src, d := rdReg d } (rdReg d) (fun v s => Check.run (do
    let n := bits v.d 5 0
    let (b, ds) ← s.myTile n
    let f := bits v.t 2 0
    return if f < 2 * Desc.dims ds ∧ 0 < Desc.halo ds f then s.waitFaces n b ds [f] (v.s.setWidth 32) else .next s))

/-! ## GSTAT (R325, R346) -/

def Grid.status (g : Grid) : Word :=
  if g.desc.isNone then 0
  else word ((((g.estat * 8 + g.eface) * 2 + (if g.err then 1 else 0)) * 2 ^ 20 + g.etile % 65536) * 2 ^ 32 + g.bound.length)

def execGstatG (d : Reg) (src : Src) (s : State) : Host.Outcome State Fault Refusal :=
  chainSlot s { s := srcOpr src, d := wrReg d } (srcOpr src) (fun v s => Check.run (do
    let n := bits v.s 5 0
    s.checkSlot n
    return .next (s.setReg d.toNat (s.here.grid (coreDie s.cur.core) n).status)))

def execGstatF (d : Reg) (src : RegOp) (t : Tgt) (s : State) : Host.Outcome State Fault Refusal :=
  chainSlot s { t := tgtOpr t, s := rdOp src, d := wrReg d } (rdOp src) (fun v s => Check.run (do
    let n := bits v.s 5 0
    let f := bits v.t 2 0
    s.checkSlot n
    let g := s.here.grid (coreDie s.cur.core) n
    return .next (s.setReg d.toNat (match g.tileOn s.cur.core, g.desc with
      | some b, some ds => if 6 ≤ f then 0 else word (Desc.halo ds f * 2 ^ 32 + (b.face f).toNat)
      | _, _ => word (2 ^ 63)))))

/-! ## Budgets (R326, R348) -/

def tableRid (die : Nat) : Nat := 0x90000000 + die

def State.checkTable (s : State) (die : Nat) : Check Unit :=
  s.stopWhen (decide ((s.here.entry (tableRid die)).holder ≠ s.holder)) .notHolder 0 (word (tableRid die))

def budgetKey (w : Word) : Nat := bits w 63 46

/-- The entry that has the HOLDER and ACT of a value. -/
def Die.budgetMatch (d : Die) (w : Word) : Option Nat :=
  (d.budget.find? (fun e => decide (bits e.2 63 48 ≠ 0 ∧ budgetKey e.2 = budgetKey w))).map (·.1)

/-- The sum of GUAR of an activity over the entries other than one. -/
def Die.guarSum (d : Die) (act except : Nat) : Nat :=
  d.budget.foldl (fun n e => if bits e.2 63 48 ≠ 0 ∧ bits e.2 47 46 = act ∧ e.1 ≠ except then n + bits e.2 10 0 else n) 0

/-- An entry value that BUDGET.set refuses whatever the table holds (R348). -/
def budgetBad (w : Word) : Bool :=
  decide (bits w 63 48 = 0 ∨ bits w 45 40 < 10 ∨ 30 < bits w 45 40 ∨ bits w 21 11 = 0 ∨ 1024 < bits w 21 11 ∨
    bits w 21 11 < bits w 10 0 ∨ bits w 39 22 ≠ 0)

def execBudgetSet (d : Reg) (src : Src) (s : State) : Host.Outcome State Fault Refusal :=
  chain s { s := srcOpr src, d := rdReg d } (fun v s => Check.run (do
    let die := lowBits v.s 2
    s.checkTable die
    let t := s.here.die die
    let place := match t.budgetMatch v.d with
      | some i => some i
      | none => firstIn 0 32 (fun i => decide (bits (tget t.budget i 0) 63 48 = 0))
    match place with
    | none => .error (.trap s .mapFull 0 v.d)
    | some i =>
      s.stopWhen (budgetBad v.d || decide (1024 < t.guarSum (bits v.d 47 46) i + bits v.d 10 0)) .mapFull 0 v.d
      return .next (s.onHere (fun p => p.onDie die (fun t => { t with budget := tset t.budget i v.d })))))

/-- BUDGET.rd (R348): of a selector in a register the low 7 bits count (log 49). -/
def execBudgetRd (d : Reg) (src : Src) (s : State) : Host.Outcome State Fault Refusal :=
  chain s { s := srcOpr src, d := wrReg d } (fun v s => Check.run (do
    let sel := lowBits v.s 7
    s.checkTable (sel / 32)
    return .next (s.setReg d.toNat (tget (s.here.die (sel / 32)).budget (sel % 32) 0))))

def execBudgetClr (d : Reg) (src : Src) (s : State) : Host.Outcome State Fault Refusal :=
  chain s { s := srcOpr src, d := rdReg d } (fun v s => Check.run (do
    let die := lowBits v.s 2
    s.checkTable die
    return .next (s.onHere (fun p => p.onDie die (fun t => match t.budgetMatch v.d with
      | some i => { t with budget := tdel t.budget i }
      | none => t)))))

/-- BUDGET_PERIOD_START (R328): a block begins a period of one holder. `block` is the holder plus 65,536 times the block's number. -/
def execBudgetPeriodStart (chip die : Nat) (block : Nat) (s : State) : Host.Outcome State Fault Refusal :=
  pkgStep chip s (fun p => when (decide (blockDie (block / 65536) = die)) (p.newPeriod (block / 65536) (block % 65536)))

end Sys2Proof.Machine
end

