-- ==== Sys2Proof/Machine/Anise.lean ====
section
/-! DEFINITION. Anise: HSTEP and GFREE (R343, R347), and the deliveries, self-fills and notices that they give rise to (R318, R320
to R325). -/

namespace Sys2Proof.Machine

/-! ## Deliveries in flight -/

/-- Deliveries of a tile, with their ids. -/
def Package.slabsOf (p : Package) (die slot core : Nat) : List (Nat × Slab) :=
  p.flights.filterMap (fun e => match e.2 with
    | .slab x => if x.die = die ∧ x.slot = slot ∧ x.core = core then some (e.1, x) else none
    | _ => none)

/-- A delivery or a self-fill that has still to read its tile (R320); a face filled with CONST is not read (R322). -/
def Slab.unread (x : Slab) (d : Desc) : Bool :=
  !x.notice && (decide (x.stage = .placing ∨ x.stage = .reading) || (x.self && decide (x.stage = .writing ∧ d.rule x.face ≠ 1)))

/-- A delivery that is writing into a tile of this package. -/
def Slab.writingInto (x : Slab) (chip slot core : Nat) : Bool :=
  !x.notice && !x.self && x.begun && decide (x.dstChip = chip ∧ x.slot = slot ∧ x.dstCore = core)

/-- The first failure among a die's deliveries (R325), and among its notices that end NO-ROUTE (R425). A self-fill sends nothing across a
face. -/
def Package.recordFailure (p : Package) (x : Slab) (status : Nat) : Package :=
  if x.self ∨ (x.notice ∧ status ≠ 0x05) then p
  else p.onGrid x.die x.slot (fun g =>
    if g.err ∨ g.desc.isNone then g else { g with err := true, estat := status, eface := x.face, etile := x.index })

/-- A delivery abandoned. -/
def Package.abandon (p : Package) (id : Nat) (x : Slab) (status : Nat) : Package := (p.dropJob id).recordFailure x status

/-! ## HSTEP (R320, R343) -/

def Slab.new (die slot : Nat) (b : Bound) (face : Nat) (step : BitVec 32) : Slab :=
  { die := die, slot := slot, core := b.core, index := b.index, face := face, step := step, self := false, notice := false,
    stage := .placing, toRead := [], cap := Memory.empty, toWrite := [], begun := false, dstChip := 0, dstCore := 0,
    capWords := (0, 0), capTag := false, wrote := [], acks := [], asks := false }

/-- The plane of a step (R319). -/
def planeOf (d : Desc) (base : Nat) (t : BitVec 32) : Nat := base + t.toNat % 2 * d.plane

/-- The lines that some cells of a plane touch. -/
def cellLines (d : Desc) (plane : Nat) (cells : List Nat) : List Nat :=
  cells.foldl (fun l o => (spanLines (plane + o) d.elem).foldl sadd l) []

/-- A delivery whose neighbour's placement entry is known. -/
def Slab.placed (x : Slab) (e : Nat × Nat × Word × Word × Bool) (reads : List Nat) : Slab :=
  { x with
    dstChip := e.1, dstCore := e.2.1, capWords := (e.2.2.1, e.2.2.2.1), capTag := e.2.2.2.2,
    stage := if x.notice then .remote else .reading, toRead := if x.notice then [] else reads }

/-- What a publication sets off on one face (R320, R325). -/
def Package.serveFace (p : Package) (chip die slot : Nat) (b : Bound) (d : Desc) (t : BitVec 32) (f : Nat) : Package :=
  let x := Slab.new die slot b f t
  let plane := planeOf d b.base t
  if d.boundary b.index f then
    if 0 < d.halo f then
      p.addJob (.slab { x with self := true, stage := .writing, toWrite := cellLines d plane (d.haloCells f) })
    else p
  else
    let entry := tget? (p.grid die slot).places (d.neighbour b.index f)
    let start (p : Package) (x : Slab) : Package := p.addJob (.slab (match entry with
      | some e => x.placed e (cellLines d plane (d.edgeCells f))
      | none => x))
    let p := if 0 < d.halo (opposite f) ∧ d.exchanges b.s0 t then start p x else p
    if decide (0 < d.halo f) && (match entry with | some e => decide (e.1 ≠ chip) | none => true) then start p { x with notice := true } else p

def execHstep (d : Reg) (src : RegOp) (s : State) : Host.Outcome State Fault Refusal :=
  chainSlot s { s := rdOp src, d := rdReg d } (rdReg d) (fun v s => Check.run (do
    let n := bits v.d 5 0
    let die := coreDie s.cur.core
    let t : BitVec 32 := v.s.setWidth 32
    let (b, ds) ← s.myTile n
    s.stopWhen (decide (t ≠ b.published + 1)) .staleHalo 0 (t.setWidth 64)
    return if (s.here.slabsOf die n s.cur.core).any (fun x => x.2.unread ds) then .replay s
      else .next (s.onHere (fun p =>
        (Desc.faces ds).foldl (fun p f => p.serveFace s.cur.chip die n b ds t f)
          (p.onBound die n s.cur.core (fun b => { b with published := t }))))))

/-- GFREE (R347). It waits for the self-fills and the deliveries that the tile has sent, up to the setting of their face, and for those
into the tile that have begun to write (log 49). -/
def execGfree (src : RegOp) (s : State) : Host.Outcome State Fault Refusal :=
  chainSlot s { s := rdOp src } (rdOp src) (fun v s => Check.run (do
    let n := bits v.s 5 0
    let die := coreDie s.cur.core
    let c := s.cur.core
    s.checkSlot n
    let busy := (s.here.slabsOf die n c).any (fun x => !x.2.notice) ||
      !(s.here.jobs (fun j => match j with | .slab x => x.writingInto s.cur.chip n c | _ => false)).isEmpty
    return if ((s.here.grid die n).tileOn c).isSome ∧ busy then .replay s
      else .next (s.onHere (fun p => p.onGrid die n (fun g =>
        let left := g.bound.filter (fun b => decide (b.core ≠ c))
        if left.isEmpty then Grid.fresh else { g with bound := left })))))

/-! ## Placement (R318) -/

/-- A translation for a holder without a TLB: its root, with the walker's checks. -/
def Package.translateFor (p : Package) (h va pick : Nat) (need : Perm) : Xlate :=
  if 2 ^ 57 ≤ va then .fail .notMapped
  else if p.rootOf h = 0 then p.identity h va
  else match p.walkTables h va pick with
    | .page e => e.access va need
    | .fail d => .fail d

/-- The sending tile of a delivery, with its descriptor, while it is bound. -/
def Package.sender (p : Package) (x : Slab) : Option (Bound × Desc) :=
  match (p.grid x.die x.slot).tileOn x.core, (p.grid x.die x.slot).desc with
  | some b, some d => some (b, d)
  | _, _ => none

/-- The placement entry at an address, whose zero fields R318 names: one that has them set is rejected (R6). -/
def Package.placement (p : Package) (pa : Nat) : Option (Nat × Nat × Word × Word × Bool) :=
  let w := p.mem.word pa
  when (decide (bits w 63 44 = 0 ∧ p.mem.word (pa + 8) = 0))
    (bits w 43 24, bits w 15 6, p.mem.word (pa + 16), p.mem.word (pa + 24), p.mem.tag (granuleOf (pa + 16)))

/-- ANISE_PLACEMENT_READ (R318): the entry of the tile across the face, read once and kept. One that is rejected abandons the
delivery as a failed translation does, the one failure that R318 names (R6, log 49). A delivery whose sending tile is no longer bound
has sent no slab yet, and is dropped (log 49). -/
def execAnisePlacementRead (chip : Nat) (id : Nat) (s : State) : Host.Outcome State Fault Refusal :=
  jobStep chip id s (fun p j => match j with
    | .slab x =>
      if x.stage ≠ .placing then none
      else match p.sender x with
        | none => some (p.dropJob id)
        | some (b, d) =>
          let t := d.neighbour b.index x.face
          let go (p : Package) (e : Nat × Nat × Word × Word × Bool) : Package :=
            if x.notice ∧ e.1 = chip then p.dropJob id
            else p.setJob id (.slab (x.placed e (cellLines d (planeOf d b.base x.step) (d.edgeCells x.face))))
          match tget? (p.grid x.die x.slot).places t with
          | some e => some (go p e)
          | none =>
            match p.translateFor (p.slotHolder x.die x.slot) (d.place + 32 * t) (s.free 9) { r := true } with
            | .ok pa =>
              if (spanWords pa 32).any p.mem.isBad then some (p.abandon id x 0x02)
              else match p.placement pa with
                | none => some (p.abandon id x 0x02)
                | some e => some (go (p.onGrid x.die x.slot (fun g => { g with places := tset g.places t e })) e)
            | _ => some (p.abandon id x 0x02)
    | _ => none)

/-! ## Reading (R320, R321) -/

/-- The lower faces of a tile hold the step (R321). -/
def lowerFacesHold (b : Bound) (d : Desc) (f : Nat) (t : BitVec 32) : Bool :=
  (span 0 1 (f / 2 * 2)).all (fun g => !d.filled b.index b.s0 t g || atOrLater (b.face g) t)

/-- ANISE_SLAB_READ (R320): one line of the sending tile's plane. A sending tile that is no longer bound abandons the delivery (log 49). -/
def execAniseSlabRead (chip : Nat) (id : Nat) (s : State) : Host.Outcome State Fault Refusal :=
  jobStep chip id s (fun p j => match j with
    | .slab x =>
      (match x.stage, x.toRead, p.sender x with
      | .reading, z :: rest, some (b, d) =>
        let y := pickFrom (z :: rest) (s.free 7) z
        let left := sdel x.toRead y
        when (lowerFacesHold b d x.face x.step)
          (p.setJob id (.slab { x with
            cap := x.cap.capture p.mem y, toRead := left, stage := if left.isEmpty then .writing else .reading }))
      | .reading, _, none => some (p.abandon id x 0x09)
      | _, _, _ => none)
    | _ => none)

/-! ## Writing (R321, R325) -/

/-- The cells of a slab with their bytes: by offset in the receiving plane, and with the uncorrectable words among them. -/
def slabBytes (x : Slab) (b : Bound) (d : Desc) : List (Nat × Byte × Bool) :=
  let plane := planeOf d b.base x.step
  ((d.edgeCells x.face).zip (d.haloCells (opposite x.face))).flatMap (fun e =>
    (span 0 1 d.elem).map (fun i => (e.2 + i, x.cap.byte (plane + e.1 + i), x.cap.isBad (wordOf (plane + e.1 + i)))))

/-- One line of a plane, of bytes given by their offsets. -/
def planeLine (plane y : Nat) (bs : List (Nat × Byte × Bool)) : LineWrite :=
  let mine := bs.filter (fun e => decide (lineOf (plane + e.1) = y))
  ⟨y, mine.foldl (fun t e => tset t (plane + e.1 - y) e.2.1) [],
    mine.foldl (fun l e => if e.2.2 then sadd l (wordOf (plane + e.1)) else l) []⟩

/-- The receiving tile of a delivery within the package, on a slot of the same holder. -/
def Package.receiver (p : Package) (x : Slab) : Option (Bound × Desc) :=
  let die := coreDie x.dstCore
  if p.slotHolder die x.slot ≠ p.slotHolder x.die x.slot then none
  else match (p.grid die x.slot).tileOn x.dstCore, (p.grid die x.slot).desc with
    | some b, some d => some (b, d)
    | _, _ => none

/-- An earlier delivery across the same face is still under way. -/
def Package.slabBefore (p : Package) (id : Nat) (x : Slab) : Bool :=
  (p.slabsOf x.die x.slot x.core).any (fun e => decide (e.1 < id ∧ e.2.face = x.face) && !e.2.self && !e.2.notice)

/-- A delivery within the package, or a self-fill, whose next line waits for its turn alone. -/
def Package.slabReady (p : Package) (chip id : Nat) (x : Slab) : Bool :=
  decide (x.stage = .writing ∧ (x.self = true ∨ x.dstChip = chip)) && !x.notice && (match p.sender x with
    | none => false
    | some (b, d) =>
      if x.self then lowerFacesHold b d x.face x.step && p.awake x.core
      else !p.slabBefore id x && (match p.receiver x with
        | some (r, _) => atOrLater r.published (x.step - 1) && p.awake x.dstCore
        | none => false))

/-- The holders whose slabs wait for the Anise of a die: those with a line to write in the package, and those whose next packet for another
chip has been offered and would be taken by its source unit. -/
def State.slabWaiters (s : State) (chip die : Nat) : List Nat :=
  let p := s.pkg chip
  p.flights.filterMap (fun e => match e.2 with
    | .slab x =>
      let h := p.slotHolder x.die x.slot
      if x.die = die ∧ (p.slabReady chip e.1 x || (x.asks && s.unitAccepts chip x.dstChip h)) = true then some h else none
    | _ => none)

/-- The Anise of the source die serves the slot's holder now (R325, R327, R328). -/
def State.aniseAdmits (s : State) (chip : Nat) (x : Slab) : Bool :=
  (s.pkg chip).serves (blockAnise x.die) ((s.pkg chip).slotHolder x.die x.slot) (s.slabWaiters chip x.die)
def Package.aniseCharge (p : Package) (x : Slab) (n : Nat) : Package := p.charge (blockAnise x.die) (p.slotHolder x.die x.slot) n

/-- What a slab writes in the receiving frame. Where the two dies' descriptors differ, the spec gives the cells no values:
free ones stand there, within the frame (R315, log 20). -/
def slabTarget (x : Slab) (b : Bound) (d dr : Desc) (seed : Nat) : List (Nat × Byte × Bool) :=
  if d = dr then slabBytes x b d
  else ((slabBytes x b d).filter (fun e => decide (e.1 < dr.cells * dr.elem))).map (fun e => (e.1, BitVec.ofNat 8 (Config.freeWord seed e.1).toNat, false))

/-- One line written into a tile of this package. -/
def Package.slabWrite (p : Package) (id : Nat) (x : Slab) (sender receiver : Bound × Desc) (pick seed : Nat) : Package :=
  let (b, d) := sender
  let (r, dr) := receiver
  let bs := slabTarget x b d dr seed
  let plane := planeOf dr r.base x.step
  let lines := if x.begun then x.toWrite else bs.foldl (fun l e => sadd l (lineOf (plane + e.1))) []
  match lines with
  | [] => p.setJob id (.slab { x with stage := .setting, begun := true })
  | z :: rest =>
    let y := pickFrom (z :: rest) pick z
    let l := planeLine plane y bs
    let left := sdel lines y
    ((p.writeLine [] l).aniseCharge x l.bytes.length).setJob id
      (.slab { x with begun := true, toWrite := left, stage := if left.isEmpty then .setting else .writing })

/-- The runs of consecutive bytes of a slab, by the offset of their first byte in the plane; a run does not leave its line. -/
def runStarts (bs : List (Nat × Byte × Bool)) : List Nat :=
  (bs.filter (fun e => decide (e.1 % 64 = 0) || !bs.any (fun o => decide (o.1 + 1 = e.1)))).foldl (fun l e => sadd l e.1) []

/-- The bytes of a run. -/
def runBytes (bs : List (Nat × Byte × Bool)) : Nat → Nat → List Byte
  | 0, _ => []
  | n + 1, o => match bs.find? (fun e => decide (e.1 = o)) with
    | some e => e.2.1 :: (if (o + 1) % 64 = 0 then [] else runBytes bs n (o + 1))
    | none => []

/-- A capability permits an access (R408, R410): tag, permission bit, and bounds. -/
def capAllows (w0 w1 : Word) (tag : Bool) (perm a n : Nat) : Bool :=
  let l := bits w1 43 38
  tag && w1.getLsbD perm && decide (6 ≤ l ∧ l ≤ 57) && decide (w0.toNat / 2 ^ l = a / 2 ^ l ∧ a / 2 ^ l = (a + n - 1) / 2 ^ l)

/-- A packet of a delivery to another chip. -/
def Slab.packet (x : Slab) (chip id holder : Nat) (addr cap1 : Word) (load : Load) : Packet :=
  { Packet.of chip x.dstChip holder load with addr := addr, cap1 := cap1, slab := some id }

/-- A delivery's packet enters its source unit, and the delivery waits for its answer (R325). -/
def State.sendSlab (s : State) (chip id : Nat) (x : Slab) (k : Packet) : State :=
  let s := s.onPkg chip (fun p => (p.aniseCharge x k.load.size).setJob id (.slab { x with acks := x.acks ++ [s.nextPacket], asks := false }))
  s.inject k

/-- The source unit takes a packet of a delivery now. -/
def State.slabMayGo (s : State) (chip : Nat) (x : Slab) : Bool :=
  let p := s.pkg chip
  s.unitAccepts chip x.dstChip (p.slotHolder x.die x.slot) && s.aniseAdmits chip x

/-- A packet of a delivery goes, or is offered: from then on it waits for its turns (R328). -/
def State.offerSlab (s : State) (chip id : Nat) (x sent : Slab) (k : Packet) : Option State :=
  if s.slabMayGo chip x then some (s.sendSlab chip id sent k)
  else when (!x.asks) (s.onPkg chip (fun p => p.setJob id (.slab { x with asks := true })))

/-- One run of a slab sent as a remote store under the entry's capability (R325); what fails the egress check (with
CAP-REVOKED, log 49), or has no route, is abandoned. -/
def State.slabStore (s : State) (chip id : Nat) (x : Slab) (b : Bound) (d : Desc) (pick : Nat) : Option State :=
  let p := s.pkg chip
  let bs := slabBytes x b d
  let runs := if x.begun then x.toWrite else runStarts bs
  if !s.onTorus x.dstChip then some (s.onPkg chip (fun p => p.abandon id x 0x05))
  else match runs with
    | [] => some (s.onPkg chip (fun p => p.setJob id (.slab { x with stage := .setting, begun := true })))
    | z :: rest =>
      let o := pickFrom (z :: rest) pick z
      let bytes := runBytes bs 64 o
      let off := x.step.toNat % 2 * d.plane + o
      let a := x.capWords.1 + word off
      let left := sdel runs o
      if bits x.capWords.2 63 44 ≠ x.dstChip ∨ capAllows x.capWords.1 x.capWords.2 x.capTag 36 a.toNat bytes.length = false then
        some (s.onPkg chip (fun p => p.abandon id x 0x06))
      else s.offerSlab chip id x { x with begun := true, toWrite := left, stage := if left.isEmpty then .setting else .remote }
        (x.packet chip id (p.slotHolder x.die x.slot) a x.capWords.2 (.store bytes false))

/-- A publication notice sent to a neighbour on another chip (R325). -/
def State.sendNotice (s : State) (chip id : Nat) (x : Slab) : Option State :=
  let p := s.pkg chip
  let k : Packet := x.packet chip id (p.slotHolder x.die x.slot) 0 0
    (.notice (coreDie x.dstCore) x.slot x.dstCore (opposite x.face) x.step)
  if !s.onTorus x.dstChip then some (s.onPkg chip (fun p => p.abandon id x 0x05))
  else s.offerSlab chip id x { x with stage := .setting } k

/-- ANISE_SLAB_WRITE (R321, R325): one line into a tile of the package, one remote store, or a notice. Delivery waits until
the receiving tile has published the step before. -/
def execAniseSlabWrite (chip : Nat) (id : Nat) (s : State) : Host.Outcome State Fault Refusal :=
  sysStep s (fun s =>
    let p := s.pkg chip
    match p.phase, p.job id with
    | .running, some (.slab x) =>
      if x.self then none
      else if x.notice then (if x.stage = .remote then s.sendNotice chip id x else none)
      else match p.sender x with
        | none => none
        | some (b, d) =>
          if (x.stage ≠ .writing ∧ x.stage ≠ .remote) ∨ p.slabBefore id x then none
          else if x.dstChip = chip then
            (match p.receiver x with
            | some (r, dr) =>
              when (atOrLater r.published (x.step - 1) && p.awake x.dstCore && s.aniseAdmits chip x)
                (s.setPkg chip (p.slabWrite id x (b, d) (r, dr) (s.free 7) s.tick))
            | none => none)
          else if atOrLater (tget b.notices x.face (b.s0 - 2)) (x.step - 1) then s.slabStore chip id x b d (s.free 7)
          else none
    | _, _ => none)

/-! ## Self-fills (R322) -/

/-- A number of a format negated by ANTI (R322). -/
def antiValue (fmt v : Nat) : Nat :=
  if fmt = 8 ∨ fmt = 9 then
    let w := elemBits fmt
    if v = 2 ^ (w - 1) then 2 ^ (w - 1) - 1 else (2 ^ w - v) % 2 ^ w
  else
    let f := if fmt = 16 then fp64 else floatFmt fmt
    if (f.decode v).isNan then f.nan else if v < f.signBit then v + f.signBit else v - f.signBit

/-- The interior layer that stands for layer j of a face's halo, counted from 1 next to the interior; by rule. -/
def mirror (d : Desc) (f rule j : Nat) : Nat :=
  let inner := if rule = 2 then 0 else j - 1
  let k := f / 2
  if f % 2 = 0 then d.halo f + inner else d.halo (2 * k) + d.tile k - 1 - inner

/-- The bytes of a self-filled face in a plane of M. -/
def selfBytes (m : Memory) (d : Desc) (plane f : Nat) : List (Nat × Byte × Bool) :=
  let k := f / 2
  let rule := d.rule f
  (d.slabBox f (d.haloStart f) (d.halo f)).flatMap (fun c =>
    let at_ := match k with | 0 => c.1 | 1 => c.2.1 | _ => c.2.2
    let j := if f % 2 = 0 then d.halo f - at_ else at_ + 1 - d.haloStart f
    let q := mirror d f rule j
    let src := d.offsetOf (match k with | 0 => (q, c.2.1, c.2.2) | 1 => (c.1, q, c.2.2) | _ => (c.1, c.2.1, q))
    let old := m.read (plane + src) d.elem
    let v := if rule = 1 then (d.w 5).toNat % 2 ^ (8 * d.elem) else if rule = 4 then antiValue d.fmt old else old
    let bad := decide (rule ≠ 1) && (spanWords (plane + src) d.elem).any m.isBad
    (span 0 1 d.elem).map (fun i => (d.offsetOf c + i, BitVec.ofNat 8 (v / 256 ^ i), bad)))

/-- ANISE_SELF_FILL (R322): one line of a face on a global boundary. -/
def execAniseSelfFill (chip : Nat) (id : Nat) (s : State) : Host.Outcome State Fault Refusal :=
  jobStep chip id s (fun p j => match j with
    | .slab x =>
      (match x.stage, x.toWrite, p.sender x with
      | .writing, z :: rest, some (b, d) =>
        if ¬ x.self then none
        else
          let y := pickFrom (z :: rest) (s.free 7) z
          let plane := planeOf d b.base x.step
          let l := planeLine plane y (selfBytes p.mem d plane x.face)
          let left := sdel x.toWrite y
          when (lowerFacesHold b d x.face x.step && p.awake x.core && s.aniseAdmits chip x)
            (((p.writeLine [] l).aniseCharge x l.bytes.length).setJob id
              (.slab { x with toWrite := left, stage := if left.isEmpty then .setting else .writing }))
      | _, _, _ => none)
    | _ => none)

/-! ## The face step (R320, R321, R325) -/

/-- The closing fence of a delivery to another chip, once its stores are all acknowledged. -/
def State.closeSlab (s : State) (chip id : Nat) (x : Slab) (d : Desc) : Option State :=
  let a := x.capWords.1 + word (2 * d.plane + 8 * opposite x.face)
  if x.notice ∨ x.acks ≠ [] then none
  else if bits x.capWords.2 63 44 ≠ x.dstChip ∨ capAllows x.capWords.1 x.capWords.2 x.capTag 36 a.toNat 8 = false then
    some (s.onPkg chip (fun p => p.abandon id x 0x06))
  else s.offerSlab chip id x x
    (x.packet chip id ((s.pkg chip).slotHolder x.die x.slot) a x.capWords.2 (.fence (x.step.setWidth 64) x.wrote))

/-- The descriptors of the two dies agree, or the face's register advances by a free choice (R315). -/
def setsFace (d dr : Desc) (free : Nat) : Bool := decide (d = dr) || decide (free % 2 = 0)

/-- An earlier self-fill of the same face is still under way: the face's register is set in the order of the steps (R315, R321). -/
def Package.fillBefore (p : Package) (id : Nat) (x : Slab) : Bool :=
  (p.slabsOf x.die x.slot x.core).any (fun e => decide (e.1 < id ∧ e.2.face = x.face) && e.2.self)

/-- ANISE_FACE_STEP_SET (R320): the receiving face's register and step area word are set to the step; for a tile on another
chip, by a fence (R325). -/
def execAniseFaceStepSet (chip : Nat) (id : Nat) (s : State) : Host.Outcome State Fault Refusal :=
  sysStep s (fun s =>
    let p := s.pkg chip
    match p.phase, p.job id with
    | .running, some (.slab x) =>
      if x.stage ≠ .setting then none
      else match p.sender x with
        | none => none
        | some (_, d) =>
          if x.self then when (!p.fillBefore id x) (s.setPkg chip ((p.dropJob id).setFace x.die x.slot x.core x.face x.step))
          else if x.dstChip = chip then
            (p.receiver x).map (fun r => s.setPkg chip (
              if setsFace d r.2 (s.free 7) then
                (p.dropJob id).setFace (coreDie x.dstCore) x.slot x.dstCore (opposite x.face) x.step
              else p.dropJob id))
          else s.closeSlab chip id x d
    | _, _ => none)

/-! ## Abandonment (R325) -/

/-- ANISE_DELIVERY_ABANDON (R325): the receiving tile is unbound, or the sending one is (log 49). -/
def execAniseDeliveryAbandon (chip : Nat) (id : Nat) (s : State) : Host.Outcome State Fault Refusal :=
  jobStep chip id s (fun p j => match j with
    | .slab x =>
      if (p.sender x).isNone then some (p.abandon id x 0x09)
      else if x.self ∨ x.notice ∨ x.stage = .placing ∨ x.dstChip ≠ chip then none
      else when (p.receiver x).isNone (p.abandon id x 0x09)
    | _ => none)

end Sys2Proof.Machine
end

