-- ==== Sys2Proof/Machine/Map.lean ====
section
/-! DEFINITION. The ownership map: the page 5 chains (R384 to R399), the map block's judgement of trades (R363, R364, R386 to
R394), claims (R366), and transfers (R365). -/

namespace Sys2Proof.Machine

/-! ## Chains -/

/-- A chain that is performed by the map block: sent once, then replayed until the reply (R386). -/
def State.tradeRequest (s : State) (kind : TradeKind) (d src t : Word) (reg : Nat) : Res :=
  match s.me.pend with
  | some _ => .replay s
  | none =>
    let id := s.here.nextId
    .replay ((s.onHere (fun p => p.addJob (.trade ⟨s.owner, s.holder, kind, d, src, t, reg, s.cur.words.length⟩))).onMe
      (fun t => { t with pend := some id }))

/-- A trade of the resource in S, with or without T. -/
def tradeS (kind : TradeKind) (src : RegOp) (t : Opr) (s : State) : Host.Outcome State Fault Refusal :=
  chain s { t := t, s := rdOp src } (fun v s => s.tradeRequest kind v.s 0 v.t 0)

/-- A trade of the resource in D with the holder or heir word in S. -/
def tradeDS (kind : TradeKind) (d : Reg) (src : RegOp) (s : State) : Host.Outcome State Fault Refusal :=
  chain s { s := rdOp src, d := rdReg d } (fun v s => s.tradeRequest kind v.d v.s 0 0)

/-- A trade that reads D, S and T and leaves its result in D. -/
def tradeDST (mem : Bool) (kind : TradeKind) (d : Reg) (src t : RegOp) (s : State) : Host.Outcome State Fault Refusal :=
  chain s { mem := mem, t := rdOp t, s := rdOp src, d := rwReg d } (fun v s => s.tradeRequest kind v.d v.s v.t d.toNat)

def execMint (d : Reg) (src : RegOp) (t : RegOp) (s : State) : Host.Outcome State Fault Refusal := tradeDST false .mint d src t s
def execGive (d : Reg) (src : RegOp) (s : State) : Host.Outcome State Fault Refusal := tradeDS .give d src s
def execGiveS (d : Reg) (src : RegOp) (t : RegOp) (s : State) : Host.Outcome State Fault Refusal := tradeDST true .giveS d src t s
def execAccept (src : RegOp) (s : State) : Host.Outcome State Fault Refusal := tradeS .accept src .none s
def execLend (d : Reg) (src : RegOp) (s : State) : Host.Outcome State Fault Refusal := tradeDS .lend d src s
def execLendS (d : Reg) (src : RegOp) (t : RegOp) (s : State) : Host.Outcome State Fault Refusal := tradeDST true .lendS d src t s
def execReclaim (src : RegOp) (s : State) : Host.Outcome State Fault Refusal := tradeS .reclaim src .none s
def execReclaimB (src : RegOp) (t : RegOp) (s : State) : Host.Outcome State Fault Refusal := tradeS .reclaimB src (rdOp t) s
def execReturnLoan (src : RegOp) (s : State) : Host.Outcome State Fault Refusal := tradeS .returnLoan src .none s
def execClaim (src : RegOp) (t : RegOp) (s : State) : Host.Outcome State Fault Refusal := tradeS .claim src (rdOp t) s
def execDeny (src : RegOp) (s : State) : Host.Outcome State Fault Refusal := tradeS .deny src .none s
def execHeirResource (d : Reg) (src : RegOp) (s : State) : Host.Outcome State Fault Refusal := tradeDS .heir d src s
def execHeirRecord (d : Reg) (src : RegOp) (s : State) : Host.Outcome State Fault Refusal := tradeDS .heir d src s

/-- OWNQ (R395). -/
def execOwnq (d : Reg) (src : RegOp) (s : State) : Host.Outcome State Fault Refusal :=
  chain s { s := rdOp src, d := wrGroup d 3 } (fun v s => s.tradeRequest .ownq v.s 0 0 d.toNat)

/-- OWNQ.a (R396). -/
def execOwnqA (d : Reg) (b : RegOp) (disp : Word) (s : State) : Host.Outcome State Fault Refusal :=
  chainNext s { mem := true, s := rdOp b, d := wrReg d } (fun v s =>
    let a := (v.s + disp).toNat
    s.setReg d.toNat (match (if a < 2 ^ 52 then s.here.covering a else none) with
      | some (r, _) => word (2 ^ 32 + r)
      | none => 0))

/-! ## Translation roots and invalidation (R397, R398) -/

/-- Walks in progress for a holder's cores ended, with their results dropped. -/
def Package.dropWalks (p : Package) (h : Nat) : Package :=
  p.dropJobs (fun j => match j with
    | .walk cs _ => decide (p.coreHolder (cs.headD 0) = h)
    | _ => false)

/-- Cached translations of a holder removed, in the TLBs of both levels, and tables in the walk caches of its cores, by key (R359,
R398). -/
def Package.purge (p : Package) (h : Nat) (bad : TlbEntry → Bool) (table : Nat → Bool) : Package :=
  { p with
    cores := p.cores.map (fun e =>
      if p.coreHolder e.1 = h then (e.1, { e.2 with
        tlb := e.2.tlb.filter (fun x => !bad x), walked := e.2.walked.filter (fun x => !table x.1) }) else e),
    clusters := p.clusters.map (fun e => (e.1, { e.2 with tlb := e.2.tlb.filter (fun x => !(decide (x.1 = h) && bad x.2)) })) }

def execRootset (d : Reg) (src : Src) (s : State) : Host.Outcome State Fault Refusal :=
  chain s { mem := true, s := srcOpr src, d := rdReg d } (fun v s =>
    let slot := lowBits v.s 10
    let h := s.holder
    let a := v.d.toNat
    let r := rid 7 slot
    if (s.here.entry r).holder ≠ h then .trap s .notHolder 0 (word r)
    else if a % 4096 ≠ 0 then .trap s .memAlign 0 v.d
    else if a ≠ 0 ∧ (match s.here.place a with
        | .hbm | .dump | .scratch _ _ => false
        | _ => true) = true then .trap s .memFault noPermission v.d
    else .next (s.onHere (fun p =>
      let p : Package := { p with
        roots := tset p.roots slot v.d,
        holders := p.holders.map (fun e => if e.1 = h then (e.1, { e.2 with rootSlot := some slot }) else e) }
      (p.purge h (fun _ => true) (fun _ => true)).dropWalks h)))

def execTlbinv (s : State) : Host.Outcome State Fault Refusal :=
  chainNext s {} (fun _ s => s.onHere (fun p => (p.purge s.holder (fun _ => true) (fun _ => true)).dropWalks s.holder))

/-- TLBINV.p (R398): the entries whose page contains the address, whatever they are. No entry contains one from 2^57 up. -/
def execTlbinvP (b : RegOp) (disp : Word) (s : State) : Host.Outcome State Fault Refusal :=
  chainNext s { mem := true, s := rdOp b } (fun v s =>
    let a := (v.s + disp).toNat
    s.onHere (fun p => (p.purge s.holder (fun e => e.covers a) (fun k => decide (stepKey (k % 8) a = k))).dropWalks s.holder))

/-! ## Latency tolerance (R378, R399) -/

/-- The smaller of two limits in nanoseconds, none meaning unlimited. -/
def limitMin : Option Nat → Option Nat → Option Nat
  | none, b => b
  | a, none => a
  | some a, some b => some (Nat.min a b)

/-- The holders of a cluster's cores. -/
def Package.clusterHolders (p : Package) (k : Nat) : List Nat := (span 0 1 4).map (fun i => p.coreHolder (clusterCore k i))

/-- The tolerance of a holder. -/
def Package.tolerance (p : Package) (h : Nat) : Option Nat :=
  match (p.holderRec h).bind (·.latt) with
  | some (n, _) => if n = 0xFFFFFFFF then none else some n
  | none => none

/-- L of a cluster (R378). -/
def Package.limit (p : Package) (k : Nat) : Option Nat :=
  (p.clusterHolders k).foldl (fun l h => limitMin l (p.tolerance h)) p.ltr

/-- The latency that a power state asks for. -/
def Power.latency : Power → Nat
  | .active => 0 | .gated => 29 | .retain => 3000 | .off => 50000

/-- A latency fits a limit. -/
def fits (n : Nat) : Option Nat → Bool
  | none => true
  | some l => decide (n ≤ l)

/-- Clusters whose state no longer fits their limit start their exit. -/
def Package.enforceLimits (p : Package) (mine : Nat → Bool) : Package :=
  { p with clusters := p.clusters.map (fun e =>
      if mine e.1 && !fits e.2.power.latency (p.limit e.1) then (e.1, { e.2 with exiting := true }) else e) }

def execLatt (src : RegOp) (s : State) : Host.Outcome State Fault Refusal :=
  chainNext s { s := rdOp src } (fun v s =>
    let h := s.holder
    let l := if v.s.getLsbD 63 then none else some (bits v.s 31 0, v.s.getLsbD 32)
    s.onHere (fun p =>
      let p : Package := { p with holders := p.holders.map (fun e => if e.1 = h then (e.1, { e.2 with latt := l }) else e) }
      p.enforceLimits (fun k => (p.clusterHolders k).contains h)))

/-! ## Regions: splitting and merging (R362) -/

/-- A region entry's buddy, when the two may merge. -/
def Package.buddyOf (p : Package) (r : Nat) : Option (Nat × MapEntry) :=
  let e := p.entry r
  let quiet (x : MapEntry) : Bool := decide (x.pend = 0 ∧ x.pkind = 0) && !x.busy
  if ridKind r ≠ 1 ∨ e.holder = 0 ∨ !quiet e then none
  else
    let size := 2 ^ e.log2
    let other := if e.base / size % 2 = 0 then e.base + size else e.base - size
    p.map.find? (fun x => decide (ridKind x.1 = 1 ∧ x.1 ≠ r ∧ x.2.base = other ∧ x.2.log2 = e.log2 ∧ x.2.holder = e.holder ∧
      x.2.heir = e.heir ∧ x.2.lender = e.lender) && quiet x.2)

/-- A region merged with its buddies, as long as one meets the condition; `fuel` bounds the sizes. -/
def Package.merge (p : Package) : Nat → Nat → Package
  | 0, _ => p
  | fuel + 1, r =>
    match p.buddyOf r with
    | none => p
    | some (q, f) =>
      let e := p.entry r
      let (low, high) := if e.base < f.base then (r, q) else (q, r)
      let l := p.entry low
      let g : MapEntry := { l with log2 := l.log2 + 1, gen := (Nat.max e.gen f.gen + 1) % 65536 }
      ({ p with map := tset (tdel p.map high) low g } : Package).merge fuel low

def Package.mergeRegion (p : Package) (r : Nat) : Package := p.merge 64 r

/-- The free indices of the region table kept on a die, lowest first. -/
def Package.freeRegions (p : Package) (die n : Nat) : List Nat :=
  ((span (rid 1 (die * 4096)) 1 4096).filter (fun r => decide ((p.entry r).holder = 0))).take n

/-- The buddy pieces that a split leaves beside a sub-range: base and log2, by size. -/
def buddies (b z : Nat) : Nat → List (Nat × Nat)
  | 0 => []
  | n + 1 =>
    let base := b / 2 ^ z * 2 ^ z
    (if base / 2 ^ z % 2 = 0 then base + 2 ^ z else base - 2 ^ z, z) :: buddies b (z + 1) n

/-- A pair placed in a list in ascending order of its first part. -/
def insertBy (x : Nat × Nat) : List (Nat × Nat) → List (Nat × Nat)
  | [] => [x]
  | y :: t => if x.1 ≤ y.1 then x :: y :: t else y :: insertBy x t

/-- An entry split to a sub-range, which keeps its index; none when the die's table cannot hold the pieces. -/
def Package.split (p : Package) (r b z : Nat) : Option Package :=
  let e := p.entry r
  let pieces := (buddies b z (e.log2 - z)).foldr insertBy []
  let free := p.freeRegions (ridIndex r / 4096) pieces.length
  if free.length < pieces.length then none
  else
    let kept := tset p.map r { e with base := b, log2 := z }
    some { p with map := (free.zip pieces).foldl (fun m x => tset m x.1 { e with base := x.2.1, log2 := x.2.2, pend := 0, pkind := 0 }) kept }

/-! ## Holder records (R367) -/

/-- How many entries the kinds other than regions have (R360). -/
def fixedEntries : Nat := (([0, 2, 3, 4, 5, 6, 7, 8, 9, 10] : List Nat).map kindCount).foldl (· + ·) 0

/-- Something names a holder: an entry, or a transfer under way. Holder 1 also holds what no entry lists. -/
def Package.named (p : Package) (h : Nat) : Bool :=
  p.map.any (fun e => decide (e.2.holder = h ∨ e.2.pend = h ∨ e.2.heir = h ∨ e.2.lender = h)) ||
  (decide (h = 1) && decide ((p.map.filter (fun e => decide (ridKind e.1 ≠ 1))).length < fixedEntries)) ||
  p.flights.any (fun e => match e.2 with
    | .transfer t => decide (t.holder = h ∨ t.lender = h)
    | _ => false)

/-- Records that have ended removed. -/
def Package.prune (p : Package) : Package := { p with holders := p.holders.filter (fun e => p.named e.1) }

def Package.defaultHeir (p : Package) (h : Nat) : Nat := ((p.holderRec h).map (·.heir)).getD 0

def Package.onHolder (p : Package) (h : Nat) (f : HolderRec → HolderRec) : Package :=
  { p with holders := p.holders.map (fun e => if e.1 = h then (e.1, f e.2) else e) }

/-! ## The start of a transfer (R365, step 1) -/

/-- A request for the cluster of a core that has not begun, of the same former holder, budget and reason. -/
def Package.openRequest (p : Package) (c former budget why : Nat) : Option (Nat × Preempt) :=
  firstSome p.flights (fun e => match e.2 with
    | .preempt q =>
      if q.started = false ∧ q.cluster = clusterOf c ∧ q.former = former ∧ q.budget = budget ∧ q.why = why then some (e.1, q) else none
    | _ => none)

/-- A core added to a request. -/
def Package.joinPreempt (p : Package) (id : Nat) (q : Preempt) (c tid : Nat) : Package :=
  p.setJob id (.preempt { q with cores := sadd q.cores c, transfers := q.transfers ++ [tid] })

/-- The pre-emption of a core asked of its cluster's controller; requests of one kind that have not begun are made one. -/
def Package.requestPreempt (p : Package) (c former budget why tid : Nat) : Package :=
  match p.openRequest c former budget why with
  | some (id, q) => p.joinPreempt id q c tid
  | none => p.addJob (.preempt
      { cluster := clusterOf c, cores := [c], former := former, budget := budget, why := why, started := false, starting := [],
        saving := false, saved := [], transfers := [tid] })

/-- The budget of a pre-emption that names none (R365). -/
def defaultBudget : Nat := 65536

/-- A transfer begins: BUSY is set. What pends on the entry stands until the transfer's last step writes it (R364, R365). A core with live threads is pre-empted (R365); one without joins the
request for its cluster that has not begun, where the same trade has made one (R298, log 43). MINT's core holds no thread and is not
pre-empted (R387). -/
def Package.beginTransfer (p : Package) (r holder lender why budget : Nat) (start : Option (Nat × BitVec 56 × Nat × Word × Word)) :
    Package :=
  let e := p.entry r
  let core := decide (ridKind r = 0)
  let p := p.setEntry r { e with busy := true }
  let p := if start.isSome then p.onCore (ridIndex r) (fun k => { k with minted := start.map (·.1) }) else p
  let tid := p.nextId
  let p := p.addJob (.transfer
    { rid := r, former := e.holder, holder := holder, lender := lender, why := why, budget := budget, emptied := !core,
      committed := !core, start := start, onward := 0 })
  if !core then p
  else if (p.core (ridIndex r)).threads.any (fun t => t.2.live) then p.requestPreempt (ridIndex r) e.holder budget why tid
  else match (if start.isSome then none else p.openRequest (ridIndex r) e.holder budget why) with
    | some (id, q) => p.joinPreempt id q (ridIndex r) tid
    | none => p.coreEmptied tid

/-- A lent entry passes back to its lender (R364). -/
def Package.giveBack (p : Package) (r why budget : Nat) : Package := p.beginTransfer r (p.entry r).lender 0 why budget none

/-! ## The judgement of trades (R363, R364) -/

/-- What the map block makes of a request. -/
inductive Judged where
  | wait
  | trap (c : Cause) (v : Word)
  | done (p : Package) (fs : List Fill)
  /-- A claim is open: its chain waits until the claim is settled (R386). -/
  | opened (p : Package) (grace : Nat)

/-- The open claim on an entry. -/
def Package.claimOn (p : Package) (r : Nat) : Option (Nat × Claim) :=
  firstSome p.flights (fun e => match e.2 with
    | .claim c => if c.rid = r then some (e.1, c) else none
    | _ => none)

/-- GIVE and LEND on a whole entry (R364, R388); the result is D's. -/
def Package.offer (p : Package) (r h dest : Nat) (lend : Bool) : Judged :=
  let e := p.entry r
  let cancels := decide (dest = e.holder) && !lend
  if e.holder ≠ h ∨ e.lender ≠ 0 ∨ (e.pkind ≠ 0 ∧ !cancels) then .trap .notHolder (word r)
  else if cancels then .done ((p.setEntry r { e with pend := 0, pkind := 0 }).mergeRegion r) []
  else if (p.holderRec dest).isNone then .trap .notHolder (word r)
  else .done (p.setEntry r { e with pend := dest, pkind := if lend then 2 else 1 }) []

/-- GIVE.s and LEND.s (R389). A request for part of an entry that is BUSY waits unjudged, whoever holds the entry (R386, log 49). -/
def Package.offerPart (p : Package) (q : TradeReq) (lend : Bool) : Judged :=
  let b := q.d.toNat
  let z := lowBits q.t 6
  let dest := lowBits q.s 16
  if z < 6 ∨ 52 < z ∨ b % 2 ^ z ≠ 0 then .trap .memAlign q.d
  else match p.map.find? (fun e => decide (ridKind e.1 = 1 ∧ e.2.holder ≠ 0 ∧ e.2.base ≤ b ∧ b + 2 ^ z ≤ e.2.base + 2 ^ e.2.log2)) with
    | none => .trap .notHolder 0x1FFFFFFF
    | some (r, e) =>
      if e.busy then .wait
      else if e.holder ≠ q.holder then .trap .notHolder 0x1FFFFFFF
      else match p.offer r q.holder dest lend with
        | .done _ _ =>
          (match (if e.log2 = z then some p else p.split r b z) with
          | none => .trap .mapFull (word r)
          | some p' => (match p'.offer r q.holder dest lend with
            | .done p'' _ => .done p'' [⟨q.reg, word r, false, false⟩]
            | j => j))
        | j => j

/-- MINT (R387). -/
def Package.mint (p : Package) (q : TradeReq) : Judged :=
  let c := bits q.d 9 0
  let r := rid 0 c
  let e := p.entry r
  let svc := q.t.getLsbD 4
  let slot := if svc then 63 else 0
  let len := if svc then 32 else 8 * (bits q.t 3 0 + 1)
  if e.holder ≠ q.holder ∨ e.lender ≠ 0 ∨ e.pkind ≠ 0 then .trap .notHolder (word c)
  else if 4096 ≤ p.holders.length then .trap .mapFull (word c)
  else if (p.core c).threads.any (fun t => decide (t.2.life ≠ .free)) then .done p [⟨q.reg, failedWord 5, false, false⟩]
  else match firstIn 2 65534 (fun h => (p.holderRec h).isNone) with
    | none => .trap .mapFull (word c)
    | some h =>
      let g := ((p.core c).thread slot).gen
      let p : Package := { p with holders := tset p.holders h ⟨q.holder, q.holder, some c, none, none, 0⟩ }
      let creator := handleOf q.owner.gen q.owner.core q.owner.slot
      .done (p.beginTransfer r h 0 3 defaultBudget (some (slot, q.s.setWidth 56, len, word (bits q.t 63 16), word creator)))
        [⟨q.reg, word (handleOf g c slot * 65536 + h), false, false⟩]

/-- CLAIM by the heir (R366): notice to the holder, or a transfer at once when the holder holds no core. -/
def Package.openClaim (p : Package) (r claimant grace : Nat) : Judged :=
  let e := p.entry r
  if (p.lowestCore e.holder []).isNone then .done (p.beginTransfer r claimant 0 2 defaultBudget none) []
  else .opened ((p.setEntry r { e with busy := true, pend := 0, pkind := 0 }).notice e.holder 0x0A [word r, word claimant, word grace]) grace

/-- HEIR (R394). -/
def Package.nameHeir (p : Package) (q : TradeReq) : Judged :=
  let r := bits q.d 31 0
  let e := p.entry r
  let h := bits q.s 15 0
  if e.holder ≠ q.holder ∨ e.lender ≠ 0 then .trap .notHolder (word r)
  else .done ((p.setEntry r { e with heir := h }).mergeRegion r) []

def Package.nameDefaultHeir (p : Package) (q : TradeReq) : Package :=
  p.onHolder q.holder (fun r => { r with
    heir := bits q.s 15 0, notice := if q.s.getLsbD 26 then some (bits q.s 25 16) else r.notice })

/-- The entry words that OWNQ returns (R361, R395). -/
def MapEntry.words (e : MapEntry) (r : Nat) : List Word :=
  [word (((ridKind r * 2 ^ 28 + ridIndex r) * 65536 + e.holder) * 65536 + e.heir),
   word ((((e.pend * 65536 + e.lender) * 65536 + e.gen) * 65536) + (if e.busy then 256 else 0) + e.pkind * 64 + e.log2),
   if ridKind r = 1 then word e.base else 0]

def Package.queryWords (p : Package) (h r : Nat) : List Word :=
  let e := p.entry r
  if !ridExists r then [0, 0, 0]
  else if e.holder = h ∨ e.pend = h ∨ e.lender = h ∨ e.heir = h then e.words r
  else [word ((ridKind r * 2 ^ 28 + ridIndex r) * 2 ^ 32), 0, 0]

/-- A trade on one entry that exists and is not BUSY (R364). -/
def Package.judgeEntry (p : Package) (q : TradeReq) (r : Nat) : Judged :=
  let e := p.entry r
  let h := q.holder
  let no : Judged := .trap .notHolder (word r)
  match q.kind with
  | .give => p.offer r h (lowBits q.s 16) false
  | .lend => p.offer r h (lowBits q.s 16) true
  | .accept =>
    if e.pkind = 0 ∨ e.pend ≠ h then no
    else .done (p.beginTransfer r h (if e.pkind = 2 then e.holder else 0) 3 defaultBudget none) []
  | .returnLoan => if e.holder ≠ h ∨ e.lender = 0 then no else .done (p.giveBack r 3 defaultBudget) []
  | .reclaim | .reclaimB =>
    if e.lender = h then .done (p.giveBack r 1 (if q.kind = .reclaimB then bits q.t 31 0 else defaultBudget)) []
    else if e.holder = h ∧ e.lender = 0 then .done p []
    else no
  | .claim =>
    if e.lender = h then .done (p.giveBack r 1 defaultBudget) []
    else if e.holder = h then .done p []
    else if e.heir = h ∧ e.lender = 0 then p.openClaim r h (bits q.t 31 0)
    else no
  | .heir => p.nameHeir q
  | _ => no

/-- DENY (R392): judged at once. The chain of the claim that it ends is complete. -/
def Package.judgeDeny (p : Package) (q : TradeReq) : Judged :=
  let r := bits q.d 31 0
  match p.claimOn r with
  | some (id, c) =>
    if (p.entry r).holder ≠ q.holder then .trap .notHolder (word r)
    else .done ((((p.dropJob id).finishChain c.owner c.len []).setEntry r { p.entry r with busy := false }).mergeRegion r) []
  | none => .trap .notHolder (word r)

/-- The map block's judgement of a request (R363, R386). -/
def Package.judgeTrade (p : Package) (q : TradeReq) : Judged :=
  match q.kind with
  | .ownq => .done p ((p.queryWords q.holder (bits q.d 31 0)).zip (span q.reg 1 3) |>.map (fun e => ⟨e.2, e.1, false, false⟩))
  | .deny => p.judgeDeny q
  | .mint => if (p.entry (rid 0 (bits q.d 9 0))).busy then .wait else p.mint q
  | .giveS => p.offerPart q false
  | .lendS => p.offerPart q true
  | k =>
    let r := bits q.d 31 0
    if k = .heir ∧ r = 0xF0000000 then .done (p.nameDefaultHeir q) []
    else if !ridExists r then .trap .notHolder (word r)
    else if (p.entry r).busy then .wait
    else p.judgeEntry q r

/-- MAP_TRADE_ARRIVAL (R386): a request is judged, unless its entry is BUSY. -/
def execMapTradeArrival (chip : Nat) (id : Nat) (s : State) : Host.Outcome State Fault Refusal :=
  jobStep chip id s (fun p j => match j with
    | .trade q =>
      if p.ownerLive q.owner then
        (match (p.dropJob id).judgeTrade q with
        | .wait => none
        | .trap c v => some ((p.dropJob id).trapReply chip q.owner.core q.owner.slot c v)
        | .done p fs => some ((p.finishChain q.owner q.len fs).prune)
        | .opened p grace => some (p.setJob id (.claim ⟨bits q.d 31 0, q.holder, grace, q.owner, q.len⟩)).prune)
      else none
    | _ => none)

/-- CLAIM_EXPIRY (R366, R386): the grace has passed in silence. The transfer begins, and with it the CLAIM chain is complete. -/
def execClaimExpiry (chip : Nat) (id : Nat) (s : State) : Host.Outcome State Fault Refusal :=
  jobStep chip id s (fun p j => match j with
    | .claim c => some (((p.dropJob id).finishChain c.owner c.len []).beginTransfer c.rid c.claimant 0 2 defaultBudget none)
    | _ => none)

/-! ## The end of a transfer (R168, R365) -/

/-- The physical span of a resource, if it is memory. -/
def Package.spanOf (p : Package) (r : Nat) : Option (Nat × Nat) :=
  let i := ridIndex r
  match ridKind r with
  | 0 => some (i * 0x80000, (i + 1) * 0x80000)
  | 1 => some ((p.entry r).base, (p.entry r).base + 2 ^ (p.entry r).log2)
  | 3 => some (0x40000000000 + i * 0x800000000, 0x40000000000 + (i + 1) * 0x800000000)
  | 10 => some (0x17FC0000000, 0x18000000000)
  | _ => none

/-- A thread whose awaited resource has left its holder is woken (R30). -/
def Package.lose (p : Package) (o : Owner) (r : Nat) : Package :=
  if p.ownerLive o then
    p.onThread o.core o.slot (fun t => { t with
      life := if t.life = .parked then .ready else t.life, reason := none, wait := .none, pend := none, chain := [], waits := none,
      lost := some r })
  else p

/-- The threads that are parked on a resource for a reason lose it (R30). -/
def Package.loseWaiters (p : Package) (why : Reason) (r : Nat) : Package :=
  let waiting := p.cores.flatMap (fun k => (k.2.threads.filter (fun e => decide (e.2.life = .parked ∧ e.2.reason = some why ∧ e.2.waits = some r))).map
    (fun e => (⟨k.1, e.1, e.2.gen⟩ : Owner)))
  waiting.foldl (fun p o => p.lose o r) p

/-- A piece of a copy that touches a span. -/
def Package.pieceTouches (p : Package) (x : Piece) (lo hi : Nat) : Bool :=
  match p.job x.copy with
  | some (.copy c) =>
    let (reads, writes) := p.pieceLines c x.streamer
    (reads ++ writes).any (fun l => decide (lo < l + 64 ∧ l < hi))
  | _ => false

/-- Pieces of copies that have been taken and touch a resource: a transfer lets them end first (R257: a refused piece writes
nothing). -/
def Package.pieceUnder (p : Package) (r : Nat) : Bool :=
  match p.spanOf r with
  | none => false
  | some (lo, hi) => p.flights.any (fun e => match e.2 with
    | .piece x => x.save.isNone && decide (x.stage ≠ .queued) && p.pieceTouches x lo hi
    | _ => false)

/-- Queued pieces of copies that touch a resource which changes holder are refused (R257, R365 step 4). -/
def Package.refusePieces (p : Package) (lo hi : Nat) : Package :=
  { p with flights := p.flights.map (fun e => (e.1, match e.2 with
    | .piece x => .piece (if x.stage = .queued ∧ p.pieceTouches x lo hi = true then { x with refused := true } else x)
    | j => j)) }

/-- A thread is parked with reason WORD: its operation is enlisted, or is held back (R157). -/
def Package.parkedWord (p : Package) (o : Owner) : Bool :=
  decide ((p.thread o.core o.slot).life = .parked ∧ (p.thread o.core o.slot).reason = some .word ∧ (p.thread o.core o.slot).gen = o.gen)

/-- Steps 3 and 4 of R365: cached translations, operations of the former holder on the resource that are enlisted or held back, and
pieces. -/
def Package.leaveMemory (p : Package) (former r : Nat) : Package :=
  match p.spanOf r with
  | none => p
  | some (lo, hi) =>
    let p := (p.purge former (fun e => decide (e.pa < hi) && decide (lo < e.pa + e.size)) (fun _ => true)).dropWalks former
    let mine (j : Job) : Option Owner := match j with
      | .fe h => if (h.enlisted = true ∨ p.parkedWord h.owner = true) ∧ p.coreHolder h.owner.core = former ∧ lo ≤ h.addr ∧ h.addr < hi then some h.owner else none
      | _ => none
    let owners := p.flights.filterMap (fun e => mine e.2)
    owners.foldl (fun p o => p.lose o r) ((p.dropJobs (fun j => (mine j).isSome)).refusePieces lo hi)

/-- A grid slot leaves its holder: the threads that wait on its faces wake, and its deliveries are abandoned (R325). -/
def Package.leaveGrid (p : Package) (r : Nat) : Package :=
  let die := ridIndex r / 64
  let slot := ridIndex r % 64
  let p := p.loseWaiters .halo r
  let slabs := p.flights.filterMap (fun e => match e.2 with
    | .slab x => if x.die = die ∧ x.slot = slot then some (e.1, x) else none
    | _ => none)
  slabs.foldl (fun p e => p.abandon e.1 e.2 0x09) p

/-- A barrier register of a core that passes on: signals already sent stay sent (R304). -/
def Bar.passed (b : Bar) : Bar :=
  { Bar.fresh with phases := b.phasesKept, rowIn := b.rowIn, colIn := b.colIn, rowSent := b.rowSent, colSent := b.colSent,
                   released := b.released, due := b.due }

/-- A core's state as it passes to another holder (R154, R168, R204, R247, R259, R301, R359). -/
def Core.passed (k : Core) : Core :=
  { k with
    elig := 0, accept := [], handlers := [], mbox := [], mboxPos := 0, waitm := [], drops := 0, latch := none, bankFmt := [],
    exported := [], pending := [], logBase := 0, logSize := 0, logNext := none, pairs := [], icache := [], recs := [], conflicts := 0,
    saveArea := 0, bars := k.bars.map (fun e => (e.1, e.2.passed)), dispatch := [], finished := [], tlb := [], walked := [],
    tile := { k.tile with sat := false, compat := false }, packed := false }

/-- A MAP message other than a PREEMPT request goes to the former holder's notice core (R168). -/
def Package.redirect (p : Package) (former c : Nat) (hdr : Word) (pay : List Word) : Package :=
  if bits hdr 63 56 = 3 ∧ bits hdr 7 0 ≠ 7 then
    match p.noticeCore former (c :: p.leaving former) with
    | some n => p.send (Msg.plain c n hdr pay)
    | none => p
  else p

/-- The message in the service latch of a core that passes on. -/
def Package.emptyLatch (p : Package) (former c : Nat) : Package :=
  match (p.core c).latch with
  | none => p
  | some id => match p.job id with
    | some (.msg m) => if bits m.hdr 63 56 = 3 then (p.dropJob id).redirect former c m.hdr (m.pay.take 3) else p
    | _ => p

/-- A line on its way into a core's instruction cache. -/
def fillOf (c : Nat) : Job → Bool
  | .fill core _ _ => decide (core = c)
  | _ => false

/-- A core passes to another holder (R168). A line still on its way into the instruction cache, which is cleared, does not enter it. A message that waits for it in the network is judged anew under the new holder's accept list;
a bind request that has been let in stands (log 49). -/
def Package.passCore (p : Package) (former c : Nat) : Package :=
  let p := p.emptyLatch former c
  let p := (p.core c).mbox.foldl (fun p e => p.redirect former c e.hdr [e.w1, e.w2, e.w3]) p
  let p : Package := { p with flights := p.flights.map (fun e => (e.1, match e.2 with
    | .depo d => if d.dst = c ∧ d.stage = .buffered then .depo { d with stage := .refused } else .depo d
    | .msg m => .msg (if m.dst = c then { m with waiting := false } else m)
    | j => j)) }
  let p := p.dropJobs (fillOf c)
  let p : Package := { p with dies := p.dies.map (fun e => (e.1, { e.2 with
    grids := e.2.grids.map (fun g => (g.1, { g.2 with bound := g.2.bound.filter (fun b => decide (b.core ≠ c)) })) })) }
  (p.onCore c Core.passed).onCluster (clusterOf c) (fun k => { k with tlb := k.tlb.filter (fun e => decide (e.1 ≠ former)) })

/-- The thread that MINT starts, under the new holder's root job cell, which is taken on the core's die; none while that die has no free
cell (log 17). -/
def Package.startMinted (p : Package) (c holder free : Nat) (st : Nat × BitVec 56 × Nat × Word × Word) : Option Package :=
  match p.newCell (coreDie c) free holder 3 0 1 silent true with
  | none => none
  | some (p, cell) =>
    let (slot, entry, len, arg, creator) := st
    some ((p.onHolder holder (fun r => { r with rootCell := cell })).onCore c (fun k =>
      { k.startThread slot (if slot = 63 then 2016 else 0) len entry [(0, creator), (2, arg)] 0 (some cell) none with minted := none }))

/-- The entry as the last step of a transfer writes it. -/
def Package.writeEntry (p : Package) (t : Transfer) : Package :=
  let e := p.entry t.rid
  p.setEntry t.rid { e with
    holder := t.holder, lender := t.lender, heir := if t.lender ≠ 0 then t.lender else p.defaultHeir t.holder,
    gen := (e.gen + 1) % 65536, busy := false, pend := 0, pkind := 0 }

/-- The root slot that leaves its holder is no longer bound (R397). -/
def Package.leaveRoot (p : Package) (former r : Nat) : Package :=
  (p.onHolder former (fun x => if x.rootSlot = some (ridIndex r) then { x with rootSlot := none } else x)).dropWalks former

/-- No operation that has started on a core's own tile is under way (R168). -/
def Package.tileIdle (p : Package) (c : Nat) : Bool :=
  (p.started (clusterOf c)).all (fun x => decide (x.2.fn.tile ≠ some (positionOf c)))

/-- Steps 2 to 5 of R365. A thread that a range fork or a migration has placed on the core since is retired (R260, step 7). -/
def Package.finishTransfer (p : Package) (chip : Nat) (t : Transfer) (free : Nat) : Option Package :=
  let c := ridIndex t.rid
  let p := p.leaveMemory t.former t.rid
  match ridKind t.rid with
  | 0 =>
    let p := (((p.retireAll chip c).passCore t.former c).loseWaiters .acc t.rid).writeEntry t
    (match t.start with
    | some st => p.startMinted c t.holder free st
    | none => some p)
  | 1 => some ((p.writeEntry t).mergeRegion t.rid)
  | 5 => some ((p.leaveGrid t.rid).writeEntry t)
  | 7 => some ((p.leaveRoot t.former t.rid).writeEntry t)
  | _ => some (p.writeEntry t)

/-- The transfer with an id is followed by as many more, by which its resource leaves a holder whose function was reset (R377). -/
def Package.followedBy (p : Package) (tid n : Nat) : Package :=
  match p.job tid with
  | some (.transfer t) => p.setJob tid (.transfer { t with onward := n })
  | _ => p

/-- An entry passes from a holder whose function is reset: to its lender when lent, to its heir, or to the holder's minter
(R377); `more` transfers follow. -/
def Package.passOn (p : Package) (r more : Nat) : Package :=
  let e := p.entry r
  (if e.lender ≠ 0 then p.giveBack r 2 defaultBudget
   else p.beginTransfer r (if e.heir ≠ 0 then e.heir else ((p.holderRec e.holder).map (·.minter)).getD 1) 0 2 defaultBudget none).followedBy
    p.nextId more

/-- MINT's thread takes over a core whose slots are all FREE (R29, R387). -/
def Package.mintWaits (p : Package) (t : Transfer) : Bool :=
  t.start.isSome && (p.core (ridIndex t.rid)).threads.any (fun e => decide (e.2.life ≠ .free))

/-- MAP_TRANSFER_COMPLETE (R365): the last step of a transfer, once its core is empty and committed and no piece of a copy is at
work on the resource. What has been stored on the core since its commit is committed first. Threads that a range fork or a migration
has placed on a core that is being minted are retired, and their slots released, before (R29). -/
def execMapTransferComplete (chip : Nat) (id : Nat) (s : State) : Host.Outcome State Fault Refusal :=
  jobStep chip id s (fun p j => match j with
    | .transfer t =>
      if t.committed && decide (ridKind t.rid = 0) && ((p.core (ridIndex t.rid)).oldest).isSome then
        some ((p.setJob id (.transfer { t with committed := false })).coreEmptied id)
      else if p.mintWaits t then
        when ((p.core (ridIndex t.rid)).threads.any (fun e => e.2.live)) (p.retireAll chip (ridIndex t.rid))
      else if t.emptied && t.committed && !p.pieceUnder t.rid && (decide (ridKind t.rid ≠ 0) || p.tileIdle (ridIndex t.rid)) then
        ((p.dropJob id).finishTransfer chip t (s.free 4)).map (fun p => (if t.onward = 0 then p else p.passOn t.rid (t.onward - 1)).prune)
      else none
    | _ => none)

end Sys2Proof.Machine
end

