-- ==== Sys2Proof/Machine/Hostport.lean ====
section
/-! DEFINITION. The host interface: registers and rings (R369 to R372), packets (R373 to R375), link reset (R376), function-level
reset (R377), and the host's own accesses over CXL (R214, R223). -/

namespace Sys2Proof.Machine

/-! ## Host steps -/

/-- The host interface works: the package has power and has not failed, and the link is up. -/
def Package.hostUp (p : Package) : Bool :=
  p.linkUp && (decide (p.phase = .waiting) || decide (p.phase = .booting) || decide (p.phase = .running))

/-- A step of the host interface, when it may be taken. -/
def hostStep (chip : Nat) (s : State) (f : Package → Package) : Host.Outcome State Fault Refusal :=
  if (s.pkg chip).hostUp then .next (s.onPkg chip f) else .fault .notEnabled

/-- The value of some bytes, little-endian. -/
def leNat : List Byte → Nat
  | [] => 0
  | b :: t => b.toNat + 256 * leNat t

/-- Consecutive bytes of M. -/
def Package.bytesAt (p : Package) (a n : Nat) : List Byte := (p.mem.bytes a n).map (·.2)

/-- STATUS (R369): BOOTED, DUMPED and FATAL; the last two stand once all four dies have dumped (R383). -/
def Package.statusWord (p : Package) : Word :=
  word ((if p.booted then 1 else 0) + if p.phase = .dumped then 6 else 0)

/-- What a function reads in its BAR0 (R369): IDENT, STATUS and the CBPTR of each ring; nothing else can be read. -/
def Package.hostRegister (p : Package) (chip offset : Nat) : Option Word :=
  if offset = 0 then some (Config.identity chip 0)
  else if offset = 8 then some p.statusWord
  else if 0x1000 ≤ offset ∧ offset < 0x3000 ∧ offset % 8 = 0 then some (word (tget p.rings ((offset - 0x1000) / 8) ⟨0, 0, none, 0, false, false, false⟩).cbptr)
  else none

/-- An address lies in HBM (R353). -/
def Package.inHbm (p : Package) (a : Nat) : Bool :=
  match p.place a with
  | .hbm | .dump => true
  | _ => false

/-- A word that the host interface writes. -/
def Package.hostWord (p : Package) (a v : Nat) : Package := p.writeM [] (Machine.bytesAt a v 8)

/-- The holder to which a function is bound (R369). -/
def Package.functionHolder (p : Package) (fn : Nat) : Nat := (p.entry (rid 3 fn)).holder

def Ring.fresh : Ring := ⟨0, 0, none, 0, false, false, false⟩
def Package.ring (p : Package) (r : Nat) : Ring := tget p.rings r Ring.fresh
def Package.setRing (p : Package) (r : Nat) (x : Ring) : Package := { p with rings := tset p.rings r x }
def Package.ringHolder (p : Package) (r : Nat) : Nat := (p.entry (rid 2 r)).holder

/-- A function may write a ring's registers (R369). -/
def Package.mayWriteRing (p : Package) (fn ring : Nat) : Bool :=
  decide (fn ≤ 64 ∧ ring < 1024 ∧ p.ringHolder ring = p.functionHolder fn)

/-! ## Samples (R370, R371) -/

/-- A word of a control block. -/
def Package.blockWord (p : Package) (a i : Nat) : Word := p.mem.word (a + 8 * i)

/-- The checks of a usable sample (R371). A BASE that is not 64-aligned fails as well, and any memory that the holder holds will do for the block
(log 29). -/
def Package.sampleOk (p : Package) (r a : Nat) : Bool :=
  let w := p.blockWord a 2
  let h := bits w 31 16
  let n := bits w 5 0
  let base := (p.blockWord a 1).toNat
  decide (h = p.ringHolder r ∧ 1 ≤ n ∧ n ≤ 16 ∧ base % 64 = 0 ∧ bits w 63 32 = 0 ∧ bits w 15 12 = 0 ∧ bits w 7 6 = 0 ∧
    p.blockWord a 6 = 0 ∧ p.blockWord a 7 = 0) && p.holds h a 64 && p.holds h base (64 * 2 ^ n)

/-- INDIRECTs of a ring that have not ended leave with its restart (R375), those among them that could still complete (log 29). -/
def Package.clearNested (p : Package) (r : Nat) : Package :=
  p.dropJobs (fun j => match j with
    | .packet k => decide (k.ring = r ∧ (k.bytes.headD 0) = 4 ∧ k.outcome = none)
    | _ => false)

/-- A sample of a ring (R371): one that fails its checks sets RSTAT to BAD-BLOCK, and one that comes into force sets it to RUNNING
(R370). Of one that agrees with the version in force in BASE, LOG2N and MERGE only WRIDX is taken, unless the ring is halted. -/
def Package.sample (p : Package) (r : Nat) : Package :=
  let x := p.ring r
  let a := x.cbptr
  if a = 0 then p
  else if (p.blockWord a 0).getLsbD 0 then p.setRing r { x with sampling := true }
  else if !p.sampleOk r a then (p.setRing r { x with sampling := false }).hostWord (a + 40) 2
  else
    let w := p.blockWord a 2
    let b : RingBlock := ⟨(p.blockWord a 1).toNat, bits w 5 0, bits w 11 8, bits w 31 16, (p.blockWord a 3).toNat⟩
    let kept := x.block.filter (fun o => decide (o.base = b.base ∧ o.log2n = b.log2n ∧ o.merge = b.merge) && !x.halted)
    let q := match kept with
      | some o => p.setRing r { x with sampling := false, block := some { o with wridx := b.wridx } }
      | none => (p.clearNested r).setRing r { x with
        sampling := false, block := some b, halted := false, rdidx := (p.blockWord a 4).toNat }
    q.hostWord (a + 40) 0

/-- CBPTR_WRITE (R369, R371): bits [5:0] of the pointer are not kept. -/
def execCbptrWrite (chip fn ring : Nat) (v : Word) (s : State) : Host.Outcome State Fault Refusal :=
  hostStep chip s (fun p =>
    if p.mayWriteRing fn ring then
      let a := v.toNat / 64 * 64
      let x := { p.ring ring with fn := fn, cbptr := a }
      if a = 0 then p.setRing ring { x with block := none, sampling := false } else (p.setRing ring x).sample ring
    else p)

/-- DOORBELL_WRITE (R371). -/
def execDoorbellWrite (chip fn ring : Nat) (s : State) : Host.Outcome State Fault Refusal :=
  hostStep chip s (fun p => if p.mayWriteRing fn ring then p.sample ring else p)

/-- RING_SAMPLE_RETRY (R371). -/
def execRingSampleRetry (chip ring : Nat) (s : State) : Host.Outcome State Fault Refusal :=
  if (s.pkg chip).hostUp ∧ ((s.pkg chip).ring ring).sampling then .next (s.onPkg chip (fun p => p.sample ring)) else .fault .notEnabled

/-- HOST_REGISTER_WRITE (R369): BOOTADR and BOOTLEN, written by function 0. -/
def execHostRegisterWrite (chip fn offset : Nat) (v : Word) (s : State) : Host.Outcome State Fault Refusal :=
  hostStep chip s (fun p =>
    if fn ≠ 0 then p
    else if offset = 0x10 then { p with bootAdr := v }
    else if offset = 0x18 ∧ v.toNat ≤ 524288 then { p with bootLen := v }
    else p)

/-- BOOTGO_WRITE (R382). -/
def execBootgoWrite (chip : Nat) (s : State) : Host.Outcome State Fault Refusal :=
  hostStep chip s (fun p => if p.phase = .waiting then { p with phase := .booting } else p)

/-! ## Packets (R372 to R374) -/

def HostPacket.kind (k : HostPacket) : Nat := (k.bytes.headD 0).toNat
def HostPacket.num (k : HostPacket) (at_ n : Nat) : Nat := leNat ((k.bytes.drop at_).take n)
def HostPacket.sig (k : HostPacket) : Nat := k.num 8 8
def HostPacket.aprop (k : HostPacket) : Bool := decide (k.num 1 1 / 2 % 2 = 1)

/-- Nothing reserved is set (R6, R373). -/
def HostPacket.clean (k : HostPacket) : Bool :=
  let zero (at_ n : Nat) : Bool := decide (k.num at_ n = 0)
  decide (k.num 1 1 < 4) && zero 2 6 &&
  (match k.kind with
  | 0 => zero 16 48
  | 1 => decide (k.num 16 2 < 1024 ∧ k.num 18 1 < 64 ∧ k.num 20 4 < 2 ^ 20) && zero 19 1
  | 2 => zero 40 24
  | 3 => decide (k.num 32 1 < 2) && zero 33 31
  | 4 => zero 28 36
  | 5 => zero 40 24
  | _ => false)

/-- The physical address of an access of a packet (R373); none when its translation fails. -/
def Package.packetAddr (p : Package) (k : HostPacket) (va pick : Nat) (need : Perm) : Option Nat :=
  match p.translateFor k.holder va pick need with
  | .ok pa => (match p.place pa with
    | .control | .nowhere => none
    | _ => some pa)
  | _ => none

/-- A word of 8 bytes named by a packet. -/
def Package.packetWord (p : Package) (k : HostPacket) (va pick : Nat) (need : Perm) : Option Nat :=
  if va % 8 = 0 then p.packetAddr k va pick need else none

/-- A packet as it is taken. -/
def HostPacket.new (ring holder depth : Nat) (parent : Option Nat) (bytes : List Byte) : HostPacket :=
  let k : HostPacket := { ring := ring, holder := holder, bytes := bytes, depth := depth, parent := parent, taken := false, next := 0,
                          cell := none, hold := false, outcome := none }
  { k with hold := decide (k.num 1 1 % 2 = 1) }

/-- A packet runs: nothing reserved is set in it and its SIG, if it has one, is translated (R373). -/
def Package.runs (p : Package) (k : HostPacket) (pick : Nat) : Bool :=
  k.clean && (decide (k.sig = 0) || (p.packetWord k k.sig pick { r := true, w := true }).isSome)

/-- A packet that holds what comes after it: by HOLD, or an INDIRECT whose array is still running (R374, R375). -/
def HostPacket.holds (k : HostPacket) : Bool := k.hold || (decide (k.kind = 4) && k.outcome.isNone)

/-- Something holds the packets of a ring that come after it; `inside` are the INDIRECTs in whose array the next one stands. -/
def Package.ringHeld (p : Package) (r : Nat) (inside : List Nat) : Bool :=
  p.flights.any (fun e => match e.2 with
    | .packet k => decide (k.ring = r) && !inside.contains e.1 && k.holds
    | _ => false)

/-- The abort state of a ring at its next packet (R374): whether the packet is skipped, and the state after it. -/
def Ring.judge (x : Ring) (bytes : List Byte) : Bool × Ring :=
  let aprop := decide (leNat ((bytes.drop 1).take 1) / 2 % 2 = 1)
  if x.abort then (if aprop then (true, x) else (false, { x with abort := false })) else (false, x)

/-- A packet of a ring taken and run at a depth: it ends ABORTED at once when it is malformed or skipped. -/
def Package.runPacket (p : Package) (r holder depth : Nat) (parent : Option Nat) (bytes : List Byte) (pick : Nat) : Package :=
  let (skip, x) := (p.ring r).judge bytes
  let k := HostPacket.new r holder depth parent bytes
  (p.setRing r x).addJob (.packet (if p.runs k pick && !skip then k else { k with outcome := some false }))

/-- The merge group of a ring whose head can be taken now. The version in force is served until another replaces it, whoever holds the
ring by then (R371, log 29). -/
def Package.ringReady (p : Package) (r : Nat) : Option Nat :=
  let x := p.ring r
  match x.block with
  | none => none
  | some b =>
    if x.halted ∨ x.rdidx = b.wridx ∨ p.ringHeld r [] then none else some b.merge

/-- Numbers from a turn on, and then those before it. -/
def fromTurn (t n : Nat) : List Nat := span t 1 (n - t) ++ span 0 1 (Nat.min t n)

/-- The ring of a group whose turn it is: the rings of a group are visited in ascending order, one packet from each (R372). -/
def Package.groupRing (p : Package) (g : Nat) : Option Nat :=
  (fromTurn (tget p.mergeTurn g 0) 1024).find? (fun r => decide (p.ringReady r = some g))

/-- The ring that the merge unit takes from next: the groups are served round robin, one packet each (R372). -/
def Package.nextRing (p : Package) : Option (Nat × Nat) :=
  firstSome (fromTurn (tget p.mergeTurn 16 0) 16) (fun g => (p.groupRing g).map (fun r => (g, r)))

/-- PACKET_TAKE (R372): the head of the ring whose turn it is, in a package that runs (log 49). RDIDX is written at the ring's pointer as it
stands (log 29). -/
def execPacketTake (chip ring : Nat) (s : State) : Host.Outcome State Fault Refusal :=
  pkgStep chip s (fun p =>
    let x := p.ring ring
    match x.block, p.nextRing with
    | some b, some (g, r) => when (decide (r = ring))
      (let bytes := p.bytesAt (b.base + 64 * (x.rdidx % 2 ^ b.log2n)) 64
       let next := (x.rdidx + 1) % 2 ^ 64
       let p := { p with mergeTurn := tset (tset p.mergeTurn g (ring + 1)) 16 (g + 1) }
       ((p.setRing ring { x with rdidx := next }).hostWord (x.cbptr + 32) next).runPacket ring b.holder 0 none bytes (s.free 9))
    | _, _ => none)

/-- A step on a packet that has no outcome yet. -/
def packetStep (kind chip id : Nat) (s : State) (f : Package → HostPacket → Option Package) : Host.Outcome State Fault Refusal :=
  jobStep chip id s (fun p j => match j with
    | .packet k => if k.kind = kind ∧ k.outcome = none then f p k else none
    | _ => none)

def Package.packetDone (p : Package) (id : Nat) (k : HostPacket) (ok : Bool) : Package := p.setJob id (.packet { k with outcome := some ok })

/-- PACKET_NOP. -/
def execPacketNop (chip : Nat) (id : Nat) (s : State) : Host.Outcome State Fault Refusal :=
  packetStep 0 chip id s (fun p k => some (p.packetDone id k true))

/-- The parent cell of a LAUNCH: the named one, or the holder's root job cell when it names none. -/
def Package.launchUnder (p : Package) (k : HostPacket) : Option Nat :=
  let c := k.num 20 4
  if c = 0 then some (((p.holderRec k.holder).map (·.rootCell)).getD 0)
  else if p.mayParent k.holder c 0 then some c
  else none

/-- The holders whose LAUNCH packets wait for their turn (R328). -/
def Package.launchWaiters (p : Package) : List Nat :=
  p.flights.filterMap (fun e => match e.2 with
    | .packet k => if k.kind = 1 ∧ k.outcome = none ∧ k.taken = false then some k.holder else none
    | _ => none)

/-- PACKET_LAUNCH (R373): a message of KIND HOST, charged to the ring holder (R372). One for handler 0 makes no cell, and its parent is not
looked at. -/
def execPacketLaunch (chip : Nat) (id : Nat) (s : State) : Host.Outcome State Fault Refusal :=
  packetStep 1 chip id s (fun p k =>
    let dst := k.num 16 2
    let handler := k.num 18 1
    let w (i : Nat) : Word := word (k.num (24 + 8 * i) 8)
    if k.taken then none
    else if handler = 0 ∧ (w 3 ≠ 0 ∨ w 4 ≠ 0) then some (p.packetDone id k false)
    else match (if handler = 0 then some ((p.launchUnder k).getD 0) else p.launchUnder k) with
    | none => some (p.packetDone id k false)
    | some cell =>
      when (p.serves blockHostNi k.holder p.launchWaiters)
        ((((p.charge blockHostNi k.holder 1).setJob id (.packet { k with taken := true })).send
          { Msg.plain dst dst (header 4 handler k.holder 0 0) ((span 0 1 (if handler = 0 then 3 else 5)).map w) with
            launch := some (id, cell) })))

/-- PACKET_BARRIER (R373): ABORTED as soon as a word is negative, OK when none is positive. -/
def execPacketBarrier (chip : Nat) (id : Nat) (s : State) : Host.Outcome State Fault Refusal :=
  packetStep 2 chip id s (fun p k =>
    let named := ([16, 24, 32].map (fun i => k.num i 8)).filter (· ≠ 0)
    let words := named.map (fun va => (p.packetWord k va (s.free 9) { r := true }).map (fun pa => (p.mem.word pa).toInt))
    if words.any (fun w => match w with
      | none => true
      | some v => decide (v < 0)) then some (p.packetDone id k false)
    else when (words.all (fun w => match w with
      | none => false
      | some v => decide (v ≤ 0))) (p.packetDone id k true))

/-- PACKET_SIGNAL (R373): an addition or a store, performed at its home; a store needs W alone (R357). -/
def execPacketSignal (chip : Nat) (id : Nat) (s : State) : Host.Outcome State Fault Refusal :=
  packetStep 3 chip id s (fun p k =>
    let adds := decide (k.num 32 1 = 0)
    match p.packetWord k (k.num 16 8) (s.free 9) { r := adds, w := true } with
    | none => some (p.packetDone id k false)
    | some pa => when (p.awakeAt pa)
        ((if adds then (p.atomic none .add true pa (word (k.num 24 8)) 0).1 else p.writeM [] (bytesAt pa (k.num 24 8) 8)).packetDone id k true))

/-- The INDIRECTs in whose arrays a packet stands, itself first; `fuel` bounds the depth. -/
def Package.enclosing (p : Package) : Nat → Nat → List Nat
  | 0, _ => []
  | fuel + 1, id => id :: (match p.job id with
    | some (.packet k) => (match k.parent with
      | some q => p.enclosing fuel q
      | none => [])
    | _ => [])

/-- The 64 bytes of a packet of an array. -/
def Package.arrayPacket (p : Package) (k : HostPacket) (va pick : Nat) : Option (List Byte) :=
  (span va 1 64).mapM (fun a => (p.packetAddr k a pick { r := true }).map p.mem.byte)

/-- An INDIRECT of a packet's array has not ended: it stands in place of the array's packet (R375). -/
def Package.nestedOpen (p : Package) (id : Nat) : Bool :=
  p.flights.any (fun e => match e.2 with
    | .packet k => decide (k.parent = some id ∧ k.kind = 4 ∧ k.outcome = none)
    | _ => false)

/-- PACKET_INDIRECT (R375): the next packet of the array, run one level deeper; at depth 4 the ring halts, and the INDIRECTs around it
never complete. An INDIRECT ends when the last packet of its array is taken, the packets of an INDIRECT standing there in its place. -/
def execPacketIndirect (chip : Nat) (id : Nat) (s : State) : Host.Outcome State Fault Refusal :=
  packetStep 4 chip id s (fun p k =>
    let count := k.num 24 4
    if k.depth = 4 then
      let q := (p.packetDone id k false).setRing k.ring { p.ring k.ring with halted := true }
      some (if (p.ring k.ring).cbptr = 0 then q else q.hostWord ((p.ring k.ring).cbptr + 40) 1)
    else if (p.ring k.ring).halted then none
    else if count ≤ k.next then when (!p.nestedOpen id) (p.packetDone id k true)
    else if p.ringHeld k.ring (p.enclosing 5 id) then none
    else match p.arrayPacket k (k.num 16 8 + 64 * k.next) (s.free 9) with
      | none => some (p.packetDone id k false)
      | some bytes =>
        let q := (p.setJob id (.packet { k with next := k.next + 1 })).runPacket k.ring k.holder (k.depth + 1) (some id) bytes (s.free 9)
        some (if k.next + 1 = count ∧ q.nestedOpen id = false then q.packetDone id { k with next := k.next + 1 } true else q))

/-- The pages of a span of virtual bytes, by number from the first. -/
def Package.packetPages (p : Package) (k : HostPacket) (pick : Nat) (need : Perm) (unit : Nat) : Nat → Nat → Tab Nat → Option (Tab Nat)
  | 0, _, acc => some acc
  | n + 1, i, acc => match p.packetAddr k (unit + 4096 * i) pick need with
    | some pa =>
      let exported := match p.place pa with
        | .scratch c b => (p.core c).exported.contains b
        | _ => false
      if need.w && exported then none else p.packetPages k pick need unit n (i + 1) (tset acc i (pa / 4096 * 4096))
    | none => none

/-- An operand of a COPY packet: consecutive bytes. -/
def Package.packetOperand (p : Package) (k : HostPacket) (va len pick : Nat) (need : Perm) : Option Operand :=
  (p.packetPages k pick need (va / 4096 * 4096) ((va % 4096 + len + 4095) / 4096) 0 []).map (fun pages =>
    { recNo := 0, va := word va, off := va % 4096, fmt := viewByte, scaleOff := 0, e0 := len, e1 := 1, e2 := 1, e3 := 1,
      s0 := 1, s1 := 0, s2 := 0, s3 := 0, pages := pages })

/-- PACKET_COPY (R373): a copy of bytes whose completion goes to the host interface. One of no bytes is OK at once, with nothing translated
(log 49). -/
def execPacketCopy (chip : Nat) (id : Nat) (s : State) : Host.Outcome State Fault Refusal :=
  packetStep 5 chip id s (fun p k =>
    let len := k.num 32 8
    if k.taken then none
    else if len = 0 then some (p.packetDone id k true)
    else match p.packetOperand k (k.num 24 8) len (s.free 9) { w := true }, p.packetOperand k (k.num 16 8) len (s.free 9) { r := true } with
      | some d, some o =>
        some ((p.setJob id (.packet { k with taken := true })).startCopy
          (Copy.new ⟨1024, 0, 0⟩ k.holder silent 0 true d o 1 0 (some id)))
      | _, _ => some (p.packetDone id k false))

/-! ## Completion (R373, R374) -/

/-- The word that the completion of a packet writes; none where it has no SIG, or one that is not translated. -/
def Package.signalWord (p : Package) (k : HostPacket) (pick : Nat) : Option Nat :=
  if k.sig = 0 then none else p.packetWord k k.sig pick { r := true, w := true }

/-- The completion signal of a packet can be written: its word lies in no cluster in a power state (R378). -/
def Package.signalFree (p : Package) (k : HostPacket) (pick : Nat) : Bool :=
  match p.signalWord k pick with
  | some pa => p.awakeAt pa
  | none => true

/-- The completion signal of a packet: one less when it is OK, the most negative number when it is ABORTED. A signal in a host
window is left alone when `spare` says so. -/
def Package.signal (p : Package) (k : HostPacket) (ok spare : Bool) (pick : Nat) : Package :=
  match p.signalWord k pick with
  | none => p
  | some pa =>
    let inHost := match p.place pa with
      | .host _ => true
      | _ => false
    if spare && inHost then p
    else (p.atomic none (if ok then .add else .swap) true pa (if ok then BitVec.allOnes 64 else word (2 ^ 63)) 0).1

/-- The abort state of a ring when a packet of it ends: a BARRIER that ends ABORTED sets it (R374). -/
def Package.noteAbort (p : Package) (k : HostPacket) (ok : Bool) : Package :=
  if k.kind = 2 ∧ ok = false then p.setRing k.ring { p.ring k.ring with abort := true } else p

/-- A packet ends: its signal, and what it makes of the abort state of its ring. -/
def Package.endPacket (p : Package) (k : HostPacket) (ok spare : Bool) (pick : Nat) : Package := (p.signal k ok spare pick).noteAbort k ok

/-- PACKET_COMPLETE. A signal for a cluster in a power state waits for the exit (R378). -/
def execPacketComplete (chip : Nat) (id : Nat) (s : State) : Host.Outcome State Fault Refusal :=
  jobStep chip id s (fun p j => match j with
    | .packet k => k.outcome.bind (fun ok => when (p.signalFree k (s.free 9)) ((p.dropJob id).endPacket k ok false (s.free 9)))
    | _ => none)

/-- A packet completes ABORTED. Where its signal waits for a cluster's exit (R378), the packet stays until then, as one whose kind does
no more to its ring. -/
def Package.abortPacket (p : Package) (k : HostPacket) (spare : Bool) (pick : Nat) : Package :=
  if p.signalFree k pick then p.endPacket k false spare pick
  else (p.noteAbort k false).addJob (.packet { k with bytes := 0 :: k.bytes.drop 1, outcome := some false })

/-- Every packet of some rings completes ABORTED. -/
def Package.abortPackets (p : Package) (mine : Nat → Bool) (spare : Bool) (pick : Nat) : Package :=
  let ks := p.flights.filterMap (fun e => match e.2 with
    | .packet k => if mine k.ring then some k else none
    | _ => none)
  let p := p.dropJobs (fun j => match j with
    | .packet k => mine k.ring
    | _ => false)
  ks.foldl (fun p k => p.abortPacket k spare pick) p

/-! ## Link reset (R376) -/

/-- A piece touches a host window. -/
def Package.pieceInHost (p : Package) (x : Piece) : Bool := p.pieceTouches x 0x40000000000 (0x40000000000 + 65 * 0x800000000)

/-- The pieces of copies in host windows end ABORTED, whether they have been taken or not (R257, R376). -/
def Package.abortPieces (p : Package) : Package :=
  let ids := p.flights.filterMap (fun e => match e.2 with
    | .piece x => if x.save.isNone ∧ p.pieceInHost x = true then some e.1 else none
    | _ => none)
  ids.foldl (fun p id => match p.job id with
    | some (.piece x) => p.endPiece id x 0x02
    | _ => p) p

/-- HOST_LINK_RESET (R376). The LTR value, BOOTADR and BOOTLEN stand (log 49). -/
def execHostLinkReset (chip : Nat) (s : State) : Host.Outcome State Fault Refusal :=
  if (s.pkg chip).phase = .unpowered then .fault .notEnabled
  else .next (s.onPkg chip (fun p =>
    let blocks := p.rings.filterMap (fun e => if e.2.cbptr ≠ 0 ∧ p.inHbm e.2.cbptr = true then some e.2.cbptr else none)
    let p := p.abortPackets (fun _ => true) true (s.free 9)
    let p := (blocks.foldl (fun p a => p.hostWord (a + 40) 3) p).abortPieces
    { p with rings := [], mergeTurn := [], linkUp := false }))

/-- HOST_LINK_UP. -/
def execHostLinkUp (chip : Nat) (s : State) : Host.Outcome State Fault Refusal :=
  if (s.pkg chip).phase ≠ .unpowered ∧ (s.pkg chip).linkUp = false then .next (s.onPkg chip (fun p => { p with linkUp := true }))
  else .fault .notEnabled

/-! ## Function-level reset (R377) -/

/-- A packet queued in a ring completes ABORTED, with what it makes of the ring's abort state (R374). -/
def Package.drainPacket (p : Package) (r holder : Nat) (bytes : List Byte) (pick : Nat) : Package :=
  (p.setRing r ((p.ring r).judge bytes).2).abortPacket (HostPacket.new r holder 0 none bytes) false pick

/-- The packets queued in a ring complete ABORTED, and RDIDX reaches WRIDX. -/
def Package.drainQueue (p : Package) (r pick : Nat) : Package :=
  let x := p.ring r
  match x.block with
  | none => p
  | some b =>
    let n := Nat.min ((b.wridx + 2 ^ 64 - x.rdidx) % 2 ^ 64) (2 ^ b.log2n)
    let p := (span x.rdidx 1 n).foldl (fun p j =>
      p.drainPacket r b.holder (p.bytesAt (b.base + 64 * (j % 2 ^ b.log2n)) 64) pick) p
    (p.setRing r { p.ring r with rdidx := b.wridx }).hostWord (x.cbptr + 32) b.wridx

/-- Rings drained: every packet taken or queued completes ABORTED. -/
def Package.drainRings (p : Package) (mine : Nat → Bool) (pick : Nat) : Package :=
  let rs := (p.rings.map (·.1)).filter mine
  rs.foldl (fun p r => p.drainQueue r pick) (p.abortPackets mine false pick)

/-- Entries by id that satisfy a test. -/
def Package.entriesWhere (p : Package) (f : MapEntry → Bool) : List Nat := (p.map.filter (fun e => f e.2)).map (·.1)

/-- The loans of a holder reclaimed; they then pass on. -/
def Package.reclaimAll (p : Package) (h : Nat) : Package :=
  (p.entriesWhere (fun e => decide (e.lender = h) && !e.busy)).foldl (fun p r =>
    (p.giveBack r 1 defaultBudget).followedBy p.nextId 1) p

/-- Transfers in progress that bring an entry to a holder go on from there when they end, and a loan that one makes for it is then
taken back and passed on. -/
def Package.passThrough (p : Package) (h : Nat) : Package :=
  { p with flights := p.flights.map (fun e => (e.1, match e.2 with
    | .transfer t => .transfer (if t.holder = h then { t with onward := 1 } else if t.lender = h then { t with onward := 2 } else t)
    | j => j)) }

/-- An entry that a reset of holder h has left quiet merges with its buddy (R362); one that h holds passes on in the same step. -/
def Package.mergeUnless (p : Package) (h r : Nat) : Package := if (p.entry r).holder = h then p else p.mergeRegion r

/-- Pending trades to or from a holder cancelled; what pends on an entry that is BUSY goes with its transfer (R364). -/
def Package.cancelOffers (p : Package) (h : Nat) : Package :=
  (p.entriesWhere (fun e => decide (e.pkind ≠ 0 ∧ e.busy = false ∧ (e.holder = h ∨ e.pend = h)))).foldl (fun p r =>
    (p.setEntry r { p.entry r with pend := 0, pkind := 0 }).mergeUnless h r) p

/-- The claims open on a holder's entries, and those that it has opened, give way; their chains are complete. -/
def Package.dropClaims (p : Package) (h : Nat) : Package :=
  p.flights.foldl (fun p e => match e.2 with
    | .claim c =>
      if (p.entry c.rid).holder = h ∨ c.claimant = h then
        (((p.dropJob e.1).finishChain c.owner c.len []).setEntry c.rid { p.entry c.rid with busy := false }).mergeUnless h c.rid
      else p
    | _ => p) p

/-- FUNCTION_LEVEL_RESET (R377), in a package that runs (log 49). -/
def execFunctionLevelReset (chip fn : Nat) (s : State) : Host.Outcome State Fault Refusal :=
  pkgStep chip s (fun p =>
    let h := p.functionHolder fn
    if ¬ p.linkUp ∨ 64 < fn then none
    else if h = 1 ∨ fn = 0 then some (p.drainRings (fun r => decide ((p.ring r).fn = fn ∧ p.ringHolder r = h)) (s.free 9))
    else
      let p := p.drainRings (fun r => decide (p.ringHolder r = h)) (s.free 9)
      let p := (((p.passThrough h).reclaimAll h).cancelOffers h).dropClaims h
      some (((p.entriesWhere (fun e => decide (e.holder = h) && !e.busy)).foldl (fun p r => p.passOn r 0) p).prune))

/-! ## The host's own accesses (R214, R223) -/

/-- A byte that the host may write over CXL, or in its own memory. -/
def Package.hostMayReach (p : Package) (a : Nat) : Bool :=
  (match p.place a with
  | .control | .nowhere => false
  | _ => true) && p.awakeAt a

/-- HOST_CXL_WRITE (R214). -/
def execHostCxlWrite (chip addr : Nat) (bytes : List Byte) (s : State) : Host.Outcome State Fault Refusal :=
  let as := span addr 1 bytes.length
  if (s.pkg chip).hostUp ∧ as.all (s.pkg chip).hostMayReach then
    .next (s.onPkg chip (fun p => p.writeM [] (as.zip bytes)))
  else .fault .notEnabled

/-- HOST_CXL_READ (R223): the host reads M, which changes nothing. -/
def execHostCxlRead (chip addr n : Nat) (s : State) : Host.Outcome State Fault Refusal :=
  if (s.pkg chip).linkUp ∧ (s.pkg chip).phase ≠ .unpowered ∧ (span addr 1 n).all (s.pkg chip).hostMayReach then .next s
  else .fault .notEnabled

/-- HOST_LTR_UPDATE (R378). -/
def execHostLtrUpdate (chip ns : Nat) (s : State) : Host.Outcome State Fault Refusal :=
  hostStep chip s (fun p => { p with ltr := some ns })

end Sys2Proof.Machine
end

