-- ==== Sys2Proof/Machine/Power.lean ====
section
/-! DEFINITION. Cluster power (R378), power-up and boot (R379, R382), fatal errors and the dump (R383), and link retries (R381,
R415). -/

namespace Sys2Proof.Machine

/-! ## Cluster power (R378) -/

def Package.clusterCores (k : Nat) : List Nat := (span 0 1 4).map (clusterCore k)

/-- An address lies in a scratchpad of a cluster. -/
def Package.inCluster (p : Package) (k a : Nat) : Bool :=
  match p.place a with
  | .scratch c _ => decide (clusterOf c = k)
  | _ => false

/-- Engine work or a commit that involves a cluster. -/
def Package.involves (p : Package) (k : Nat) : Job → Bool
  | .cassia o => decide (clusterOf o.owner.core = k)
  | .piece x =>
    decide (x.streamer = blockClusterClove k) || x.toWrite.any (p.inCluster k) ||
    (match p.job x.copy with
    | some (.copy c) => c.dst.pages.any (fun e => p.inCluster k e.2)
    | _ => false)
  | .slab x => decide (clusterOf x.core = k) || (!x.self && !x.notice && decide (clusterOf x.dstCore = k))
  | .commit c => c.scope.any (fun x => decide (clusterOf x = k))
  | _ => false

/-- A cluster is idle. -/
def Package.idle (p : Package) (k : Nat) : Bool :=
  (Package.clusterCores k).all (fun c =>
    (p.core c).threads.all (fun e => decide (e.2.life ≠ .ready)) && (p.core c).dispatch.isEmpty) &&
  p.flights.all (fun e => !p.involves k e.2)

/-- A cluster may enter OFF, its limit apart. -/
def Package.mayTurnOff (p : Package) (k : Nat) : Bool :=
  (Package.clusterCores k).all (fun c => (p.core c).threads.all (fun e => !e.2.live)) &&
  (p.clusterHolders k).all (fun h => match (p.holderRec h).bind (·.latt) with
    | some (_, ok) => ok
    | none => false)

/-- The deepest state that a cluster may enter. -/
def Package.deepest (p : Package) (k : Nat) : Option Power :=
  let l := p.limit k
  if fits 50000 l && p.mayTurnOff k then some .off
  else if fits 3000 l then some .retain
  else if fits 29 l then some .gated
  else none

/-- CLUSTER_POWER_EXIT_START: an arrival starts the exit. What arrives, and when, is left to the order of steps (log 33). -/
def execClusterPowerExitStart (chip cluster : Nat) (s : State) : Host.Outcome State Fault Refusal :=
  pkgStep chip s (fun p => when (decide ((p.cluster cluster).power ≠ .active) && !(p.cluster cluster).exiting)
    (p.onCluster cluster (fun c => { c with exiting := true })))

/-- A memory in which a span of scratchpad is zeroed and full. -/
def Memory.clear (m : Memory) (lo n : Nat) : Memory :=
  let out (a : Nat) : Bool := decide (a < lo ∨ lo + n ≤ a)
  { cells := m.cells.filter (fun c => out c.1), empties := m.empties.filter out, tags := m.tags.filter out, bad := m.bad.filter out }

/-- A core whose cluster has entered OFF: nothing is kept but the generations of its slots and those that are not yet FREE (log 32). -/
def Core.afterOff (k : Core) (m : Memory) : Core :=
  { Core.fresh with
    threads := k.threads.map (fun e => (e.1, { Thread.freshIn e.1 with gen := e.2.gen, life := e.2.life })), view := m, minted := k.minted }

/-- The scratchpad of a core whose cluster has entered OFF, as it stands when the cluster leaves OFF. Its words are new versions for
every other core (R378). -/
def Package.zeroScratch (p : Package) (c : Nat) : Package :=
  let ws := spanWords (c * 0x80000) 0x80000
  ({ p with mem := p.mem.clear (c * 0x80000) 0x80000 } : Package).unsettle [] ws

/-- A bank of a tile whose contents have been lost: the spec gives them no values, so that free ones stand there (log 32). -/
def lostBank (tick use : Nat) : Tab (BitVec 32) := (span 0 1 16384).map (fun e => (e, (Config.freeWord tick (use + e)).setWidth 32))

/-- A core whose cluster has entered RETAIN keeps its registers and its queues; its instruction cache, its translations and the banks of
its tile are lost (R378). -/
def Core.afterRetain (k : Core) (c tick : Nat) : Core :=
  { k with
    icache := [], tlb := [], walked := [],
    tile := { k.tile with
      working := lostBank tick (c * 65536), visible := lostBank tick (c * 65536 + 32768), wbad := [], vbad := [] } }

/-- What a cluster keeps in a power state (R378): everything in GATED; its scratchpads, registers and queues in RETAIN; nothing in OFF. -/
def Package.enterPower (p : Package) (cluster tick : Nat) (w : Power) : Package :=
  let cores := Package.clusterCores cluster
  let p := p.onCluster cluster (fun c => { c with power := w, exiting := false })
  match w with
  | .off =>
    let q := cores.foldl Package.zeroScratch (p.onCluster cluster (fun c => { c with scan := 0, rows := [], tlb := [] }))
    cores.foldl (fun q c => q.onCore c (fun k => k.afterOff q.mem)) q
  | .retain => cores.foldl (fun q c => q.onCore c (fun k => k.afterRetain c tick)) (p.onCluster cluster (fun c => { c with rows := [], tlb := [] }))
  | _ => p

/-- CLUSTER_POWER_ENTRY (R378). -/
def execClusterPowerEntry (chip cluster : Nat) (s : State) : Host.Outcome State Fault Refusal :=
  pkgStep chip s (fun p =>
    if cluster < 256 ∧ (p.cluster cluster).power = .active ∧ p.idle cluster then
      (p.deepest cluster).map (p.enterPower cluster s.tick)
    else none)

/-- CLUSTER_POWER_EXIT_COMPLETE (R378): what entered since waits in the cluster, as a recruit's thread does (R307). -/
def execClusterPowerExitComplete (chip cluster : Nat) (s : State) : Host.Outcome State Fault Refusal :=
  pkgStep chip s (fun p => when (p.cluster cluster).exiting (p.onCluster cluster (fun c => { c with power := .active, exiting := false })))

/-! ## Power-up and boot (R379, R382) -/

/-- The regions of a second-tier port: one for each set bit of its size in bytes, the largest first (log 34). A region is no smaller
than 64 bytes (R361). -/
def tierRegions (base size : Nat) : Nat → List (Nat × Nat)
  | 0 => []
  | n + 1 =>
    if size / 2 ^ n % 2 = 1 ∧ 6 ≤ n then (base, n) :: tierRegions (base + 2 ^ n) size n else tierRegions base size n

/-- The map that the boot sequencers build. -/
def bootMap (tier0 tier1 : Nat) : Tab MapEntry :=
  let rs := tierRegions 0x20000000000 tier0 42 ++ tierRegions 0x80000000000 tier1 42
  bootRegions ++ ((span 0x10000009 1 rs.length).zip rs).map (fun e => (e.1, ⟨1, 0, 0, 0, 0, false, 0, e.2.2, e.2.1⟩))

/-- A package whose sequencers have done steps 1 and 2 of R382. -/
def bootPackage (tier0 tier1 : Nat) : Package :=
  { Package.fresh with tier0 := tier0, tier1 := tier1, map := bootMap tier0 tier1 }

/-- POWER_UP. -/
def execPowerUp (chip : Nat) (s : State) : Host.Outcome State Fault Refusal :=
  sysStep s (fun s => if s.onTorus chip ∧ (s.pkg chip).phase = .unpowered then
    some (s.onPkg chip (fun p => bootPackage p.tier0 p.tier1)) else none)

/-- POWER_LOSS (R379): all state is lost, with the packets that the package holds and what the host windows showed (log 37). -/
def execPowerLoss (chip : Nat) (s : State) : Host.Outcome State Fault Refusal :=
  if (s.pkg chip).phase = .unpowered then .fault .notEnabled
  else
    let t := s.onPkg chip (fun p => { Package.absent with tier0 := p.tier0, tier1 := p.tier1 })
    .next { t with packets := t.packets.filter (fun e => decide (e.2.here ≠ chip)) }

/-- The boot image: host memory of function 0 from BOOTADR; what lies outside that window has free values (log 35). -/
def Package.bootImage (p : Package) (tick : Nat) : List (Nat × Byte) :=
  (span 0 1 p.bootLen.toNat).map (fun i =>
    let a := p.bootAdr.toNat + i
    (i, if a < 0x800000000 then p.mem.byte (0x40000000000 + a) else BitVec.ofNat 8 (Config.freeNat tick (1000 + i))))

/-- BOOT_START: the image is copied, and slot 0 of core 0 starts under holder 1's root job cell. -/
def execBootStart (chip : Nat) (s : State) : Host.Outcome State Fault Refusal :=
  sysStep s (fun s =>
    let p := s.pkg chip
    if p.phase = .booting ∧ p.linkUp then
      let p := p.writeM [] (p.bootImage s.tick)
      (p.newCell 0 (s.free 4) 1 3 0 1 silent true).map (fun (p, cell) =>
        let p := p.onHolder 1 (fun r => { r with rootCell := cell })
        let p := p.onCore 0 (fun k => k.startThread 0 0 64 0 [(2, p.bootLen)] 0 (some cell) none)
        s.setPkg chip { p with phase := .running, booted := true })
    else none)

/-! ## Fatal errors and the dump (R383) -/

/-- FATAL_ERROR: the dies freeze. -/
def execFatalError (chip die : Nat) (cause : Byte) (s : State) : Host.Outcome State Fault Refusal :=
  sysStep s (fun s =>
    let p := s.pkg chip
    if die < 4 ∧ (p.phase = .waiting ∨ p.phase = .booting ∨ p.phase = .running) then
      some (s.setPkg chip { p with phase := .frozen, fatal := some (die, cause) })
    else none)

/-- What a slot leaves in the dump. -/
def Package.slotDump (p : Package) (core slot : Nat) : SlotDump :=
  let t := (p.core core).thread slot
  { core := core, slot := slot, life := t.life, control := (span 0 1 8).map t.control,
    window := (span t.base 1 t.len).map (fun i => tget (p.core core).regs i RegCell.fresh), ports := t.ports }

/-- What the dump sequencer of a die writes. Of the map it holds the region entries that are kept on the die (R360) and the entries of
the other kinds, of which the spec does not say where they are kept (log 36). -/
def Package.dieDump (p : Package) (die : Nat) : DieDump :=
  let cores := span (256 * die) 1 256
  { cause := (p.fatal.map (·.2)).getD 0, die := (p.fatal.map (·.1)).getD 0,
    counters := (span (4 * die) 1 4).map (fun i => tget p.errors i 0),
    slots := cores.flatMap (fun c => (span 0 1 64).map (p.slotDump c)),
    entries := p.map.filter (fun e => decide (ridKind e.1 ≠ 1 ∨ ridIndex e.1 / 4096 = die)),
    mailboxes := cores.map (fun c => (c, (p.core c).mbox)),
    dispatch := cores.map (fun c => (c, (p.core c).dispatch)) }

/-- The bytes that a die writes into its quarter of the dump region (R383): the spec gives them no layout (log 36). -/
def Package.dumpBytes (p : Package) (die : Nat) : List (Nat × Byte) :=
  let d := p.dieDump die
  (span 0 1 0x10000000).filterMap (fun i => (Config.dumpLayout d i).map (fun b => (0x17FC0000000 + die * 0x10000000 + i, b)))

/-- DUMP_COMPLETE. -/
def execDumpComplete (chip : Nat) (s : State) : Host.Outcome State Fault Refusal :=
  sysStep s (fun s =>
    let p := s.pkg chip
    if p.phase = .frozen then
      let q := (span 0 1 4).foldl (fun q d => q.writeM [] (p.dumpBytes d)) p
      some (s.setPkg chip { q with phase := .dumped })
    else none)

/-- FUNDAMENTAL_RESET: a package that has dumped boots as R382 gives; its memory stands as it was (log 37). -/
def execFundamentalReset (chip : Nat) (s : State) : Host.Outcome State Fault Refusal :=
  sysStep s (fun s =>
    let p := s.pkg chip
    if p.phase = .dumped then
      let t := s.setPkg chip { bootPackage p.tier0 p.tier1 with mem := p.mem, dflt := { Core.fresh with view := p.mem } }
      some { t with packets := t.packets.filter (fun e => decide (e.2.here ≠ chip)) }
    else none)

/-- Failed replays in a row that take a link down (R415). -/
def replayLimit : Nat := 16

/-- The link of a port carries packets: it has not failed 16 replays in a row (R415). -/
def Package.carries (p : Package) (u : Nat) : Bool := decide (tget p.replays u 0 < replayLimit)

/-- LINK_REPLAY (R381, R415): one more link retry, which is counted. Whether the replay fails again is a free choice; one that
succeeds ends the row of failures. Ports 0 to 3 count on die 0 and ports 4 to 7 on die 1 (log 30). -/
def execLinkReplay (chip port : Nat) (s : State) : Host.Outcome State Fault Refusal :=
  pkgStep chip s (fun p => when (decide (port < 8) && !p.linksDown.contains port && p.carries port)
    (let p := p.count (port / 4) 2
     if s.free 5 % 2 = 1 then { p with replays := tset p.replays port (tget p.replays port 0 + 1) }
     else { p with replays := tdel p.replays port }))

end Sys2Proof.Machine
end

