-- ==== Sys2Proof/Machine/Fabric.lean ====
section
/-! DEFINITION. Fabric instructions (R426 to R439): capabilities (R408 to R410), remote loads, stores, atomics and fences as their
chips issue them, departures of migrating threads (R419), multicast groups and guest pools. -/

namespace Sys2Proof.Machine

/-! ## Capabilities (R408 to R410, R428) -/

def capChip (w1 : Word) : Nat := bits w1 63 44
def capLog2 (w1 : Word) : Nat := bits w1 43 38
def capHolder (w1 : Word) : Nat := bits w1 31 16
def capGen (w1 : Word) : Nat := bits w1 15 0

/-- The permission bits of word 1. -/
def permR : Nat := 37
def permW : Nat := 36
def permA : Nat := 35
def permM : Nat := 34
def permT : Nat := 32

def capLog2Ok (l : Nat) : Bool := decide (6 ≤ l ∧ l ≤ 57)

/-- A capability's word 1, from its fields. -/
def capWord1 (chip log2 perms holder gen : Nat) : Word :=
  word ((((chip % 2 ^ 20 * 64 + log2 % 64) * 64 + perms % 64) * 65536 + holder % 65536) * 65536 + gen % 65536)

/-- A capability operand as its chain reads it. -/
structure Cap where
  w0 : Word
  w1 : Word
  tag : Bool
  deriving DecidableEq, Repr

def State.cap (s : State) (n : Nat) : Cap := ⟨s.reg n, s.reg (n + 1), s.pairTag n⟩

/-- The checks of R428 on an access of n bytes. -/
def State.checkCap (s : State) (c : Cap) (a : Word) (n perm : Nat) : Check Unit := do
  s.stopWhen (decide (a.toNat % n ≠ 0)) .memAlign 0 a
  s.stopWhen (!capAllows c.w0 c.w1 c.tag perm a.toNat n) .cap 0 c.w1

/-- The entry that covers a physical address (R411), as a capability names it: its generation. The dump region's entry is one (log 49). -/
def Package.grantOf (p : Package) (pa : Nat) : Option MapEntry :=
  match p.place pa with
  | .scratch _ _ | .hbm | .dump | .tier _ => (p.covering pa).map (fun e => p.entry e.1)
  | _ => none

/-- CAPMK (R429). -/
def execCapmk (d : Reg) (src : RegOp) (t : RegOp) (s : State) : Host.Outcome State Fault Refusal :=
  chain s { mem := true, t := rdOp t, s := rdOp src, d := wrGroup d 2 } (fun v s => Check.run (do
    let pa ← s.checkXlate v.s {} 1
    let l := capLog2 v.t
    let e := s.here.grantOf pa
    let tag := capLog2Ok l && e.isSome
    let gen := if tag then (e.map (·.gen)).getD 0 else 0
    let n := d.toNat
    let s := (s.setReg n v.s).setReg (n + 1) (capWord1 s.cur.chip l (bits v.t 37 32) s.holder gen)
    return .next (s.onHereCore (fun k => k.setPairTag s.me n tag))))

/-- CAPNAR (R430). -/
def execCapnar (d : Reg) (src : RegOp) (t : RegOp) (imm : BitVec 12) (s : State) : Host.Outcome State Fault Refusal :=
  chainNext s { t := rdOp t, s := rdGroup src 2, d := wrGroup d 2 } (fun v s =>
    let c := s.cap src.n.toNat
    let l := imm.toNat % 64
    let old := capLog2 c.w1
    let perms := bits c.w1 37 32 &&& (imm.toNat / 64)
    let tag := c.tag && decide (6 ≤ l ∧ l ≤ old) && decide (v.t.toNat / 2 ^ old = c.w0.toNat / 2 ^ old)
    let n := d.toNat
    let s := (s.setReg n v.t).setReg (n + 1) (capWord1 (capChip c.w1) l perms (capHolder c.w1) (capGen c.w1))
    s.onHereCore (fun k => k.setPairTag s.me n tag))

/-- CAPCHK (R431). -/
def execCapchk (d : Reg) (src : RegOp) (s : State) : Host.Outcome State Fault Refusal :=
  chainNext s { s := rdGroup src 2, d := wrReg d } (fun _ s =>
    let c := s.cap src.n.toNat
    let l := capLog2 c.w1
    s.setReg d.toNat (if capLog2Ok l then
        word ((if c.tag then 2 ^ 63 else 0) + c.w0.toNat / 2 ^ l * 2 ^ l % 2 ^ 57)
      else 0))

/-! ## The checks of the target (R411) -/

/-- The physical address of an access under a capability, or none when the target refuses it. -/
def Package.target (p : Package) (w1 : Word) (a n pick : Nat) (need : Perm) : Option Nat :=
  match p.translateFor (capHolder w1) a pick need with
  | .ok pa =>
    let ok (b : Nat) : Bool := match p.grantOf b with
      | some e => decide (e.holder = capHolder w1 ∧ e.gen = capGen w1)
      | none => false
    if ok pa && ok (pa + n - 1) then some pa else none
  | _ => none

/-! ## The fabric error record and what a fence covers (R413) -/

def Cover.fresh : Cover := ⟨[], none⟩
def Thread.cover (t : Thread) (chip : Nat) : Cover := tget t.covers chip Cover.fresh
def Thread.setCover (t : Thread) (chip : Nat) (c : Cover) : Thread := { t with covers := tset t.covers chip c }

/-- A change of the thread in a package whose earlier requests stand under an owner of another slot or chip. -/
def Package.onFormer (p : Package) (src : Nat) (o : Owner) (f : Thread → Thread) : Package :=
  { p with cores := p.cores.map (fun k => (k.1, { k.2 with
    threads := k.2.threads.map (fun e => (e.1, if e.2.former.contains (src, o) then f e.2 else e.2)) })) }

/-- A change of the thread that a migration carries, if its earlier requests stand under that owner. -/
def Packet.onFormer (k : Packet) (src : Nat) (o : Owner) (f : Thread → Thread) : Packet :=
  match k.load with
  | .migrate t regs h homing origin => if t.former.contains (src, o) then { k with load := .migrate (f t) regs h homing origin } else k
  | _ => k

/-- The record of a thread's requests to a chip changed, while the thread lives: in the slot from which it issued them, or where it
has migrated since (R221, R413). -/
def State.onCover (s : State) (src : Nat) (o : Owner) (dst : Nat) (f : Cover → Cover) : State :=
  let change (t : Thread) : Thread := t.setCover dst (f (t.cover dst))
  if (s.pkg src).ownerLive o ∧ ((s.pkg src).thread o.core o.slot).life ≠ .migrating then
    s.onPkg src (fun p => p.onThread o.core o.slot change)
  else { s with
    chips := s.chips.map (fun e => (e.1, e.2.onFormer src o change)),
    packets := s.packets.map (fun e => (e.1, e.2.onFormer src o change)) }

def Cover.fail (c : Cover) (status : Nat) : Cover := { c with failed := some (c.failed.getD status) }

/-- A posted request of a thread (R413). -/
def Packet.posted (k : Packet) : Bool :=
  k.slab.isNone && (match k.load with
    | .store _ _ | .posted _ _ => true
    | _ => false)

/-- A posted request of an owner on a chip to a chip that is not yet answered. -/
def Packet.covered (k : Packet) (src : Nat) (o : Owner) (dst : Nat) : Bool :=
  decide (k.original = none ∧ k.src = src ∧ k.dst = dst ∧ k.owner = o) && k.posted

/-- A posted request of the issuing thread to a chip is not yet answered, be it one that it sent before it migrated (R221, R413). -/
def State.covering (s : State) (dst : Nat) : Bool :=
  ((s.cur.chip, s.owner) :: s.me.former).any (fun f => s.packets.any (fun e => e.2.covered f.1 f.2 dst))

def statusDupLost : Nat := 4
def statusNoRoute : Nat := 5
def statusRevoked : Nat := 6

/-! ## Requests are settled at their source (R412 to R414, R424, R425, R435) -/

/-- The registers of a remote atomic filled from its reply. -/
def Package.replyAtomic (p : Package) (k : Packet) (val : Word) (bad : Bool) (status : Nat) : Package :=
  p.addJob (.result k.owner (.regs [⟨k.reg, if status = 0 then val else 0, bad, false⟩, ⟨k.reg2, word status, false, false⟩]))

/-- A port of a thread whose partner cannot be reached becomes BROKEN (R424). -/
def Package.breakMine (p : Package) (o : Owner) (port : Nat) : Package :=
  let t := p.thread o.core o.slot
  if p.ownerLive o ∧ ((t.port port).st = .bound ∨ (t.port port).st = .binding) then
    p.setThread o.core o.slot (t.setPort port { t.port port with st := .broken })
  else p

/-- An answer to a packet of a delivery (R325). -/
def Package.settleSlab (p : Package) (j id : Nat) (k : Packet) (status : Nat) : Package :=
  match p.job j with
  | some (.slab x) =>
    if status ≠ 0 then p.abandon j x status
    else (match k.load with
      | .store _ _ => p.setJob j (.slab { x with acks := x.acks.filter (· ≠ id) })
      | _ => p.dropJob j)
  | _ => p

/-- A FENCE's answer completes its chain (R436): the status in D, and what it covered is covered no more. -/
def Package.settleFence (p : Package) (id : Nat) (k : Packet) (status : Nat) : Package :=
  let t := p.thread k.owner.core k.owner.slot
  match t.wait with
  | .fence i len =>
    if i = id ∧ p.ownerLive k.owner then
      let p := p.onThread k.owner.core k.owner.slot (fun t => { t.setCover k.dst Cover.fresh with wait := .none })
      p.finishChain k.owner len [⟨k.reg, word status, false, false⟩]
    else p
  | _ => p

/-- What the answer to a request does in the package of its source. -/
def Package.settleRequest (p : Package) (id : Nat) (k : Packet) (val : Word) (bad : Bool) (status : Nat) : Package :=
  match k.slab with
  | some j => p.settleSlab j id k status
  | none =>
    match k.load with
    | .amo _ _ _ _ => p.replyAtomic k val bad status
    | .fence _ _ => p.settleFence id k status
    | .portValue _ => if status = statusNoRoute then p.breakMine k.owner k.reg else p
    | .portBind b => if status = statusNoRoute then p.breakMine b.owner b.port else p
    | _ => p

/-- What the answer to a request does: a posted failure goes into the record of its thread (R413). -/
def State.settleRequest (s : State) (id : Nat) (k : Packet) (val : Word) (bad : Bool) (status : Nat) : State :=
  let s := s.onPkg k.src (fun p => p.settleRequest id k val bad status)
  if k.posted ∧ status ≠ 0 then s.onCover k.src k.owner k.dst (fun c => c.fail status) else s

/-- The status with which a target has taken a request. -/
def State.doneStatus (s : State) (k : Packet) : Nat :=
  if ((s.pkg k.dst).tgtStream k.src k.unit).refused.contains k.seq then statusRevoked else 0

/-- The status that a request ends with. A FENCE whose flag has been written ends OK even if its answer was lost: R436 forbids a
full flag beside another status (log 30). -/
def State.endStatus (s : State) (k : Packet) (status : Nat) : Nat :=
  match k.load with
  | .fence _ _ => if status = statusNoRoute ∧ s.performed k then s.doneStatus k else status
  | _ => status

/-- The copies of a thread's FENCE that ended NO-ROUTE are lost: no flag is written beside that status (R425, R436, log 30). -/
def State.loseCopies (s : State) (id : Nat) (k : Packet) (status : Nat) : State :=
  match k.load, k.slab with
  | .fence _ _, none =>
    if status = statusNoRoute then { s with packets := s.packets.filter (fun e => decide (e.2.original ≠ some id)) } else s
  | _, _ => s

/-- A request answered: its copy is released. -/
def State.settle (s : State) (id : Nat) (k : Packet) (val : Word) (bad : Bool) (status : Nat) : State :=
  let status := s.endStatus k status
  let s := s.loseCopies id k status
  let s := s.onPkg k.src (fun p =>
    let st := p.srcStream k.dst k.unit
    { p with src := tset p.src (streamKey k.dst k.unit) { st with out := st.out.filter (fun o => decide (o.packet ≠ id)) } })
  let s := s.settleRequest id k val bad status
  { s with packets := tdel s.packets id }

/-- A request sent; one whose destination is no chip of the torus ends NO-ROUTE at its source unit (R405). -/
def State.sendRequest (s : State) (k : Packet) : State :=
  if s.onTorus k.dst then s.inject k
  else s.settleRequest s.nextPacket k 0 false statusNoRoute

/-- The source unit takes a request of the issuing thread for a chip. -/
def State.mayRequest (s : State) (dst : Nat) : Bool := !s.onTorus dst || s.unitAccepts s.cur.chip dst s.holder

/-! ## Remote stores (R434) -/

/-- STR: the bytes travel under the capability; a tagged pair's tag goes along when the capability allows it. -/
def State.store (s : State) (c : Cap) (a : Word) (bytes : List (Nat × Byte)) (tag : Bool) : Check Res := do
  s.checkCap c a bytes.length permW
  return if !s.mayRequest (capChip c.w1) then s.parkUnit (capChip c.w1)
    else .next (s.sendRequest (s.request (capChip c.w1) a c.w1 0 (.store (bytes.map (·.2)) (tag && c.w1.getLsbD permT))))

def execStr (sz : Size) (d : Reg) (b : RegOp) (disp : Word) (s : State) : Host.Outcome State Fault Refusal :=
  chain s { mem := true, s := rdGroup b 2, d := rdReg d } (fun v s => Check.run (
    s.store (s.cap b.n.toNat) (v.s + disp) (bytesAt 0 v.d.toNat (sizeBytes sz)) false))

def execStrQ (d : Reg) (hi : RegOp) (c : RegOp) (disp : Word) (s : State) : Host.Outcome State Fault Refusal :=
  chain s { mem := true, t := rdOp hi, s := rdGroup c 2, d := rdReg d } (fun v s => Check.run (
    let n := d.toNat
    let pair := decide (n % 2 = 0 ∧ hi.n.toNat = n + 1) && s.pairTag n
    s.store (s.cap c.n.toNat) (v.s + disp) (bytesAt 0 v.d.toNat 8 ++ bytesAt 8 v.t.toNat 8) pair))

/-! ## Remote atomics (R435) -/

/-- RAMO and RCAS with a reply: the pair D is emptied until it comes. -/
def remoteAtomic (op : AmoOp) (double : Bool) (d : Reg) (b : RegOp) (disp : Word) (t : Opr) (s : State) :
    Host.Outcome State Fault Refusal :=
  chain s { mem := true, t := t, s := rdGroup b 2, d := rwGroup d 2 } (fun v s => Check.run (do
    let c := s.cap b.n.toNat
    let a := v.s + disp
    s.checkCap c a (atomicBytes double) permA
    return if !s.mayRequest (capChip c.w1) then s.parkUnit (capChip c.w1)
      else
        let k := s.request (capChip c.w1) a c.w1 d.toNat (.amo op double v.d v.t)
        .next (((s.emptyReg d.toNat).emptyReg (d.toNat + 1)).sendRequest k)))

/-- RAMO.n: posted. -/
def postedAtomic (op : AmoOp) (d : Reg) (b : RegOp) (disp : Word) (s : State) : Host.Outcome State Fault Refusal :=
  chain s { mem := true, s := rdGroup b 2, d := rdReg d } (fun v s => Check.run (do
    let c := s.cap b.n.toNat
    let a := v.s + disp
    s.checkCap c a 8 permA
    return if !s.mayRequest (capChip c.w1) then s.parkUnit (capChip c.w1)
      else .next (s.sendRequest (s.request (capChip c.w1) a c.w1 0 (.posted op v.d)))))

def execRamoAddD (d : Reg) (b : RegOp) (disp : Word) (s : State) : Host.Outcome State Fault Refusal :=
  remoteAtomic .add true d b disp .none s
def execRamoAndD (d : Reg) (b : RegOp) (disp : Word) (s : State) : Host.Outcome State Fault Refusal :=
  remoteAtomic .and true d b disp .none s
def execRamoOrD (d : Reg) (b : RegOp) (disp : Word) (s : State) : Host.Outcome State Fault Refusal :=
  remoteAtomic .or true d b disp .none s
def execRamoXorD (d : Reg) (b : RegOp) (disp : Word) (s : State) : Host.Outcome State Fault Refusal :=
  remoteAtomic .xor true d b disp .none s
def execRamoMinD (d : Reg) (b : RegOp) (disp : Word) (s : State) : Host.Outcome State Fault Refusal :=
  remoteAtomic .min true d b disp .none s
def execRamoMaxD (d : Reg) (b : RegOp) (disp : Word) (s : State) : Host.Outcome State Fault Refusal :=
  remoteAtomic .max true d b disp .none s
def execRamoMinuD (d : Reg) (b : RegOp) (disp : Word) (s : State) : Host.Outcome State Fault Refusal :=
  remoteAtomic .minu true d b disp .none s
def execRamoMaxuD (d : Reg) (b : RegOp) (disp : Word) (s : State) : Host.Outcome State Fault Refusal :=
  remoteAtomic .maxu true d b disp .none s
def execRamoSwapD (d : Reg) (b : RegOp) (disp : Word) (s : State) : Host.Outcome State Fault Refusal :=
  remoteAtomic .swap true d b disp .none s
def execRamoAddW (d : Reg) (b : RegOp) (disp : Word) (s : State) : Host.Outcome State Fault Refusal :=
  remoteAtomic .add false d b disp .none s
def execRamoAndW (d : Reg) (b : RegOp) (disp : Word) (s : State) : Host.Outcome State Fault Refusal :=
  remoteAtomic .and false d b disp .none s
def execRamoOrW (d : Reg) (b : RegOp) (disp : Word) (s : State) : Host.Outcome State Fault Refusal :=
  remoteAtomic .or false d b disp .none s
def execRamoXorW (d : Reg) (b : RegOp) (disp : Word) (s : State) : Host.Outcome State Fault Refusal :=
  remoteAtomic .xor false d b disp .none s
def execRamoMinW (d : Reg) (b : RegOp) (disp : Word) (s : State) : Host.Outcome State Fault Refusal :=
  remoteAtomic .min false d b disp .none s
def execRamoMaxW (d : Reg) (b : RegOp) (disp : Word) (s : State) : Host.Outcome State Fault Refusal :=
  remoteAtomic .max false d b disp .none s
def execRamoMinuW (d : Reg) (b : RegOp) (disp : Word) (s : State) : Host.Outcome State Fault Refusal :=
  remoteAtomic .minu false d b disp .none s
def execRamoMaxuW (d : Reg) (b : RegOp) (disp : Word) (s : State) : Host.Outcome State Fault Refusal :=
  remoteAtomic .maxu false d b disp .none s
def execRamoSwapW (d : Reg) (b : RegOp) (disp : Word) (s : State) : Host.Outcome State Fault Refusal :=
  remoteAtomic .swap false d b disp .none s
def execRcasD (d : Reg) (b : RegOp) (disp : Word) (t : RegOp) (s : State) : Host.Outcome State Fault Refusal :=
  remoteAtomic .cas true d b disp (rdOp t) s
def execRcasW (d : Reg) (b : RegOp) (disp : Word) (t : RegOp) (s : State) : Host.Outcome State Fault Refusal :=
  remoteAtomic .cas false d b disp (rdOp t) s
def execRamoAddN (d : Reg) (b : RegOp) (disp : Word) (s : State) : Host.Outcome State Fault Refusal :=
  postedAtomic .add d b disp s
def execRamoAndN (d : Reg) (b : RegOp) (disp : Word) (s : State) : Host.Outcome State Fault Refusal :=
  postedAtomic .and d b disp s
def execRamoOrN (d : Reg) (b : RegOp) (disp : Word) (s : State) : Host.Outcome State Fault Refusal :=
  postedAtomic .or d b disp s
def execRamoXorN (d : Reg) (b : RegOp) (disp : Word) (s : State) : Host.Outcome State Fault Refusal :=
  postedAtomic .xor d b disp s
def execRamoMinN (d : Reg) (b : RegOp) (disp : Word) (s : State) : Host.Outcome State Fault Refusal :=
  postedAtomic .min d b disp s
def execRamoMaxN (d : Reg) (b : RegOp) (disp : Word) (s : State) : Host.Outcome State Fault Refusal :=
  postedAtomic .max d b disp s
def execRamoMinuN (d : Reg) (b : RegOp) (disp : Word) (s : State) : Host.Outcome State Fault Refusal :=
  postedAtomic .minu d b disp s
def execRamoMaxuN (d : Reg) (b : RegOp) (disp : Word) (s : State) : Host.Outcome State Fault Refusal :=
  postedAtomic .maxu d b disp s
def execRamoSwapN (d : Reg) (b : RegOp) (disp : Word) (s : State) : Host.Outcome State Fault Refusal :=
  postedAtomic .swap d b disp s

/-! ## Fences (R436) -/

/-- FFENCE: it parks until what it covers is answered, reports the first failure, or sends its FENCE and parks until that is
answered. -/
def execFfence (d : Reg) (src : RegOp) (t : RegOp) (s : State) : Host.Outcome State Fault Refusal :=
  chain s { mem := true, t := rdOp t, s := rdGroup src 2, d := wrReg d } (fun v s => Check.run (do
    let c := s.cap src.n.toNat
    let f := c.w0
    let dst := capChip c.w1
    let cov := s.me.cover dst
    s.checkCap c f 8 permW
    return if s.covering dst then s.parkFor (.cover dst) .fence
      else match cov.failed with
        | some st => .next ((s.onMe (fun t => t.setCover dst Cover.fresh)).setReg d.toNat (word st))
        | none =>
          if !s.onTorus dst then .next ((s.onMe (fun t => t.setCover dst Cover.fresh)).setReg d.toNat (word statusNoRoute))
          else if !s.mayRequest dst then s.parkUnit dst
          else
            let k := s.request dst f c.w1 d.toNat (.fence v.t cov.words)
            (s.inject k).parkFor (.fence s.nextPacket s.cur.words.length) .fence))

/-! ## Remote loads and departures (R419, R432, R433) -/

/-- The source unit toward a chip takes the issuing thread (R407, R419). -/
def State.mayLeave (s : State) (dst : Nat) : Bool :=
  !s.onTorus dst || (match s.route false s.cur.chip dst with
    | some u => s.ringRoom s.cur.chip u 2 && s.unitServes s.cur.chip u s.holder
    | none => true)

/-- The issuing thread leaves for a chip (R419): its ports are released, the deposits that wait for its registers are refused
(R162), and it is MIGRATING until its packet has left. Its record of requests goes with it (R413). -/
def State.depart (s : State) (dst : Nat) (addr cap1 : Word) (homing : Bool) : Res :=
  let t := s.me
  let o := s.owner
  if s.cur.slot = 63 ∨ t.pair.isSome then .trap s .role 0 (chainWord0 s)
  else if 32 < t.len then .trap s .migrateTooLarge 0 (word t.len)
  else if s.owes s.cur.chip o then .replay s
  else if !s.mayLeave dst then s.parkFor (.leave dst) .net
  else
    let home := t.home.getD ⟨s.cur.chip, s.cur.core, s.holder⟩
    let regs := (span 0 1 t.len).map (fun n => s.hereCore.reg t n)
    let away := (t.cell.map (fun c => (s.cur.chip, c))).or t.away
    let load : Load := .migrate { t with home := some home, away := away, former := t.former ++ [(s.cur.chip, o)] } regs s.self homing (s.cur.core, s.cur.slot)
    let k := s.request dst addr cap1 0 load
    let s := (span 0 1 6).foldl (fun s q => s.onHere (fun p => p.unbind s.cur.chip s.cur.core s.cur.slot q)) s
    let s := s.onHere (fun p => { p with flights := p.flights.map (fun e => (e.1, refuseDeposit s.cur.core s.cur.slot e.2)) })
    let s := s.onMe (fun t => { t with life := .migrating, chain := [], pend := none, reply := none })
    .moved (if s.onTorus dst then (s.chargeFabric k).launch k s.cur.chip none none
      else s.launch { k with dst := s.cur.chip } s.cur.chip none none)

/-- A load of the issuing chip under a capability (R432): the target's checks, then plain loads at the physical address. -/
def State.capLoad (s : State) (c : Cap) (a : Word) (n : Nat) (done : Nat → State → Res) : Check Res := do
  s.checkCap c a n permR
  return if capChip c.w1 ≠ s.cur.chip then
      (if c.w1.getLsbD permM then s.depart (capChip c.w1) a c.w1 false else .trap s .cap 0 c.w1)
    else if s.here.gated s.cur.core then .replay s
    else match s.here.target c.w1 a.toNat n (s.free 9) { r := true } with
      | none => .trap s .cap 0 c.w1
      | some pa => done pa s

def execLdr (sz : Size) (d : Reg) (b : RegOp) (disp : Word) (s : State) : Host.Outcome State Fault Refusal :=
  let n := sizeBytes sz
  chain s { mem := true, s := rdGroup b 2, d := wrReg d } (fun v s => Check.run (
    s.capLoad (s.cap b.n.toNat) (v.s + disp) n (fun pa s =>
      let l := s.plainLoad pa n 3
      .next (s.result [⟨d.toNat, word l.val, l.bad, false⟩]))))

/-- LDR.q: the pair is tagged when both words' versions carry the tag (R213, log 49). -/
def execLdrQ (d : Reg) (hi : RegOp) (c : RegOp) (disp : Word) (s : State) : Host.Outcome State Fault Refusal :=
  chain s { mem := true, t := wrReg hi.n, s := rdGroup c 2, d := wrReg d } (fun v s => Check.run (
    s.capLoad (s.cap c.n.toNat) (v.s + disp) 16 (fun pa s =>
      let lo := s.plainLoad pa 8 3
      let up := s.plainLoad (pa + 8) 8 4
      let pair := decide (d.toNat % 2 = 0 ∧ hi.n.toNat = d.toNat + 1) && lo.tag && up.tag
      .next (s.result [⟨hi.n.toNat, word up.val, up.bad, false⟩, ⟨d.toNat, word lo.val, lo.bad, pair⟩]))))

/-- HOME (R433). -/
def execHome (s : State) : Host.Outcome State Fault Refusal :=
  chain s {} (fun _ s =>
    match s.me.home with
    | some h => if h.chip = s.cur.chip then .next s else s.depart h.chip 0 0 true
    | none => .next s)

/-! ## Multicast (R422, R423, R437, R438) -/

def groupRid (g : Nat) : Nat := 0x40000000 + g
def Package.group (p : Package) (g : Nat) : List Word := tget p.groups g (List.replicate 16 0)

def State.checkGroup (s : State) (g : Nat) : Check Unit :=
  s.stopWhen (decide ((s.here.entry (groupRid g)).holder ≠ s.holder)) .notHolder 0 (word (groupRid g))

/-- The members of a group entry, by index from 0. -/
def members (e : List Word) : List (Nat × Word) := ((span 0 1 15).zip e.tail).filter (fun m => m.2.getLsbD 0)

/-- A copy for one member. -/
def State.mcastCopy (s : State) (g gen : Nat) (c : Cap) (m : Nat × Word) : Msg :=
  { Msg.plain s.cur.core (bits m.2 43 34) (header 0 (bits m.2 33 28) s.holder s.self 0)
      [c.w0, c.w1, word (gen * 65536 + g * 256 + m.1)] with
    srcChip := s.cur.chip, tagged := c.tag, inject := decide (bits m.2 63 44 = s.cur.chip) }

/-- The source unit toward a chip takes one copy of an MCAST. Its turn there is that of the chain, which a unit serves with all its copies
at once: the first needs the turn, and those behind it room in stream and ring, and to be below the ceiling (R328, R437, log 49). -/
def State.mayCopy (s : State) (served : List Nat) (dst : Nat) : Bool :=
  match s.route false s.cur.chip dst with
  | some u =>
    if s.onTorus dst && served.contains u then
      decide (((s.here).srcStream dst (s.unitOf s.cur.chip dst)).out.length < 64) && s.ringRoom s.cur.chip u 0 && s.here.admits (blockFabric u) s.holder
    else s.mayRequest dst
  | none => s.mayRequest dst

/-- One copy after the other sent; where one is refused, the chip whose source unit refuses it, or none for the network of this one.
`served`: the units that have taken a copy. -/
def State.mcastSend (s : State) (g gen : Nat) (c : Cap) (served : List Nat) : List (Nat × Word) → Except (Option Nat) State
  | [] => .ok s
  | m :: rest =>
    let dst := bits m.2 63 44
    let k := s.mcastCopy g gen c m
    if dst = s.cur.chip then
      (if s.msgRefused 1 then .error none
       else (s.onHere (fun p => (p.charge (blockNi s.cur.core) s.holder 1).send k)).mcastSend g gen c served rest)
    else if !s.mayCopy served dst then .error (some dst)
    else (s.sendRequest (s.request dst 0 0 0 (.mcast k))).mcastSend g gen c
      (if s.onTorus dst then (s.route false s.cur.chip dst).toList ++ served else served) rest

/-- The copies of an MCAST to a group (R423, R437). -/
def State.mcastTo (s : State) (g : Nat) (c : Cap) : Except (Option Nat) State :=
  let e := s.here.group g
  s.mcastSend g (bits (e.headD 0) 63 48) c [] (members e)

def execMcast (d : Reg) (src : RegOp) (s : State) : Host.Outcome State Fault Refusal :=
  chain s { s := rdGroup src 2, d := rdReg d } (fun v s => Check.run (do
    let g := lowBits v.d 8
    s.checkGroup g
    return match s.mcastTo g (s.cap src.n.toNat) with
      | .ok s' => .next s'
      | .error (some dst) => s.parkUnit dst
      | .error none => .park s .net))

/-- MCGRP (R438). -/
def execMcgrp (d : Reg) (src : RegOp) (s : State) : Host.Outcome State Fault Refusal :=
  chain s { mem := true, s := rdOp src, d := rwReg d } (fun v s => Check.run (do
    let g := lowBits v.d 8
    s.checkGroup g
    s.stopWhen (decide (v.s.toNat % 8 ≠ 0)) .memAlign 0 v.s
    return s.readWords v.s 16 (fun ws =>
      let gen := (bits ((s.here.group g).headD 0) 63 48 + 1) % 65536
      let e := word (gen * 2 ^ 48) :: ws.tail.map (fun w => w &&& 0xFFFFFFFFF0000001)
      .next ((s.onHere (fun p => { p with groups := tset p.groups g e })).setReg d.toNat (word gen)))))

/-- GUESTSET (R439). -/
def execGuestset (d : Reg) (src : RegOp) (s : State) : Host.Outcome State Fault Refusal :=
  chain s { s := rdGroup src 3, d := rdReg d } (fun v s => Check.run (do
    let g := lowBits v.d 6
    let r := rid 8 g
    s.stopWhen (decide ((s.here.entry r).holder ≠ s.holder)) .notHolder 0 (word r)
    let n := src.n.toNat
    return .next (s.onHere (fun p => { p with pools := tset p.pools g (word (bits v.s 19 0), s.reg (n + 1), s.reg (n + 2)) }))))

end Sys2Proof.Machine
end

