-- ==== Sys2Proof/Machine/Fetch.lean ====
section
/-! DEFINITION. The steps that end a translation walk and an instruction-cache fill (R100, R224, R359). -/

namespace Sys2Proof.Machine

/-- TRANSLATION_WALK_COMPLETE (R100). -/
def execTranslationWalkComplete (chip : Nat) (id : Nat) (s : State) : Host.Outcome State Fault Refusal :=
  jobStep chip id s (fun p j => match j with
    | .walk cs va => some ((p.dropJob id).finishWalk cs va (s.free 5) (s.free 6) (s.free 7))
    | _ => none)

/-- ICACHE_FILL (R224): not between a commit's start and its refresh (R216). -/
def execIcacheFill (chip : Nat) (id : Nat) (s : State) : Host.Outcome State Fault Refusal :=
  jobStep chip id s (fun p j => match j with
    | .fill c va pa => when (!p.gated c) ((p.dropJob id).fillLine c va pa (s.free 5) (s.free 6))
    | _ => none)

end Sys2Proof.Machine
end

