-- ==== Sys2Proof/Machine/Network.lean ====
section
/-! DEFINITION. The fabric's own steps: hops (R405, R407, R425), retransmission and streams (R412, R416), arrivals of requests at
their target and of answers at their source (R411 to R417, R421, R423 to R425), and the arrival and return of threads (R419 to R421). -/

namespace Sys2Proof.Machine

/-! ## Hops (R405, R407, R425) -/

/-- A chip's routers work. -/
def Package.routes (p : Package) : Bool :=
  decide (p.phase = .waiting) || decide (p.phase = .booting) || decide (p.phase = .running)

/-- The answer to a request, from the chip where it stands. -/
def State.answer (s : State) (here : Nat) (id : Nat) (k : Packet) (load : Load) : State :=
  s.launch { k with dst := k.src, src := here, load := load, slab := none } here none (some id)

/-- The slot that a migrating thread leaves passes to RETIRED; its launch cell still counts it (R29, R310, R419). -/
def Package.vacate (p : Package) (chip core slot : Nat) : Package :=
  ((p.onThread core slot (fun t => { t with cell := none, away := none, home := none, former := [] })).leaveOps
    ⟨core, slot, (p.thread core slot).gen⟩).retire chip core slot

/-- A migration that ends NO-ROUTE stands again at the chip that it left (R421). -/
def State.turnBack (s : State) (id : Nat) (k : Packet) : State :=
  { s with packets := tset s.packets id { k with dst := k.src, here := k.src, via := none } }

/-- The thread of a migration still stands in the slot that it leaves. -/
def State.leaving (s : State) (k : Packet) : Bool :=
  match k.load with
  | .migrate _ _ h _ (core, slot) =>
    let t := (s.pkg k.src).thread core slot
    decide (t.life = .migrating ∧ handleOf t.gen core slot = h)
  | _ => false

/-- The slot of a migration's origin vacated when its packet leaves, or turns back before it has left. -/
def State.leaveSlot (s : State) (k : Packet) : State :=
  match k.load with
  | .migrate _ _ _ _ (core, slot) => if s.leaving k then s.onPkg k.src (fun p => p.vacate k.src core slot) else s
  | _ => s

/-- A packet reported to a down link (R425). -/
def State.blocked (s : State) (id : Nat) (k : Packet) : State :=
  match k.load.class_, k.original with
  | 0, some o => ({ s with packets := tdel s.packets id } : State).answer k.here o k (.reply 0 false statusNoRoute)
  | 2, _ => (s.leaveSlot k).turnBack id k
  | _, _ => { s with packets := tdel s.packets id }

/-- The buffers of the next router have room (R407): one to go on in the same ring, two to enter it; and the link works. -/
def State.mayHop (s : State) (k : Packet) (u : Nat) : Bool :=
  let n := s.neighbour k.here u
  (s.pkg n).routes && (s.pkg k.here).carries u && decide ((if k.via = some u then 1 else 2) ≤ s.bufferRoom n u k.load.class_)

/-- The router input at which a packet stands: the port by which it came, or 8 for injection. -/
def Packet.input (k : Packet) : Nat := k.via.getD 8

/-- Where a packet goes next: a held request by its source unit's port, any other by its route. -/
def State.nextPort (s : State) (k : Packet) : Option Nat :=
  if k.load.class_ = 0 ∧ k.original = none then (if k.launched ∨ k.dst = k.src then none else some k.unit)
  else if k.here = k.dst then none
  else s.route (decide (k.load.class_ = 1)) k.here k.dst

/-- A packet that its router could serve now. -/
def State.servable (s : State) (k : Packet) : Bool :=
  match s.nextPort k with
  | none => false
  | some u => !(s.pkg k.here).linksDown.contains u && s.mayHop k u

/-- How far an input lies after the one that its class has served last, in the order of the round robin. -/
def turnOf (last input : Nat) : Nat := (input + 8 - last) % 9

/-- It is a packet's turn: no input that comes before its own in the round robin of its class holds a packet that could be served
(R407). -/
def State.itsTurn (s : State) (k : Packet) : Bool :=
  let last := tget (s.pkg k.here).served k.load.class_ 8
  s.packets.all (fun e => !(decide (e.2.here = k.here ∧ e.2.load.class_ = k.load.class_ ∧ turnOf last e.2.input < turnOf last k.input) &&
    s.servable e.2))

/-- A packet has crossed a link: its class has served its input, and the link's failed replays are over (R407, R415). -/
def State.crossed (s : State) (k : Packet) (u : Nat) : State :=
  s.onPkg k.here (fun p => { p with served := tset p.served k.load.class_ k.input, replays := tdel p.replays u })

/-- A copy of a held request leaves its source unit. -/
def State.leaveUnit (s : State) (id : Nat) (k : Packet) : Option State :=
  let sent (s : State) : State := { s with packets := tset s.packets id { k with launched := true } }
  if k.launched then none
  else if k.dst = k.src then some ((sent s).launch k k.src none (some id))
  else if (s.pkg k.src).linksDown.contains k.unit then some (s.settle id k 0 false statusNoRoute)
  else when (s.mayHop { k with via := none } k.unit && s.itsTurn k)
    (((sent s).crossed k k.unit).launch k (s.neighbour k.src k.unit) (some k.unit) (some id))

/-- A travelling packet moves one hop. -/
def State.goOn (s : State) (id : Nat) (k : Packet) : Option State :=
  match s.route (decide (k.load.class_ = 1)) k.here k.dst with
  | none => none
  | some u =>
    if (s.pkg k.here).linksDown.contains u then some (s.blocked id k)
    else when (s.mayHop k u && s.itsTurn k)
      (let s := (if k.via.isNone then s.leaveSlot k else s).crossed k u
       { s with packets := tset s.packets id { k with here := s.neighbour k.here u, via := some u } })

/-- FABRIC_PACKET_HOP (R407). -/
def execFabricPacketHop (id : Nat) (s : State) : Host.Outcome State Fault Refusal :=
  sysStep s (fun s =>
    match tget? s.packets id with
    | none => none
    | some k =>
      if (s.pkg k.here).routes = false then none
      else if k.load.class_ = 0 ∧ k.original = none then s.leaveUnit id k
      else if k.here = k.dst then none
      else s.goOn id k)

/-! ## Links (R415, R425) -/

/-- The port at the far end of a link. -/
def farPort (port : Nat) : Nat := if port % 2 = 0 then port + 1 else port - 1

/-- LINK_DOWN (R415): a link that has failed 16 replays in a row is marked down at both ends. -/
def execLinkDown (chip port : Nat) (s : State) : Host.Outcome State Fault Refusal :=
  sysStep s (fun s => if (s.pkg chip).routes ∧ port < 8 ∧ ¬ (s.pkg chip).linksDown.contains port ∧ (s.pkg chip).carries port = false then
    some ((s.onPkg chip (fun p => { p with linksDown := sadd p.linksDown port })).onPkg (s.neighbour chip port)
      (fun p => { p with linksDown := sadd p.linksDown (farPort port) }))
    else none)

/-- FABRIC_LINK_TRAIN (R425): the link comes up at both ends. -/
def execFabricLinkTrain (chip port : Nat) (s : State) : Host.Outcome State Fault Refusal :=
  sysStep s (fun s => if (s.pkg chip).routes ∧ port < 8 ∧ (s.pkg chip).linksDown.contains port then
    some ((s.onPkg chip (fun p => { p with linksDown := sdel p.linksDown port, replays := tdel p.replays port })).onPkg (s.neighbour chip port)
      (fun p => { p with linksDown := sdel p.linksDown (farPort port), replays := tdel p.replays (farPort port) }))
    else none)

/-! ## Retransmission and streams (R416) -/

/-- RETRANSMIT_TIMEOUT: the copy is sent again, and at the 8th timeout the request ends NO-ROUTE. -/
def execRetransmitTimeout (chip port dst seq : Nat) (s : State) : Host.Outcome State Fault Refusal :=
  sysStep s (fun s =>
    let p := s.pkg chip
    let st := p.srcStream dst port
    match st.out.find? (fun o => decide (o.seq = seq)) with
    | none => none
    | some o => match tget? s.packets o.packet with
      | none => none
      | some k =>
        if p.phase ≠ .running ∨ k.launched = false then none
        else if 7 ≤ o.tries then some (s.settle o.packet k 0 false statusNoRoute)
        else
          let st := { st with out := st.out.map (fun x => if x.seq = seq then { x with tries := x.tries + 1 } else x) }
          let s := s.onPkg chip (fun p => { p with src := tset p.src (streamKey dst port) st })
          some { s with packets := tset s.packets o.packet { k with launched := false } })

/-- A copy that waits in its target's window for a predecessor (R416). -/
def Packet.inWindow (k : Packet) : Bool := decide (k.load.class_ = 0 ∧ k.original ≠ none ∧ k.here = k.dst ∧ k.via = none)

/-- A copy of some request of a stream, or an answer to one, still travels. -/
def State.streamBusy (s : State) (src unit dst : Nat) : Bool :=
  s.packets.any (fun e => decide (e.2.unit = unit ∧ e.2.load.class_ ≠ 2) && !e.2.inWindow &&
    (decide (e.2.src = src ∧ e.2.dst = dst ∧ e.2.load.class_ = 0) || decide (e.2.src = dst ∧ e.2.dst = src ∧ e.2.load.class_ = 1)))

/-- STREAM_RESTART: a stream that has nothing outstanding opens anew. Nothing of it travels then: its copies and answers are long
gone after 2^25 cycles (log 41). -/
def execStreamRestart (chip port dst : Nat) (s : State) : Host.Outcome State Fault Refusal :=
  sysStep s (fun s =>
    let st := (s.pkg chip).srcStream dst port
    if (s.pkg chip).phase = .running ∧ st.fresh = false ∧ st.out = [] ∧ s.streamBusy chip port dst = false then
      some (s.onPkg chip (fun p => { p with src := tset p.src (streamKey dst port) ⟨0, true, 0, []⟩ }))
    else none)

/-- The copies that wait in a target's window for a stream other than the one named are discarded: their predecessors never
come. -/
def State.clearWindow (s : State) (src unit dst stream : Nat) : State :=
  { s with packets := s.packets.filter (fun e =>
      !(e.2.inWindow && decide (e.2.src = src ∧ e.2.unit = unit ∧ e.2.dst = dst ∧ e.2.stream ≠ stream))) }

/-- STREAM_STATE_EXPIRY: a target discards the state of a stream that its source has let go. -/
def execStreamStateExpiry (chip src unit : Nat) (s : State) : Host.Outcome State Fault Refusal :=
  sysStep s (fun s =>
    let st := (s.pkg src).srcStream chip unit
    if (s.pkg chip).phase = .running ∧ (tget? (s.pkg chip).tgt (streamKey src unit)).isSome ∧ st.fresh ∧ s.streamBusy src unit chip = false then
      some ((s.onPkg chip (fun p => { p with tgt := tdel p.tgt (streamKey src unit) })).clearWindow src unit chip s.nextPacket)
    else none)

/-! ## Requests at their target (R411, R412, R416) -/

/-- How a request that has arrived stands in its stream. -/
inductive Standing where
  | perform | duplicate | wait | discard
  deriving DecidableEq, Repr

/-- A request whose turn in its stream it is: it waits for those that its thread sent before it migrated (R221). -/
def State.inOrder (s : State) (k : Packet) : Standing := if k.before.any s.unperformed then .wait else .perform

def State.standing (s : State) (k : Packet) : Standing :=
  let t := (s.pkg k.dst).tgtStream k.src k.unit
  if t.stream ≠ k.stream then (if k.opens then s.inOrder k else .wait)
  else if seqBefore k.seq t.low then .duplicate
  else if k.seq = t.low then s.inOrder k
  else if (k.seq + 2 ^ 32 - t.low) % 2 ^ 32 ≤ 64 then .wait
  else .discard

/-- The answer reports a refusal (R411). -/
def Load.refuses : Load → Bool
  | .ack st => decide (st ≠ 0)
  | .reply _ _ st => decide (st = statusRevoked)
  | _ => false

/-- The stream after a request has been performed or refused; one that opens the stream resets what the target kept of an
earlier one (R416). A SEQ that comes around again says nothing of the request that bore it before. -/
def State.passSeq (s : State) (k : Packet) (reply : Load) : State :=
  let t := (s.pkg k.dst).tgtStream k.src k.unit
  let old := if t.stream = k.stream then t.refused.filter (· ≠ k.seq) else []
  let s := if k.opens then s.clearWindow k.src k.unit k.dst k.stream else s
  s.onPkg k.dst (fun p => { p with
    tgt := tset p.tgt (streamKey k.src k.unit) ⟨k.stream, (k.seq + 1) % 2 ^ 32, if reply.refuses then sadd old k.seq else old⟩ })

/-- The arrival of a request: performed in the order of its stream, acknowledged again as a duplicate, left in the window, or
discarded. `mine` says which requests the step is for, `ready` whether the target may take it, `perform` what it does and the
answer, `again` what a duplicate does and its answer. -/
def arrival (id : Nat) (s : State) (mine : Load → Bool) (ready : State → Packet → Bool)
    (perform : State → Packet → Option (State × Load)) (again : State → Packet → State × Load) : Host.Outcome State Fault Refusal :=
  sysStep s (fun s =>
    match tget? s.packets id with
    | none => none
    | some k =>
      match k.original with
      | none => none
      | some o =>
        if k.here ≠ k.dst ∨ k.load.class_ ≠ 0 ∨ mine k.load = false ∨ (s.pkg k.dst).phase ≠ .running then none
        else
          let gone : State := { s with packets := tdel s.packets id }
          match s.standing k with
          | .perform =>
            if ready s k then (perform gone k).map (fun r => (r.1.passSeq k r.2).answer k.dst o k r.2) else none
          | .duplicate => some ((again gone k).1.answer k.dst o k (again gone k).2)
          | .wait => if k.via.isSome then some { s with packets := tset s.packets id { k with via := none } } else none
          | .discard => some gone)

/-- The acknowledgement of a duplicate: as the request was answered when it was taken (R416). -/
def ackAgain (s : State) (k : Packet) : State × Load := (s, .ack (s.doneStatus k))

/-- The physical address of a request under its capability, and the state of the cluster it goes to. -/
def State.targetOf (s : State) (k : Packet) (n : Nat) (need : Perm) : Option Nat :=
  (s.pkg k.dst).target k.cap1 k.addr.toNat n (s.free 9) need

def State.targetAwake (s : State) (k : Packet) (n : Nat) (need : Perm) : Bool :=
  match s.targetOf k n need with
  | some pa => (s.pkg k.dst).awakeAt pa
  | none => true

/-- Words added to what the next fence of the issuing thread covers (R221, R413), or to a delivery's. A store that has ended before
its copy arrives is one that an earlier fence has covered, if any. -/
def State.coverWords (s : State) (k : Packet) (ws : List Nat) : State :=
  match k.slab with
  | some j => s.onPkg k.src (fun p => match p.job j with
    | some (.slab x) => p.setJob j (.slab { x with wrote := ws.foldl sadd x.wrote })
    | _ => p)
  | none =>
    if (k.original.bind (tget? s.packets)).isSome then s.onCover k.src k.owner k.dst (fun c => { c with words := ws.foldl sadd c.words })
    else s

/-- FABRIC_STORE_ARRIVAL (R221, R411, R434): bytes and tag in one step. -/
def execFabricStoreArrival (id : Nat) (s : State) : Host.Outcome State Fault Refusal :=
  arrival id s (fun l => match l with | .store _ _ => true | _ => false)
    (fun s k => s.targetAwake k k.load.size { w := true })
    (fun s k => match k.load with
      | .store bytes tag => (match s.targetOf k bytes.length { w := true } with
        | none => some (s, .ack statusRevoked)
        | some pa =>
          let ws := (span pa 1 bytes.length).zip bytes
          let s := s.onPkg k.dst (fun p =>
            let m := p.mem.write ws
            ({ p with mem := if tag then m.setTag (granuleOf pa) true else m } : Package).unsettle [] (wordsOf ws))
          some (s.coverWords k (wordsOf ws), .ack 0))
      | _ => none) ackAgain

/-! ## Remote atomics at home (R414, R417, R435) -/

/-- A reply kept; the least recently used one leaves a full cache. -/
def Package.remember (p : Package) (r : CachedReply) : Package :=
  let others := p.cache.filter (fun x => decide (x.chip ≠ r.chip ∨ x.unit ≠ r.unit ∨ x.seq ≠ r.seq))
  { p with cache := (r :: others).take 4096 }

def Package.recall (p : Package) (chip unit seq : Nat) : Option CachedReply :=
  p.cache.find? (fun x => decide (x.chip = chip ∧ x.unit = unit ∧ x.seq = seq))

/-- The answer to a duplicate of an atomic: the kept reply, which is then the most recently used; without it, DUP-LOST for one that
was performed, and the refusal again for one that was refused (R417, R443). -/
def replyAgain (s : State) (k : Packet) : State × Load :=
  match (s.pkg k.dst).recall k.src k.unit k.seq with
  | some r => (s.onPkg k.dst (fun p => p.remember r), .reply r.val r.bad r.status)
  | none => (s, .reply 0 false (if s.doneStatus k = 0 then statusDupLost else s.doneStatus k))

def sizeOfAmo : Load → Nat
  | .amo _ d _ _ => atomicBytes d
  | _ => 8

/-- FABRIC_AMO_ARRIVAL: combined requests (R414) behave as two that are performed in consecutive steps, which is how they are taken
here. -/
def execFabricAmoArrival (id : Nat) (s : State) : Host.Outcome State Fault Refusal :=
  arrival id s (fun l => match l with | .amo _ _ _ _ => true | _ => false)
    (fun s k => s.targetAwake k (sizeOfAmo k.load) { r := true, w := true })
    (fun s k => match k.load with
      | .amo op double operand swap =>
        let (s, r) : State × CachedReply := match s.targetOf k (atomicBytes double) { r := true, w := true } with
          | none => (s, ⟨k.src, k.unit, k.seq, 0, false, statusRevoked⟩)
          | some pa =>
            let (p, old, bad) := (s.pkg k.dst).atomic none op double pa operand swap
            (s.setPkg k.dst p, ⟨k.src, k.unit, k.seq, old, bad, 0⟩)
        some (s.onPkg k.dst (fun p => p.remember r), .reply r.val r.bad r.status)
      | _ => none) replyAgain

/-- FABRIC_POSTED_ARRIVAL (R435). -/
def execFabricPostedArrival (id : Nat) (s : State) : Host.Outcome State Fault Refusal :=
  arrival id s (fun l => match l with | .posted _ _ => true | _ => false)
    (fun s k => s.targetAwake k 8 { r := true, w := true })
    (fun s k => match k.load with
      | .posted op operand => (match s.targetOf k 8 { r := true, w := true } with
        | none => some (s, .ack statusRevoked)
        | some pa => some (s.onPkg k.dst (fun p => (p.atomic none op true pa operand 0).1), .ack 0))
      | _ => none) ackAgain

/-! ## Fences (R221, R325) -/

/-- The face whose step area word stands at an address, among the tiles bound in this package. -/
def Package.stepFace (p : Package) (a : Nat) : Option (Nat × Nat × Nat × Nat) :=
  firstSome p.dies (fun d => firstSome d.2.grids (fun g => match g.2.desc with
    | none => none
    | some ds => firstSome g.2.bound (fun b =>
        let lo := b.base + 2 * Desc.plane ds
        if lo ≤ a ∧ a < lo + 48 then some (d.1, g.1, b.core, (a - lo) / 8) else none)))

/-- A flag word written as STF writes it, with the cover set that its readers acquire. -/
def Package.writeFlag (p : Package) (a : Nat) (v : Word) (words : List Nat) : Package :=
  let p := p.writeM [] (Machine.bytesAt a v.toNat 8)
  let p : Package := { p with mem := p.mem.setFull a true, covers := tset p.covers a (words.foldl sadd (tget p.covers a [])) }
  let p := match p.stepFace a with
    | some (die, slot, core, face) => p.onBound die slot core (fun b => { b with faces := tset b.faces face (v.setWidth 32) })
    | none => p
  p.scanWord a

/-- FABRIC_FENCE_ARRIVAL. -/
def execFabricFenceArrival (id : Nat) (s : State) : Host.Outcome State Fault Refusal :=
  arrival id s (fun l => match l with | .fence _ _ => true | _ => false)
    (fun s k => s.targetAwake k 8 { w := true })
    (fun s k => match k.load with
      | .fence v words => (match s.targetOf k 8 { w := true } with
        | none => some (s, .ack statusRevoked)
        | some pa => some (s.onPkg k.dst (fun p => p.writeFlag pa v words), .ack 0))
      | _ => none) ackAgain

/-! ## Multicast, ports and notices (R325, R423, R424) -/

/-- FABRIC_MCAST_ARRIVAL: the copy goes on in the package as a message. -/
def execFabricMcastArrival (id : Nat) (s : State) : Host.Outcome State Fault Refusal :=
  arrival id s (fun l => match l with | .mcast _ => true | _ => false) (fun _ _ => true)
    (fun s k => match k.load with
      | .mcast m => some (s.onPkg k.dst (fun p => p.send m), .ack 0)
      | _ => none) ackAgain

/-- FABRIC_PORT_ARRIVAL (R424): a value enters its queue, a bind request goes on to its core, and news of a binding is heard. News of a
refusal is not heard by a port that has asked anew since. -/
def execFabricPortArrival (id : Nat) (s : State) : Host.Outcome State Fault Refusal :=
  arrival id s (fun l => match l with | .portValue _ | .portBind _ | .portNews _ => true | _ => false)
    (fun s k => match k.load with
      | .portValue v => (s.pkg k.dst).awake v.dst
      | _ => true)
    (fun s k => match k.load with
      | .portValue v => some (s.onPkg k.dst (fun p => p.acceptValue k.src v), .ack 0)
      | .portBind b => some (s.onPkg k.dst (fun p => p.addJob (.bind b)), .ack 0)
      | .portNews n => some (if n.refused && s.asksAnew k.dst k.src n then s else s.onPkg k.dst (fun p => p.hearNews k.src n), .ack 0)
      | _ => none) ackAgain

/-- FABRIC_NOTICE_ARRIVAL. -/
def execFabricNoticeArrival (id : Nat) (s : State) : Host.Outcome State Fault Refusal :=
  arrival id s (fun l => match l with | .notice _ _ _ _ _ => true | _ => false) (fun _ _ => true)
    (fun s k => match k.load with
      | .notice die slot core face step =>
        some (s.onPkg k.dst (fun p => p.onBound die slot core (fun b => { b with notices := tset b.notices face step })), .ack 0)
      | _ => none) ackAgain

/-! ## Answers at their source (R412, R416) -/

/-- An answer reaches the source unit: the copy that it answers, if it is still held, is released. -/
def answered (id : Nat) (s : State) (val : Load → Option (Word × Bool × Nat)) : Host.Outcome State Fault Refusal :=
  sysStep s (fun s =>
    match tget? s.packets id with
    | none => none
    | some k =>
      match val k.load with
      | none => none
      | some (v, bad, status) =>
        if k.here ≠ k.dst ∨ (s.pkg k.dst).phase ≠ .running then none
        else
          let gone : State := { s with packets := tdel s.packets id }
          match k.original with
          | none => some gone
          | some o => match tget? gone.packets o with
            | some held => some (gone.settle o held v bad status)
            | none => some gone)

/-- FABRIC_REPLY_ARRIVAL. -/
def execFabricReplyArrival (id : Nat) (s : State) : Host.Outcome State Fault Refusal :=
  answered id s (fun l => match l with | .reply v bad st => some (v, bad, st) | _ => none)

/-- FABRIC_ACK_ARRIVAL. -/
def execFabricAckArrival (id : Nat) (s : State) : Host.Outcome State Fault Refusal :=
  answered id s (fun l => match l with | .ack st => some (0, false, st) | _ => none)

/-! ## Threads that arrive (R418 to R421) -/

/-- A pool's cores: those of its rectangle of the package mesh that its holder holds (R418). -/
def Package.poolCores (p : Package) (g : Nat) : List Nat :=
  let w := (tget p.pools g (0, 0, 0)).1
  let h := (p.entry (rid 8 g)).holder
  (span 0 1 1024).filter (fun c =>
    decide (bits w 4 0 ≤ meshX c ∧ meshX c ≤ bits w 14 10 ∧ bits w 9 5 ≤ meshY c ∧ meshY c ≤ bits w 19 15 ∧ p.coreHolder c = h))

/-- A pool admits a holder. -/
def Package.poolAdmits (p : Package) (g h : Nat) : Bool :=
  let (_, a, b) := tget p.pools g (0, 0, 0)
  decide (h ≠ 0) && (span 0 1 4).any (fun i => decide (bits a (16 * i + 15) (16 * i) = h ∨ bits b (16 * i + 15) (16 * i) = h))

/-- The lowest-numbered pool that admits a migration. -/
def Package.poolFor (p : Package) (capHolder sender : Nat) : Option Nat :=
  firstIn 0 64 (fun g => decide ((p.entry (rid 8 g)).holder = capHolder) && p.poolAdmits g sender)

/-- The die that serves an address (R420). -/
def Package.servingDie (p : Package) (a : Nat) : Option Nat :=
  match p.place a with
  | .scratch c _ => some (coreDie c)
  | .hbm | .dump => some (a / 4096 % 256 / 64)
  | .tier _ => some 0
  | _ => none

/-- The cores that may take a guest, in the order of R420. -/
def Package.guestOrder (p : Package) (g : Nat) (pa : Option Nat) : List (List Nat) :=
  let pool := p.poolCores g
  let own := match pa.map p.place with
    | some (.scratch c _) => pool.filter (fun x => decide (x = c))
    | _ => []
  let near := match pa.bind p.servingDie with
    | some d => pool.filter (fun x => decide (coreDie x = d))
    | none => []
  [own, near, pool]

/-- A core that can take a window now: a FREE slot in 0 to 62 and room. R420 asks no more, so that one whose transfer is under way
takes a guest too, which the transfer's end retires (log 17). -/
def Package.mayHost (p : Package) (len c : Nat) : Bool := (p.core c).hasRoom len

/-- A thread restored in a slot of a core (R419, R420), with its record of requests (R413). The slot's last issue and its gap stand
(R137). -/
def Package.restore (p : Package) (chip c slot base : Nat) (t : Thread) (regs : List RegCell) : Package :=
  let cell := (t.away.filter (fun a => decide (a.1 = chip))).map (·.2)
  let k := p.core c
  let fresh : Thread := { Thread.fresh with
    life := .ready, pc := t.pc, base := base, len := t.len, gen := (k.thread slot).gen, vec := t.vec, cause := t.cause, value := t.value,
    epc := t.epc, fmode := t.fmode, flags := t.flags, lastIssue := (k.thread slot).lastIssue,
    gap := (k.thread slot).gap, paired := t.paired, covers := t.covers, former := t.former, cell := cell,
    away := if cell.isSome then none else t.away,
    cancel := t.cancel.or (cell.bind p.cellCancelled),
    home := t.home }
  let k := (k.clearWindow base t.len).setThread slot fresh
  p.setCore c { k with regs := ((span base 1 t.len).zip regs).foldl (fun r e => tset r e.1 e.2) k.regs }

/-- A thread that comes back to the core it left: the lowest FREE slot (R421). -/
def Package.admitOn (p : Package) (chip c : Nat) (t : Thread) (regs : List RegCell) : Option Package :=
  match firstIn 0 63 (p.core c).slotFree, (p.core c).fitWindow t.len with
  | some slot, some base => some (p.restore chip c slot base t regs)
  | _, _ => none

/-- The slot of a thread that arrives, a guest or one that comes home: as a creating instruction takes it (R191). -/
def Package.admitGuest (p : Package) (chip c : Nat) (t : Thread) (regs : List RegCell) : Option Package :=
  match (p.core c).pickSlot, (p.core c).fitWindow t.len with
  | some slot, some base => some (p.restore chip c slot base t regs)
  | _, _ => none

/-- A thread's home core is still held by its home holder (R421). -/
def Package.homeStands (p : Package) (t : Thread) : Bool :=
  match t.home with
  | some h => decide (p.coreHolder h.core = h.holder)
  | none => false

/-- The physical address that a migration goes to, under the capability's holder. -/
def State.guestTarget (s : State) (k : Packet) : Option Nat :=
  match (s.pkg k.dst).translateFor (capHolder k.cap1) k.addr.toNat (s.free 9) {} with
  | .ok pa => some pa
  | _ => none

/-- The core that takes a migration (R420, R421), whatever the power state of its cluster. -/
def State.hostCore (s : State) (k : Packet) (t : Thread) (homing : Bool) (pool : Nat) : Option Nat :=
  let p := s.pkg k.dst
  if homing then (t.home.map (·.core)).filter (p.mayHost t.len)
  else firstSome (p.guestOrder pool (s.guestTarget k)) (fun cs => cs.find? (p.mayHost t.len))

/-- The package after a migration has been admitted; none while it must wait, for a slot, a window, or its cluster (R378). -/
def State.takeIn (s : State) (k : Packet) (t : Thread) (regs : List RegCell) (homing : Bool) (pool : Nat) : Option Package :=
  let p := s.pkg k.dst
  ((s.hostCore k t homing pool).filter p.awake).bind (fun c => p.admitGuest k.dst c t regs)

/-- A migration may be admitted on its target (R420, R421): by which pool. -/
def State.admissible (s : State) (k : Packet) (t : Thread) (homing : Bool) : Option Nat :=
  let p := s.pkg k.dst
  if homing then (if p.homeStands t then some 0 else none) else p.poolFor (capHolder k.cap1) k.holder

/-- A migration that has arrived at the chip it goes to, and not turned back. -/
def Packet.arrived (k : Packet) : Bool := decide (k.here = k.dst ∧ k.dst ≠ k.src)

/-- MIGRATE_ARRIVAL (R420, R421). -/
def execMigrateArrival (id : Nat) (s : State) : Host.Outcome State Fault Refusal :=
  sysStep s (fun s =>
    match tget? s.packets id with
    | some k => (match k.load with
      | .migrate t regs _ homing _ =>
        if k.arrived = false ∨ (s.pkg k.dst).phase ≠ .running then none
        else (s.admissible k t homing).bind (fun pool => (s.takeIn k t regs homing pool).map (fun p =>
          { (s.setPkg k.dst p) with packets := tdel s.packets id }))
      | _ => none)
    | none => none)

/-- The thread takes a slot of the core that it left, and its chain traps CAP; or it is lost (R421), and its launch cell counts
it no more (R310). -/
def State.comeBack (s : State) (id : Nat) (k : Packet) (t : Thread) (regs : List RegCell) (h : Nat) (homing : Bool) (core : Nat) :
    Option State :=
  let gone : State := { s with packets := tdel s.packets id }
  let p := s.pkg k.src
  if p.coreHolder core ≠ k.holder then
    let s := gone.onPkg k.src (fun p => p.notice ((t.home.map (·.holder)).getD k.holder) 0x03 [word h, 0, 0])
    some (match t.away with
    | some (away, c) => s.onPkg away (fun p => p.leaveCell c t.paired)
    | none => s)
  else if p.mayHost t.len core = false ∨ p.awake core = false then none
  else match firstIn 0 63 (p.core core).slotFree with
    | none => none
    | some slot => (p.admitOn k.src core t regs).map (fun p =>
        gone.setPkg k.src (p.trapReply k.src core slot .cap (if homing then 0 else k.cap1)))

/-- MIGRATE_RETURN (R421): a migration that cannot be admitted, or found no route, goes back. One that never left its chip first
vacates its slot, whether or not the thread finds one again at once. -/
def execMigrateReturn (id : Nat) (s : State) : Host.Outcome State Fault Refusal :=
  sysStep s (fun s =>
    match tget? s.packets id with
    | some k => (match k.load with
      | .migrate t regs h homing (core, _) =>
        if k.here = k.src ∧ k.dst = k.src then
          (if (s.pkg k.src).phase ≠ .running then none
           else if s.leaving k then some (s.leaveSlot k)
           else s.comeBack id k t regs h homing core)
        else if k.arrived ∧ (s.pkg k.dst).phase = .running ∧ (s.admissible k t homing).isNone then some (s.turnBack id k)
        else none
      | _ => none)
    | none => none)

end Sys2Proof.Machine
end

