-- ==== Sys2Proof/Machine/Dispatch.lean ====
section
/-! DEFINITION. One arm for each instruction: its meaning. -/

namespace Sys2Proof.Machine

def exec (i : Instr) (s : State) : Host.Outcome State Fault Refusal :=
  match i with
  | .add d src => Sys2Proof.Machine.execAdd d src s
  | .addW d src => Sys2Proof.Machine.execAddW d src s
  | .sub d src => Sys2Proof.Machine.execSub d src s
  | .subW d src => Sys2Proof.Machine.execSubW d src s
  | .mul d src => Sys2Proof.Machine.execMul d src s
  | .mulW d src => Sys2Proof.Machine.execMulW d src s
  | .mulh d src => Sys2Proof.Machine.execMulh d src s
  | .div d src => Sys2Proof.Machine.execDiv d src s
  | .divu d src => Sys2Proof.Machine.execDivu d src s
  | .rem d src => Sys2Proof.Machine.execRem d src s
  | .remu d src => Sys2Proof.Machine.execRemu d src s
  | .and d src => Sys2Proof.Machine.execAnd d src s
  | .or d src => Sys2Proof.Machine.execOr d src s
  | .xor d src => Sys2Proof.Machine.execXor d src s
  | .shl d src => Sys2Proof.Machine.execShl d src s
  | .shlW d src => Sys2Proof.Machine.execShlW d src s
  | .shr d src => Sys2Proof.Machine.execShr d src s
  | .sar d src => Sys2Proof.Machine.execSar d src s
  | .min d src => Sys2Proof.Machine.execMin d src s
  | .max d src => Sys2Proof.Machine.execMax d src s
  | .minu d src => Sys2Proof.Machine.execMinu d src s
  | .maxu d src => Sys2Proof.Machine.execMaxu d src s
  | .mov d src => Sys2Proof.Machine.execMov d src s
  | .ceq d src => Sys2Proof.Machine.execCeq d src s
  | .cne d src => Sys2Proof.Machine.execCne d src s
  | .clt d src => Sys2Proof.Machine.execClt d src s
  | .cltu d src => Sys2Proof.Machine.execCltu d src s
  | .cle d src => Sys2Proof.Machine.execCle d src s
  | .cleu d src => Sys2Proof.Machine.execCleu d src s
  | .addi d imm => Sys2Proof.Machine.execAddi d imm s
  | .li d imm => Sys2Proof.Machine.execLi d imm s
  | .lih d imm => Sys2Proof.Machine.execLih d imm s
  | .shli d imm => Sys2Proof.Machine.execShli d imm s
  | .shri d imm => Sys2Proof.Machine.execShri d imm s
  | .lea d b disp => Sys2Proof.Machine.execLea d b disp s
  | .sel d src t => Sys2Proof.Machine.execSel d src t s
  | .bez d off => Sys2Proof.Machine.execBez d off s
  | .bnz d off => Sys2Proof.Machine.execBnz d off s
  | .bltz d off => Sys2Proof.Machine.execBltz d off s
  | .bgez d off => Sys2Proof.Machine.execBgez d off s
  | .beq d src off => Sys2Proof.Machine.execBeq d src off s
  | .bne d src off => Sys2Proof.Machine.execBne d src off s
  | .blt d src off => Sys2Proof.Machine.execBlt d src off s
  | .bge d src off => Sys2Proof.Machine.execBge d src off s
  | .bltu d src off => Sys2Proof.Machine.execBltu d src off s
  | .bgeu d src off => Sys2Proof.Machine.execBgeu d src off s
  | .j off => Sys2Proof.Machine.execJ off s
  | .call off => Sys2Proof.Machine.execCall off s
  | .jr src => Sys2Proof.Machine.execJr src s
  | .ret => Sys2Proof.Machine.execRet s
  | .jtab idx b bound => Sys2Proof.Machine.execJtab idx b bound s
  | .yield => Sys2Proof.Machine.execYield s
  | .retire => Sys2Proof.Machine.execRetire s
  | .nop => Sys2Proof.Machine.execNop s
  | .trap code => Sys2Proof.Machine.execTrap code s
  | .bkpt code => Sys2Proof.Machine.execBkpt code s
  | .ldz sz d b disp => Sys2Proof.Machine.execLdz sz d b disp s
  | .lds sz d b disp => Sys2Proof.Machine.execLds sz d b disp s
  | .st sz d b disp => Sys2Proof.Machine.execSt sz d b disp s
  | .illegalChain why => Sys2Proof.Machine.execIllegalChain why s
  | .bfx d src => Sys2Proof.Machine.execBfx d src s
  | .bfi d src t => Sys2Proof.Machine.execBfi d src t s
  | .ctz d src => Sys2Proof.Machine.execCtz d src s
  | .bswap d src => Sys2Proof.Machine.execBswap d src s
  | .crcB d src => Sys2Proof.Machine.execCrcB d src s
  | .crcH d src => Sys2Proof.Machine.execCrcH d src s
  | .crcW d src => Sys2Proof.Machine.execCrcW d src s
  | .crcD d src => Sys2Proof.Machine.execCrcD d src s
  | .faddD r d src => Sys2Proof.Machine.execFaddD r d src s
  | .faddS r d src => Sys2Proof.Machine.execFaddS r d src s
  | .fsubD r d src => Sys2Proof.Machine.execFsubD r d src s
  | .fsubS r d src => Sys2Proof.Machine.execFsubS r d src s
  | .fmulD r d src => Sys2Proof.Machine.execFmulD r d src s
  | .fmulS r d src => Sys2Proof.Machine.execFmulS r d src s
  | .fdivD r d src => Sys2Proof.Machine.execFdivD r d src s
  | .fdivS r d src => Sys2Proof.Machine.execFdivS r d src s
  | .fsqrtD r d src => Sys2Proof.Machine.execFsqrtD r d src s
  | .fsqrtS r d src => Sys2Proof.Machine.execFsqrtS r d src s
  | .fmaD r d src t => Sys2Proof.Machine.execFmaD r d src t s
  | .fmaS r d src t => Sys2Proof.Machine.execFmaS r d src t s
  | .fmsD r d src t => Sys2Proof.Machine.execFmsD r d src t s
  | .fmsS r d src t => Sys2Proof.Machine.execFmsS r d src t s
  | .fnmaD r d src t => Sys2Proof.Machine.execFnmaD r d src t s
  | .fnmaS r d src t => Sys2Proof.Machine.execFnmaS r d src t s
  | .fnmsD r d src t => Sys2Proof.Machine.execFnmsD r d src t s
  | .fnmsS r d src t => Sys2Proof.Machine.execFnmsS r d src t s
  | .fminD d src => Sys2Proof.Machine.execFminD d src s
  | .fminS d src => Sys2Proof.Machine.execFminS d src s
  | .fmaxD d src => Sys2Proof.Machine.execFmaxD d src s
  | .fmaxS d src => Sys2Proof.Machine.execFmaxS d src s
  | .feqD d src => Sys2Proof.Machine.execFeqD d src s
  | .feqS d src => Sys2Proof.Machine.execFeqS d src s
  | .fltD d src => Sys2Proof.Machine.execFltD d src s
  | .fltS d src => Sys2Proof.Machine.execFltS d src s
  | .fleD d src => Sys2Proof.Machine.execFleD d src s
  | .fleS d src => Sys2Proof.Machine.execFleS d src s
  | .fclassD d src => Sys2Proof.Machine.execFclassD d src s
  | .fclassS d src => Sys2Proof.Machine.execFclassS d src s
  | .fsgnD d src => Sys2Proof.Machine.execFsgnD d src s
  | .fsgnS d src => Sys2Proof.Machine.execFsgnS d src s
  | .fsgnnD d src => Sys2Proof.Machine.execFsgnnD d src s
  | .fsgnnS d src => Sys2Proof.Machine.execFsgnnS d src s
  | .fsgnxD d src => Sys2Proof.Machine.execFsgnxD d src s
  | .fsgnxS d src => Sys2Proof.Machine.execFsgnxS d src s
  | .fcvtSD r d src => Sys2Proof.Machine.execFcvtSD r d src s
  | .fcvtDS r d src => Sys2Proof.Machine.execFcvtDS r d src s
  | .fcvtDL r d src => Sys2Proof.Machine.execFcvtDL r d src s
  | .fcvtDLu r d src => Sys2Proof.Machine.execFcvtDLu r d src s
  | .fcvtSL r d src => Sys2Proof.Machine.execFcvtSL r d src s
  | .fcvtSLu r d src => Sys2Proof.Machine.execFcvtSLu r d src s
  | .fcvtLD r d src => Sys2Proof.Machine.execFcvtLD r d src s
  | .fcvtLuD r d src => Sys2Proof.Machine.execFcvtLuD r d src s
  | .fcvtLS r d src => Sys2Proof.Machine.execFcvtLS r d src s
  | .fcvtLuS r d src => Sys2Proof.Machine.execFcvtLuS r d src s
  | .setrm imm => Sys2Proof.Machine.execSetrm imm s
  | .rdflg d => Sys2Proof.Machine.execRdflg d s
  | .clrflg imm => Sys2Proof.Machine.execClrflg imm s
  | .sread d n => Sys2Proof.Machine.execSread d n s
  | .sreadClusterFlags d => Sys2Proof.Machine.execSreadClusterFlags d s
  | .swrite d n => Sys2Proof.Machine.execSwrite d n s
  | .ldf d b disp => Sys2Proof.Machine.execLdf d b disp s
  | .ldfe d b disp => Sys2Proof.Machine.execLdfe d b disp s
  | .stef d b disp => Sys2Proof.Machine.execStef d b disp s
  | .stf d b disp => Sys2Proof.Machine.execStf d b disp s
  | .seteMemory b disp => Sys2Proof.Machine.execSeteMemory b disp s
  | .seteRegister d => Sys2Proof.Machine.execSeteRegister d s
  | .feqry d b disp => Sys2Proof.Machine.execFeqry d b disp s
  | .amoAddD d b disp => Sys2Proof.Machine.execAmoAddD d b disp s
  | .amoAndD d b disp => Sys2Proof.Machine.execAmoAndD d b disp s
  | .amoOrD d b disp => Sys2Proof.Machine.execAmoOrD d b disp s
  | .amoXorD d b disp => Sys2Proof.Machine.execAmoXorD d b disp s
  | .amoMinD d b disp => Sys2Proof.Machine.execAmoMinD d b disp s
  | .amoMaxD d b disp => Sys2Proof.Machine.execAmoMaxD d b disp s
  | .amoMinuD d b disp => Sys2Proof.Machine.execAmoMinuD d b disp s
  | .amoMaxuD d b disp => Sys2Proof.Machine.execAmoMaxuD d b disp s
  | .amoSwapD d b disp => Sys2Proof.Machine.execAmoSwapD d b disp s
  | .amoAddW d b disp => Sys2Proof.Machine.execAmoAddW d b disp s
  | .amoAndW d b disp => Sys2Proof.Machine.execAmoAndW d b disp s
  | .amoOrW d b disp => Sys2Proof.Machine.execAmoOrW d b disp s
  | .amoXorW d b disp => Sys2Proof.Machine.execAmoXorW d b disp s
  | .amoMinW d b disp => Sys2Proof.Machine.execAmoMinW d b disp s
  | .amoMaxW d b disp => Sys2Proof.Machine.execAmoMaxW d b disp s
  | .amoMinuW d b disp => Sys2Proof.Machine.execAmoMinuW d b disp s
  | .amoMaxuW d b disp => Sys2Proof.Machine.execAmoMaxuW d b disp s
  | .amoSwapW d b disp => Sys2Proof.Machine.execAmoSwapW d b disp s
  | .acasD d b disp t => Sys2Proof.Machine.execAcasD d b disp t s
  | .acasW d b disp t => Sys2Proof.Machine.execAcasW d b disp t s
  | .forkae d src t => Sys2Proof.Machine.execForkae d src t s
  | .rdv d src => Sys2Proof.Machine.execRdv d src s
  | .qld sz q b disp => Sys2Proof.Machine.execQld sz q b disp s
  | .qst sz q b disp => Sys2Proof.Machine.execQst sz q b disp s
  | .sendT d handler payload count => Sys2Proof.Machine.execSendT d handler payload count s
  | .sendC d handler payload count => Sys2Proof.Machine.execSendC d handler payload count s
  | .waitm => Sys2Proof.Machine.execWaitm s
  | .takem d => Sys2Proof.Machine.execTakem d s
  | .htab d src => Sys2Proof.Machine.execHtab d src s
  | .mcfgReadConfig d => Sys2Proof.Machine.execMcfgReadConfig d s
  | .mcfgWriteConfig d => Sys2Proof.Machine.execMcfgWriteConfig d s
  | .mcfgReadDropCounter d => Sys2Proof.Machine.execMcfgReadDropCounter d s
  | .mcfgReadAccept d n => Sys2Proof.Machine.execMcfgReadAccept d n s
  | .mcfgWriteAccept d n => Sys2Proof.Machine.execMcfgWriteAccept d n s
  | .pbind port src => Sys2Proof.Machine.execPbind port src s
  | .punbind port => Sys2Proof.Machine.execPunbind port s
  | .pstat d port t => Sys2Proof.Machine.execPstat d port t s
  | .push d src => Sys2Proof.Machine.execPush d src s
  | .depr d src idx => Sys2Proof.Machine.execDepr d src idx s
  | .spawnL d src t => Sys2Proof.Machine.execSpawnL d src t s
  | .spawnC d src t => Sys2Proof.Machine.execSpawnC d src t s
  | .tstat d src => Sys2Proof.Machine.execTstat d src s
  | .treg d src t => Sys2Proof.Machine.execTreg d src t s
  | .twreg d src t => Sys2Proof.Machine.execTwreg d src t s
  | .tstop src => Sys2Proof.Machine.execTstop src s
  | .tresume src => Sys2Proof.Machine.execTresume src s
  | .bfmtRead d src => Sys2Proof.Machine.execBfmtRead d src s
  | .bfmtWrite d src => Sys2Proof.Machine.execBfmtWrite d src s
  | .bmodeRead d src => Sys2Proof.Machine.execBmodeRead d src s
  | .bmodeWrite d src => Sys2Proof.Machine.execBmodeWrite d src s
  | .logset d src => Sys2Proof.Machine.execLogset d src s
  | .cpub d src t => Sys2Proof.Machine.execCpub d src t s
  | .ifence => Sys2Proof.Machine.execIfence s
  | .layout rec b disp => Sys2Proof.Machine.execLayout rec b disp s
  | .rdbcRead d => Sys2Proof.Machine.execRdbcRead d s
  | .rdbcReadClear d => Sys2Proof.Machine.execRdbcReadClear d s
  | .mmaOvr tile la lb c disp => Sys2Proof.Machine.execMmaOvr tile la lb c disp s
  | .mmaAcc tile la lb c disp => Sys2Proof.Machine.execMmaAcc tile la lb c disp s
  | .mmaDecay tile la lb c disp => Sys2Proof.Machine.execMmaDecay tile la lb c disp s
  | .mmaSat tile la lb c disp => Sys2Proof.Machine.execMmaSat tile la lb c disp s
  | .accz tile => Sys2Proof.Machine.execAccz tile s
  | .accswap tile => Sys2Proof.Machine.execAccswap tile s
  | .accrd tile rec w disp => Sys2Proof.Machine.execAccrd tile rec w disp s
  | .accwr tile rec w disp => Sys2Proof.Machine.execAccwr tile rec w disp s
  | .accmodeRead d src => Sys2Proof.Machine.execAccmodeRead d src s
  | .accmodeWrite d src => Sys2Proof.Machine.execAccmodeWrite d src s
  | .drainI r rec grp => Sys2Proof.Machine.execDrainI r rec grp s
  | .drainF r rec grp => Sys2Proof.Machine.execDrainF r rec grp s
  | .vaddS r ld ls => Sys2Proof.Machine.execVaddS r ld ls s
  | .vaddD r ld ls => Sys2Proof.Machine.execVaddD r ld ls s
  | .vsubS r ld ls => Sys2Proof.Machine.execVsubS r ld ls s
  | .vsubD r ld ls => Sys2Proof.Machine.execVsubD r ld ls s
  | .vmulS r ld ls => Sys2Proof.Machine.execVmulS r ld ls s
  | .vmulD r ld ls => Sys2Proof.Machine.execVmulD r ld ls s
  | .vfmaS r ld ls lt => Sys2Proof.Machine.execVfmaS r ld ls lt s
  | .vfmaD r ld ls lt => Sys2Proof.Machine.execVfmaD r ld ls lt s
  | .vfmsS r ld ls lt => Sys2Proof.Machine.execVfmsS r ld ls lt s
  | .vfmsD r ld ls lt => Sys2Proof.Machine.execVfmsD r ld ls lt s
  | .vminS r ld ls => Sys2Proof.Machine.execVminS r ld ls s
  | .vminD ld ls => Sys2Proof.Machine.execVminD ld ls s
  | .vmaxS r ld ls => Sys2Proof.Machine.execVmaxS r ld ls s
  | .vmaxD ld ls => Sys2Proof.Machine.execVmaxD ld ls s
  | .vexpS r ld ls => Sys2Proof.Machine.execVexpS r ld ls s
  | .vexpD r ld ls => Sys2Proof.Machine.execVexpD r ld ls s
  | .vrcpS r ld ls => Sys2Proof.Machine.execVrcpS r ld ls s
  | .vrcpD r ld ls => Sys2Proof.Machine.execVrcpD r ld ls s
  | .vrsqS r ld ls => Sys2Proof.Machine.execVrsqS r ld ls s
  | .vrsqD r ld ls => Sys2Proof.Machine.execVrsqD r ld ls s
  | .vredSumS r ld ls => Sys2Proof.Machine.execVredSumS r ld ls s
  | .vredMaxS r ld ls => Sys2Proof.Machine.execVredMaxS r ld ls s
  | .vredMinS r ld ls => Sys2Proof.Machine.execVredMinS r ld ls s
  | .vredSumD r ld ls => Sys2Proof.Machine.execVredSumD r ld ls s
  | .vredMaxD ld ls => Sys2Proof.Machine.execVredMaxD ld ls s
  | .vredMinD ld ls => Sys2Proof.Machine.execVredMinD ld ls s
  | .vscaleS r ld ls t => Sys2Proof.Machine.execVscaleS r ld ls t s
  | .vscaleD r ld ls t => Sys2Proof.Machine.execVscaleD r ld ls t s
  | .vcvt r ld ls view => Sys2Proof.Machine.execVcvt r ld ls view s
  | .vcmpEqS r ld ls lt => Sys2Proof.Machine.execVcmpEqS r ld ls lt s
  | .vcmpLtS r ld ls lt => Sys2Proof.Machine.execVcmpLtS r ld ls lt s
  | .vcmpLeS r ld ls lt => Sys2Proof.Machine.execVcmpLeS r ld ls lt s
  | .vcmpEqD ld ls lt => Sys2Proof.Machine.execVcmpEqD ld ls lt s
  | .vcmpLtD ld ls lt => Sys2Proof.Machine.execVcmpLtD ld ls lt s
  | .vcmpLeD ld ls lt => Sys2Proof.Machine.execVcmpLeD ld ls lt s
  | .vselS r ld ls lt => Sys2Proof.Machine.execVselS r ld ls lt s
  | .vselD ld ls lt => Sys2Proof.Machine.execVselD ld ls lt s
  | .vfillS r ld src => Sys2Proof.Machine.execVfillS r ld src s
  | .vfillD ld src => Sys2Proof.Machine.execVfillD ld src s
  | .copyB ld ls t => Sys2Proof.Machine.execCopyB ld ls t s
  | .copyL r ld ls t => Sys2Proof.Machine.execCopyL r ld ls t s
  | .copym r ld ls t => Sys2Proof.Machine.execCopym r ld ls t s
  | .esync => Sys2Proof.Machine.execEsync s
  | .estat d => Sys2Proof.Machine.execEstat d s
  | .saveareaWrite d => Sys2Proof.Machine.execSaveareaWrite d s
  | .saveareaRead d => Sys2Proof.Machine.execSaveareaRead d s
  | .pack => Sys2Proof.Machine.execPack s
  | .barsetRead d n => Sys2Proof.Machine.execBarsetRead d n s
  | .barsetWrite d n => Sys2Proof.Machine.execBarsetWrite d n s
  | .bar n => Sys2Proof.Machine.execBar n s
  | .bara d n => Sys2Proof.Machine.execBara d n s
  | .barw d n => Sys2Proof.Machine.execBarw d n s
  | .rfork d src t => Sys2Proof.Machine.execRfork d src t s
  | .join src => Sys2Proof.Machine.execJoin src s
  | .cellNew d src t => Sys2Proof.Machine.execCellNew d src t s
  | .cellRd d src => Sys2Proof.Machine.execCellRd d src s
  | .cellAdd d src => Sys2Proof.Machine.execCellAdd d src s
  | .cancel src => Sys2Proof.Machine.execCancel src s
  | .phaseB n => Sys2Proof.Machine.execPhaseB n s
  | .phaseC => Sys2Proof.Machine.execPhaseC s
  | .phaseH => Sys2Proof.Machine.execPhaseH s
  | .grid d b disp => Sys2Proof.Machine.execGrid d b disp s
  | .gbind d src t => Sys2Proof.Machine.execGbind d src t s
  | .hstep d src => Sys2Proof.Machine.execHstep d src s
  | .ldh sz d b disp t => Sys2Proof.Machine.execLdh sz d b disp t s
  | .hwait d src => Sys2Proof.Machine.execHwait d src s
  | .hwaitF d src t => Sys2Proof.Machine.execHwaitF d src t s
  | .gstatG d src => Sys2Proof.Machine.execGstatG d src s
  | .gstatF d src t => Sys2Proof.Machine.execGstatF d src t s
  | .gfree src => Sys2Proof.Machine.execGfree src s
  | .budgetSet d src => Sys2Proof.Machine.execBudgetSet d src s
  | .budgetRd d src => Sys2Proof.Machine.execBudgetRd d src s
  | .budgetClr d src => Sys2Proof.Machine.execBudgetClr d src s
  | .mint d src t => Sys2Proof.Machine.execMint d src t s
  | .give d src => Sys2Proof.Machine.execGive d src s
  | .giveS d src t => Sys2Proof.Machine.execGiveS d src t s
  | .accept src => Sys2Proof.Machine.execAccept src s
  | .lend d src => Sys2Proof.Machine.execLend d src s
  | .lendS d src t => Sys2Proof.Machine.execLendS d src t s
  | .reclaim src => Sys2Proof.Machine.execReclaim src s
  | .reclaimB src t => Sys2Proof.Machine.execReclaimB src t s
  | .returnLoan src => Sys2Proof.Machine.execReturnLoan src s
  | .claim src t => Sys2Proof.Machine.execClaim src t s
  | .deny src => Sys2Proof.Machine.execDeny src s
  | .heirResource d src => Sys2Proof.Machine.execHeirResource d src s
  | .heirRecord d src => Sys2Proof.Machine.execHeirRecord d src s
  | .ownq d src => Sys2Proof.Machine.execOwnq d src s
  | .ownqA d b disp => Sys2Proof.Machine.execOwnqA d b disp s
  | .rootset d src => Sys2Proof.Machine.execRootset d src s
  | .tlbinv => Sys2Proof.Machine.execTlbinv s
  | .tlbinvP b disp => Sys2Proof.Machine.execTlbinvP b disp s
  | .latt src => Sys2Proof.Machine.execLatt src s
  | .capmk d src t => Sys2Proof.Machine.execCapmk d src t s
  | .capnar d src t imm => Sys2Proof.Machine.execCapnar d src t imm s
  | .capchk d src => Sys2Proof.Machine.execCapchk d src s
  | .ldr sz d b disp => Sys2Proof.Machine.execLdr sz d b disp s
  | .ldrQ d hi c disp => Sys2Proof.Machine.execLdrQ d hi c disp s
  | .home => Sys2Proof.Machine.execHome s
  | .str sz d b disp => Sys2Proof.Machine.execStr sz d b disp s
  | .strQ d hi c disp => Sys2Proof.Machine.execStrQ d hi c disp s
  | .ramoAddD d b disp => Sys2Proof.Machine.execRamoAddD d b disp s
  | .ramoAndD d b disp => Sys2Proof.Machine.execRamoAndD d b disp s
  | .ramoOrD d b disp => Sys2Proof.Machine.execRamoOrD d b disp s
  | .ramoXorD d b disp => Sys2Proof.Machine.execRamoXorD d b disp s
  | .ramoMinD d b disp => Sys2Proof.Machine.execRamoMinD d b disp s
  | .ramoMaxD d b disp => Sys2Proof.Machine.execRamoMaxD d b disp s
  | .ramoMinuD d b disp => Sys2Proof.Machine.execRamoMinuD d b disp s
  | .ramoMaxuD d b disp => Sys2Proof.Machine.execRamoMaxuD d b disp s
  | .ramoSwapD d b disp => Sys2Proof.Machine.execRamoSwapD d b disp s
  | .ramoAddW d b disp => Sys2Proof.Machine.execRamoAddW d b disp s
  | .ramoAndW d b disp => Sys2Proof.Machine.execRamoAndW d b disp s
  | .ramoOrW d b disp => Sys2Proof.Machine.execRamoOrW d b disp s
  | .ramoXorW d b disp => Sys2Proof.Machine.execRamoXorW d b disp s
  | .ramoMinW d b disp => Sys2Proof.Machine.execRamoMinW d b disp s
  | .ramoMaxW d b disp => Sys2Proof.Machine.execRamoMaxW d b disp s
  | .ramoMinuW d b disp => Sys2Proof.Machine.execRamoMinuW d b disp s
  | .ramoMaxuW d b disp => Sys2Proof.Machine.execRamoMaxuW d b disp s
  | .ramoSwapW d b disp => Sys2Proof.Machine.execRamoSwapW d b disp s
  | .rcasD d b disp t => Sys2Proof.Machine.execRcasD d b disp t s
  | .rcasW d b disp t => Sys2Proof.Machine.execRcasW d b disp t s
  | .ramoAddN d b disp => Sys2Proof.Machine.execRamoAddN d b disp s
  | .ramoAndN d b disp => Sys2Proof.Machine.execRamoAndN d b disp s
  | .ramoOrN d b disp => Sys2Proof.Machine.execRamoOrN d b disp s
  | .ramoXorN d b disp => Sys2Proof.Machine.execRamoXorN d b disp s
  | .ramoMinN d b disp => Sys2Proof.Machine.execRamoMinN d b disp s
  | .ramoMaxN d b disp => Sys2Proof.Machine.execRamoMaxN d b disp s
  | .ramoMinuN d b disp => Sys2Proof.Machine.execRamoMinuN d b disp s
  | .ramoMaxuN d b disp => Sys2Proof.Machine.execRamoMaxuN d b disp s
  | .ramoSwapN d b disp => Sys2Proof.Machine.execRamoSwapN d b disp s
  | .ffence d src t => Sys2Proof.Machine.execFfence d src t s
  | .mcast d src => Sys2Proof.Machine.execMcast d src s
  | .mcgrp d src => Sys2Proof.Machine.execMcgrp d src s
  | .guestset d src => Sys2Proof.Machine.execGuestset d src s
  | .longLatencyResultArrival chip id => Sys2Proof.Machine.execLongLatencyResultArrival chip id s
  | .translationWalkComplete chip id => Sys2Proof.Machine.execTranslationWalkComplete chip id s
  | .icacheFill chip id => Sys2Proof.Machine.execIcacheFill chip id s
  | .messageArrival chip id => Sys2Proof.Machine.execMessageArrival chip id s
  | .messageDeliveryRetry chip id => Sys2Proof.Machine.execMessageDeliveryRetry chip id s
  | .depositArrival chip id => Sys2Proof.Machine.execDepositArrival chip id s
  | .depositWrite chip id => Sys2Proof.Machine.execDepositWrite chip id s
  | .depositReply chip id => Sys2Proof.Machine.execDepositReply chip id s
  | .portBindRequest chip id => Sys2Proof.Machine.execPortBindRequest chip id s
  | .portValueArrival chip id => Sys2Proof.Machine.execPortValueArrival chip id s
  | .spawnRemoteCreate chip id => Sys2Proof.Machine.execSpawnRemoteCreate chip id s
  | .tstatRemoteReply chip id => Sys2Proof.Machine.execTstatRemoteReply chip id s
  | .homeFeOperation chip id => Sys2Proof.Machine.execHomeFeOperation chip id s
  | .homeAtomic chip id => Sys2Proof.Machine.execHomeAtomic chip id s
  | .slotRelease chip core slot => Sys2Proof.Machine.execSlotRelease chip core slot s
  | .cassiaOpStart chip cluster => Sys2Proof.Machine.execCassiaOpStart chip cluster s
  | .engineLineRead chip id => Sys2Proof.Machine.execEngineLineRead chip id s
  | .engineLineWrite chip id => Sys2Proof.Machine.execEngineLineWrite chip id s
  | .accswapExchange chip id => Sys2Proof.Machine.execAccswapExchange chip id s
  | .clovePieceArrival chip id => Sys2Proof.Machine.execClovePieceArrival chip id s
  | .clovePieceWrite chip id => Sys2Proof.Machine.execClovePieceWrite chip id s
  | .commitEntryApply chip id => Sys2Proof.Machine.execCommitEntryApply chip id s
  | .commitRefresh chip id => Sys2Proof.Machine.execCommitRefresh chip id s
  | .phaseCommitStart chip id => Sys2Proof.Machine.execPhaseCommitStart chip id s
  | .barrierSignalHop chip core reg => Sys2Proof.Machine.execBarrierSignalHop chip core reg s
  | .barrierRelease chip core reg => Sys2Proof.Machine.execBarrierRelease chip core reg s
  | .cellOperation chip id => Sys2Proof.Machine.execCellOperation chip id s
  | .anisePlacementRead chip id => Sys2Proof.Machine.execAnisePlacementRead chip id s
  | .aniseSlabRead chip id => Sys2Proof.Machine.execAniseSlabRead chip id s
  | .aniseSlabWrite chip id => Sys2Proof.Machine.execAniseSlabWrite chip id s
  | .aniseSelfFill chip id => Sys2Proof.Machine.execAniseSelfFill chip id s
  | .aniseFaceStepSet chip id => Sys2Proof.Machine.execAniseFaceStepSet chip id s
  | .aniseDeliveryAbandon chip id => Sys2Proof.Machine.execAniseDeliveryAbandon chip id s
  | .budgetPeriodStart chip die block => Sys2Proof.Machine.execBudgetPeriodStart chip die block s
  | .preemptRequest chip id => Sys2Proof.Machine.execPreemptRequest chip id s
  | .preemptHandlerStart chip core => Sys2Proof.Machine.execPreemptHandlerStart chip core s
  | .preemptDone chip cluster => Sys2Proof.Machine.execPreemptDone chip cluster s
  | .preemptBudgetExpiry chip cluster => Sys2Proof.Machine.execPreemptBudgetExpiry chip cluster s
  | .mapTradeArrival chip id => Sys2Proof.Machine.execMapTradeArrival chip id s
  | .mapTransferComplete chip id => Sys2Proof.Machine.execMapTransferComplete chip id s
  | .claimExpiry chip id => Sys2Proof.Machine.execClaimExpiry chip id s
  | .cbptrWrite chip fn ring v => Sys2Proof.Machine.execCbptrWrite chip fn ring v s
  | .doorbellWrite chip fn ring => Sys2Proof.Machine.execDoorbellWrite chip fn ring s
  | .bootgoWrite chip => Sys2Proof.Machine.execBootgoWrite chip s
  | .hostRegisterWrite chip fn offset v => Sys2Proof.Machine.execHostRegisterWrite chip fn offset v s
  | .ringSampleRetry chip ring => Sys2Proof.Machine.execRingSampleRetry chip ring s
  | .packetTake chip ring => Sys2Proof.Machine.execPacketTake chip ring s
  | .packetNop chip id => Sys2Proof.Machine.execPacketNop chip id s
  | .packetLaunch chip id => Sys2Proof.Machine.execPacketLaunch chip id s
  | .packetBarrier chip id => Sys2Proof.Machine.execPacketBarrier chip id s
  | .packetSignal chip id => Sys2Proof.Machine.execPacketSignal chip id s
  | .packetIndirect chip id => Sys2Proof.Machine.execPacketIndirect chip id s
  | .packetCopy chip id => Sys2Proof.Machine.execPacketCopy chip id s
  | .packetComplete chip id => Sys2Proof.Machine.execPacketComplete chip id s
  | .hostLinkReset chip => Sys2Proof.Machine.execHostLinkReset chip s
  | .hostLinkUp chip => Sys2Proof.Machine.execHostLinkUp chip s
  | .functionLevelReset chip fn => Sys2Proof.Machine.execFunctionLevelReset chip fn s
  | .hostCxlWrite chip addr bytes => Sys2Proof.Machine.execHostCxlWrite chip addr bytes s
  | .hostCxlRead chip addr n => Sys2Proof.Machine.execHostCxlRead chip addr n s
  | .hostLtrUpdate chip ns => Sys2Proof.Machine.execHostLtrUpdate chip ns s
  | .clusterPowerEntry chip cluster => Sys2Proof.Machine.execClusterPowerEntry chip cluster s
  | .clusterPowerExitStart chip cluster => Sys2Proof.Machine.execClusterPowerExitStart chip cluster s
  | .clusterPowerExitComplete chip cluster => Sys2Proof.Machine.execClusterPowerExitComplete chip cluster s
  | .powerUp chip => Sys2Proof.Machine.execPowerUp chip s
  | .bootStart chip => Sys2Proof.Machine.execBootStart chip s
  | .powerLoss chip => Sys2Proof.Machine.execPowerLoss chip s
  | .fatalError chip die cause => Sys2Proof.Machine.execFatalError chip die cause s
  | .dumpComplete chip => Sys2Proof.Machine.execDumpComplete chip s
  | .linkReplay chip port => Sys2Proof.Machine.execLinkReplay chip port s
  | .linkDown chip port => Sys2Proof.Machine.execLinkDown chip port s
  | .fabricPacketHop id => Sys2Proof.Machine.execFabricPacketHop id s
  | .retransmitTimeout chip port dst seq => Sys2Proof.Machine.execRetransmitTimeout chip port dst seq s
  | .streamRestart chip port dst => Sys2Proof.Machine.execStreamRestart chip port dst s
  | .streamStateExpiry chip src unit => Sys2Proof.Machine.execStreamStateExpiry chip src unit s
  | .fabricStoreArrival id => Sys2Proof.Machine.execFabricStoreArrival id s
  | .fabricAmoArrival id => Sys2Proof.Machine.execFabricAmoArrival id s
  | .fabricPostedArrival id => Sys2Proof.Machine.execFabricPostedArrival id s
  | .fabricFenceArrival id => Sys2Proof.Machine.execFabricFenceArrival id s
  | .fabricMcastArrival id => Sys2Proof.Machine.execFabricMcastArrival id s
  | .fabricPortArrival id => Sys2Proof.Machine.execFabricPortArrival id s
  | .fabricNoticeArrival id => Sys2Proof.Machine.execFabricNoticeArrival id s
  | .fabricReplyArrival id => Sys2Proof.Machine.execFabricReplyArrival id s
  | .fabricAckArrival id => Sys2Proof.Machine.execFabricAckArrival id s
  | .migrateArrival id => Sys2Proof.Machine.execMigrateArrival id s
  | .migrateReturn id => Sys2Proof.Machine.execMigrateReturn id s
  | .fundamentalReset chip => Sys2Proof.Machine.execFundamentalReset chip s
  | .fabricLinkTrain chip port => Sys2Proof.Machine.execFabricLinkTrain chip port s

end Sys2Proof.Machine
end

