-- ==== Sys2Proof/Machine/Turns.lean ====
section
/-! DEFINITION. What a step takes up (R13, R28, R210): the next move of the plan, or a free one; the wake of a parked
thread; and the words placed where a fetch finds them. -/

namespace Sys2Proof.Machine

/-- The next move: the head of the plan, else a free value. -/
def State.nextMove (s : State) : Move :=
  match s.plan with
  | m :: _ => m
  | [] => Config.freeMove s.tick

/-- The state in which the move is taken: the plan's head removed and the counter of free values advanced. -/
def State.begin (s : State) : State := { s with plan := s.plan.tail, tick := s.tick + 1 }

/-- A thread set READY again (R28). -/
def Thread.woken (t : Thread) : Thread := { t with life := .ready, reason := none, wait := .none }

/-- The state in which a parked thread's chain is issued again. -/
def State.reissue (s : State) (chip core slot : Nat) : State :=
  let t := (s.pkg chip).thread core slot
  { (s.onPkg chip (fun p => p.setThread core slot t.woken)) with cur := ⟨chip, core, slot, t.chain⟩ }

/-- Parks whose wake the awaited step itself gives (R28): a home, a message for WAITM (R150), a deposit's target, a release, a commit,
the answer to a FENCE. -/
def Core.wokenByStep (k : Core) (slot : Nat) : Bool :=
  match (k.thread slot).reason with
  | some .word | some .depr | some .phase => true
  | some .mbox => k.waitm.contains slot
  | some .barrier | some .fence => (match (k.thread slot).wait with
    | .none | .cover _ => false
    | _ => true)
  | _ => false

/-- Faces of a tile hold a step, or the tile is no longer bound (R28, R324, R345). -/
def Package.facesReached (p : Package) (core slot : Nat) (fs : List Nat) (step : BitVec 32) : Bool :=
  match (p.grid (coreDie core) slot).tileOn core with
  | some b => fs.all (fun f => atOrLater (b.face f) step)
  | none => true

/-- The network takes what a chain that it has refused would send (R444): a message, the pieces of a copy, or the copies of an MCAST. -/
def State.netTakes (s : State) (i : Instr) : Bool :=
  match i with
  | .copyB _ _ _ | .copyL _ _ _ _ | .copym _ _ _ _ => !s.here.copyRefused s.cur.core
  | .mcast d src => decide ((s.here.entry (groupRid (lowBits (s.reg d.toNat) 8))).holder ≠ s.holder) ||
      (s.mcastTo (lowBits (s.reg d.toNat) 8) (s.cap src.n.toNat)).isOk
  | _ => !s.msgRefused 1

/-- A source unit takes what a chain that it has refused would send to a chip: the bind request of a port, the copies of an MCAST, or one
request (R185, R437, R444). -/
def State.unitTakes (s : State) (i : Instr) (dst : Nat) : Bool :=
  match i with
  | .pbind port _ => s.mayBind (portCode port) dst
  | .mcast _ _ => s.netTakes i
  | _ => s.mayRequest dst

/-- The partner of a thread that waits in RDV has arrived, or is gone (R201). -/
def State.partnerMet (s : State) : Bool :=
  match s.pair with
  | some q => if s.isExe then q.left || q.accRdv || q.accSlot.isNone else q.exeRdv.isSome || q.exeSlot.isNone
  | none => true

/-- What a thread whose reason alone says what it waits for has come about (R28): an entry of the dispatch queue or the end of its
operations, the lock of a tile, the release of a barrier, the network, its partner. -/
def State.reasonOver (s : State) (t : Thread) (i : Instr) : Bool :=
  match t.reason, i with
  | some .engine, .esync => s.pendingOps.isEmpty
  | some .engine, _ => decide (s.hereCore.dispatch.length < 8)
  | some .acc, _ => (t.waits.map (fun r => !s.here.locked (clusterOf s.cur.core) (positionOf (ridIndex r)))).getD true
  | some .barrier, .barw d n => decide ((s.here.bar s.cur.core n.toNat).epoch ≠ (s.reg d.toNat).getLsbD 0)
  | some .net, _ => s.netTakes i
  | some .rdv, _ => s.partnerMet
  | _, _ => false

/-- What a parked thread waits for has come about, or is lost to it (R28): `s` is the state in which its chain is issued again. A chain
that other operands or its translations would make wait wakes all the same, issues afresh, and may park again. -/
def State.waitOver (s : State) (t : Thread) (i : Instr) : Bool :=
  match t.wait with
  | .regs n count => (span n 1 count).all (fun r => (s.hereCore.reg s.me r).full)
  | .source c => decide ((s.source c).park? ≠ t.reason)
  | .sink c => decide ((s.sink c).park? ≠ t.reason)
  | .ports ps => ps.any (fun q => decide (s.myPort q = .unbound ∨ s.myPort q = .broken)) ||
      (if t.reason = some .bind then ps.all (fun q => decide (s.myPort q ≠ .binding)) else ps.all s.portRoom)
  | .queue load second => (match s.pair with
    | some q => q.exeSlot.isNone || (if load then !q.loadFull second else !q.storeEmpty second)
    | none => true)
  | .faces slot fs step => s.here.facesReached s.cur.core slot fs step
  | .cover dst => !s.covering dst
  | .leave dst => s.mayLeave dst
  | .unit dst => s.unitTakes i dst
  | _ => s.reasonOver t i

/-- The wake condition of a parked thread holds (R28). -/
noncomputable def State.mayWake (s : State) (chip core slot : Nat) : Bool :=
  let t := (s.pkg chip).thread core slot
  match decode t.chain with
  | .error _ => false
  | .ok (i, _) => (s.reissue chip core slot).waitOver t i

/-- A parked thread wakes when its condition holds (R28). -/
noncomputable def State.wake (s : State) (chip core slot : Nat) : State :=
  let t := (s.pkg chip).thread core slot
  if t.life = .parked ∧ ¬ ((s.pkg chip).core core).wokenByStep slot ∧ s.mayWake chip core slot then
    s.onPkg chip (fun p => p.setThread core slot t.woken)
  else s

/-- A step of a kind in the tables that is no instruction: one that is not enabled does not happen. -/
def State.event (i : Instr) (s : State) : Host.Outcome State Fault Refusal :=
  match exec i s with
  | .fault _ => .next s
  | o => o

/-- A line with an error in one of its words. -/
def OutLine.upset (l : OutLine) (word : Nat) : OutLine := { l with bad := if word < 8 then sadd l.bad word else l.bad }

/-- Element i of a list changed. -/
def changeAt {α : Type} (f : α → α) : Nat → List α → List α
  | _, [] => []
  | 0, x :: t => f x :: t
  | i + 1, x :: t => x :: changeAt f i t

/-- A soft error (R34, R169, R253, R380, R381). An error in a word of a scratchpad or of HBM is found by every read of the
word, so that the cores' views have it too. -/
def Package.upset (p : Package) : Upset → Package
  | .corrected die => if die < 4 then p.count die 0 else p
  | .retry die => if die < 4 then p.count die 2 else p
  | .word a =>
    let w := wordOf a
    (match p.place w with
    | .scratch _ _ | .hbm | .dump =>
      ({ p with mem := p.mem.setBad w true } : Package).onAllCores (fun k => { k with view := k.view.setBad w true })
    | _ => p)
  | .reg c e =>
    if c < 1024 ∧ e < 2048 then p.onCore c (fun k => { k with regs := tset k.regs e { k.cell e with bad := true } }) else p
  | .outbox c i w => p.onCore c (fun k => { k with outbox := changeAt (OutLine.upset · w) i k.outbox })
  | .spilled c i w => p.onCore c (fun k => { k with spilled := changeAt (OutLine.upset · w) i k.spilled })
  | .bank c visible e =>
    if c < 1024 ∧ e < 16384 then
      p.onCore c (fun k => { k with
        tile := if visible then { k.tile with vbad := sadd k.tile.vbad e } else { k.tile with wbad := sadd k.tile.wbad e } })
    else p

/-- A soft error strikes a package that runs. -/
def State.upset (s : State) (chip : Nat) (u : Upset) : State :=
  if (s.pkg chip).phase = .running then s.onPkg chip (fun p => p.upset u) else s

/-- The end of a step: what packages owe one another is paid (R310, R424), and the PHASE.h episodes that are complete are closed (R313). -/
def State.ended (s : State) : State := s.told.phased

/-- A step's outcome, with its end. -/
def settled (o : Host.Outcome State Fault Refusal) : Host.Outcome State Fault Refusal :=
  match o with
  | .next s => .next s.ended
  | o => o

/-- One move. A step that is not enabled changes nothing. -/
noncomputable def State.take (s : State) (m : Move) : Host.Outcome State Fault Refusal :=
  settled (match m with
  | .cycle chip core =>
    (match s.coreCycle chip core with
    | .none s1 => .next s1
    | .issue s1 i => exec i s1)
  | .wake chip core slot => .next (s.wake chip core slot)
  | .event i => if i.isStep then State.event i s else .next s
  | .upset chip u => .next (s.upset chip u))

/-- Bytes placed where core 0 fetches next: in its scratchpad from address 0 and in its instruction cache, slot 0 of
core 0 being READY at word address 0 as boot leaves it (R382). -/
def Package.placed (p : Package) (bytes : List Byte) : Package :=
  let p : Package := { p with
    phase := .running,
    mem := p.mem.write ((span 0 1 bytes.length).zip bytes) }
  p.onCore 0 (fun k =>
    let k := { k with
      ptr := 0,
      icache := [⟨0, bytes ++ List.replicate (64 - bytes.length) (0 : Byte)⟩] }
    (k.setThread 0 { k.thread 0 with lastIssue := 0, gap := 0 }).startThread 0 0 64 0 [] 0 none none)

/-- The machine with an instruction placed, and a cycle of core 0 the plan's next move. -/
def State.placeWords (s : State) (nbits w : Nat) : State :=
  { (s.onPkg 0 (fun p => p.placed ((tableChain nbits w).flatMap halfBytes))) with plan := [.cycle 0 0] }

end Sys2Proof.Machine
end

