-- ==== Sys2Proof/WellFormed.lean ====
section
/-! DEFINITION. Which instructions have words: the checks of R61 to R67 on decoded operands.
A step of the machine, ILLEGAL_CHAIN, and the second names of HEIR have no words of their own. -/

namespace Sys2Proof

/-- The D operand is one that the form takes (R62, R64, R98). -/
def DForm.accepts : DForm → Opd → Bool
  | .none, .none => true
  | .reg, .reg r => r.reuse = false ∧ r.trap = false
  | .dst, .reg r => r.reuse = false ∧ r.trap = false
  | .dst, .stream c => destStream c
  | .num m, .num n => n.toNat ≤ m
  | _, _ => false

/-- The S operand is one that the form takes (R61, R64). -/
def SForm.accepts : SForm → Opd → Bool
  | .none, .none => true
  | .base, .reg _ => true
  | .num, .num _ => true
  | .src _ _, .reg _ => true
  | .src s _, .stream c => s ∧ sourceStream c
  | .src _ i, .imm => i.isSome
  | .sel r _, .reg _ => r
  | .sel _ _, .imm => true
  | _, _ => false

/-- The T operand is one that the form takes (R62, R64, R265). -/
def TForm.accepts : TForm → Opd → Bool
  | .none, .none => true
  | .regT, .reg _ => true
  | .regO, .none => true
  | .regO, .reg _ => true
  | .tgt, .reg _ => true
  | .tgt, .stream c => sourceStream c
  | .recT, .num _ => true
  | _, _ => false

/-- The immediate lies in the form's range and fits three IMM prefixes; an absent immediate is 0 (R63). -/
def Form.immFits (f : Form) (r : Raw) : Bool :=
  let within (g : Int × Int) (w : Nat) : Bool := inRange g r.imm.toInt ∧ fitsString (30 + w) r.imm.toInt
  match f.imm with
  | .none => r.imm = 0
  | .sImm =>
    (match r.s, f.s.range with
    | .imm, some g => within g 4
    | _, _ => r.imm = 0)
  | .sBare =>
    (match r.s, f.s.range with
    | .imm, some g => inRange g r.imm.toInt ∧ fitsString 4 r.imm.toInt
    | _, _ => r.imm = 0)
  | .disp => fitsString 30 r.imm.toInt
  | .field g => within g (match f.fmt with | .J => 10 | _ => 6)
  | .pre _ g => within g 0
  | .bare g => inRange g r.imm.toInt ∧ fitsString 6 r.imm.toInt
  | .one g => inRange g r.imm.toInt ∧ fitsString 10 r.imm.toInt

/-- The size or the tile in SZ is one that the row lists; other formats have none (R61, R99). -/
def Form.sizeFits (f : Form) (r : Raw) : Bool :=
  match f.fmt with
  | .M => f.sz.contains r.sz
  | _ => r.sz = 0

/-- The operands are those of the row, and the chain needs no more than four prefixes (R66). -/
def Form.fits (f : Form) (page : Nat) (r : Raw) : Bool :=
  f.d.accepts r.d && f.s.accepts r.s && f.t.accepts r.t && f.immFits r && f.sizeFits r && r.rnd.allowed f.rounds &&
  decide ((if page = 0 then 0 else 1) + (if regxOf r.d r.s = 0 then 0 else 1) +
    (if (regtOf r.t).isSome then 1 else 0) + (immParts f r).1.length ≤ 4)

/-- A selector operand names the operation of its constructor: its read bit, or a register that will (R202, R275). -/
def readSel (bit : Nat) : Src → Bool
  | .imm v => v.getLsbD bit
  | _ => true

def writeSel (bit : Nat) : Src → Bool
  | .imm v => !v.getLsbD bit
  | _ => false

/-- The conditions that one instruction alone has on its operands. -/
def Instr.special : Instr → Bool
  | .setrm v => (v.setWidth 3).toNat < 6
  | .sendT _ h p c => c.toNat ≤ 6 ∧ (h = 0 → c.toNat ≤ 3) ∧ (p.isSome ↔ c ≠ 0)
  | .sendC _ h p c => c.toNat ≤ 6 ∧ (h = 0 → c.toNat ≤ 3) ∧ (p.isSome ↔ c ≠ 0)
  | .bfmtRead _ s => readSel 3 s
  | .bfmtWrite _ s => writeSel 3 s
  | .bmodeRead _ s => readSel 3 s
  | .bmodeWrite _ s => writeSel 3 s
  | .accmodeRead _ s => readSel 2 s
  | .accmodeWrite _ s => writeSel 2 s
  | .heirRecord _ _ => false
  | _ => true

/-- An instruction is well-formed when its operands have words that decode to it. -/
noncomputable def Instr.wf (i : Instr) : Bool :=
  match i.coded with
  | none => false
  | some c =>
    match c.form with
    | none => false
    | some f => i.special && f.fits c.page c.raw

end Sys2Proof
end

