-- ==== Sys2Proof/Certificates/Slice0/Obligations.lean ====
section
/-! DEFINITION. The statements for the provers, and the conditions that they share. -/

namespace Sys2Proof.Claims

open Sys2Proof.Machine

/-! ## When a chain's operands are ready, and how a chain ends -/

/-- An operand is ready and has the value x (R17 to R20, R64, R97): an immediate; a stream that supplies a value or has
room; a register or a group that begins where it must, lies in the window, is full and, when it is read, not poisoned. -/
def Holds (s : State) (o : Opr) (x : Word) : Bool :=
  match o with
  | .none => decide (x = 0)
  | .imm v => decide (x = v)
  | .pop c => !(Opr.pop c).roleBad s && decide (s.source c = .val x)
  | .push c => !(Opr.push c).roleBad s && decide (s.sink c = .val x)
  | .named n count even => decide (x = 0) && (!even || decide (n % 2 = 0)) && decide (n + count ≤ s.me.len)
  | .reg n count even use _ =>
    (!even || decide (n % 2 = 0)) && decide (n + count ≤ s.me.len) &&
    (span n 1 count).all (fun i => (s.hereCore.cell (s.me.base + i)).full) &&
    (match use with
    | .write => []
    | .first => [n]
    | _ => span n 1 count).all (fun i => !(s.hereCore.cell (s.me.base + i)).bad) &&
    decide (x = (s.hereCore.cell (s.me.base + n)).val)

/-- The thread of the issue context may issue, and no operand of its chain traps or parks. -/
def Ready (s : State) (n : Needs) (v : Vals) : Prop :=
  s.here.phase = .running ∧ s.me.life = .ready ∧ (n.mem = true → s.me.role ≠ 2) ∧ n.role.bad s = false ∧
  Holds s n.d v.d = true ∧ Holds s n.s v.s = true ∧ Holds s n.t v.t = true

/-- A chain that is complete: its streams popped, and the program counter past it (R97). -/
def endOf (n : Needs) (t : State) : State := (n.pops.foldl State.pop t).advance

/-- A chain that is complete and goes on at an address. -/
def endAt (n : Needs) (t : State) (pc : BitVec 56) : State := (n.pops.foldl State.pop t).goto pc

/-- The empty registers of a group. -/
def emptyRegs (s : State) (n count : Nat) : List Nat := (span n 1 count).filter (fun i => !(s.hereCore.reg s.me i).full)

/-- The needs of the register shapes. -/
def needDS (d : Reg) (src : Src) : Needs := { s := srcOpr src, d := rwReg d }
def needWS (d : Reg) (src : Src) : Needs := { s := srcOpr src, d := wrReg d }
def needDST (d : Reg) (src : Src) (t : Tgt) : Needs := { t := tgtOpr t, s := srcOpr src, d := rwReg d }
def needMem (d : Opr) (b : RegOp) : Needs := { mem := true, s := rdOp b, d := d }

end Sys2Proof.Claims

open Sys2Proof Sys2Proof.Machine Sys2Proof.Claims

/-! ## The gate (R17 to R20, R31, R97) -/

/-- R31, R97: a chain whose operands are ready passes the gate with their values, and only such a chain does.
R17, R19, R31: of one register operand S, an odd number that must begin a pair comes before the window, the window before
an empty register with its trap bit set, and that before a park. That a group of registers reports its first empty number is the model's
reading (log 9), and that a poisoned register comes after the parks is another (log 44). -/
def Obligations.Gate : Prop :=
  (
    ∀ (s : State) (n : Needs) (v : Vals),
      Ready s n v ↔ (s.issuing = true ∧ gate s n = .ok v)) ∧
  (
    ∀ (s : State) (n count : Nat) (even trap : Bool), 0 < count →
      gate s { s := .reg n count even .read trap } =
        if even = true ∧ n % 2 = 1 then .trap .alignOperand (word n)
        else if s.me.len < n + count then .trap .window (word n)
        else if trap = true ∧ emptyRegs s n count ≠ [] then .trap .empty (firstNumber s (emptyRegs s n count))
        else if emptyRegs s n count ≠ [] then .park .reg
        else match (span n 1 count).find? (fun i => (s.hereCore.reg s.me i).bad) with
          | some i => .trap .softError (word i)
          | none => .ok ⟨0, s.reg n, 0⟩)

/-! ## Integer instructions (R104 to R111) -/

/-- R104: each form writes D from D and S, and the chain ends past itself. -/
def Obligations.IntegerArithmetic : Prop :=
  ∀ (d : Reg) (src : Src) (s : State) (v : Vals), Ready s (needDS d src) v →
    ∃ f : Instr → Word,
      (∀ i ∈ [Instr.add d src, .addW d src, .sub d src, .subW d src, .mul d src, .mulW d src, .mulh d src, .and d src, .or d src,
          .xor d src, .min d src, .max d src, .minu d src, .maxu d src, .ceq d src, .cne d src, .clt d src, .cltu d src,
          .cle d src, .cleu d src],
        exec i s = .next (endOf (needDS d src) (s.setReg d.toNat (f i)))) ∧
      f (.add d src) = v.d + v.s ∧
      f (.addW d src) = ((v.d + v.s).setWidth 32).signExtend 64 ∧
      f (.sub d src) = v.d - v.s ∧
      f (.subW d src) = ((v.d - v.s).setWidth 32).signExtend 64 ∧
      f (.mul d src) = v.d * v.s ∧
      f (.mulW d src) = ((v.d * v.s).setWidth 32).signExtend 64 ∧
      f (.mulh d src) = (v.d.signExtend 128 * v.s.signExtend 128).extractLsb' 64 64 ∧
      f (.and d src) = v.d &&& v.s ∧
      f (.or d src) = v.d ||| v.s ∧
      f (.xor d src) = v.d ^^^ v.s ∧
      (f (.min d src)).toInt = min v.d.toInt v.s.toInt ∧
      (f (.max d src)).toInt = max v.d.toInt v.s.toInt ∧
      (f (.minu d src)).toNat = min v.d.toNat v.s.toNat ∧
      (f (.maxu d src)).toNat = max v.d.toNat v.s.toNat ∧
      f (.ceq d src) = (if v.d = v.s then 1 else 0) ∧
      f (.cne d src) = (if v.d ≠ v.s then 1 else 0) ∧
      f (.clt d src) = (if v.d.toInt < v.s.toInt then 1 else 0) ∧
      f (.cltu d src) = (if v.d.toNat < v.s.toNat then 1 else 0) ∧
      f (.cle d src) = (if v.d.toInt ≤ v.s.toInt then 1 else 0) ∧
      f (.cleu d src) = (if v.d.toNat ≤ v.s.toNat then 1 else 0)

/-- R105: division truncates toward zero and never traps. -/
def Obligations.Division : Prop :=
  ∀ (d : Reg) (src : Src) (s : State) (v : Vals), Ready s (needDS d src) v →
    ∃ q r qu ru : Word,
      exec (.div d src) s = .next (endOf (needDS d src) (s.setReg d.toNat q)) ∧
      exec (.rem d src) s = .next (endOf (needDS d src) (s.setReg d.toNat r)) ∧
      exec (.divu d src) s = .next (endOf (needDS d src) (s.setReg d.toNat qu)) ∧
      exec (.remu d src) s = .next (endOf (needDS d src) (s.setReg d.toNat ru)) ∧
      (v.s = 0 → q = 0xFFFFFFFFFFFFFFFF ∧ r = v.d ∧ qu = 0xFFFFFFFFFFFFFFFF ∧ ru = v.d) ∧
      (v.d = 0x8000000000000000 ∧ v.s = 0xFFFFFFFFFFFFFFFF → q = v.d ∧ r = 0) ∧
      (v.s ≠ 0 ∧ ¬ (v.d = 0x8000000000000000 ∧ v.s = 0xFFFFFFFFFFFFFFFF) →
        q.toInt = v.d.toInt.tdiv v.s.toInt ∧ r.toInt = v.d.toInt - v.d.toInt.tdiv v.s.toInt * v.s.toInt) ∧
      (v.s ≠ 0 → qu.toNat = v.d.toNat / v.s.toNat ∧ ru.toNat = v.d.toNat % v.s.toNat)

/-- R104, R106 to R108: moves, immediates, address arithmetic and selection. -/
def Obligations.MovesAndImmediates : Prop :=
  ∀ (s : State) (v : Vals),
    (∀ (d : Dst) (src : Src), Ready s { s := srcOpr src, d := dstOpr d } v →
      exec (.mov d src) s = .next (endOf { s := srcOpr src, d := dstOpr d } (s.writeDst d v.s))) ∧
    (∀ (d : Dst) (imm : Word), Ready s { d := dstOpr d } v → exec (.li d imm) s = .next ((s.writeDst d imm).advance)) ∧
    (∀ (d : Reg) (imm : Word), Ready s { d := rwReg d } v →
      exec (.addi d imm) s = .next ((s.setReg d.toNat (v.d + imm)).advance) ∧
      (∃ w, exec (.lih d imm) s = .next ((s.setReg d.toNat w).advance) ∧
        w.extractLsb' 32 32 = imm.setWidth 32 ∧ w.setWidth 32 = v.d.setWidth 32) ∧
      (imm.toNat < 64 → exec (.shli d imm) s = .next ((s.setReg d.toNat (v.d <<< imm)).advance) ∧
        exec (.shri d imm) s = .next ((s.setReg d.toNat (v.d >>> imm)).advance))) ∧
    (∀ (d : Reg) (b : RegOp) (disp : Word), Ready s (needMem (wrReg d) b) v →
      exec (.lea d b disp) s = .next ((s.setReg d.toNat (v.s + disp)).advance)) ∧
    (∀ (d : Reg) (src : Src) (t : Tgt), Ready s (needDST d src t) v →
      exec (.sel d src t) s = .next (endOf (needDST d src t) (if v.t ≠ 0 then s.setReg d.toNat v.s else s)))

/-- R104, R106: the shifts, bit by bit.
R109: bit fields, bit by bit; n is the length of the field, cut at bit 63. -/
def Obligations.ShiftsAndFields : Prop :=
  (
    ∀ (d : Reg) (src : Src) (s : State) (v : Vals), Ready s (needDS d src) v →
      ∃ l lw r a : Word,
        exec (.shl d src) s = .next (endOf (needDS d src) (s.setReg d.toNat l)) ∧
        exec (.shlW d src) s = .next (endOf (needDS d src) (s.setReg d.toNat lw)) ∧
        exec (.shr d src) s = .next (endOf (needDS d src) (s.setReg d.toNat r)) ∧
        exec (.sar d src) s = .next (endOf (needDS d src) (s.setReg d.toNat a)) ∧
        (∀ i, i < 64 →
          l.getLsbD i = (decide (v.s.toNat % 64 ≤ i) && v.d.getLsbD (i - v.s.toNat % 64)) ∧
          lw.getLsbD i = (decide (v.s.toNat % 32 ≤ min i 31) && v.d.getLsbD (min i 31 - v.s.toNat % 32)) ∧
          r.getLsbD i = v.d.getLsbD (i + v.s.toNat % 64) ∧
          a.getLsbD i = v.d.getLsbD (min (i + v.s.toNat % 64) 63))) ∧
  (
    ∀ (s : State) (v : Vals),
      (∀ (d : Reg) (src : Src), Ready s (needDS d src) v →
        ∃ w, exec (.bfx d src) s = .next (endOf (needDS d src) (s.setReg d.toNat w)) ∧
          ∀ i, i < 64 →
            let pos := v.s.toNat % 64
            let n := min (v.s.toNat / 64 % 64 + 1) (64 - pos)
            w.getLsbD i = if i < n then v.d.getLsbD (pos + i) else (v.s.getLsbD 12 && v.d.getLsbD (pos + n - 1))) ∧
      (∀ (d : Reg) (src : Src) (t : Tgt), Ready s (needDST d src t) v →
        ∃ w, exec (.bfi d src t) s = .next (endOf (needDST d src t) (s.setReg d.toNat w)) ∧
          ∀ i, i < 64 →
            let pos := v.t.toNat % 64
            let n := min (v.t.toNat / 64 % 64 + 1) (64 - pos)
            w.getLsbD i = if pos ≤ i ∧ i < pos + n then v.s.getLsbD (i - pos) else v.d.getLsbD i))

/-- One byte of CRC-32C, as the loop of R111 gives it. -/
def Claims.crcByte (c : BitVec 32) (b : Byte) : BitVec 32 :=
  let step (c : BitVec 32) : BitVec 32 := if c.getLsbD 0 then (c >>> 1) ^^^ 0x82F63B78 else c >>> 1
  step (step (step (step (step (step (step (step (c ^^^ b.setWidth 32))))))))

/-- R110: CTZ counts the trailing zero bits, and BSWAP reverses the bytes.
R111: the bytes of S enter the CRC in order, the least significant first. -/
def Obligations.CountsSwapsAndCrc : Prop :=
  (
    ∀ (d : Reg) (src : Src) (s : State) (v : Vals), Ready s (needWS d src) v →
      (∃ k : Nat, exec (.ctz d src) s = .next (endOf (needWS d src) (s.setReg d.toNat (word k))) ∧
        (v.s = 0 → k = 64) ∧ (v.s ≠ 0 → k < 64 ∧ v.s.getLsbD k = true) ∧ ∀ j, j < k → v.s.getLsbD j = false) ∧
      (∃ w : Word, exec (.bswap d src) s = .next (endOf (needWS d src) (s.setReg d.toNat w)) ∧
        ∀ i, i < 8 → w.extractLsb' (8 * i) 8 = v.s.extractLsb' (8 * (7 - i)) 8)) ∧
  (
    ∀ (d : Reg) (src : Src) (s : State) (v : Vals), Ready s (needDS d src) v →
      let crc (n : Nat) : Word :=
        (((List.range n).map (fun i => v.s.extractLsb' (8 * i) 8)).foldl Claims.crcByte (v.d.setWidth 32)).setWidth 64
      exec (.crcB d src) s = .next (endOf (needDS d src) (s.setReg d.toNat (crc 1))) ∧
      exec (.crcH d src) s = .next (endOf (needDS d src) (s.setReg d.toNat (crc 2))) ∧
      exec (.crcW d src) s = .next (endOf (needDS d src) (s.setReg d.toNat (crc 4))) ∧
      exec (.crcD d src) s = .next (endOf (needDS d src) (s.setReg d.toNat (crc 8))))

/-! ## Control transfer (R112 to R116) -/

/-- R113: a branch on D. A target counts words from the branch's own first word (R112).
R114: a branch on D and S; a stream S is popped whether the branch is taken or not.
R115, R116: J, CALL, JR and RET. CALL writes g1 with the word address of the chain that follows. That a relative target and the address of
the next chain are taken modulo 2^56 is the model's choice (log 49). -/
def Obligations.ControlTransfer : Prop :=
  (
    ∀ (d : Reg) (off : Word) (s : State) (v : Vals), Ready s { d := rdReg d } v →
      let to_ (taken : Prop) [Decidable taken] : State := if taken then s.goto (s.me.pc + off.setWidth 56) else s.advance
      exec (.bez d off) s = .next (to_ (v.d = 0)) ∧
      exec (.bnz d off) s = .next (to_ (v.d ≠ 0)) ∧
      exec (.bltz d off) s = .next (to_ (v.d.toInt < 0)) ∧
      exec (.bgez d off) s = .next (to_ (0 ≤ v.d.toInt))) ∧
  (
    ∀ (d : Reg) (src : Src) (off : Word) (s : State) (v : Vals), Ready s { s := srcOpr src, d := rdReg d } v →
      let n : Needs := { s := srcOpr src, d := rdReg d }
      let to_ (taken : Prop) [Decidable taken] : State :=
        if taken then endAt n s (s.me.pc + off.setWidth 56) else endOf n s
      exec (.beq d src off) s = .next (to_ (v.d = v.s)) ∧
      exec (.bne d src off) s = .next (to_ (v.d ≠ v.s)) ∧
      exec (.blt d src off) s = .next (to_ (v.d.toInt < v.s.toInt)) ∧
      exec (.bge d src off) s = .next (to_ (v.d.toInt ≥ v.s.toInt)) ∧
      exec (.bltu d src off) s = .next (to_ (v.d.toNat < v.s.toNat)) ∧
      exec (.bgeu d src off) s = .next (to_ (v.d.toNat ≥ v.s.toNat))) ∧
  (
    ∀ (s : State) (v : Vals),
      (∀ off, Ready s {} v → exec (.j off) s = .next (s.goto (s.me.pc + off.setWidth 56))) ∧
      (∀ off, Ready s { d := wrReg 1 } v →
        exec (.call off) s = .next ((s.setReg 1 ((s.me.pc + BitVec.ofNat 56 s.cur.words.length).setWidth 64)).goto
          (s.me.pc + off.setWidth 56))) ∧
      (∀ r : RegOp, Ready s { s := rdOp r } v → exec (.jr r) s = .next (s.goto (v.s.extractLsb' 0 56))) ∧
      (Ready s { s := rdReg 1 } v → exec .ret s = .next (s.goto (v.s.extractLsb' 0 56))))

/-! ## Traps (R31, R32, R119) -/

/-- R32: what a trap saves and where it goes. A thread without a vector, or in its handler, stops, and its core's handler 1 is
sent its handle, cause, value and epc, and its Cassia operations go on without it (R268); another goes on READY at its vector with
IH set. -/
def Obligations.TrapEntry : Prop :=
  ∀ (p : Package) (core slot : Nat) (cause : Cause) (detail : Nat) (value : Word), detail < 256 →
    let t := p.thread core slot
    let q := p.takeTrap core slot cause detail value
    let u := q.thread core slot
    let stops : Bool := decide (t.vec = 0) || t.cause.getLsbD 16
    u.cause.getLsbD 16 = (if stops then t.cause.getLsbD 16 else true) ∧
    u.cause.toNat % 65536 = detail * 256 + cause.code ∧ u.cause.toNat < 131072 ∧
    u.value = value ∧ u.epc = t.pc.setWidth 64 ∧
    u.life = (if stops then .trapped else .ready) ∧
    u.pc = (if stops then t.pc else t.vec.setWidth 56) ∧
    u.vec = t.vec ∧ u.fmode = t.fmode ∧ u.flags = t.flags ∧ u.role = t.role ∧ u.prio = t.prio ∧ u.gen = t.gen ∧
    (∀ c n, (c, n) ≠ (core, slot) → q.thread c n = p.thread c n) ∧
    (∀ c e, (q.core c).cell e = (p.core c).cell e) ∧
    (∀ a, q.mem.byte a = p.mem.byte a) ∧
    q.flights = (if stops then tset (p.orphan ⟨core, slot, t.gen⟩).flights p.nextId (.msg (Msg.plain core core
      (header 2 1 (p.coreHolder core) (handleOf t.gen core slot) 0) [word (handleOf t.gen core slot), u.cause, value, u.epc]))
      else p.flights)

/-! ## The thread's own state (R23, R118, R132 to R135) -/

/-- R119, R31: TRAP, BKPT and a chain that is no instruction take their traps and change nothing else.
R118: NOP changes nothing, YIELD the gap before the thread's next issue alone.
R29, R118: RETIRE leaves the slot RETIRED with its generation and window; no byte of memory and no outbox line changes. -/
def Obligations.TrapsYieldAndRetire : Prop :=
  (
    ∀ (s : State) (v : Vals), Ready s {} v →
      (∀ code, exec (.trap code) s = .next (s.onHere (fun p => p.takeTrap s.cur.core s.cur.slot .trapInsn 0 code))) ∧
      (∀ code, exec (.bkpt code) s = .next (s.onHere (fun p => p.takeTrap s.cur.core s.cur.slot .break 0 code))) ∧
      (∀ why, exec (.illegalChain why) s =
        .next (s.onHere (fun p => p.takeTrap s.cur.core s.cur.slot .illegal 0 (chainWord0 s))))) ∧
  (
    ∀ (s : State) (v : Vals), Ready s {} v →
      exec .nop s = .next s.advance ∧ exec .yield s = .next ((s.onMe (fun t => { t with gap := 64 })).advance)) ∧
  (
    ∀ (s : State) (v : Vals), Ready s {} v →
      ∃ t, exec .retire s = .next t ∧ t.me.life = .retired ∧ t.me.gen = s.me.gen ∧ t.me.base = s.me.base ∧ t.me.len = s.me.len ∧
        t.hereCore.outbox = s.hereCore.outbox ∧ ∀ a, t.here.mem.byte a = s.here.mem.byte a)

/-- The control register of a number (R23). -/
def Claims.control (t : Thread) (n : Nat) : Word :=
  ([t.vec, t.cause, t.value, t.epc, t.fmode, t.flags, t.role, t.prio][n]?).getD 0

/-- R132, R133: SETRM, RDFLG and CLRFLG.
R23, R134, R135: SREAD reads a control register; SWRITE writes it, with each register's own rule, and a write of tc.role
traps ROLE.
R49, R100, R134: SREAD of the cluster's flags gathers some of the four cores in each turn, which is a free choice, and is replayed until all
four have been gathered; it then writes D with the flags of the holder's live threads on them, each as it stood when its core
was gathered. The cores gathered stand in bits [8:5], their flags in bits [4:0]. That one turn may gather any of the cores is the model's
reading (log 45), and which of them it gathers is a free choice (log 4). -/
def Obligations.ModeFlagsAndControlRegisters : Prop :=
  (
    ∀ (s : State) (v : Vals),
      (∀ imm : Word, imm.toNat < 32 → imm.toNat % 8 < 6 → Ready s {} v →
        ∃ m : Word, exec (.setrm imm) s = .next ((s.onMe (fun t => { t with fmode := m })).advance) ∧
          m.toNat / 8 = imm.toNat / 8 ∧ m.toNat % 8 = if imm.toNat % 8 = 0 then s.me.fmode.toNat % 8 else imm.toNat % 8) ∧
      (∀ d, Ready s { d := wrReg d } v → exec (.rdflg d) s = .next ((s.setReg d.toNat (s.me.flags &&& 31)).advance)) ∧
      (∀ imm : Word, imm.toNat < 32 → Ready s {} v →
        exec (.clrflg imm) s = .next ((s.onMe (fun t => { t with flags := t.flags &&& ~~~imm })).advance))) ∧
  (
    ∀ (s : State) (v : Vals) (d : Reg) (n : BitVec 3),
      (Ready s { d := wrReg d } v → exec (.sread d n) s = .next ((s.setReg d.toNat (Claims.control s.me n.toNat)).advance)) ∧
      (Ready s { d := rdReg d } v → n = 6 → exec (.swrite d n) s = .next (s.takeTrap .role 0 (chainWord0 s))) ∧
      (Ready s { d := rdReg d } v → n ≠ 6 → ∃ t : Thread, exec (.swrite d n) s = .next ((s.onMe (fun _ => t)).advance) ∧
        (∀ k, k < 8 → k ≠ n.toNat → Claims.control t k = Claims.control s.me k) ∧
        (n = 0 → t.vec = v.d &&& 0xFFFFFFFFFFFFFF) ∧
        (n = 1 → t.cause = v.d &&& 0x1FFFF) ∧
        (n = 2 → t.value = v.d) ∧
        (n = 3 → t.epc = v.d &&& 0xFFFFFFFFFFFFFF) ∧
        (n = 4 → t.fmode.toNat / 8 = v.d.toNat / 8 % 4 ∧
          t.fmode.toNat % 8 = if 1 ≤ v.d.toNat % 8 ∧ v.d.toNat % 8 ≤ 5 then v.d.toNat % 8 else s.me.fmode.toNat % 8) ∧
        (n = 5 → t.flags = v.d &&& 31) ∧
        (n = 7 → t.prio = if s.cur.slot = 63 then v.d &&& 1 else 0) ∧
        t.life = s.me.life ∧ t.pc = s.me.pc ∧ t.base = s.me.base ∧ t.len = s.me.len ∧ t.gen = s.me.gen)) ∧
  (
    ∀ (s : State) (v : Vals) (d : Reg), Ready s { d := wrReg d } v →
      let old := (s.me.reply.getD 0).toNat
      let flags (pos : Nat) : Nat := s.here.coreFlags s.holder (clusterCore (clusterOf s.cur.core) pos)
      ∃ (now : Nat → Bool) (got : Nat),
        exec (.sreadClusterFlags d) s = .next (if got / 32 % 16 = 15 then (s.setReg d.toNat (word (got % 32))).advance
          else s.onMe (fun t => { t with reply := some (word got) })) ∧
        (∀ pos, pos < 4 → got.testBit (5 + pos) = (old.testBit (5 + pos) || now pos)) ∧
        (∀ i, i < 5 → got.testBit i = (old.testBit i ||
          [0, 1, 2, 3].any (fun pos => now pos && !old.testBit (5 + pos) && (flags pos).testBit i))) ∧
        (old / 32 % 16 = 15 → exec (.sreadClusterFlags d) s = .next ((s.setReg d.toNat (word (old % 32))).advance)))

/-! ## Scalar floating point (R124 to R131) -/

/-- The rounding mode of a chain (R45): its PAGE prefix's, or the thread's when that is 0. -/
def Claims.mode (s : State) (r : Rnd) : Nat := if r.mode = 0 then s.me.fmode.toNat % 8 else r.mode.toNat

/-- The overflow policy of a chain (R45). -/
def Claims.policy (s : State) (r : Rnd) : Nat := if r.mode = 0 then s.me.fmode.toNat / 8 % 4 else r.ovp.toNat

/-- A floating result in D, with its flags added to the thread's (R47). -/
def Claims.floated (s : State) (d : Reg) (bits flags : Nat) : State :=
  (s.onMe (fun t => { t with flags := t.flags ||| BitVec.ofNat 64 (flags % 32) })).setReg d.toNat (BitVec.ofNat 64 bits)

/-! Formats are given here by their numbers of exponent bits `e` and fraction bits `m`: 11 and 52 for FP64, 8 and 23 for FP32
(R35, R38). -/

/-- A NaN, and a signalling NaN, among encodings (R36, R38). -/
def Claims.isNaN (e m x : Nat) : Prop := x / 2 ^ m % 2 ^ e = 2 ^ e - 1 ∧ x % 2 ^ m ≠ 0
def Claims.isSNaN (e m x : Nat) : Prop := Claims.isNaN e m x ∧ x % 2 ^ m < 2 ^ (m - 1)

/-- An encoding's sign; it is an infinity; it is finite. -/
def Claims.negative (e m x : Nat) : Bool := decide (x / 2 ^ (e + m) % 2 = 1)
def Claims.isInf (e m x : Nat) : Prop := x / 2 ^ m % 2 ^ e = 2 ^ e - 1 ∧ x % 2 ^ m = 0
def Claims.isFinite (e m x : Nat) : Prop := x / 2 ^ m % 2 ^ e < 2 ^ e - 1

/-- The exact value of a finite encoding (R38). -/
def Claims.value (e m x : Nat) : ℚ :=
  (if Claims.negative e m x then -1 else 1) *
    (if x / 2 ^ m % 2 ^ e = 0 then (x % 2 ^ m : ℕ) * (2 : ℚ) ^ ((2 : ℤ) - 2 ^ (e - 1) - m)
     else (2 ^ m + x % 2 ^ m : ℕ) * (2 : ℚ) ^ ((x / 2 ^ m % 2 ^ e : ℕ) + (1 : ℤ) - 2 ^ (e - 1) - m))

/-- What an operation has exactly, before it is rounded, and what an operand stands for. -/
inductive Claims.Exact where
  | nan (signalling : Bool)
  | inf (neg : Bool)
  | zero (neg : Bool)
  | real (x : ℝ)
  | invalid
  | byZero (neg : Bool)

/-- What an encoding stands for. -/
def Claims.StandsFor (e m x : Nat) : Claims.Exact → Prop
  | .nan b => Claims.isNaN e m x ∧ (b = true ↔ Claims.isSNaN e m x)
  | .inf n => Claims.isInf e m x ∧ n = Claims.negative e m x
  | .zero n => Claims.isFinite e m x ∧ Claims.value e m x = 0 ∧ n = Claims.negative e m x
  | .real r => Claims.isFinite e m x ∧ Claims.value e m x ≠ 0 ∧ r = (Claims.value e m x : ℝ)
  | _ => False

/-- The same with the other sign; NaNs stay. -/
def Claims.Opposite (a b : Claims.Exact) : Prop :=
  match a with
  | .inf n => b = .inf (!n)
  | .zero n => b = .zero (!n)
  | .real x => b = .real (-x)
  | _ => b = a

/-- A real number and the integer that it rounds to in a mode (R44). -/
def Claims.RoundsTo (rm : Nat) (x : ℝ) (n : ℤ) : Prop :=
  match rm with
  | 2 => |(n : ℝ)| ≤ |x| ∧ |x| < |(n : ℝ)| + 1 ∧ 0 ≤ (n : ℝ) * x
  | 3 => n = ⌊x⌋
  | 4 => n = ⌈x⌉
  | 5 => |x - n| ≤ 1 / 2 ∧ (|x - n| = 1 / 2 → |x| < |(n : ℝ)|)
  | _ => |x - n| ≤ 1 / 2 ∧ (|x - n| = 1 / 2 → Even n)

/-- R44, R47, R50: a real number other than zero rounded once to a format in a mode, and its flags. `u` is the place of the last
fraction bit where the exponent has no bounds, `q` that place in the format, n counts units of 2^q and k units of 2^u. `excess`
says what a result above the largest finite number gives, by its sign. -/
def Claims.Rounded (e m rm : Nat) (excess : Bool → Nat) (x : ℝ) (bits flags : Nat) : Prop :=
  ∃ u n k : ℤ, (2 : ℝ) ^ (u + m) ≤ |x| ∧ |x| < (2 : ℝ) ^ (u + m + 1) ∧
    let q := max u (2 - 2 ^ (e - 1) - m)
    let y : ℝ := n * (2 : ℝ) ^ q
    let largest : ℝ := (2 ^ (m + 1) - 1) * (2 : ℝ) ^ ((2 : ℤ) ^ (e - 1) - 1 - m)
    let tiny : Prop := |(k : ℝ)| * (2 : ℝ) ^ u < (2 : ℝ) ^ ((2 : ℤ) - 2 ^ (e - 1))
    Claims.RoundsTo rm (x / (2 : ℝ) ^ q) n ∧ Claims.RoundsTo rm (x / (2 : ℝ) ^ u) k ∧
    (largest < |y| → (x < 0 → bits = excess true) ∧ (0 < x → bits = excess false) ∧ flags = 5) ∧
    (|y| ≤ largest → bits < 2 ^ (1 + e + m) ∧ Claims.isFinite e m bits ∧ (Claims.value e m bits : ℝ) = y ∧
      (Claims.negative e m bits = true ↔ x < 0) ∧
      (y = x → flags = 0) ∧ (y ≠ x ∧ tiny → flags = 3) ∧ (y ≠ x ∧ ¬ tiny → flags = 1))

/-- An encoding's bits: a sign before an infinity or a zero; the default NaN (R36, R38). -/
def Claims.signedBits (e m : Nat) (neg : Bool) (x : Nat) : Nat := if neg then 2 ^ (e + m) + x else x
def Claims.infBits (e m : Nat) : Nat := (2 ^ e - 1) * 2 ^ m
def Claims.nanBits (e m : Nat) : Nat := (2 ^ e - 1) * 2 ^ m + 2 ^ (m - 1)
def Claims.largestBits (e m : Nat) : Nat := (2 ^ e - 1) * 2 ^ m - 1

/-- An overflowing arithmetic result (R124): infinite, or the largest finite number where the mode rounds toward zero. -/
def Claims.overflowed (e m rm : Nat) (neg : Bool) : Nat :=
  Claims.signedBits e m neg
    (if rm = 2 ∨ (rm = 3 ∧ neg = false) ∨ (rm = 4 ∧ neg = true) then Claims.largestBits e m else Claims.infBits e m)

/-- The bits and flags of an exact result (R47, R124): rounded once; a NaN is the default NaN. -/
def Claims.Gives (e m rm : Nat) (excess : Bool → Nat) (a : Claims.Exact) (bits flags : Nat) : Prop :=
  match a with
  | .nan b => bits = Claims.nanBits e m ∧ flags = if b then 16 else 0
  | .inf n => bits = Claims.signedBits e m n (Claims.infBits e m) ∧ flags = 0
  | .zero n => bits = Claims.signedBits e m n 0 ∧ flags = 0
  | .real x => Claims.Rounded e m rm excess x bits flags
  | .invalid => bits = Claims.nanBits e m ∧ flags = 16
  | .byZero n => bits = Claims.signedBits e m n (Claims.infBits e m) ∧ flags = 8

/-- Exact sums (R44, R124): opposite infinities are invalid, and the sign of a zero sum of numbers that are not both zeros of one
sign is minus in RDN alone. -/
def Claims.Sum (rm : Nat) (a b c : Claims.Exact) : Prop :=
  match a, b with
  | .nan x, .nan y => c = .nan (x || y)
  | .nan x, _ => c = .nan x
  | _, .nan y => c = .nan y
  | .inf x, .inf y => c = if x = y then .inf x else .invalid
  | .inf x, _ => c = .inf x
  | _, .inf y => c = .inf y
  | .zero x, .zero y => c = .zero (if x = y then x else decide (rm = 3))
  | .zero _, .real y => c = .real y
  | .real x, .zero _ => c = .real x
  | .real x, .real y => (x + y = 0 → c = .zero (decide (rm = 3))) ∧ (x + y ≠ 0 → c = .real (x + y))
  | _, _ => False

/-- The sign of what an operand stands for. -/
def Claims.Exact.Negative : Claims.Exact → Prop
  | .inf n => n = true
  | .zero n => n = true
  | .real x => x < 0
  | _ => False

/-- Exact products (R124): infinity times zero is invalid. -/
def Claims.Product (a b c : Claims.Exact) : Prop :=
  match a, b with
  | .nan x, .nan y => c = .nan (x || y)
  | .nan x, _ => c = .nan x
  | _, .nan y => c = .nan y
  | .inf _, .zero _ => c = .invalid
  | .zero _, .inf _ => c = .invalid
  | .real x, .real y => c = .real (x * y)
  | .zero _, _ => ∃ n, c = .zero n ∧ (n = true ↔ ¬ (a.Negative ↔ b.Negative))
  | _, .zero _ => ∃ n, c = .zero n ∧ (n = true ↔ ¬ (a.Negative ↔ b.Negative))
  | _, _ => ∃ n, c = .inf n ∧ (n = true ↔ ¬ (a.Negative ↔ b.Negative))

/-- Exact quotients (R125): 0/0 and infinity by infinity are invalid, and a finite number other than zero by zero is infinite with
DZ. -/
def Claims.Quotient (a b c : Claims.Exact) : Prop :=
  match a, b with
  | .nan x, .nan y => c = .nan (x || y)
  | .nan x, _ => c = .nan x
  | _, .nan y => c = .nan y
  | .inf _, .inf _ => c = .invalid
  | .zero _, .zero _ => c = .invalid
  | .real x, .real y => c = .real (x / y)
  | .inf _, _ => ∃ n, c = .inf n ∧ (n = true ↔ ¬ (a.Negative ↔ b.Negative))
  | .real _, .zero _ => ∃ n, c = .byZero n ∧ (n = true ↔ ¬ (a.Negative ↔ b.Negative))
  | _, _ => ∃ n, c = .zero n ∧ (n = true ↔ ¬ (a.Negative ↔ b.Negative))

/-- Exact square roots (R125): the root of −0 is −0, and that of another negative number is invalid. -/
def Claims.Root (a c : Claims.Exact) : Prop :=
  match a with
  | .inf n => c = if n then .invalid else .inf false
  | .real x => (x < 0 → c = .invalid) ∧ (0 ≤ x → c = .real (Real.sqrt x))
  | _ => c = a

/-- Exact fused products (R126): invalid where the product is, whatever is added. -/
def Claims.Fused (rm : Nat) (a b addend c : Claims.Exact) : Prop :=
  ∃ p, Claims.Product a b p ∧ (p = .invalid → c = .invalid) ∧ (p ≠ .invalid → Claims.Sum rm p addend c)

/-- R44, R45, R47, R124 to R126: sums, differences, products, quotients, roots and fused products: the exact result of what the operands
stand for, rounded once in the chain's mode, with its flags; FP32 in bits [31:0]. -/
def Obligations.FloatArithmetic : Prop :=
  ∀ (r : Rnd) (d : Reg) (src : Src) (s : State) (v : Vals) (double : Bool),
    let e := if double then 11 else 8
    let m := if double then 52 else 23
    let rm := Claims.mode s r
    let pick (i j : Instr) : Instr := if double then i else j
    let operand (w : Word) (a : Claims.Exact) : Prop := Claims.StandsFor e m (w.toNat % 2 ^ (1 + e + m)) a
    let writes (n : Needs) (i : Instr) (c : Claims.Exact) : Prop := ∃ bits flags, Claims.Gives e m rm (Claims.overflowed e m rm) c bits flags ∧
      exec i s = .next (endOf n (Claims.floated s d bits flags))
    (Ready s (needDS d src) v → ∃ a b nb, operand v.d a ∧ operand v.s b ∧ Claims.Opposite b nb ∧
      (∃ c, Claims.Sum rm a b c ∧ writes (needDS d src) (pick (.faddD r d src) (.faddS r d src)) c) ∧
      (∃ c, Claims.Sum rm a nb c ∧ writes (needDS d src) (pick (.fsubD r d src) (.fsubS r d src)) c) ∧
      (∃ c, Claims.Product a b c ∧ writes (needDS d src) (pick (.fmulD r d src) (.fmulS r d src)) c) ∧
      (∃ c, Claims.Quotient a b c ∧ writes (needDS d src) (pick (.fdivD r d src) (.fdivS r d src)) c)) ∧
    (Ready s (needWS d src) v → ∃ b, operand v.s b ∧
      ∃ c, Claims.Root b c ∧ writes (needWS d src) (pick (.fsqrtD r d src) (.fsqrtS r d src)) c) ∧
    (∀ t, Ready s (needDST d src t) v → ∃ a b c na nb, operand v.d a ∧ operand v.s b ∧ operand v.t c ∧
      Claims.Opposite a na ∧ Claims.Opposite b nb ∧
      (∃ x, Claims.Fused rm b c a x ∧ writes (needDST d src t) (pick (.fmaD r d src t) (.fmaS r d src t)) x) ∧
      (∃ x, Claims.Fused rm b c na x ∧ writes (needDST d src t) (pick (.fmsD r d src t) (.fmsS r d src t)) x) ∧
      (∃ x, Claims.Fused rm nb c a x ∧ writes (needDST d src t) (pick (.fnmaD r d src t) (.fnmaS r d src t)) x) ∧
      (∃ x, Claims.Fused rm nb c na x ∧ writes (needDST d src t) (pick (.fnmsD r d src t) (.fnmsS r d src t)) x))

/-- One number is below another (R127, R128): −∞ below all others, +∞ above, and finite ones by their exact values. -/
def Claims.Below (e m x y : Nat) : Prop :=
  (Claims.isInf e m x ∧ Claims.negative e m x = true ∧ ¬ (Claims.isInf e m y ∧ Claims.negative e m y = true)) ∨
  (Claims.isInf e m y ∧ Claims.negative e m y = false ∧ ¬ (Claims.isInf e m x ∧ Claims.negative e m x = false)) ∨
  (Claims.isFinite e m x ∧ Claims.isFinite e m y ∧ Claims.value e m x < Claims.value e m y)

/-- R127, R128, R130: what the forms that do not round write, from the encodings of D and S: the default NaN where the rules give
it, and NV for a signalling NaN, or for any NaN in FLT and FLE. Of two numbers FMIN writes the one below and FMAX the other, −0 below
+0, and FLT and FLE ask whether D is below S.
R129: FCLASS sets exactly one bit, and no flag. -/
def Obligations.FloatSelectCompareClassify : Prop :=
  (
    ∀ (d : Reg) (src : Src) (s : State) (v : Vals), Ready s (needDS d src) v →
      ∀ double : Bool,
        let e := if double then 11 else 8
        let m := if double then 52 else 23
        let w := 1 + e + m
        let x := v.d.toNat % 2 ^ w
        let y := v.s.toNat % 2 ^ w
        let nan (z : Nat) : Prop := Claims.isNaN e m z
        let sig : Prop := Claims.isSNaN e m x ∨ Claims.isSNaN e m y
        let dflt := (2 ^ e - 1) * 2 ^ m + 2 ^ (m - 1)
        let pick (i j : Instr) : Instr := if double then i else j
        ∃ mn mx eq lt le g n z : FRes,
          (∀ p ∈ [(pick (.fminD d src) (.fminS d src), mn), (pick (.fmaxD d src) (.fmaxS d src), mx), (pick (.feqD d src) (.feqS d src), eq),
              (pick (.fltD d src) (.fltS d src), lt), (pick (.fleD d src) (.fleS d src), le), (pick (.fsgnD d src) (.fsgnS d src), g),
              (pick (.fsgnnD d src) (.fsgnnS d src), n), (pick (.fsgnxD d src) (.fsgnxS d src), z)],
            exec p.1 s = .next (endOf (needDS d src) (Claims.floated s d p.2.bits p.2.flags))) ∧
          (nan x ∧ nan y → mn.bits = dflt ∧ mx.bits = dflt) ∧
          (nan x ∧ ¬ nan y → mn.bits = y ∧ mx.bits = y) ∧
          (nan y ∧ ¬ nan x → mn.bits = x ∧ mx.bits = x) ∧
          (¬ nan x ∧ ¬ nan y → (mn.bits = x ∧ mx.bits = y) ∨ (mn.bits = y ∧ mx.bits = x)) ∧
          (¬ nan x ∧ ¬ nan y → Claims.Below e m x y → mn.bits = x ∧ mx.bits = y ∧ lt.bits = 1) ∧
          (¬ nan x ∧ ¬ nan y → Claims.Below e m y x → mn.bits = y ∧ mx.bits = x ∧ le.bits = 0) ∧
          (¬ nan x ∧ ¬ nan y → ¬ Claims.Below e m x y → lt.bits = 0) ∧
          (x = 2 ^ (w - 1) ∧ y = 0 → mn.bits = x ∧ mx.bits = y) ∧
          (x = 0 ∧ y = 2 ^ (w - 1) → mn.bits = y ∧ mx.bits = x) ∧
          (mn.flags = 16 ↔ sig) ∧ (mx.flags = 16 ↔ sig) ∧ (eq.flags = 16 ↔ sig) ∧
          (lt.flags = 16 ↔ nan x ∨ nan y) ∧ (le.flags = 16 ↔ nan x ∨ nan y) ∧
          (∀ k ∈ [mn, mx, eq, lt, le, g, n, z], k.flags = 16 ∨ k.flags = 0) ∧
          g.flags = 0 ∧ n.flags = 0 ∧ z.flags = 0 ∧
          (nan x ∨ nan y → eq.bits = 0 ∧ lt.bits = 0 ∧ le.bits = 0) ∧
          (¬ nan x ∧ ¬ nan y →
            eq.bits + lt.bits ≤ 1 ∧ le.bits = eq.bits + lt.bits ∧
            (eq.bits = 1 ↔ x = y ∨ (x % 2 ^ (w - 1) = 0 ∧ y % 2 ^ (w - 1) = 0))) ∧
          (nan x → g.bits = dflt ∧ n.bits = dflt ∧ z.bits = dflt) ∧
          (¬ nan x → ∀ k ∈ [g, n, z], k.bits % 2 ^ (w - 1) = x % 2 ^ (w - 1) ∧ k.bits < 2 ^ w) ∧
          (¬ nan x → g.bits / 2 ^ (w - 1) = y / 2 ^ (w - 1) ∧ n.bits / 2 ^ (w - 1) = 1 - y / 2 ^ (w - 1) ∧
            z.bits / 2 ^ (w - 1) = (x / 2 ^ (w - 1) + y / 2 ^ (w - 1)) % 2)) ∧
  (
    ∀ (d : Reg) (src : Src) (s : State) (v : Vals), Ready s (needWS d src) v →
      ∀ double : Bool,
        let e := if double then 11 else 8
        let m := if double then 52 else 23
        let y := v.s.toNat % 2 ^ (1 + e + m)
        let neg := y / 2 ^ (e + m) = 1
        let ex := y / 2 ^ m % 2 ^ e
        let fr := y % 2 ^ m
        ∃ k, exec (if double then .fclassD d src else .fclassS d src) s = .next (endOf (needWS d src) (s.setReg d.toNat (word (2 ^ k)))) ∧
          (k = 0 ↔ ex = 2 ^ e - 1 ∧ fr = 0 ∧ neg) ∧ (k = 7 ↔ ex = 2 ^ e - 1 ∧ fr = 0 ∧ ¬ neg) ∧
          (k = 8 ↔ Claims.isSNaN e m y) ∧ (k = 9 ↔ Claims.isNaN e m y ∧ ¬ Claims.isSNaN e m y) ∧
          (k = 3 ↔ ex = 0 ∧ fr = 0 ∧ neg) ∧ (k = 4 ↔ ex = 0 ∧ fr = 0 ∧ ¬ neg) ∧
          (k = 2 ↔ ex = 0 ∧ fr ≠ 0 ∧ neg) ∧ (k = 5 ↔ ex = 0 ∧ fr ≠ 0 ∧ ¬ neg) ∧
          (k = 1 ↔ 0 < ex ∧ ex < 2 ^ e - 1 ∧ neg) ∧ (k = 6 ↔ 0 < ex ∧ ex < 2 ^ e - 1 ∧ ¬ neg))

/-- R44, R47, R50, R51, R131: conversions give the exact value rounded once in the chain's mode. An overflow gives what the chain's policy
says, and under policy 11 it traps OVERFLOW with the source bits and changes no register. -/
def Obligations.FloatConversions : Prop :=
  ∀ (r : Rnd) (d : Reg) (src : Src) (s : State) (v : Vals), Ready s (needWS d src) v →
    let rm := Claims.mode s r
    let pol := Claims.policy s r
    let n := needWS d src
    let done (i : Instr) (bits flags : Nat) : Prop := exec i s = .next (endOf n (Claims.floated s d bits flags))
    (∀ p ∈ [(Instr.fcvtDL r d src, 11, 52, v.s.toInt), (.fcvtDLu r d src, 11, 52, (v.s.toNat : ℤ)), (.fcvtSL r d src, 8, 23, v.s.toInt),
        (.fcvtSLu r d src, 8, 23, (v.s.toNat : ℤ))],
      ∃ bits flags, done p.1 bits flags ∧ Claims.Gives p.2.1 p.2.2.1 rm (Claims.overflowed p.2.1 p.2.2.1 rm)
        (if p.2.2.2 = 0 then .zero false else .real (p.2.2.2 : ℝ)) bits flags) ∧
    (∀ p ∈ [(Instr.fcvtLD r d src, 11, 52, (-2 ^ 63 : ℤ), (2 ^ 63 - 1 : ℤ)), (.fcvtLuD r d src, 11, 52, 0, 2 ^ 64 - 1),
        (.fcvtLS r d src, 8, 23, -2 ^ 63, 2 ^ 63 - 1), (.fcvtLuS r d src, 8, 23, 0, 2 ^ 64 - 1)],
      let e := p.2.1
      let m := p.2.2.1
      let lo := p.2.2.2.1
      let hi := p.2.2.2.2
      let x := v.s.toNat % 2 ^ (1 + e + m)
      let int (i : ℤ) : Nat := (BitVec.ofInt 64 i).toNat
      let excess (i : ℤ) : Prop :=
        (pol = 3 → exec p.1 s = .next (s.takeTrap .overflow 0 (word x))) ∧ (pol ≠ 3 → done p.1 (int i) 5)
      (Claims.isNaN e m x → done p.1 0 16) ∧
      (Claims.isInf e m x → excess (if Claims.negative e m x then lo else hi)) ∧
      (Claims.isFinite e m x → ∃ i : ℤ, Claims.RoundsTo rm (Claims.value e m x : ℝ) i ∧
        (i < lo → excess lo) ∧ (hi < i → excess hi) ∧
        (lo ≤ i ∧ i ≤ hi → done p.1 (int i) (if (i : ℚ) = Claims.value e m x then 0 else 1)))) ∧
    (let x := v.s.toNat % 2 ^ 64
     (Claims.isNaN 11 52 x → ∃ flags, (flags = 16 ↔ Claims.isSNaN 11 52 x) ∧ (flags = 16 ∨ flags = 0) ∧
       done (.fcvtSD r d src) (Claims.nanBits 8 23) flags) ∧
     (∀ a, ¬ Claims.isNaN 11 52 x → Claims.StandsFor 11 52 x a → ∃ bits flags, Claims.Gives 8 23 rm (fun neg => match pol with
         | 1 => Claims.signedBits 8 23 neg (Claims.infBits 8 23)
         | 2 => Claims.nanBits 8 23
         | _ => Claims.signedBits 8 23 neg (Claims.largestBits 8 23)) a bits flags ∧
       (pol = 3 ∧ flags = 5 → exec (.fcvtSD r d src) s = .next (s.takeTrap .overflow 0 (word x))) ∧
       (¬ (pol = 3 ∧ flags = 5) → done (.fcvtSD r d src) bits flags))) ∧
    (let x := v.s.toNat % 2 ^ 32
     (Claims.isNaN 8 23 x → ∃ flags, (flags = 16 ↔ Claims.isSNaN 8 23 x) ∧ (flags = 16 ∨ flags = 0) ∧
       done (.fcvtDS r d src) (Claims.nanBits 11 52) flags) ∧
     (¬ Claims.isNaN 8 23 x → ∃ bits, done (.fcvtDS r d src) bits 0 ∧ bits < 2 ^ 64 ∧
       (Claims.isInf 8 23 x → bits = Claims.signedBits 11 52 (Claims.negative 8 23 x) (Claims.infBits 11 52)) ∧
       (Claims.isFinite 8 23 x → Claims.isFinite 11 52 bits ∧ Claims.value 11 52 bits = Claims.value 8 23 x ∧
         Claims.negative 11 52 bits = Claims.negative 8 23 x)))

/-! ## Plain accesses (R117, R120 to R123) -/

/-- R120, R122, R155, R212: a plain store to a good address writes home memory when it lies in a PRIVATE bank of its own core, and
nothing but those bytes; else its line in the outbox takes the bytes, and while the outbox has room no byte of memory
changes. R216: while a commit of the core's scope is under way it is replayed, and nothing changes. -/
def Obligations.Stores : Prop :=
  ∀ (sz : Size) (d : Reg) (b : RegOp) (disp : Word) (s : State) (v : Vals), Ready s (needMem (rdReg d) b) v →
    let n := sizeBytes sz
    (s.here.gated s.cur.core = true → exec (.st sz d b disp) s = .next s) ∧
    ∀ pa, s.plainAddr (v.s + disp) n { w := true } 1 = .ok pa →
      (s.here.inPrivate s.cur.core pa = true → s.here.mem.wf = true →
        ∃ t, exec (.st sz d b disp) s = .next t ∧ t.me.pc = s.nextPc ∧
          (∀ i, i < n → t.here.mem.byte (pa + i) = v.d.extractLsb' (8 * i) 8) ∧
          (∀ a, a < pa ∨ pa + n ≤ a → t.here.mem.byte a = s.here.mem.byte a) ∧
          t.hereCore.outbox = s.hereCore.outbox) ∧
      (s.here.inPrivate s.cur.core pa = false → pa / 64 = (pa + n - 1) / 64 → s.hereCore.outbox.length < 1024 →
        ∃ t, exec (.st sz d b disp) s = .next t ∧ t.me.pc = s.nextPc ∧
          (∀ i, i < n → t.hereCore.outboxByte (pa + i) = some (v.d.extractLsb' (8 * i) 8)) ∧
          (∀ a, t.here.mem.byte a = s.here.mem.byte a))

/-- A version of a word that a plain load of the issuing core may take (R213): of the control window its content, of its own PRIVATE
banks M, of another word its view's copy or, where the word is unstable, one of the versions kept. -/
def Claims.VersionOf (s : State) (w : Nat) (x : MemWord) : Prop :=
  if s.here.place w = .control then x = ⟨s.here.controlWord s.cur.chip w, false, false⟩
  else if s.here.inPrivate s.cur.core w then x = s.here.mem.version w
  else match tget? s.hereCore.unstable w with
    | none => x = s.hereCore.view.version w
    | some vs => x ∈ s.hereCore.view.version w :: vs

/-- The word that holds a byte is unstable for a core, and its present version is one that the core's loads may take (R213, R214). -/
def Claims.Unstable (p : Package) (c a : Nat) : Prop :=
  ∃ vs, tget? (p.core c).unstable (wordOf a) = some vs ∧ p.mem.version (wordOf a) ∈ vs

/-- What a plain load of n bytes returns (R213): its bytes, zero-extended, and whether it read an uncorrectable error (R34, R169). -/
def Claims.LoadedAs (s : State) (pa n : Nat) (x : Word) (bad : Bool) : Prop :=
  ∃ ver, Claims.VersionOf s (pa / 8 * 8) ver ∧
    (∀ i, i < n → x.extractLsb' (8 * i) 8 =
      (s.hereCore.outboxByte (pa + i)).getD (ver.val.extractLsb' (8 * ((pa + i) % 8)) 8)) ∧
    (∀ i, 8 * n ≤ i → x.getLsbD i = false) ∧
    (bad = true ↔ ((∃ i, i < n ∧ s.hereCore.outboxByte (pa + i) = none) ∧ ver.bad = true) ∨
      ∃ i, i < n ∧ s.hereCore.outboxBad (pa + i) = true)

/-- R117, R120, R121, R213: a plain load whose address is good empties D and sends the bytes, zero- or sign-extended: each the
youngest byte of the core's own outbox or log, or else of one version of the word (the version is taken as the load issues: log
18). JTAB goes on past itself when the index is at or above the bound, reading nothing; else to the address in its table.
R121: an address that is no multiple of the access size traps MEM-ALIGN, whatever stands there, and nothing else changes.
R216: while a commit of the core's scope is under way, a plain load, and a JTAB that would read its table, is replayed, and nothing changes.
R122: a load of the bytes that the core has just stored returns what it stored. -/
def Obligations.LoadsAndJumpTable : Prop :=
  (
    ∀ (sz : Size) (d : Reg) (b : RegOp) (disp : Word) (s : State) (v : Vals), Ready s (needMem (wrReg d) b) v →
      let n := sizeBytes sz
      (s.here.gated s.cur.core = true → exec (.ldz sz d b disp) s = .next s ∧ exec (.lds sz d b disp) s = .next s) ∧
      ∀ pa, s.plainAddr (v.s + disp) n { r := true } 1 = .ok pa →
        let sent (x : Word) (bad : Bool) : State :=
          ((s.onHere (fun p => p.addJob (.result s.owner (.regs [⟨d.toNat, x, bad, false⟩])))).emptyReg d.toNat).advance
        ∃ (x y : Word) (bad : Bool), Claims.LoadedAs s pa n x bad ∧
          exec (.ldz sz d b disp) s = .next (sent x bad) ∧ exec (.lds sz d b disp) s = .next (sent y bad) ∧
          ∀ i, i < 64 → y.getLsbD i = x.getLsbD (min i (8 * n - 1))) ∧
  (
    ∀ (sz : Size) (d : Reg) (b : RegOp) (disp : Word) (s t : State) (v : Vals) (pa use : Nat), Ready s (needMem (rdReg d) b) v →
      let n := sizeBytes sz
      s.plainAddr (v.s + disp) n { w := true } 1 = .ok pa → pa % n = 0 →
      (s.here.inPrivate s.cur.core pa = true → s.here.mem.wf = true ∧ ∀ i, i < n → s.hereCore.outboxByte (pa + i) = none) →
      (s.here.inPrivate s.cur.core pa = false → s.hereCore.outbox.length < 1024) →
      exec (.st sz d b disp) s = .next t → (t.plainLoad pa n use).val = v.d.toNat % 2 ^ (8 * n)) ∧
  (
    ∀ (sz : Size) (d : Reg) (b : RegOp) (disp : Word) (s : State) (v : Vals),
      (v.s + disp).toNat % sizeBytes sz ≠ 0 → s.here.gated s.cur.core = false →
      (Ready s (needMem (wrReg d) b) v →
        exec (.ldz sz d b disp) s = .next (s.takeTrap .memAlign 0 (v.s + disp)) ∧
        exec (.lds sz d b disp) s = .next (s.takeTrap .memAlign 0 (v.s + disp))) ∧
      (Ready s (needMem (rdReg d) b) v → exec (.st sz d b disp) s = .next (s.takeTrap .memAlign 0 (v.s + disp)))) ∧
  (
    ∀ (idx : Reg) (b bound : RegOp) (s : State) (v : Vals),
      Ready s { mem := true, t := rdOp bound, s := rdOp b, d := rdReg idx } v →
      let a := v.s + 8 * v.d
      (v.t.toNat ≤ v.d.toNat → exec (.jtab idx b bound) s = .next s.advance) ∧
      (v.d.toNat < v.t.toNat → s.here.gated s.cur.core = true → exec (.jtab idx b bound) s = .next s) ∧
      (v.d.toNat < v.t.toNat → a.toNat % 8 ≠ 0 → s.here.gated s.cur.core = false →
        exec (.jtab idx b bound) s = .next (s.takeTrap .memAlign 0 a)) ∧
      (v.d.toNat < v.t.toNat → ∀ pa, s.plainAddr a 8 { r := true } 1 = .ok pa →
        ∃ (x : Word) (bad : Bool), Claims.LoadedAs s pa 8 x bad ∧
          (bad = false → exec (.jtab idx b bound) s = .next (s.goto ((x >>> 1).setWidth 56))) ∧
          (bad = true → exec (.jtab idx b bound) s = .next (s.takeTrap .softError 0 a))))

/-! ## Full/empty words and atomics (R172 to R179) -/

/-- A word of the core's own scratchpad on which a full/empty operation of the thread can be performed in its issue turn: no other
operation is outstanding on it, none of the thread's atomics is on its way, the cluster takes arrivals and the home's list has
room (R157, R174, R175). -/
def Claims.AtOnce (s : State) (pa : Nat) : Prop :=
  s.me.pend = none ∧ homeOf pa = s.cur.core ∧ pa % 8 = 0 ∧ s.here.awakeAt pa = true ∧ s.here.mem.isBad pa = false ∧ s.here.mem.wf = true ∧
  s.here.waiters (homeOf pa) < 256 ∧
  ∀ e ∈ s.here.flights, (∀ h, e.2 = .fe h → h.addr ≠ pa) ∧ ∀ a, e.2 = .amo a → a.owner ≠ s.owner

/-- R172, R175: a full/empty operation with a good address sends its request to the home and waits for it; on the core's own
scratchpad it is performed in the same step, and a chain that must wait there parks with WORD.
R173, R175: one that need not wait there is complete in its issue turn: LDF and LDFE write D with the word, FEQRY with its
full/empty bit, and the word and its bit are then as the table says.
R177: a written word leaves the log entries of the issuing core, so that their byte masks in the log region may change too: those are the
bytes of `cutMasks` (log 42).
R173, R174: an operation at its home, on a word for which no operation waits. LDF and LDFE are performed on a full
word, STEF on an empty one, STF, SETE and FEQRY at once: the word, its full/empty bit and the register are then as the table says,
no other byte or bit changes, and the chain is complete: its thread has gone on past it. An operation that must wait is enlisted and
changes no memory. -/
def Obligations.FullEmptyOperations : Prop :=
  (
    ∀ (d : Reg) (b : RegOp) (disp : Word) (s : State) (v : Vals) (pa : Nat), s.me.pend = none →
      let sent (op : FeOp) (reg : Nat) (val : Word) : Host.Outcome State Fault Refusal :=
        let h : HomeFe := ⟨s.owner, op, pa, reg, val, s.cur.words.length, false⟩
        let id := s.here.nextId
        let t := (s.onHere (fun p => p.addJob (.fe h))).onMe (fun t => { t with pend := some id })
        .next (if homeOf pa = s.cur.core ∧ t.here.feMayArrive id h = true then
          (let u := t.onHere (fun p => p.arriveFe id h)
           if u.me.pend = none then u else u.park .word)
        else if t.here.heldBack h = true then t.park .word
        else t)
      (Ready s (needMem (wrReg d) b) v → s.homeAddr (v.s + disp) 8 { r := true } = .ok pa →
        exec (.ldf d b disp) s = sent .ldf d.toNat 0 ∧ exec (.feqry d b disp) s = sent .feqry d.toNat 0) ∧
      (Ready s (needMem (wrReg d) b) v → s.homeAddr (v.s + disp) 8 { r := true, w := true } = .ok pa →
        exec (.ldfe d b disp) s = sent .ldfe d.toNat 0) ∧
      (Ready s (needMem (rdReg d) b) v → s.homeAddr (v.s + disp) 8 { w := true } = .ok pa →
        exec (.stef d b disp) s = sent .stef 0 v.d ∧ exec (.stf d b disp) s = sent .stf 0 v.d) ∧
      (Ready s (needMem .none b) v → s.homeAddr (v.s + disp) 8 { w := true } = .ok pa →
        exec (.seteMemory b disp) s = sent .sete 0 0)) ∧
  (
    ∀ (d : Reg) (b : RegOp) (disp : Word) (s : State) (v : Vals) (pa : Nat), Claims.AtOnce s pa →
      let w := s.here.mem.word pa
      let full := s.here.mem.full pa
      let masks : List Nat := (s.here.cutMasks s.cur.core (span pa 1 8)).map (·.1)
      let done (i : Instr) (x : Option Word) (word : Word) (bit : Bool) (cut : List Nat) : Prop := ∃ u, exec i s = .next u ∧
        u.me.pc = s.nextPc ∧ u.me.life = .ready ∧ (∀ y, x = some y → u.reg d.toNat = y ∧ (u.hereCore.reg u.me d.toNat).full = true) ∧
        u.here.mem.word pa = word ∧ u.here.mem.full pa = bit ∧
        ∀ a, ¬ (pa ≤ a ∧ a < pa + 8) → a ∉ cut → u.here.mem.byte a = s.here.mem.byte a
      (Ready s (needMem (wrReg d) b) v → s.homeAddr (v.s + disp) 8 { r := true } = .ok pa →
        (full = true → done (.ldf d b disp) (some w) w true []) ∧ done (.feqry d b disp) (some (if full then 1 else 0)) w full []) ∧
      (Ready s (needMem (wrReg d) b) v → s.homeAddr (v.s + disp) 8 { r := true, w := true } = .ok pa → full = true →
        done (.ldfe d b disp) (some w) w false []) ∧
      (Ready s (needMem (rdReg d) b) v → s.homeAddr (v.s + disp) 8 { w := true } = .ok pa →
        (full = false → done (.stef d b disp) none v.d true masks) ∧ done (.stf d b disp) none v.d true masks) ∧
      (Ready s (needMem .none b) v → s.homeAddr (v.s + disp) 8 { w := true } = .ok pa →
        done (.seteMemory b disp) none w false [])) ∧
  (
    ∀ (s : State) (chip id : Nat) (h : HomeFe), (s.pkg chip).phase = .running → (s.pkg chip).job id = some (.fe h) →
      (s.pkg chip).feMayArrive id h = true → h.addr % 8 = 0 → (s.pkg chip).mem.isBad h.addr = false →
      (s.pkg chip).mem.wf = true →
      (∀ e ∈ (s.pkg chip).flights, ∀ g, e.2 = .fe g → g.enlisted = true → g.addr ≠ h.addr) →
      let m := (s.pkg chip).mem
      let full := m.full h.addr
      ∃ t, exec (.homeFeOperation chip id) s = .next t ∧
        let n := (t.pkg chip).mem
        (∀ a, ¬ (h.addr ≤ a ∧ a < h.addr + 8) →
          ((h.op = .stef ∨ h.op = .stf) → a ∉ ((s.pkg chip).cutMasks h.owner.core (span h.addr 1 8)).map (·.1)) → n.byte a = m.byte a) ∧
        (∀ w, w ≠ h.addr → n.full w = m.full w) ∧
        ((h.op = .ldf ∨ h.op = .feqry) → n.word h.addr = m.word h.addr ∧ n.full h.addr = full) ∧
        (h.op = .ldfe → n.word h.addr = m.word h.addr ∧ n.full h.addr = false) ∧
        (h.op = .stef → n.word h.addr = (if full then m.word h.addr else h.val) ∧ n.full h.addr = true) ∧
        (h.op = .stf → n.word h.addr = h.val ∧ n.full h.addr = true) ∧
        (h.op = .sete → n.word h.addr = m.word h.addr ∧ n.full h.addr = false) ∧
        (((h.op = .ldf ∨ h.op = .ldfe) ∧ full = false) ∨ (h.op = .stef ∧ full = true) →
          (t.pkg chip).flights.any (fun e => decide (e.2 = .fe { h with enlisted := true })) = true) ∧
        (((h.op = .ldf ∨ h.op = .ldfe) ∧ full = true) → (s.pkg chip).ownerLive h.owner = true →
          h.reg < ((s.pkg chip).thread h.owner.core h.owner.slot).len →
          (((t.pkg chip).core h.owner.core).reg ((t.pkg chip).thread h.owner.core h.owner.slot) h.reg).val = m.word h.addr) ∧
        (h.op = .feqry → (s.pkg chip).ownerLive h.owner = true → h.reg < ((s.pkg chip).thread h.owner.core h.owner.slot).len →
          (((t.pkg chip).core h.owner.core).reg ((t.pkg chip).thread h.owner.core h.owner.slot) h.reg).val = if full then 1 else 0) ∧
        (((h.op = .ldf ∨ h.op = .ldfe) ∧ full = true) ∨ (h.op = .stef ∧ full = false) ∨ h.op = .stf ∨ h.op = .sete ∨ h.op = .feqry →
          (s.pkg chip).ownerLive h.owner = true →
          let old := (s.pkg chip).thread h.owner.core h.owner.slot
          let new := (t.pkg chip).thread h.owner.core h.owner.slot
          new.pc = old.pc + BitVec.ofNat 56 h.len ∧ new.pend = none ∧ new.life = if old.life = .parked then .ready else old.life))

/-- R178, R179: an atomic with a good address sends its request, empties D and is complete.
R178, R179: an atomic at its home writes the new value in its size and sends the old one back; no other byte of memory
changes, but for the byte masks of the log entries that lose the written bytes (R177, log 42). A compare and swap writes only when the old value is the one compared. -/
def Obligations.Atomics : Prop :=
  (
    ∀ (d : Reg) (b : RegOp) (disp : Word) (s : State) (v : Vals) (pa : Nat),
      let sent (op : AmoOp) (double : Bool) : Host.Outcome State Fault Refusal :=
        .next (((s.onHere (fun p => p.addJob (.amo ⟨s.owner, op, double, pa, d.toNat, v.d, v.t⟩))).emptyReg d.toNat).advance)
      (Ready s (needMem (rwReg d) b) v → s.homeAddr (v.s + disp) 8 { r := true, w := true } = .ok pa →
        ∀ p ∈ [(Instr.amoAddD d b disp, AmoOp.add), (.amoAndD d b disp, .and), (.amoOrD d b disp, .or), (.amoXorD d b disp, .xor),
            (.amoMinD d b disp, .min), (.amoMaxD d b disp, .max), (.amoMinuD d b disp, .minu), (.amoMaxuD d b disp, .maxu),
            (.amoSwapD d b disp, .swap)],
          exec p.1 s = sent p.2 true) ∧
      (Ready s (needMem (rwReg d) b) v → s.homeAddr (v.s + disp) 4 { r := true, w := true } = .ok pa →
        ∀ p ∈ [(Instr.amoAddW d b disp, AmoOp.add), (.amoAndW d b disp, .and), (.amoOrW d b disp, .or), (.amoXorW d b disp, .xor),
            (.amoMinW d b disp, .min), (.amoMaxW d b disp, .max), (.amoMinuW d b disp, .minu), (.amoMaxuW d b disp, .maxu),
            (.amoSwapW d b disp, .swap)],
          exec p.1 s = sent p.2 false) ∧
      (∀ t : RegOp, Ready s { needMem (rwReg d) b with t := rdOp t } v →
        (s.homeAddr (v.s + disp) 8 { r := true, w := true } = .ok pa → exec (.acasD d b disp t) s = sent .cas true) ∧
        (s.homeAddr (v.s + disp) 4 { r := true, w := true } = .ok pa → exec (.acasW d b disp t) s = sent .cas false))) ∧
  (
    ∀ (s : State) (chip id : Nat) (a : HomeAtomic), (s.pkg chip).phase = .running → (s.pkg chip).job id = some (.amo a) →
      (s.pkg chip).awakeAt a.addr = true → (s.pkg chip).atomicBefore a.owner (homeOf a.addr) id = false →
      (s.pkg chip).mem.isBad (wordOf a.addr) = false → (s.pkg chip).mem.wf = true →
      let n := if a.double then 8 else 4
      let m := (s.pkg chip).mem
      let old := m.read a.addr n
      let arg := a.operand.toNat % 2 ^ (8 * n)
      let sgn (x : Nat) : Int := if x < 2 ^ (8 * n - 1) then x else (x : Int) - 2 ^ (8 * n)
      let new : Nat := match a.op with
        | .add => (old + arg) % 2 ^ (8 * n)
        | .and => old &&& arg
        | .or => old ||| arg
        | .xor => old ^^^ arg
        | .min => if sgn old ≤ sgn arg then old else arg
        | .max => if sgn old ≤ sgn arg then arg else old
        | .minu => min old arg
        | .maxu => max old arg
        | .swap => arg
        | .cas => if old = arg then a.swap.toNat % 2 ^ (8 * n) else old
      ∃ t, exec (.homeAtomic chip id) s = .next t ∧
        (t.pkg chip).mem.read a.addr n = new ∧
        (∀ x, ¬ (a.addr ≤ x ∧ x < a.addr + n) → x ∉ ((s.pkg chip).cutMasks a.owner.core (span a.addr 1 n)).map (·.1) →
          (t.pkg chip).mem.byte x = m.byte x) ∧
        (t.pkg chip).flights.any (fun e => decide (e.2 =
          .result a.owner (.regs [⟨a.reg, BitVec.ofInt 64 (sgn old), false, false⟩]))) = true)

/-- R18, R22: a result fills the registers it names, unless their thread is gone; other registers keep their values. R176: SETE
of a register empties it with no producer. -/
def Obligations.ResultArrival : Prop :=
  (∀ (s : State) (chip id : Nat) (o : Owner) (f : Fill), (s.pkg chip).phase = .running →
    (s.pkg chip).job id = some (.result o (.regs [f])) → (s.pkg chip).awake o.core = true →
    let k := (s.pkg chip).core o.core
    let t := k.thread o.slot
    ∃ u, exec (.longLatencyResultArrival chip id) s = .next u ∧
      let j := (u.pkg chip).core o.core
      ((s.pkg chip).ownerLive o = true ∧ f.reg < t.len →
        (j.reg t f.reg).val = f.val ∧ (j.reg t f.reg).full = true ∧ (j.reg t f.reg).bad = f.bad) ∧
      (∀ e, e ≠ t.base + f.reg → (j.cell e).val = (k.cell e).val ∧ (j.cell e).full = (k.cell e).full) ∧
      ((s.pkg chip).ownerLive o = false → ∀ e, j.cell e = k.cell e)) ∧
  (∀ (s : State) (v : Vals) (d : Reg), Ready s { d := wrReg d } v →
    exec (.seteRegister d) s = .next ((s.emptyReg d.toNat).advance))

/-! ## Threads (R190 to R201, R29) -/

/-- A new thread as R16 and R192 leave it: READY at its entry, with its window, g0 the creator's handle, g2 the argument, and every
other register full and zero; `skip` is a file entry that something else has written since. -/
def Claims.Fresh (k : Core) (slot base len : Nat) (entry : BitVec 56) (role : Word) (creator arg : Word) (skip : Nat) : Prop :=
  (k.thread slot).life = .ready ∧ (k.thread slot).pc = entry ∧ (k.thread slot).base = base ∧ (k.thread slot).len = len ∧
  (k.thread slot).role = role ∧ (k.thread slot).vec = 0 ∧ (k.thread slot).cause = 0 ∧ (k.thread slot).fmode = 1 ∧
  (k.thread slot).flags = 0 ∧
  ∀ n, n < len → base + n ≠ skip → (k.cell (base + n)).full = true ∧
    (k.cell (base + n)).val = if n = 0 then creator else if n = 2 then arg else 0

/-- A new member of an access/execute pair (R16, R193): READY at its entry, with its window and role, g0 the creator's handle, g2 the
argument, g3 the partner's handle, and every other register full and zero. -/
def Claims.Member (k : Core) (slot base len : Nat) (entry : BitVec 56) (role : Word) (creator arg partner : Word) (skip : Nat) : Prop :=
  (k.thread slot).life = .ready ∧ (k.thread slot).pc = entry ∧ (k.thread slot).base = base ∧ (k.thread slot).len = len ∧
  (k.thread slot).role = role ∧
  ∀ n, n < len → base + n ≠ skip → (k.cell (base + n)).full = true ∧
    (k.cell (base + n)).val = if n = 0 then creator else if n = 2 then arg else if n = 3 then partner else 0

/-- R191, R192: SPAWN.l creates a thread in the slot and the window that the core chooses, under a new launch cell, and D is its
handle; without a slot or a window D reports NO-SLOT or NO-WINDOW and nothing is created.
R193: FORKAE creates an access and an execute thread with fresh queues, in the two slots and windows that the core chooses one after
the other, and writes both handles; it reports NO-SLOT when eight pairs stand or two slots cannot be found, and NO-WINDOW when both
windows cannot be placed, and then creates neither. -/
def Obligations.ThreadCreation : Prop :=
  (
    ∀ (d : Reg) (src : RegOp) (t : Tgt) (s : State) (v : Vals), Ready s { t := tgtOpr t, s := rdOp src, d := wrReg d } v →
      let k := s.hereCore
      let len := 8 * (v.t.toNat % 16 + 1)
      (k.pickSlot = none → exec (.spawnL d src t) s =
        .next (endOf { t := tgtOpr t, s := rdOp src, d := wrReg d } (s.setReg d.toNat 0x8000000000000001))) ∧
      (∀ slot, k.pickSlot = some slot → k.fitWindow len = none → exec (.spawnL d src t) s =
        .next (endOf { t := tgtOpr t, s := rdOp src, d := wrReg d } (s.setReg d.toNat 0x8000000000000002))) ∧
      (∀ slot base i, k.pickSlot = some slot → k.fitWindow len = some base →
        s.here.freeCell (coreDie s.cur.core) (s.free 4) = some i →
        ∃ u, exec (.spawnL d src t) s = .next u ∧
          Claims.Fresh u.hereCore slot base len (v.s.setWidth 56) 0 (word s.self) (v.t >>> 16) (s.me.base + d.toNat) ∧
          (u.reg d.toNat).toNat = (handleOf (k.thread slot).gen s.cur.core slot) % 2 ^ 64 ∧
          ∀ n, n ≠ slot → n ≠ s.cur.slot → u.hereCore.thread n = k.thread n)) ∧
  (
    ∀ (d : Reg) (src : RegOp) (t : Tgt) (s : State) (v : Vals),
      let n : Needs := { role := .notPair, t := tgtOpr t, s := rdGroup src 2, d := wrReg d }
      Ready s n v →
      let k := s.hereCore
      let la := 8 * (v.t.toNat % 16 + 1)
      let le := 8 * (v.t.toNat / 16 % 16 + 1)
      let failed (w : Word) : Prop := exec (.forkae d src t) s = .next (endOf n (s.setReg d.toNat w))
      ((∀ q, q < 8 → (tget? k.pairs q).isSome = true) → failed 0x8000000000000001) ∧
      (k.pickSlot = none → failed 0x8000000000000001) ∧
      (∀ a, k.pickSlot = some a → (k.setThread a { Thread.fresh with life := .ready }).pickSlot = none → failed 0x8000000000000001) ∧
      (∀ a e p, k.pickSlot = some a → (k.setThread a { Thread.fresh with life := .ready }).pickSlot = some e → p < 8 →
        tget? k.pairs p = none →
        (k.fitWindow la = none → failed 0x8000000000000002) ∧
        ∀ ba, k.fitWindow la = some ba →
          let taken := k.setThread a { Thread.fresh with life := .ready, base := ba, len := la }
          (taken.fitWindow le = none → failed 0x8000000000000002) ∧
          ∀ be, taken.fitWindow le = some be →
            let ha := handleOf (k.thread a).gen s.cur.core a
            let he := handleOf (k.thread e).gen s.cur.core e
            ∃ u q, exec (.forkae d src t) s = .next u ∧ q < 8 ∧ tget? k.pairs q = none ∧
              tget? u.hereCore.pairs q = some (Pair.fresh a e) ∧ (u.hereCore.thread a).pair = some q ∧ (u.hereCore.thread e).pair = some q ∧
              Claims.Member u.hereCore a ba la (v.s.setWidth 56) 1 (word s.self) (v.t >>> 16) (word he) (s.me.base + d.toNat) ∧
              Claims.Member u.hereCore e be le ((s.reg (src.n.toNat + 1)).setWidth 56) 2 (word s.self) (v.t >>> 16) (word ha)
                (s.me.base + d.toNat) ∧
              (u.hereCore.thread a).cell = s.me.cell ∧ (u.hereCore.thread e).cell = s.me.cell ∧
              u.reg d.toNat = word (he * 2 ^ 24 + ha) ∧ u.me.pc = s.nextPc))

/-- R192, R194: SPAWN.c, and TSTAT of a slot of another core, empty D and send a request; TSTAT of the issuing core writes D at
once, with the state of the slot in bits [2:0] and its park reason in bits [23:16].
R192, R194: the target core answers a SPAWN.c and a TSTAT: the reply goes to the register that the request named, NOT-HOLDER
when the core is not held by the issuer's holder. -/
def Obligations.RemoteThreads : Prop :=
  (
    ∀ (d : Reg) (src : RegOp) (s : State) (v : Vals),
      (∀ t, Ready s { t := tgtOpr t, s := rdOp src, d := rwReg d } v → (s.here.freeCell (coreDie s.cur.core) 0).isSome = true →
        exec (.spawnC d src t) s =
        .next (endOf { t := tgtOpr t, s := rdOp src, d := rwReg d }
          ((s.onHere (fun p => p.addJob (.spawn ⟨s.owner, v.d.toNat % 1024, d.toNat, v.s.setWidth 56, v.t, s.launchParent⟩))).emptyReg d.toNat))) ∧
      (Ready s { s := rdOp src, d := wrReg d } v →
        let c := v.s.toNat / 64 % 1024
        let slot := v.s.toNat % 64
        (c ≠ s.cur.core → exec (.tstat d src) s =
          .next (((s.onHere (fun p => p.addJob (.tstat ⟨s.owner, d.toNat, c, slot⟩))).emptyReg d.toNat).advance)) ∧
        (c = s.cur.core → (s.hereCore.thread slot).len ≤ 128 → ∃ w : Word, exec (.tstat d src) s = .next ((s.setReg d.toNat w).advance) ∧
          w.toNat % 8 = (s.hereCore.thread slot).life.code ∧
          w.toNat / 2 ^ 16 % 256 = (if (s.hereCore.thread slot).life = .parked then ((s.hereCore.thread slot).reason.map Reason.code).getD 0 else 0) ∧
          w.toNat / 2 ^ 24 % 256 = (s.hereCore.thread slot).cause.toNat % 256 ∧
          w.toNat / 2 ^ 32 % 256 = (s.hereCore.thread slot).gen % 256))) ∧
  (
    ∀ (s : State) (chip id : Nat), (s.pkg chip).phase = .running →
      let p := s.pkg chip
      (∀ r, p.job id = some (.tstat r) → p.awake r.dst = true →
        exec (.tstatRemoteReply chip id) s = .next (s.setPkg chip ((p.dropJob id).addJob (.result r.owner (.regs
          [⟨r.reg, p.statWord (p.coreHolder r.owner.core) r.dst r.slot, false, false⟩]))))) ∧
      (∀ r, p.job id = some (.spawn r) → p.awake r.dst = true → p.transferring r.dst = false →
        (p.coreHolder r.dst ≠ p.coreHolder r.owner.core →
          exec (.spawnRemoteCreate chip id) s = .next (s.setPkg chip ((p.dropJob id).addJob (.result r.owner (.regs
            [⟨r.reg, 0x8000000000000003, false, false⟩]))))) ∧
        (∀ slot base i, p.coreHolder r.dst = p.coreHolder r.owner.core → (p.core r.dst).pickSlot = some slot →
          (p.core r.dst).fitWindow (8 * (r.cfg.toNat % 16 + 1)) = some base → p.freeCell (coreDie r.owner.core) (s.free 4) = some i →
          ∃ u, exec (.spawnRemoteCreate chip id) s = .next u ∧
            Claims.Fresh ((u.pkg chip).core r.dst) slot base (8 * (r.cfg.toNat % 16 + 1)) r.entry 0
              (word (handleOf r.owner.gen r.owner.core r.owner.slot)) (r.cfg >>> 16) 2048 ∧
            (u.pkg chip).flights.any (fun e => decide (e.2 = .result r.owner (.regs
              [⟨r.reg, word (handleOf ((p.core r.dst).thread slot).gen r.dst slot), false, false⟩]))) = true)))

/-- A control register of a thread written as SWRITE writes it (R135), `service` for a thread of slot 63; the others stay, and so do the
thread's life, program counter, window and generation. -/
def Claims.ControlWritten (t u : Thread) (service : Prop) [Decidable service] (n : Nat) (x : Word) : Prop :=
  (∀ k, k < 8 → k ≠ n → Claims.control u k = Claims.control t k) ∧
  (n = 0 → u.vec = x &&& 0xFFFFFFFFFFFFFF) ∧ (n = 1 → u.cause = x &&& 0x1FFFF) ∧ (n = 2 → u.value = x) ∧
  (n = 3 → u.epc = x &&& 0xFFFFFFFFFFFFFF) ∧
  (n = 4 → u.fmode.toNat / 8 = x.toNat / 8 % 4 ∧
    u.fmode.toNat % 8 = if 1 ≤ x.toNat % 8 ∧ x.toNat % 8 ≤ 5 then x.toNat % 8 else t.fmode.toNat % 8) ∧
  (n = 5 → u.flags = x &&& 31) ∧ (n = 7 → u.prio = if service then x &&& 1 else 0) ∧
  u.life = t.life ∧ u.pc = t.pc ∧ u.base = t.base ∧ u.len = t.len ∧ u.gen = t.gen

/-- R195, R198: TREG reads an item of a thread of the core whose handle it is given, and 0 for any other handle.
R195, R198: TWREG writes an item of a TRAPPED thread of the core, and nothing of any other; with selector 134 it traps ROLE. A
register is full with its new value, and a producer in flight is discarded; a register beyond the window and the selectors from 139
on have no effect; a control register is written as SWRITE writes it; the presence bits of 64 registers become those of D (with the
registers' bits as they stand, whatever a producer in flight would bring: log 47). -/
def Obligations.ThreadInspection : Prop :=
  (
    ∀ (d : Reg) (src : RegOp) (t : Tgt) (s : State) (v : Vals),
      let n : Needs := { t := tgtOpr t, s := rdOp src, d := wrReg d }
      Ready s n v →
      (s.target? v.s = none → exec (.treg d src t) s = .next (endOf n (s.setReg d.toNat 0))) ∧
      (∀ slot, s.target? v.s = some slot → ∃ w : Word, exec (.treg d src t) s = .next (endOf n (s.setReg d.toNat w)) ∧
        let u := s.hereCore.thread slot
        let sel := v.t.toNat % 256
        (sel < 128 → w = if sel < u.len then (s.hereCore.cell (u.base + sel)).val else 0) ∧
        (128 ≤ sel → sel < 136 → w = Claims.control u (sel - 128)) ∧
        (sel = 136 → w = u.pc.setWidth 64) ∧
        (sel = 137 → ∀ i, i < 64 → w.getLsbD i = (decide (i < u.len) && (s.hereCore.cell (u.base + i)).full)) ∧
        (sel = 138 → ∀ i, i < 64 → w.getLsbD i = (decide (64 + i < u.len) && (s.hereCore.cell (u.base + (64 + i))).full)) ∧
        (sel = 139 → w = word (u.len * 65536 + u.base)) ∧
        (139 < sel → w = 0))) ∧
  (
    ∀ (d : Reg) (src t : RegOp) (s : State) (v : Vals),
      Ready s { t := rdOp t, s := rdOp src, d := rdReg d } v →
      let sel := v.t.toNat % 256
      (sel = 134 → exec (.twreg d src t) s = .next (s.takeTrap .role 0 (chainWord0 s))) ∧
      (sel ≠ 134 → s.target? v.s = none → exec (.twreg d src t) s = .next s.advance) ∧
      (∀ slot, sel ≠ 134 → s.target? v.s = some slot →
        ((s.hereCore.thread slot).life ≠ .trapped → exec (.twreg d src t) s = .next s.advance) ∧
        ((s.hereCore.thread slot).life = .trapped → ∃ u, exec (.twreg d src t) s = .next u ∧
          (sel < 128 → sel < (s.hereCore.thread slot).len →
            (u.hereCore.cell ((s.hereCore.thread slot).base + sel)).val = v.d ∧
            (u.hereCore.cell ((s.hereCore.thread slot).base + sel)).full = true ∧
            (u.hereCore.cell ((s.hereCore.thread slot).base + sel)).bad = false) ∧
          (sel < 128 → (s.hereCore.thread slot).len ≤ sel → u = s.advance) ∧
          (sel < 128 → sel < (s.hereCore.thread slot).len →
            u.producing s.cur.chip ⟨s.cur.core, slot, (s.hereCore.thread slot).gen⟩ sel = false) ∧
          (128 ≤ sel → sel < 136 → Claims.ControlWritten (s.hereCore.thread slot) (u.hereCore.thread slot) (slot = 63) (sel - 128) v.d) ∧
          (sel = 136 → (u.hereCore.thread slot).pc = v.d.setWidth 56) ∧
          (sel = 137 ∨ sel = 138 → ∀ i, i < 64 → let n := (if sel = 137 then 0 else 64) + i
            n < (s.hereCore.thread slot).len →
            (u.hereCore.cell ((s.hereCore.thread slot).base + n)).full = v.d.getLsbD i ∧
            (u.hereCore.cell ((s.hereCore.thread slot).base + n)).val = (s.hereCore.cell ((s.hereCore.thread slot).base + n)).val) ∧
          (139 ≤ sel → u = s.advance))))

/-- R199 to R201: QLD reserves the tail of a load queue and fills it later, QST stores the head of a store queue and pops it, each traps ROLE where
it would wait for a partner that has retired (R164), before it looks at its operands (R31), either is replayed while a commit of the core's scope is under
way (R216), and
RDV: the first member to arrive waits there; the access thread takes the execute thread's value and leaves the pair, and the execute
thread retires. -/
def Obligations.AccessExecutePairs : Prop :=
  ∀ (s : State) (v : Vals) (i : Nat) (r : Pair), s.me.pair = some i → tget? s.hereCore.pairs i = some r →
    (∀ (sz : Size) (q : Bool) (b : RegOp) (disp : Word) (pa : Nat),
      (Ready s { mem := true, role := .loadQueue q, s := rdOp b } v → (if q then r.lq1 else r.lq0).length < 16 → s.plainAddr (v.s + disp) (sizeBytes sz) { r := true } 1 = .ok pa →
        let l := s.plainLoad pa (sizeBytes sz) 3
        let e : QEntry := ⟨none, false, s.here.nextId⟩
        ∃ u, exec (.qld sz q b disp) s = .next u ∧
          tget? u.hereCore.pairs i = some (if q then { r with lq1 := r.lq1 ++ [e] } else { r with lq0 := r.lq0 ++ [e] }) ∧
          u.here.job s.here.nextId = some (.result s.owner (.lq i q s.here.nextId (word l.val) l.bad))) ∧
      (∀ x rest, Ready s { mem := true, role := .storeQueue q, s := rdOp b } v → (if q then r.sq1 else r.sq0) = x :: rest → s.plainAddr (v.s + disp) (sizeBytes sz) { w := true } 1 = .ok pa →
        s.here.inPrivate s.cur.core pa = true → s.here.mem.wf = true →
        ∃ u, exec (.qst sz q b disp) s = .next u ∧
          tget? u.hereCore.pairs i = some (if q then { r with sq1 := rest } else { r with sq0 := rest }) ∧
          (∀ j, j < sizeBytes sz → u.here.mem.byte (pa + j) = x.extractLsb' (8 * j) 8) ∧
          ∀ a, a < pa ∨ pa + sizeBytes sz ≤ a → u.here.mem.byte a = s.here.mem.byte a) ∧
      (s.here.gated s.cur.core = true →
        (Ready s { mem := true, role := .loadQueue q, s := rdOp b } v → (if q then r.lq1 else r.lq0).length < 16 →
          exec (.qld sz q b disp) s = .next s) ∧
        (Ready s { mem := true, role := .storeQueue q, s := rdOp b } v → (if q then r.sq1 else r.sq0) ≠ [] →
          exec (.qst sz q b disp) s = .next s)) ∧
      (s.issuing = true → s.me.role = 1 → r.exeSlot = none →
        (16 ≤ (if q then r.lq1 else r.lq0).length → exec (.qld sz q b disp) s = .next (s.takeTrap .role 0 (chainWord0 s))) ∧
        ((if q then r.sq1 else r.sq0) = [] → exec (.qst sz q b disp) s = .next (s.takeTrap .role 0 (chainWord0 s))))) ∧
    (∀ (d : Reg) (src : Src) (x : Word), s.isExe = false → r.exeRdv = some x → r.exePops = [] →
      Ready s { role := .rdv, s := srcOpr src, d := wrReg d } v →
      ∃ u, exec (.rdv d src) s = .next u ∧ u.reg d.toNat = x ∧ u.me.pair = none ∧ u.me.life = .ready ∧ u.me.pc = s.nextPc) ∧
    (∀ (d : Reg) (src : Src), s.isExe = true → r.left = true →
      Ready s { role := .rdv, d := .named d.toNat 1 false } v →
      ∃ u, exec (.rdv d src) s = .next u ∧ u.me.life = .retired) ∧
    (∀ (d : Reg) (src : Src), s.isExe = true → r.left = false →
      Ready s { role := .rdv, s := srcOpr src, d := .named d.toNat 1 false } v →
      (r.accRdv = true → ∃ u, exec (.rdv d src) s = .next u ∧ u.me.life = .retired) ∧
      (r.accRdv = false → ∃ u q, exec (.rdv d src) s = .next u ∧ u.me.life = .parked ∧ u.me.reason = some .rdv ∧ u.me.pc = s.me.pc ∧
        tget? u.hereCore.pairs i = some q ∧ q.exeRdv = some v.s)) ∧
    (∀ (d : Reg) (src : Src), s.isExe = false → r.exeRdv = none → Ready s { role := .rdv, s := srcOpr src, d := wrReg d } v →
      ∃ u q, exec (.rdv d src) s = .next u ∧ u.me.life = .parked ∧ u.me.reason = some .rdv ∧ u.me.pc = s.me.pc ∧
        tget? u.hereCore.pairs i = some q ∧ q.accRdv = true)

/-- R29, R196, R197: TSTOP of the issuer itself stops it past the chain; of another thread that may stop at once, leaves that one
TRAPPED with its cause as it was; TRESUME makes a TRAPPED thread READY where it stands.
R26, R29: a RETIRED slot that nothing in flight is owed to becomes FREE, and its generation advances modulo 256. -/
def Obligations.StopResumeAndRelease : Prop :=
  (
    ∀ (src : RegOp) (s : State) (v : Vals), Ready s { s := rdOp src } v →
      (s.target? v.s = none → exec (.tstop src) s = .next s.advance ∧ exec (.tresume src) s = .next s.advance) ∧
      (s.target? v.s = some s.cur.slot → ∃ u, exec (.tstop src) s = .next u ∧ u.me.life = .trapped ∧ u.me.pc = s.nextPc ∧
        u.me.cause = s.me.cause) ∧
      (∀ slot, s.target? v.s = some slot → slot ≠ s.cur.slot →
        let t := s.hereCore.thread slot
        (t.life = .trapped → exec (.tstop src) s = .next s.advance ∧
          ∃ u, exec (.tresume src) s = .next u ∧ u.hereCore.thread slot = { t with life := .ready }) ∧
        ((t.life = .ready ∨ t.life = .parked) → exec (.tresume src) s = .next s.advance) ∧
        ((t.life = .ready ∨ t.life = .parked) → s.here.settling t ≠ .later →
          ∃ u, exec (.tstop src) s = .next u ∧ (u.hereCore.thread slot).life = .trapped ∧ (u.hereCore.thread slot).reason = none ∧
            (u.hereCore.thread slot).pc = t.pc ∧ (u.hereCore.thread slot).cause = t.cause ∧ u.me.pc = s.nextPc))) ∧
  (
    ∀ (s : State) (chip core slot : Nat), (s.pkg chip).phase = .running →
      ((s.pkg chip).thread core slot).life = .retired →
      s.owes chip ⟨core, slot, ((s.pkg chip).thread core slot).gen⟩ = false →
      ∃ t, exec (.slotRelease chip core slot) s = .next t ∧
        ((t.pkg chip).thread core slot).life = .free ∧
        ((t.pkg chip).thread core slot).gen = (((s.pkg chip).thread core slot).gen + 1) % 256 ∧
        ∀ c n, (c, n) ≠ (core, slot) → (t.pkg chip).thread c n = (s.pkg chip).thread c n)

/-! ## Messages (R141 to R151, R180 to R184) -/

/-- R149, R150, R181, R182: on an empty mailbox WAITM and TAKEM park with MBOX, WAITM as the youngest of its core's queue; else WAITM
goes on, and TAKEM removes the head entry and sends its header and words to the four registers, which it empties.
R141 to R143, R183, R184: HTAB writes a handler entry; MCFG reads and writes the configuration and the accept list, and reads and
clears the drop counter. -/
def Obligations.MailboxAndConfiguration : Prop :=
  (
    ∀ (d : Reg) (s : State) (v : Vals),
      (Ready s {} v → (s.hereCore.mbox = [] → exec .waitm s = .next (s.joinWaitm.park .mbox)) ∧
        (s.hereCore.mbox ≠ [] → exec .waitm s = .next s.advance)) ∧
      (Ready s { d := .named d.toNat 4 true } v →
        (s.hereCore.mbox = [] → exec (.takem d) s = .next (s.parkFor (.source 11) .mbox).state) ∧
        (∀ e rest, s.hereCore.mbox = e :: rest → e.report = none → (∀ i, i < 4 → (s.hereCore.reg s.me (d.toNat + i)).full = true) →
          ∃ t, exec (.takem d) s = .next t ∧ t.hereCore.mbox = rest ∧ t.hereCore.mboxPos = 0 ∧ t.me.pc = s.nextPc ∧
            (∀ i, i < 4 → (t.hereCore.reg t.me (d.toNat + i)).full = false) ∧
            t.here.flights.any (fun f => decide (f.2 = .result s.owner (.regs [⟨d.toNat, e.hdr, false, false⟩, ⟨d.toNat + 1, e.w1, false, false⟩,
              ⟨d.toNat + 2, e.w2, false, false⟩, ⟨d.toNat + 3, e.w3, false, false⟩]))) = true))) ∧
  (
    ∀ (d : Reg) (s : State) (v : Vals),
      (∀ src, Ready s { s := srcOpr src, d := rdReg d } v → exec (.htab d src) s =
        .next (endOf { s := srcOpr src, d := rdReg d } (s.onHereCore (fun k =>
          { k with handlers := tset k.handlers (v.s.toNat % 64) (v.d &&& 0xCFFFFFFFFFFFFFFF) })))) ∧
      (Ready s { d := wrReg d } v →
        exec (.mcfgReadConfig d) s = .next ((s.setReg d.toNat s.hereCore.elig).advance) ∧
        exec (.mcfgReadDropCounter d) s =
          .next (((s.setReg d.toNat (word s.hereCore.drops)).onHereCore (fun k => { k with drops := 0 })).advance) ∧
        ∀ n : BitVec 4, exec (.mcfgReadAccept d n) s = .next ((s.setReg d.toNat (word (tget s.hereCore.accept n.toNat 0))).advance)) ∧
      (Ready s { d := rdReg d } v →
        exec (.mcfgWriteConfig d) s = .next ((s.onHereCore (fun k => { k with elig := v.d &&& 0x7FFFFFFFFFFFFFFF })).advance) ∧
        ∀ n : BitVec 4, exec (.mcfgWriteAccept d n) s =
          .next ((s.onHereCore (fun k => { k with accept := tset k.accept n.toNat (v.d.toNat % 65536) })).advance)))

/-- R144, R180: SEND.t and SEND.c send one message of kind USER with the handler, the issuer's holder and handle, and the payload
group, to the core that D names; when the network refuses it the chain parks with NET and sends nothing.
R146 to R148, R260: a message that may arrive does so, once the five checks of R146 have passed in their order: one for handler 0 of a core whose mailbox has room is queued
there with its first three words, one with a valid handler starts a thread in an eligible slot with g0 the sender's handle, g1 the header and the
payload from g2 on; one that must wait stays, and is checked again. No message arrives, or is checked again, before one that its sender
sent earlier to the same core has arrived (R180, R300).
R147: a message that is refused bounces to its sender's core, is queued in the target core's own mailbox, or is told to its host packet, by its kind; a bounce
that finds the mailbox full is dropped and counted. A message that would start a thread waits while a pre-emption or a transfer of its core is under
way (R260; that a transfer holds it back too is the model's choice: log 17). -/
def Obligations.MessagesSentAndArriving : Prop :=
  (
    ∀ (d : Reg) (handler : BitVec 6) (payload : Option RegOp) (count : BitVec 3) (s : State) (v : Vals),
      let t : Opr := match payload with
        | some r => .reg r.n.toNat count.toNat false .read r.trap
        | none => .none
      Ready s { t := t, d := rdReg d } v →
      let words := match payload with
        | some r => (span r.n.toNat 1 count.toNat).map s.reg
        | none => []
      let m (dst : Nat) (to_ : Option Nat) : Msg :=
        { Msg.plain s.cur.core dst (header 0 handler.toNat s.holder s.self 0) words with
          toThread := to_, inject := true, srcChip := s.cur.chip }
      let sent (x : Msg) : State := (s.onHere (fun p => (p.charge (blockNi s.cur.core) s.holder 1).addJob (.msg x))).advance
      (s.msgRefused 1 = false →
        exec (.sendT d handler payload count) s = .next (sent (m (v.d.toNat / 64 % 1024) (some (v.d.toNat % 2 ^ 24)))) ∧
        exec (.sendC d handler payload count) s = .next (sent (m (v.d.toNat % 1024) none))) ∧
      (s.msgRefused 1 = true →
        exec (.sendT d handler payload count) s = .next (s.park .net) ∧
        exec (.sendC d handler payload count) s = .next (s.park .net))) ∧
  (
    ∀ (s : State) (chip id : Nat) (m : Msg), (s.pkg chip).phase = .running → (s.pkg chip).job id = some (.msg m) →
      (s.pkg chip).awake m.dst = true →
      let p := s.pkg chip
      let step : Instr := if m.waiting then .messageDeliveryRetry chip id else .messageArrival chip id
      (p.messageBefore chip id m = true → exec (.messageArrival chip id) s = .fault .notEnabled ∧
        exec (.messageDeliveryRetry chip id) s = .fault .notEnabled) ∧
      (∀ (e : Nat) (n : Msg) (k : Nat), (e, .msg n) ∈ p.flights → e < id → n.sender = some k → m.sender = some k → n.origin chip = m.origin chip →
        n.src = m.src → n.dst = m.dst → (p.core m.dst).latch ≠ some e → p.messageBefore chip id m = true) ∧
      (p.messageBefore chip id m = false →
      (p.judge id m = .deposit → m.launch = none → (p.core m.dst).waitm = [] → ∃ t, exec step s = .next t ∧
        ((t.pkg chip).core m.dst).mbox = (p.core m.dst).mbox ++ [⟨m.hdr, m.pay.headD 0, m.pay.tail.headD 0, m.pay.tail.tail.headD 0, m.report, m.acquire⟩]) ∧
      (∀ slot base len i, p.judge id m = .start slot base len → m.launch = none → m.tagged = false →
        p.freeCell (coreDie m.dst) (s.free 4) = some i → ∃ t, exec step s = .next t ∧
          let k := (t.pkg chip).core m.dst
          (k.thread slot).life = .ready ∧ (k.thread slot).base = base ∧ (k.thread slot).len = len ∧
          (k.thread slot).pc = (tget (p.core m.dst).handlers (m.hdr.toNat / 2 ^ 48 % 256) 0).setWidth 56 ∧
          (1 < len → (k.cell base).val = word (m.hdr.toNat / 256 % 2 ^ 24)) ∧
          (1 < len → (k.cell (base + 1)).val = m.hdr) ∧
          ∀ i, i < m.pay.length → (k.cell (base + 2 + i)).val = (m.pay[i]?).getD 0) ∧
      (m.waiting = false → p.judge id m = .wait → exec (.messageArrival chip id) s =
        .next (s.setPkg chip (p.setJob id (.msg { m with waiting := true })))) ∧
      (p.judge id m = .refuse →
        let kind := m.hdr.toNat / 2 ^ 56
        (m.bounce = true → ∃ t, exec step s = .next t ∧ ((t.pkg chip).core m.dst).mbox = (p.core m.dst).mbox ∧
          ((t.pkg chip).core m.dst).drops = min (2 ^ 32 - 1) ((p.core m.dst).drops + 1)) ∧
        (m.bounce = false → m.preempt = none → kind = 0 → m.srcChip = chip → ∃ t, exec step s = .next t ∧
          (t.pkg chip).flights.any (fun e => match e.2 with
            | .msg n => decide (n.dst = m.src ∧ n.bounce = true ∧ n.toThread = none ∧ n.hdr = word (m.hdr.toNat / 2 ^ 8 * 2 ^ 8 + 1) ∧
                n.pay = m.pay.take 3)
            | _ => false) = true) ∧
        (m.bounce = false → m.preempt = none → 1 ≤ kind → kind ≤ 3 → (p.core m.dst).mbox.length < 64 → (p.core m.dst).waitm = [] →
          ∃ t, exec step s = .next t ∧ ((t.pkg chip).core m.dst).mbox =
            (p.core m.dst).mbox ++ [⟨m.hdr, m.pay.headD 0, m.pay.tail.headD 0, m.pay.tail.tail.headD 0, m.report, m.acquire⟩]) ∧
        (∀ packet c k, m.bounce = false → m.preempt = none → kind = 4 → m.launch = some (packet, c) → packet ≠ id → risingFrom 0 p.flights = true →
          p.job packet = some (.packet k) → ∃ t, exec step s = .next t ∧ (t.pkg chip).job packet = some (.packet { k with outcome := some false }))) ∧
      (m.waiting = false → m.refused = false → m.bounce = false →
        let k := p.core m.dst
        let kind := m.hdr.toNat / 2 ^ 56
        let handler := m.hdr.toNat / 2 ^ 48 % 2 ^ 8
        let sender := m.hdr.toNat / 2 ^ 32 % 2 ^ 16
        let entry := tget k.handlers handler 0
        let len := 8 * (entry.toNat / 2 ^ 56 % 16 + 1)
        let accepted : Prop := kind = 1 ∨ kind = 3 ∨ sender = p.coreHolder m.dst ∨ (sender ≠ 0 ∧ ∃ e ∈ k.accept, e.2 = sender)
        let there : Prop := ∀ h, m.toThread = some h → let t := k.thread (h % 64)
          t.gen = h / 2 ^ 16 % 2 ^ 8 ∧ (t.life = .ready ∨ t.life = .parked ∨ t.life = .trapped)
        let service : Prop := entry.getLsbD 62 = true ∨ kind = 3
        let free (i : Nat) : Prop := i < 63 ∧ k.elig.getLsbD i = true ∧ k.slotFree i = true
        (¬ accepted → p.judge id m = .refuse) ∧
        (accepted → ¬ there → p.judge id m = .refuse) ∧
        (accepted → there → handler = 0 → kind ≠ 3 → p.judge id m = if k.mbox.length < 64 then .deposit else .wait) ∧
        (accepted → there → (handler ≠ 0 ∨ kind = 3) →
          (entry.getLsbD 63 = false → p.judge id m = .refuse) ∧
          (entry.getLsbD 63 = true → ¬ service → k.elig = 0 → p.judge id m = .refuse) ∧
          (entry.getLsbD 63 = true → service ∨ k.elig ≠ 0 → (p.preempting m.dst ≠ none ∨ p.transferring m.dst = true) → m.preempt = none →
            p.judge id m = .wait) ∧
          (entry.getLsbD 63 = true → (p.preempting m.dst = none ∧ p.transferring m.dst = false ∨ m.preempt ≠ none) →
            (service → k.latch = none → p.judge id m = if k.slotFree 63 then .start 63 2016 32 else .latch) ∧
            (¬ service → k.elig ≠ 0 →
              (∀ slot base, free slot → (∀ i, i < slot → ¬ free i) → k.fitWindow len = some base → p.judge id m = .start slot base len) ∧
              (((∀ i, ¬ free i) ∨ k.fitWindow len = none) → p.judge id m = .wait)))))))

/-! ## Ports and deposits (R158 to R162, R185 to R189) -/

/-- R158, R185 to R188: PBIND leaves its port BINDING to the partner slot with its request on the way, and traps PORT-UNBOUND where
there is no partner; PUNBIND leaves it UNBOUND; PSTAT writes its state word; PUSH sends S through every port of the mask when each is
BOUND and has room (that a PUSH through no port pops its stream all the same is the model's choice: log 47).
R159 to R161, R185, R424: a bind request whose partner has bound back makes both ports BOUND to each other's handle, on one chip and between
two (that both become BOUND in one step is the model's choice: log 27); one that the partner core does not accept leaves its port
BROKEN, by news where it is of another chip; a value enters the queue of the port that it was pushed to. -/
def Obligations.Ports : Prop :=
  (
    ∀ (s : State) (v : Vals) (port : Port),
      (∀ src, Ready s { s := srcOpr src } v →
        let q := portCode port
        (noPartner s.cur.slot q = true ∨ (q ≤ 3 ∧ v.s.toNat % 64 = 63) →
          exec (.pbind port src) s = .next (s.takeTrap .portUnbound 0 (word q))) ∧
        (¬ (noPartner s.cur.slot q = true ∨ (q ≤ 3 ∧ v.s.toNat % 64 = 63)) → (s.partnerOf s.cur.chip s.cur.core q).1 = s.cur.chip →
          (∀ c, src ≠ .stream c) →
          let slot := if q = 4 then s.cur.slot + 1 else if q = 5 then s.cur.slot - 1 else v.s.toNat % 64
          ∃ t, exec (.pbind port src) s = .next t ∧ (t.me.port q).st = .binding ∧ (t.me.port q).peer = slot ∧ (t.me.port q).queue = [] ∧
            t.here.flights.any (fun e => decide (e.2 = .bind ⟨s.owner, s.holder, q, s.cur.chip, (s.partnerOf s.cur.chip s.cur.core q).2, slot, false⟩)) = true)) ∧
      (Ready s {} v → ∃ t, exec (.punbind port) s = .next t ∧ (t.me.port (portCode port)).st = .unbound ∧ t.me.pc = s.nextPc) ∧
      (∀ d, Ready s { d := wrReg d } v → ∃ w : Word, exec (.pstat d port none) s = .next ((s.setReg d.toNat w).advance) ∧
        w.toNat % 4 = match s.myPort (portCode port) with | .unbound => 0 | .binding => 1 | .bound => 2 | .broken => 3) ∧
      (∀ d (r : RegOp), Ready s { t := rdOp r, d := wrReg d } v → ∃ w : Word,
        exec (.pstat d port (some r)) s = .next ((s.setReg d.toNat w).advance) ∧
        (v.t.toNat / 64 % 1024 ≠ s.cur.core → w = 0)) ∧
      (∀ d src, Ready s { s := srcOpr src, d := rdReg d } v →
        (v.d.toNat % 64 = 0 → exec (.push d src) s = .next (endOf { s := srcOpr src, d := rdReg d } s)) ∧
        ((∀ q, q < 6 → v.d.getLsbD q = true → s.myPort q = .bound ∧ s.portRoom q = true ∧ (s.me.port q).peerChip = s.cur.chip) →
          exec (.push d src) s = .next (endOf { s := srcOpr src, d := rdReg d }
            (((span 0 1 6).filter v.d.getLsbD).foldl (fun s q => s.push q v.s) s))))) ∧
  (
    ∀ (s : State) (chip id : Nat), (s.pkg chip).phase = .running →
      let p := s.pkg chip
      (∀ b, p.job id = some (.bind b) → p.awake b.dst = true →
        (b.fromChip = chip → p.ownerLive b.owner = true ∧ (p.thread b.owner.core b.owner.slot).bindingTo b.port b.slot = true) →
        (b.arrived = false → p.accepts b.dst b.holder = false →
          (b.fromChip = chip → ∃ t, exec (.portBindRequest chip id) s = .next t ∧
            (((t.pkg chip).thread b.owner.core b.owner.slot).port b.port).st = .broken) ∧
          (b.fromChip ≠ chip → ∃ t, exec (.portBindRequest chip id) s = .next t ∧ (t.pkg chip).owed = p.owed ++
            [.news b.fromChip ⟨b.owner, b.port, b.dst, b.slot, true⟩ (p.coreHolder b.dst)])) ∧
        (b.arrived = false → p.accepts b.dst b.holder = true → s.answersBind chip b = false → exec (.portBindRequest chip id) s =
          .next (s.setPkg chip (p.setJob id (.bind { b with arrived := true })))) ∧
        ((b.arrived = true ∨ p.accepts b.dst b.holder = true) → s.answersBind chip b = true →
          (b.fromChip = chip → (b.dst, b.slot) ≠ (b.owner.core, b.owner.slot)) →
          ∃ t, exec (.portBindRequest chip id) s = .next t ∧
            ((t.pkg b.fromChip).thread b.owner.core b.owner.slot).port b.port =
              ⟨.bound, chip, handleOf (p.thread b.dst b.slot).gen b.dst b.slot, []⟩ ∧
            ((t.pkg chip).thread b.dst b.slot).port (opposite b.port) =
              ⟨.bound, b.fromChip, handleOf b.owner.gen b.owner.core b.owner.slot, []⟩)) ∧
      (∀ x, p.job id = some (.portv x) → p.awake x.dst = true →
        p.packetBefore chip chip x.src.core x.dst 0 id = false →
        let t := p.thread x.dst x.slot
        t.live = true → t.gen = x.gen → (t.port x.port).st = .bound → (t.port x.port).peerChip = chip →
        (t.port x.port).peer = handleOf x.src.gen x.src.core x.src.slot →
        ∃ u, exec (.portValueArrival chip id) s = .next u ∧
          (((u.pkg chip).thread x.dst x.slot).port x.port).queue = (t.port x.port).queue ++ [x.val]))

/-- R162, R189: DEPR sends its deposit and parks; the deposit waits in the target core's buffer, is written once its register is empty
with no producer, and its sender then goes on past the chain; a deposit that is refused ends with D := 0. -/
def Obligations.Deposits : Prop :=
  (∀ (d : Reg) (src : Src) (idx : BitVec 5) (s : State) (v : Vals), Ready s { s := srcOpr src, d := rdReg d } v → s.me.pend = none →
    ∃ t, exec (.depr d src idx) s = .next t ∧ t.me.life = .parked ∧ t.me.reason = some .depr ∧ t.me.pc = s.me.pc ∧
      t.here.job s.here.nextId = some (.depo ⟨s.owner, v.d.toNat / 64 % 1024, v.d.toNat % 64, v.d.toNat / 65536 % 256, idx.toNat, v.s,
        .travelling, d.toNat, s.cur.words.length, ({ s := srcOpr src } : Needs).pops⟩)) ∧
  (∀ (s : State) (chip id : Nat) (x : Deposit), (s.pkg chip).phase = .running → (s.pkg chip).job id = some (.depo x) →
    let p := s.pkg chip
    let ok : Bool := p.accepts x.dst (p.coreHolder x.owner.core) && !p.handleAbsent x.dst (some (handleOf x.gen x.dst x.slot)) &&
      decide (x.reg < (p.thread x.dst x.slot).len)
    (x.stage = .travelling → p.awake x.dst = true → p.packetBefore chip chip x.owner.core x.dst 0 id = false → ok = false → exec (.depositArrival chip id) s =
      .next (s.setPkg chip (p.setJob id (.depo { x with stage := .refused })))) ∧
    (x.stage = .travelling → p.awake x.dst = true → p.packetBefore chip chip x.owner.core x.dst 0 id = false → ok = true →
      (p.jobs (fun j => match j with | .depo e => decide (e.dst = x.dst ∧ e.stage = .buffered) | _ => false)).length < 8 →
      ∃ t, exec (.depositArrival chip id) s = .next t ∧
        (t.pkg chip).flights.any (fun e => decide (e.2 = .depo { x with stage := .buffered })) = true) ∧
    (x.stage = .buffered → ((p.core x.dst).reg (p.thread x.dst x.slot) x.reg).full = false →
      s.producing chip ⟨x.dst, x.slot, x.gen⟩ x.reg = false → p.ownerLive ⟨x.dst, x.slot, x.gen⟩ = true →
      (p.thread x.dst x.slot).life ≠ .migrating →
      (∀ e ∈ p.flights, ∀ y, e.2 = .depo y → e.1 < id → y.stage ≠ .buffered) →
      ∃ t, exec (.depositWrite chip id) s = .next t ∧
        (((t.pkg chip).core x.dst).reg (p.thread x.dst x.slot) x.reg).val = x.val ∧
        (((t.pkg chip).core x.dst).reg (p.thread x.dst x.slot) x.reg).full = true ∧
        (t.pkg chip).job id = some (.depo { x with stage := .written })) ∧
    ((x.stage = .written ∨ x.stage = .refused) → x.pops = [] → p.ownerLive x.owner = true →
      ∃ t, exec (.depositReply chip id) s = .next t ∧
        ((t.pkg chip).thread x.owner.core x.owner.slot).pc =
          (p.thread x.owner.core x.owner.slot).pc + BitVec.ofNat 56 x.len ∧
        (x.stage = .refused → x.d < (p.thread x.owner.core x.owner.slot).len →
          (((t.pkg chip).core x.owner.core).reg (p.thread x.owner.core x.owner.slot) x.d).val = 0)))

/-! ## Banks, the log and code visibility (R153, R154, R202 to R206) -/

/-- R202 to R206: the read bit of BFMT and BMODE reads a bank's register, and its absence writes it (a format of 13 to 15 or a BLK other
than 0 traps FORMAT); LOGSET records a region that it accepts; CPUB drops the lines of a range from the caches of a rectangle's cores
that the issuer's holder holds, and is complete in its first turn (log 24); IFENCE drops every line of the issuing core. -/
def Obligations.BanksAndCode : Prop :=
  ∀ (d : Reg) (s : State) (v : Vals),
    (∀ src, let n : Needs := { s := srcOpr src, d := s.selD src 3 d }
      Ready s n v → (∀ c, src ≠ .stream c) →
      let bank := v.s.toNat % 8
      (v.s.getLsbD 3 = true → ∀ i ∈ [Instr.bfmtRead d src, .bfmtWrite d src],
        exec i s = .next (endOf n (s.setReg d.toNat (tget s.hereCore.bankFmt bank 0)))) ∧
      (v.s.getLsbD 3 = false → v.d.toNat % 16 < 13 → v.d.toNat / 16 % 4 = 0 → ∀ i ∈ [Instr.bfmtRead d src, .bfmtWrite d src],
        exec i s = .next (endOf n (s.onHereCore (fun k => { k with bankFmt := tset k.bankFmt bank (v.d &&& 0xFFFF000F) })))) ∧
      (v.s.getLsbD 3 = false → ¬ (v.d.toNat % 16 < 13 ∧ v.d.toNat / 16 % 4 = 0) → ∀ i ∈ [Instr.bfmtRead d src, .bfmtWrite d src],
        exec i s = .next (s.takeTrap .format 0 (word (v.d.toNat % 16)))) ∧
      (v.s.getLsbD 3 = true → ∀ i ∈ [Instr.bmodeRead d src, .bmodeWrite d src], exec i s = .next (endOf n (s.setReg d.toNat
        (word ((if s.hereCore.pending.contains bank then 2 else 0) + if s.hereCore.exported.contains bank then 1 else 0))))) ∧
      (v.s.getLsbD 3 = false → ∀ i ∈ [Instr.bmodeRead d src, .bmodeWrite d src], exec i s = .next (endOf n (s.onHereCore (fun k =>
        { k with pending := if v.d.getLsbD 0 then sadd k.pending bank else sdel k.pending bank }))))) ∧
    (∀ src : RegOp, Ready s { mem := true, s := rdOp src, d := rdReg d } v →
      (v.s = 0 ∨ (v.d.toNat % 128 = 0 ∧ v.s.toNat % 128 = 0 ∧ s.here.inLogWindow v.d.toNat v.s.toNat = true ∧
          s.here.holds s.holder v.d.toNat v.s.toNat = true)) →
      ∃ t, exec (.logset d src) s = .next t ∧ t.me.pc = s.nextPc ∧
        (s.hereCore.spilled = [] → t.hereCore.logBase = v.d.toNat ∧ t.hereCore.logSize = v.s.toNat) ∧
        (s.hereCore.spilled ≠ [] → t.hereCore.logBase = s.hereCore.logBase ∧ t.hereCore.logNext = some (v.d.toNat, v.s.toNat))) ∧
    (∀ src t : RegOp, Ready s { mem := true, t := rdOp t, s := rdOp src, d := rdReg d } v →
      ∃ u, exec (.cpub d src t) s = .next u ∧ u.me.pc = s.nextPc ∧
        (v.s ≠ 0 → inRect v.t s.cur.core = true → (tget? s.here.cores s.cur.core).isSome = true → ∀ l ∈ u.hereCore.icache,
          ¬ (l.va < v.d.toNat + v.s.toNat ∧ v.d.toNat < l.va + 64)) ∧
        (v.s ≠ 0 → (tget? s.here.cores s.cur.core).isSome = true → ∀ e ∈ u.here.cores,
          (v.t.toNat % 32 ≤ meshX e.1 ∧ meshX e.1 ≤ v.t.toNat / 2 ^ 10 % 32 ∧ v.t.toNat / 2 ^ 5 % 32 ≤ meshY e.1 ∧
            meshY e.1 ≤ v.t.toNat / 2 ^ 15 % 32) →
          s.here.coreHolder e.1 = s.holder → ∀ l ∈ e.2.icache, ¬ (l.va < v.d.toNat + v.s.toNat ∧ v.d.toNat < l.va + 64)) ∧
        ∀ a, u.here.mem.byte a = s.here.mem.byte a) ∧
    (Ready s {} v → exec .ifence s = .next ((s.onHereCore (fun k => { k with icache := [] })).advance))

/-! ## Elements of the engines (R37 to R42, R50, R51) -/

/-- The place of a bit of an element: the address of its byte, and its number there (R39, R243). -/
def Claims.place (o : Operand) (n i : Nat) : Nat × Nat :=
  (o.addr ((n * elemBits o.fmt + i) / 8), (n * elemBits o.fmt + i) % 8)

/-- An element of an operand in a memory, by its bits in their order. -/
def Claims.element (m : Memory) (o : Operand) (n : Nat) : Nat :=
  ((List.range (elemBits o.fmt)).map (fun i => if (m.byte (Claims.place o n i).1).getLsbD (Claims.place o n i).2 then 2 ^ i else 0)).sum

/-- The bits of some elements of an operand, by their places in traversal order, all stand in different places. -/
def Claims.Apart (o : Operand) (js : List Nat) : Prop :=
  ∀ i ∈ js, ∀ j ∈ js, ∀ a b, a < elemBits o.fmt → b < elemBits o.fmt → (i, a) ≠ (j, b) →
    Claims.place o (o.at_ i) a ≠ Claims.place o (o.at_ j) b

/-- No element that an operation has written is among the sources of a later one, of which each has `r` (R279). -/
def Claims.Undisturbed (d o : Operand) (r : Nat) : Prop :=
  ∀ i j x a, i < j → j < d.count → x < r → a < elemBits d.fmt →
    (∀ b, b < elemBits o.fmt → Claims.place d (d.at_ i) a ≠ Claims.place o (o.at_ (j * r + x)) b) ∧
    (isScaled o.fmt = true → (Claims.place d (d.at_ i) a).1 ≠ o.addr (o.scaleOff + o.at_ (j * r + x) / 32))

/-- An element of an operand lies in a line. -/
def Claims.within (o : Operand) (j line : Nat) : Prop := ∀ b ∈ o.bytesOf (o.at_ j), lineOf (o.addr b) = line

/-- The fields of a format: exponent and fraction bits (R38). -/
def Claims.shape (fmt : Nat) : Nat × Nat :=
  match fmt with
  | 1 => (8, 7) | 2 => (5, 10) | 3 => (5, 2) | 4 => (4, 3) | 11 => (4, 3) | 5 => (3, 2) | 6 => (2, 3) | 7 => (2, 1)
  | 16 => (11, 52) | 34 => (11, 52) | _ => (8, 23)

/-- The largest finite encoding, the infinity and the default NaN of a format, where it has them (R38). -/
def Claims.top (fmt : Nat) : Nat :=
  match fmt with
  | 1 => 0x7F7F | 2 => 0x7BFF | 3 => 0x7B | 4 => 0x7E | 11 => 0x7E | 5 => 0x1F | 6 => 0x1F | 7 => 0x7
  | 16 => 0x7FEFFFFFFFFFFFFF | 34 => 0x7FEFFFFFFFFFFFFF | _ => 0x7F7FFFFF
def Claims.infinity (fmt : Nat) : Option Nat :=
  match fmt with
  | 0 => some 0x7F800000 | 1 => some 0x7F80 | 2 => some 0x7C00 | 3 => some 0x7C | 16 => some 0x7FF0000000000000 | 34 => some 0x7FF0000000000000
  | _ => none
def Claims.defaultNaN (fmt : Nat) : Option Nat :=
  match fmt with
  | 0 => some 0x7FC00000 | 1 => some 0x7FC0 | 2 => some 0x7E00 | 3 => some 0x7E | 4 => some 0x7F | 11 => some 0x7F
  | 16 => some 0x7FF8000000000000 | 34 => some 0x7FF8000000000000 | _ => none

/-- An encoding of a format is a NaN (R38). -/
def Claims.NaNOf (fmt x : Nat) : Prop :=
  ((Claims.infinity fmt).isSome = true ∧ Claims.isNaN (Claims.shape fmt).1 (Claims.shape fmt).2 x) ∨
  ((fmt = 4 ∨ fmt = 11) ∧ x % 2 ^ 7 = 0x7F)

/-- The integer formats and views. -/
def Claims.isInt (fmt : Nat) : Bool := decide (fmt = 8 ∨ fmt = 9 ∨ fmt = 10 ∨ fmt = 32 ∨ fmt = 33)

/-- A Q4 code by its type (R41). -/
def Claims.q4 (type_ c : Nat) : ℚ :=
  let table : List ℚ := match type_ with
    | 0 => [0, 1, 2, 3, 4, 5, 6, 7]
    | 1 => [0, 1 / 2, 1, 3 / 2, 2, 3, 4, 6]
    | 2 => [0, 1 / 8, 1 / 4, 1 / 2, 1, 2, 4, 8]
    | _ => [0, 1, 2, 3, 4, 6, 8, 12]
  if c < 8 then (table[c]?).getD 0 else if type_ = 0 then (c : ℚ) - 16 else -((table[c - 8]?).getD 0)

/-- What an element stands for, with its block's scale byte (R38 to R42). -/
def Claims.Decoded (fmt scale x : Nat) (signed : Bool) (a : Claims.Exact) : Prop :=
  let e := (Claims.shape fmt).1
  let m := (Claims.shape fmt).2
  let w := elemBits fmt
  let times : ℚ := if fmt = 11 ∨ fmt = 12 then (2 : ℚ) ^ (((scale % 64 : ℕ) : ℤ) - 32) else 1
  let number (v : ℚ) (neg : Bool) : Prop := (v ≠ 0 → a = .real ((v * times : ℚ) : ℝ)) ∧ (v = 0 → a = .zero neg)
  if Claims.isInt fmt then number (if (signed = true ∨ fmt = 32) ∧ fmt ≠ 33 ∧ 2 ^ (w - 1) ≤ x then (x : ℚ) - 2 ^ w else x) false
  else if fmt = 12 then number (Claims.q4 (scale / 64 % 4) x) (decide (scale / 64 % 4 ≠ 0 ∧ x = 8))
  else
    (Claims.NaNOf fmt x → a = .nan false) ∧
    (¬ Claims.NaNOf fmt x → Claims.infinity fmt = some (x % 2 ^ (e + m)) → a = .inf (Claims.negative e m x)) ∧
    (¬ Claims.NaNOf fmt x → Claims.infinity fmt ≠ some (x % 2 ^ (e + m)) → number (Claims.value e m x) (Claims.negative e m x))

/-- What an element of an operand stands for in a memory. -/
def Claims.ValueOf (m : Memory) (o : Operand) (n : Nat) (signed : Bool) (a : Claims.Exact) : Prop :=
  Claims.Decoded o.fmt (m.byte (o.addr (o.scaleOff + n / 32))).toNat (Claims.element m o n) signed a

/-- The encoding of a value in a format, rounded once; what overflows follows the policy, 11 as 00 (R50, R51). -/
def Claims.Encoded (fmt rm policy : Nat) (signed : Bool) (a : Claims.Exact) (bits : Nat) : Prop :=
  let e := (Claims.shape fmt).1
  let m := (Claims.shape fmt).2
  let w := elemBits fmt
  let lo : ℤ := if fmt = 33 ∨ signed = false then 0 else -2 ^ (w - 1)
  let hi : ℤ := if fmt = 33 ∨ signed = false then 2 ^ w - 1 else 2 ^ (w - 1) - 1
  let code (i : ℤ) : Nat := (BitVec.ofInt w i).toNat
  let with_ (neg : Bool) (x : Nat) : Nat := Claims.signedBits e m neg x
  let excess (neg : Bool) : Nat := match policy, Claims.infinity fmt, Claims.defaultNaN fmt with
    | 1, some i, _ => with_ neg i
    | 1, none, some n => n
    | 2, _, some n => n
    | _, _, _ => with_ neg (Claims.top fmt)
  match a with
  | .nan _ => bits = if Claims.isInt fmt then 0 else (Claims.defaultNaN fmt).getD 0
  | .inf n => bits = if Claims.isInt fmt then code (if n then lo else hi) else match Claims.infinity fmt with
    | some i => with_ n i
    | none => excess n
  | .zero n => bits = if Claims.isInt fmt then 0 else with_ n 0
  | .real x =>
    if Claims.isInt fmt then ∃ i : ℤ, Claims.RoundsTo rm x i ∧ bits = code (max lo (min hi i))
    else ∃ u n : ℤ, (2 : ℝ) ^ (u + m) ≤ |x| ∧ |x| < (2 : ℝ) ^ (u + m + 1) ∧
      let q := max u (2 - 2 ^ (e - 1) - m)
      let y : ℝ := n * (2 : ℝ) ^ q
      Claims.RoundsTo rm (x / (2 : ℝ) ^ q) n ∧
      ((Claims.value e m (Claims.top fmt) : ℝ) < |y| → (x < 0 → bits = excess true) ∧ (0 < x → bits = excess false)) ∧
      (|y| ≤ (Claims.value e m (Claims.top fmt) : ℝ) → bits < 2 ^ (1 + e + m) ∧ (Claims.value e m bits : ℝ) = y ∧
        (Claims.negative e m bits = true ↔ x < 0))
  | _ => False

/-! ## What the engines compute (R53 to R57, R278 to R284) -/

/-- The integer of an element (R42). -/
def Claims.integer (m : Memory) (o : Operand) (n : Nat) (signed : Bool) : ℤ :=
  if signed = true ∧ 2 ^ (elemBits o.fmt - 1) ≤ Claims.element m o n then (Claims.element m o n : ℤ) - 2 ^ elemBits o.fmt
  else Claims.element m o n

/-- An exact sum of terms (R54, R281): infinities of both signs are invalid, and the sign of a zero sum is minus when every term is −0, or in RDN. -/
def Claims.SumAll (rm : Nat) (xs : List Claims.Exact) (z : Claims.Exact) : Prop :=
  let nan : Prop := ∃ b, .nan b ∈ xs
  let total : ℝ := (xs.map (fun a => match a with | .real x => x | _ => 0)).sum
  (nan → z = .nan false) ∧
  (¬ nan → .inf true ∈ xs → .inf false ∈ xs → z = .invalid) ∧
  (∀ n, ¬ nan → .inf n ∈ xs → .inf (!n) ∉ xs → z = .inf n) ∧
  (¬ nan → .inf true ∉ xs → .inf false ∉ xs →
    (total ≠ 0 → z = .real total) ∧
    (total = 0 → ∃ n, z = .zero n ∧ (n = true ↔ (∀ x ∈ xs, x = .zero true) ∨ rm = 3)))

/-- A product of the matrix engine (R54): a zero product is +0, and an invalid one a NaN. -/
def Claims.MatProduct (a b z : Claims.Exact) : Prop :=
  ∃ p, Claims.Product a b p ∧ z = match p with
    | .zero _ => .zero false
    | .invalid => .nan false
    | .nan _ => .nan false
    | p => p

/-- An exact result in FP32, rounded to nearest, ties to even. -/
def Claims.Nearest32 (z : Claims.Exact) (bits : Nat) : Prop := ∃ fl, Claims.Gives 8 23 1 (Claims.overflowed 8 23 1) z bits fl

/-- R53, R54: an element of an accumulator tile after an MMA, from row i of A and column j of B, in groups of 32. -/
def Claims.MatrixElement (mode : MmaMode) (sat : Bool) (cap : Memory) (a b : Operand) (ctl : Word) (i j : Nat) (old new : BitVec 32) : Prop :=
  let group (g : Nat) : List Nat := (List.range a.e1).filter (fun k => decide (k / 32 = g))
  let groups := (a.e1 + 31) / 32
  (isInteger a.fmt = true → ∃ acc : ℕ → ℤ, acc 0 = (if mode = .ovr then 0 else old.toInt) ∧ new = BitVec.ofInt 32 (acc groups) ∧
    ∀ g, g < groups →
      let x := acc g + ((group g).map (fun k => Claims.integer cap a (a.index i k 0 0) (ctl.getLsbD 0) *
        Claims.integer cap b (b.index k j 0 0) (ctl.getLsbD 1))).sum
      acc (g + 1) = if -2 ^ 31 ≤ x ∧ x < 2 ^ 31 then x
        else if mode = .sat ∨ sat = true then (if x < 0 then -2 ^ 31 else 2 ^ 31 - 1)
        else (BitVec.ofInt 32 x).toInt) ∧
  (isInteger a.fmt = false → ∃ (acc : ℕ → ℕ) (prod : ℕ → Claims.Exact), new = BitVec.ofNat 32 (acc groups) ∧
    (∀ k, k < a.e1 → ∃ x y, Claims.ValueOf cap a (a.index i k 0 0) true x ∧ Claims.ValueOf cap b (b.index k j 0 0) true y ∧
      Claims.MatProduct x y (prod k)) ∧
    (mode = .ovr → acc 0 = 0) ∧
    (mode = .decay → ∃ x y z, Claims.StandsFor 8 23 (ctl.toNat / 2 ^ 32) x ∧ Claims.StandsFor 8 23 old.toNat y ∧ Claims.Product x y z ∧
      Claims.Nearest32 z (acc 0)) ∧
    (mode ≠ .ovr → mode ≠ .decay → acc 0 = old.toNat) ∧
    ∀ g, g < groups → ∃ sum part x y z raw, Claims.SumAll 1 ((group g).map prod) sum ∧ Claims.Nearest32 sum part ∧
      Claims.StandsFor 8 23 (acc g) x ∧ Claims.StandsFor 8 23 part y ∧ Claims.Sum 1 x y z ∧ Claims.Nearest32 z raw ∧
      acc (g + 1) = if raw % 2 ^ 31 = 0 then 0 else raw)

/-- R55, R56: an element that DRAIN.i writes. -/
def Claims.DrainedInt (fmt : Nat) (outSigned : Bool) (acc corr param : Nat) (zp : ℤ) (new : Nat) : Prop :=
  let w := elemBits fmt
  let lo : ℤ := if outSigned then -2 ^ (w - 1) else 0
  let hi : ℤ := if outSigned then 2 ^ (w - 1) - 1 else 2 ^ w - 1
  (param / 2 ^ 38 ≠ 0 → new = 0) ∧
  (param / 2 ^ 38 = 0 → ∃ q : ℤ,
    Claims.RoundsTo 1 (((((BitVec.ofNat 32 acc).toInt - (BitVec.ofNat 32 corr).toInt) * (BitVec.ofNat 32 param).toInt : ℤ) : ℝ) /
      2 ^ (param / 2 ^ 32)) q ∧
    new = (BitVec.ofInt w (max lo (min hi (q + zp)))).toNat)

/-- R55, R57: an element that DRAIN.f writes. -/
def Claims.DrainedFloat (fmt rm policy acc corr param new : Nat) : Prop :=
  (param / 2 ^ 38 ≠ 0 → new = (Claims.defaultNaN fmt).getD 0) ∧
  (param / 2 ^ 38 = 0 → ∃ x y ny t tb tx c u ub ux, Claims.StandsFor 8 23 acc x ∧ Claims.StandsFor 8 23 corr y ∧ Claims.Opposite y ny ∧
    Claims.Sum rm x ny t ∧ (∃ fl, Claims.Gives 8 23 rm (Claims.overflowed 8 23 rm) t tb fl) ∧
    Claims.StandsFor 8 23 tb tx ∧ Claims.StandsFor 8 23 (param % 2 ^ 32) c ∧ Claims.Product tx c u ∧
    (∃ fl, Claims.Gives 8 23 rm (Claims.overflowed 8 23 rm) u ub fl) ∧
    Claims.StandsFor 8 23 ub ux ∧ Claims.Encoded fmt rm policy true ux new)

/-- One value is below another, and two are equal, as numbers (R127, R283). -/
def Claims.Lower (a b : Claims.Exact) : Prop :=
  match a, b with
  | .inf true, .inf false => True
  | .inf true, .zero _ => True
  | .inf true, .real _ => True
  | .zero _, .inf false => True
  | .real _, .inf false => True
  | .zero _, .real y => 0 < y
  | .real x, .zero _ => x < 0
  | .real x, .real y => x < y
  | _, _ => False
def Claims.Alike (a b : Claims.Exact) : Prop :=
  match a, b with
  | .inf x, .inf y => x = y
  | .zero _, .zero _ => True
  | .real x, .real y => x = y
  | _, _ => False

/-- The smaller or the larger of two values (R127): −0 lies below +0, and a NaN gives way. -/
def Claims.Chosen (less : Bool) (a b z : Claims.Exact) : Prop :=
  let under (a b : Claims.Exact) : Prop := Claims.Lower a b ∨ (a = .zero true ∧ b = .zero false)
  match a, b with
  | .nan _, .nan _ => z = .nan false
  | .nan _, _ => z = b
  | _, .nan _ => z = a
  | _, _ => (under a b → z = if less then a else b) ∧ (under b a → z = if less then b else a) ∧ (¬ under a b → ¬ under b a → z = a)

/-- R280, R282, R283: a result in the working format, from the elements d, s and t and the scalar c. Of VEXP the special cases alone are said
here; its other values rest on log 15. -/
def Claims.VectorOf (fn : VFn) (e m rm : Nat) (d s t c : Claims.Exact) (bits : Nat) : Prop :=
  let gives (z : Claims.Exact) : Prop := ∃ fl, Claims.Gives e m rm (Claims.overflowed e m rm) z bits fl
  let truth (p : Prop) : Prop := (p → bits = (2 ^ (e - 1) - 1) * 2 ^ m) ∧ (¬ p → bits = 0)
  match fn with
  | .add => ∃ z, Claims.Sum rm d s z ∧ gives z
  | .sub => ∃ y z, Claims.Opposite s y ∧ Claims.Sum rm d y z ∧ gives z
  | .mul => ∃ z, Claims.Product d s z ∧ gives z
  | .fma => ∃ z, Claims.Fused rm s t d z ∧ gives z
  | .fms => ∃ y z, Claims.Opposite d y ∧ Claims.Fused rm s t y z ∧ gives z
  | .min => ∃ z, Claims.Chosen true d s z ∧ gives z
  | .max => ∃ z, Claims.Chosen false d s z ∧ gives z
  | .rcp => ∃ z, Claims.Quotient (.real 1) s z ∧ gives z
  | .rsq => match s with
    | .inf false => bits = 0
    | .zero n => bits = Claims.signedBits e m n (Claims.infBits e m)
    | .real x => (x < 0 → bits = Claims.nanBits e m) ∧ (0 < x → gives (.real (1 / Real.sqrt x)))
    | _ => bits = Claims.nanBits e m
  | .exp => match s with
    | .nan _ => bits = Claims.nanBits e m
    | .inf n => bits = if n then 0 else Claims.infBits e m
    | .zero _ => bits = (2 ^ (e - 1) - 1) * 2 ^ m
    | _ => True
  | .eq => truth (Claims.Alike s t)
  | .lt => truth (Claims.Lower s t)
  | .le => truth (Claims.Lower s t ∨ Claims.Alike s t)
  | .sel => gives s
  | .scale => ∃ z, Claims.Product s c z ∧ gives z
  | .fill => gives c
  | .cvt => True

/-- R281: a reduction in the working format of the values of some elements. -/
def Claims.ReductionOf (fn : RedFn) (e m rm : Nat) (xs : List Claims.Exact) (bits : Nat) : Prop :=
  let gives (z : Claims.Exact) : Prop := ∃ fl, Claims.Gives e m rm (Claims.overflowed e m rm) z bits fl
  let fold (less : Bool) : Prop := ∃ z : ℕ → Claims.Exact, (∀ a, xs[0]? = some a → Claims.Chosen less a a (z 0)) ∧
    (∀ i a, xs[i + 1]? = some a → Claims.Chosen less (z i) a (z (i + 1))) ∧ gives (z (xs.length - 1))
  match fn with
  | .sum => ∃ z, Claims.SumAll rm xs z ∧ gives z
  | .max => fold false
  | .min => fold true

/-! ## Layout records, tiles and the engines (R240 to R253, R268 to R290) -/

/-- A layout record that passes the checks of R244 and R245 as an operand of Cassia, and the operand that is latched. -/
def Claims.Latches (s : State) (r : Layout) (need : Perm) (use : Nat) (view : Option Nat) (o : Operand) : Prop :=
  ∃ pa c b, s.xlate r.va.toNat need use = .ok pa ∧ s.here.place pa = .scratch c b ∧ clusterOf c = clusterOf s.cur.core ∧
    s.here.coreHolder c = s.holder ∧ (need.w = true → (s.here.core c).exported.contains b = false) ∧ b = r.bank ∧
    r.extentBad = false ∧
    let f := tget (s.here.core c).bankFmt b 0
    let fmt := view.getD (f.toNat % 16)
    r.spanBad fmt (pa % 65536) = false ∧ o = r.operand (pa % 65536) fmt (f.toNat / 65536 % 65536) (bankPages pa)

/-- A Cassia operation enters the dispatch queue of its core, or its chain parks with ENGINE when the queue holds 8. -/
def Claims.queued (s : State) (n : Needs) (fn : CassiaFn) : Host.Outcome State Fault Refusal :=
  .next (if s.hereCore.dispatch.length < 8 then endOf n (s.enqueue (CassiaOp.new s.owner fn none)) else s.park .engine)

/-- R247, R250, R269, R270, R275, R289, R290: LAYOUT reads a record, RDBC reads the conflict counter, ACCMODE reads or writes a tile's mode
bits, ESTAT counts the thread's incomplete operations, and ESYNC waits for them, takes their reports, and acquires what every operation that
the thread has dispatched has written, those of the slots of this chip that it has migrated from among them (R419; that those of other chips
count no more is the model's choice: log 49). -/
def Obligations.EngineRegisters : Prop :=
  ∀ (s : State) (v : Vals) (d : Reg),
    let own : List Owner := s.owner :: (s.me.former.filter (fun f => decide (f.1 = s.cur.chip))).map (·.2)
    let done : List CassiaOp := own.flatMap (fun o => (s.here.core o.core).finished.filter (fun x => decide (x.owner = o)))
    (∀ (rec : Rec) (b : RegOp) (disp : Word) (pa : Nat), Ready s { mem := true, s := rdOp b } v →
      s.plainAddr (v.s + disp) 32 { r := true } 1 = .ok pa → (∀ i, i < 4 → (s.plainLoad (pa + 8 * i) 8 (10 + i)).bad = false) →
      let l (i : Nat) : Nat := (s.plainLoad (pa + 8 * i) 8 (10 + i)).val
      (2 ^ 51 ≤ l 0 → exec (.layout rec b disp) s = .next (s.takeTrap .layout 0 (word rec.toNat))) ∧
      let w := BitVec.ofNat 256 (l 0 + 2 ^ 64 * l 1 + 2 ^ 128 * l 2 + 2 ^ 192 * l 3)
      (l 0 < 2 ^ 51 → exec (.layout rec b disp) s =
        .next ((s.onHereCore (fun k => { k with recs := tset k.recs rec.toNat w })).advance))) ∧
    (Ready s { d := wrReg d } v →
      exec (.rdbcRead d) s = .next ((s.setReg d.toNat s.hereCore.conflicts).advance) ∧
      exec (.rdbcReadClear d) s = .next (((s.setReg d.toNat s.hereCore.conflicts).onHereCore (fun k => { k with conflicts := 0 })).advance) ∧
      ∃ w : Word, exec (.estat d) s = .next ((s.setReg d.toNat w).advance) ∧
        w.toNat % 256 = min 255 (own.flatMap s.here.pendingOf).length) ∧
    (∀ src : Src, (∀ c, src ≠ .stream c) →
      let n : Needs := { s := srcOpr src, d := s.selD src 2 d }
      let k := clusterOf s.cur.core
      let t := v.s.toNat % 4
      Ready s n v → s.here.coreHolder (clusterCore k t) = s.holder → ∀ i ∈ [Instr.accmodeRead d src, .accmodeWrite d src],
        (v.s.getLsbD 2 = true → ∃ w : Word, exec i s = .next ((s.setReg d.toNat w).advance) ∧
          w.getLsbD 0 = (s.here.tileOf k t).sat ∧ w.getLsbD 1 = (s.here.tileOf k t).compat ∧
          w.getLsbD 2 = (s.here.tileOf k t).wpoison ∧ w.getLsbD 3 = (s.here.tileOf k t).vpoison ∧ w.toNat < 16) ∧
        (v.s.getLsbD 2 = false → (∀ o ∈ s.here.incomplete k, o.fn.tile ≠ some t) → exec i s = .next ((s.onHere (fun p =>
          p.onTile k t (fun x => { x with compat := v.d.getLsbD 1, sat := v.d.getLsbD 0 }))).advance))) ∧
    (Ready s {} v →
      (own.flatMap s.here.pendingOf ≠ [] → exec .esync s = .next (s.park .engine)) ∧
      (own.flatMap s.here.pendingOf = [] → (∀ o ∈ done, o.report = none) →
        ∃ t, exec .esync s = .next t ∧ t.me.pc = s.nextPc ∧ t.hereCore.finished = s.hereCore.finished ∧
          (∀ a, t.here.mem.byte a = s.here.mem.byte a) ∧
          (s.hereCore.view.wf = true → risingFrom 0 s.hereCore.unstable = true → (∀ o ∈ done, ∀ w ∈ o.wrote, w % 8 = 0) →
            ∀ o ∈ done, ∀ w ∈ o.wrote,
              t.hereCore.view.version w = s.here.mem.version w ∧ tget? t.hereCore.unstable w = none)) ∧
      (∀ o, own.flatMap s.here.pendingOf = [] → s.hereCore.finished = [o] → done = [o] → o.owner = s.owner →
        (∀ x, o.overflow = some x → ∃ t, exec .esync s = .next t ∧ t.hereCore.finished = [{ o with overflow := none }] ∧
          t.me.cause.toNat % 256 = 8 ∧ t.me.value = x.2) ∧
        (∀ x, o.overflow = none → o.soft = some x → ∃ t, exec .esync s = .next t ∧
          t.hereCore.finished = [{ o with soft := none }] ∧ t.me.cause.toNat % 256 = 15 ∧ t.me.value = x.2)))

/-- R236, R240, R268, R271 to R275: an MMA, ACCZ, ACCSWAP, ACCRD, ACCWR or DRAIN whose records and shapes are good enters the dispatch queue
with everything that it latches; one that names a tile of a core that the holder does not hold traps NOT-HOLDER, with that core's number. -/
def Obligations.MatrixIssue : Prop :=
  ∀ (s : State) (v : Vals) (tile : TileNo),
    let owner := clusterCore (clusterOf s.cur.core) tile.toNat
    (∀ la lb (c : RegOp) (disp : Word) (a b : Operand),
      let ra := s.hereCore.layout la.toNat
      let rb := s.hereCore.layout lb.toNat
      Ready s { s := rdOp c } v → s.here.coreHolder owner = s.holder → Claims.Latches s ra { r := true } 1 none a →
      Claims.Latches s rb { r := true } 2 none b →
      ra.e2 = 1 → ra.e3 = 1 → ra.e0 ≤ 128 → rb.e2 = 1 → rb.e3 = 1 → rb.e1 ≤ 128 → rb.e0 = ra.e1 →
      isInteger a.fmt = isInteger b.fmt →
      ∀ p ∈ [(Instr.mmaOvr tile la lb c disp, MmaMode.ovr), (.mmaAcc tile la lb c disp, .acc), (.mmaDecay tile la lb c disp, .decay),
          (.mmaSat tile la lb c disp, .sat)],
        (p.2 = .decay → isInteger a.fmt = false) → (p.2 = .sat → isInteger a.fmt = true) →
        exec p.1 s = Claims.queued s { s := rdOp c } (.mma p.2 tile.toNat a b (v.s + disp))) ∧
    (Ready s {} v → s.here.coreHolder owner = s.holder →
      exec (.accz tile) s = Claims.queued s {} (.accz tile.toNat) ∧ exec (.accswap tile) s = Claims.queued s {} (.accswap tile.toNat)) ∧
    (Ready s {} v → s.here.coreHolder owner ≠ s.holder →
      exec (.accz tile) s = .next (s.takeTrap .notHolder 0 (word owner)) ∧
      exec (.accswap tile) s = .next (s.takeTrap .notHolder 0 (word owner))) ∧
    (∀ la lb rec (c : RegOp) (disp : Word), Ready s { s := rdOp c } v → s.here.coreHolder owner ≠ s.holder →
      ∀ i ∈ [Instr.mmaOvr tile la lb c disp, .mmaAcc tile la lb c disp, .mmaDecay tile la lb c disp, .mmaSat tile la lb c disp,
          .accrd tile rec c disp, .accwr tile rec c disp],
        exec i s = .next (s.takeTrap .notHolder 0 (word owner))) ∧
    (∀ (rnd : Rnd) (rec : Rec) (grp : RegOp),
      let r := s.hereCore.layout rec.toNat
      let win := (s.reg (grp.n.toNat + 3)).toNat
      let other := clusterCore (clusterOf s.cur.core) (win % 4)
      Ready s { mem := true, s := rdGroup grp 4 } v → s.here.coreHolder other ≠ s.holder → r.extentBad = false → r.e2 = 1 → r.e3 = 1 →
      win / 2 ^ 8 % 128 + r.e0 ≤ 128 → win / 2 ^ 16 % 128 + r.e1 ≤ 128 →
      exec (.drainI rnd rec grp) s = .next (s.takeTrap .notHolder 0 (word other)) ∧
      exec (.drainF rnd rec grp) s = .next (s.takeTrap .notHolder 0 (word other))) ∧
    (∀ (rec : Rec) (w : RegOp) (disp : Word) (o : Operand),
      let r := s.hereCore.layout rec.toNat
      let win := v.s + disp
      Ready s { s := rdOp w } v → s.here.coreHolder owner = s.holder → r.e2 = 1 → r.e3 = 1 →
      win.toNat / 2 ^ 8 % 128 + r.e0 ≤ 128 → win.toNat / 2 ^ 16 % 128 + r.e1 ≤ 128 →
      s.here.locked (clusterOf s.cur.core) tile.toNat = false →
      (Claims.Latches s r { w := true } 1 (some 33) o →
        exec (.accrd tile rec w disp) s = Claims.queued s { s := rdOp w } (.accrd tile.toNat o win)) ∧
      (Claims.Latches s r { r := true } 1 (some 33) o →
        exec (.accwr tile rec w disp) s = Claims.queued s { s := rdOp w } (.accwr tile.toNat o win))) ∧
    (∀ (rnd : Rnd) (rec : Rec) (grp : RegOp) (o col : Operand),
      let n : Needs := { mem := true, s := rdGroup grp 4 }
      let r := s.hereCore.layout rec.toNat
      let g (i : Nat) : Word := s.reg (grp.n.toNat + i)
      Ready s n v → s.here.coreHolder (clusterCore (clusterOf s.cur.core) ((g 3).toNat % 4)) = s.holder → r.e2 = 1 → r.e3 = 1 →
      (g 3).toNat / 2 ^ 8 % 128 + r.e0 ≤ 128 → (g 3).toNat / 2 ^ 16 % 128 + r.e1 ≤ 128 →
      g 0 = 0 → (g 1).toNat % 8 = 0 → s.checkVector (g 1) 34 r.e1 3 = .ok col → Claims.Latches s r { w := true } 1 none o →
      (isInteger o.fmt = true → exec (.drainI rnd rec grp) s =
        Claims.queued s n (.drain false o none col (g 2) (g 3) (Claims.mode s rnd) (Claims.policy s rnd))) ∧
      (o.fmt ≤ 7 → exec (.drainF rnd rec grp) s =
        Claims.queued s n (.drain true o none col (g 2) (g 3) (Claims.mode s rnd) (Claims.policy s rnd))))

/-- R278 to R284: a vector operation whose records are good, and of equal extents, enters the dispatch queue with its operands, its
scalar, its mode and its policy. -/
def Obligations.VectorIssue : Prop :=
  ∀ (s : State) (v : Vals) (rnd : Rnd) (ld ls lt : Rec),
    let none_ : Rnd := ⟨0, 0⟩
    let D := s.hereCore.layout ld.toNat
    let S := s.hereCore.layout ls.toNat
    let T := s.hereCore.layout lt.toNat
    let eq (a b : Layout) : Prop := a.e0 = b.e0 ∧ a.e1 = b.e1 ∧ a.e2 = b.e2 ∧ a.e3 = b.e3
    let view (double : Bool) : Option Nat := if double then some 34 else none
    let vec (n : Needs) (r : Rnd) (f : VFn) (double : Bool) (ops : List Operand) (x : Word) :=
      Claims.queued s n (.vec f double ops x (Claims.mode s r) (Claims.policy s r))
    (∀ (od os ot : Operand) (double : Bool), od.fmt ≠ 11 → od.fmt ≠ 12 → eq S D →
      (Ready s {} v → Claims.Latches s D { r := true, w := true } 1 (view double) od → Claims.Latches s S { r := true } 2 (view double) os →
        (∀ p ∈ (if double then [(Instr.vaddD rnd ld ls, rnd, VFn.add), (.vsubD rnd ld ls, rnd, .sub), (.vmulD rnd ld ls, rnd, .mul),
              (.vminD ld ls, none_, .min), (.vmaxD ld ls, none_, .max)]
            else [(.vaddS rnd ld ls, rnd, .add), (.vsubS rnd ld ls, rnd, .sub), (.vmulS rnd ld ls, rnd, .mul), (.vminS rnd ld ls, rnd, .min),
              (.vmaxS rnd ld ls, rnd, .max)]),
          exec p.1 s = vec {} p.2.1 p.2.2 double [od, os, od, od, os] 0) ∧
        (eq T D → Claims.Latches s T { r := true } 3 (view double) ot →
          ∀ p ∈ (if double then [(Instr.vfmaD rnd ld ls lt, VFn.fma), (.vfmsD rnd ld ls lt, .fms)]
              else [(.vfmaS rnd ld ls lt, .fma), (.vfmsS rnd ld ls lt, .fms)]),
            exec p.1 s = vec {} rnd p.2 double [od, os, ot, od, os, ot] 0)) ∧
      (Ready s {} v → Claims.Latches s D { w := true } 1 (view double) od → Claims.Latches s S { r := true } 2 (view double) os →
        (∀ p ∈ (if double then [(Instr.vexpD rnd ld ls, VFn.exp), (.vrcpD rnd ld ls, .rcp), (.vrsqD rnd ld ls, .rsq)]
            else [(.vexpS rnd ld ls, .exp), (.vrcpS rnd ld ls, .rcp), (.vrsqS rnd ld ls, .rsq)]),
          exec p.1 s = vec {} rnd p.2 double [od, os, od, os] 0) ∧
        (eq T D → Claims.Latches s T { r := true } 3 (view double) ot →
          ∀ p ∈ (if double then [(Instr.vcmpEqD ld ls lt, none_, VFn.eq), (.vcmpLtD ld ls lt, none_, .lt), (.vcmpLeD ld ls lt, none_, .le),
                (.vselD ld ls lt, none_, .sel)]
              else [(.vcmpEqS rnd ld ls lt, rnd, .eq), (.vcmpLtS rnd ld ls lt, rnd, .lt), (.vcmpLeS rnd ld ls lt, rnd, .le),
                (.vselS rnd ld ls lt, rnd, .sel)]),
            exec p.1 s = vec {} p.2.1 p.2.2 double [od, os, ot, os, ot] 0)) ∧
      (∀ t : Tgt, Ready s { t := tgtOpr t } v → Claims.Latches s D { w := true } 1 (view double) od →
        Claims.Latches s S { r := true } 2 (view double) os →
        exec (if double then .vscaleD rnd ld ls t else .vscaleS rnd ld ls t) s =
          vec { t := tgtOpr t } rnd .scale double [od, os, od, os] v.t)) ∧
    (∀ (src : Src) (od : Operand) (double : Bool), od.fmt ≠ 11 → od.fmt ≠ 12 → Ready s { s := srcOpr src } v →
      Claims.Latches s D { w := true } 1 (view double) od →
      exec (if double then .vfillD ld src else .vfillS rnd ld src) s =
        vec { s := srcOpr src } (if double then none_ else rnd) .fill double [od, od, od] v.s) ∧
    (∀ (code : BitVec 4) (od os : Operand),
      let w (n : Nat) : Option Nat := if n = 1 then some 32 else if n = 2 then some 33 else if n = 3 then some 34 else none
      Ready s {} v → od.fmt ≠ 11 → od.fmt ≠ 12 → eq S D → Claims.Latches s D { w := true } 1 (w (code.toNat / 4)) od →
      Claims.Latches s S { r := true } 2 (w (code.toNat % 4)) os →
      exec (.vcvt rnd ld ls code) s = vec {} rnd .cvt false [od, os, od, os] 0) ∧
    (∀ (od os : Operand) (double : Bool), Ready s {} v → od.fmt ≠ 11 → od.fmt ≠ 12 →
      D.e0 = 1 → D.e1 = S.e1 → D.e2 = S.e2 → D.e3 = S.e3 →
      Claims.Latches s D { w := true } 1 (view double) od → Claims.Latches s S { r := true } 2 (view double) os →
      ∀ p ∈ (if double then [(Instr.vredSumD rnd ld ls, rnd, RedFn.sum), (.vredMaxD ld ls, none_, .max), (.vredMinD ld ls, none_, .min)]
          else [(.vredSumS rnd ld ls, rnd, .sum), (.vredMaxS rnd ld ls, rnd, .max), (.vredMinS rnd ld ls, rnd, .min)]),
        exec p.1 s = Claims.queued s {} (.red p.2.2 double od os (Claims.mode s p.2.1) (Claims.policy s p.2.1)))

/-! ## The steps of the engines (R218, R241, R247, R249 to R257) -/

/-- R241, R272: the first core in scan order whose queue head may start starts it, past cores whose heads may not, when the pipe it needs is free,
and nothing starts when it is not; the scan goes on behind that core, and ACCZ clears its tile in that step.
R210, R218, R246: a read step of an operation changes no memory. It reads one line, as M holds it at that step, of the lines that stand to be read;
or it is a fetch cycle, which delivers rows of 256 bytes, whose four lines stand to be read from then on, each row once: always the latter while no
line stands to be read. In a cycle a scratchpad delivers at most two rows, from different banks; an operation that reads one operand and begins a
cycle is delivered a row at least. A row buffer that holds no more than 32 rows holds no more after the step. A write step writes one line, and no
byte outside that line; the words of the bytes that it changes become unstable for every core (R214). While source lines are still to be read, a write step is that of a line whose own sources have been read, and is not the
last one; the operation goes on reading (the order of an operation's reads and writes is the model's choice where R218 leaves it free, log 14).
R251: an exchange swaps a tile's banks with their poison. -/
def Obligations.Cassia : Prop :=
  (
    ∀ (s : State) (chip cluster i : Nat) (o : CassiaOp), (s.pkg chip).phase = .running → ((s.pkg chip).cluster cluster).power = .active →
      let p := s.pkg chip
      let at_ (j : Nat) : Nat := ((p.cluster cluster).scan + j) % 4
      let pos := at_ i
      let c := clusterCore cluster pos
      cluster < 256 → i < 4 → (∀ j, j < i → p.eligibleHead (clusterCore cluster (at_ j)) = none) → p.eligibleHead c = some o →
      ((∃ x ∈ p.started cluster, o.fn.pipe ≠ none ∧ x.2.fn.pipe = o.fn.pipe) → exec (.cassiaOpStart chip cluster) s = .fault .notEnabled) ∧
      ((∀ x ∈ p.started cluster, o.fn.pipe = none ∨ x.2.fn.pipe ≠ o.fn.pipe) →
      ∃ t, exec (.cassiaOpStart chip cluster) s = .next t ∧
        ((t.pkg chip).core c).dispatch = (p.core c).dispatch.tail ∧ ((t.pkg chip).cluster cluster).scan = (pos + 1) % 4 ∧
        (∀ tile, o.fn = .accz tile → (p.tileOf cluster tile).compat = false → (t.pkg chip).tileOf cluster tile =
          { p.tileOf cluster tile with working := [], visible := [], wbad := [], vbad := [], wpoison := false, vpoison := false }) ∧
        (∀ tile, o.fn = .accz tile → (p.tileOf cluster tile).compat = true → (t.pkg chip).tileOf cluster tile =
          { p.tileOf cluster tile with working := [], wbad := [], wpoison := false, vpoison := false }) ∧
        ((∀ tile, o.fn ≠ .accz tile) → ∃ x : CassiaOp, (t.pkg chip).job p.nextId = some (.cassia x) ∧ x.fn = o.fn ∧ x.owner = o.owner) ∧
        ∀ a, (t.pkg chip).mem.byte a = p.mem.byte a)) ∧
  (
    ∀ (s : State) (chip id : Nat), (s.pkg chip).phase = .running →
      let p := s.pkg chip
      (∀ o : CassiaOp, p.job id = some (.cassia o) → o.stage = .reading →
        let k := clusterOf o.owner.core
        let atMost (banks : List Nat) : Prop := banks.Nodup ∧ ∀ pad, (banks.filter (fun b => decide (b / 8 = pad))).length ≤ 2
        ∃ t, exec (.engineLineRead chip id) s = .next t ∧ (t.pkg chip).mem = p.mem ∧
          (atMost (p.cluster k).banks → atMost ((t.pkg chip).cluster k).banks) ∧
          ((p.cluster k).rows.length ≤ 32 → ((t.pkg chip).cluster k).rows.length ≤ 32) ∧
          ∃ x : CassiaOp, (t.pkg chip).job id = some (.cassia x) ∧ x.fn = o.fn ∧ x.toWrite = o.toWrite ∧ (∀ r ∈ o.got, r ∈ x.got) ∧
            ((∃ y ∈ o.toRead, x.toRead = sdel o.toRead y ∧ x.got = o.got ∧ x.need = o.need ∧
                (o.cap.wf = true → lineOf y = y → ∀ a, x.cap.byte a = if lineOf a = y then p.mem.byte a else o.cap.byte a)) ∨
              (x.cap = o.cap ∧ ∀ l, l ∈ x.toRead ↔ l ∈ o.toRead ∨ ∃ r ∈ x.got, r ∉ o.got ∧ l ∈ rowLines r)) ∧
            (∀ r rest read, o.toRead = [] → o.need = [⟨r :: rest, read⟩] → (p.cluster k).fetched.contains id = true → r ∈ x.got)) ∧
      (∀ (o : CassiaOp) (l : Nat) (rest : List Nat), p.job id = some (.cassia o) → o.stage = .writing → o.toWrite = l :: rest →
        ∃ t, exec (.engineLineWrite chip id) s = .next t ∧
          ∃ y, y ∈ o.toWrite ∧ (∀ a, lineOf a ≠ y → (t.pkg chip).mem.byte a = p.mem.byte a) ∧
            (∀ a c, (t.pkg chip).mem.byte a ≠ p.mem.byte a → Claims.Unstable (t.pkg chip) c a) ∧
            (sdel o.toWrite y ≠ [] → ∃ x : CassiaOp, (t.pkg chip).job id = some (.cassia x) ∧ x.fn = o.fn ∧ x.toWrite = sdel o.toWrite y)) ∧
      (∀ o : CassiaOp, p.job id = some (.cassia o) → o.stage = .reading →
        (2 ≤ o.toWrite.length → (∃ y ∈ o.toWrite, o.ready y = true) →
          ∃ t, exec (.engineLineWrite chip id) s = .next t ∧
            ∃ y ∈ o.toWrite, o.ready y = true ∧ (∀ a, lineOf a ≠ y → (t.pkg chip).mem.byte a = p.mem.byte a) ∧
              (∀ a c, (t.pkg chip).mem.byte a ≠ p.mem.byte a → Claims.Unstable (t.pkg chip) c a) ∧
              ∃ x : CassiaOp, (t.pkg chip).job id = some (.cassia x) ∧ x.fn = o.fn ∧ x.stage = .reading ∧ x.toRead = o.toRead ∧
                x.need = o.need ∧ x.got = o.got ∧ x.toWrite = sdel o.toWrite y) ∧
        (o.toWrite.length < 2 ∨ (∀ y ∈ o.toWrite, o.ready y = false) → exec (.engineLineWrite chip id) s = .fault .notEnabled)) ∧
      (∀ (o : CassiaOp) (tile : Nat), p.job id = some (.cassia o) → o.fn = .accswap tile →
        (∀ x ∈ p.started (clusterOf o.owner.core), x.1 = id ∨ x.2.fn.tile ≠ some tile) →
        let k := clusterOf o.owner.core
        let u := p.tileOf k tile
        ∃ t, exec (.accswapExchange chip id) s = .next t ∧ (t.pkg chip).mem = p.mem ∧
          (t.pkg chip).tileOf k tile =
            if u.compat then u else { u with
              working := u.visible, visible := u.working, wbad := u.vbad, vbad := u.wbad, wpoison := u.vpoison, vpoison := u.wpoison }))

/-- R255, R286, R288: COPY and COPYM whose operands are good send the copy to its streamers with all that they latch; COPYM's MMA also enters the
dispatch queue, and waits for the copy.
R255, R257: a streamer takes a piece of a copy as its byte budget admits. A piece that has been refused, or one of whose lines the holder does not hold, ends
then with status 09 and writes nothing. Another reads its source lines and writes its destination lines, each as soon as its own sources
have been read (R287): no step of a piece changes a byte outside the line that it writes,
and the words of those that it changes become unstable for every core (R214).
R256: where the two formats are equal, the bytes of the source elements, as the piece has read them, move unchanged; where they differ, each element is
encoded in the destination's format, rounded once. That a COPYM which finds both the dispatch queue full and the injection refused parks with
ENGINE is the model's choice (log 49). -/
def Obligations.Copies : Prop :=
  (
    ∀ (s : State) (v : Vals) (rnd : Rnd) (ld ls : Rec) (t : RegOp) (d o : Operand),
      let D := s.hereCore.layout ld.toNat
      let S := s.hereCore.layout ls.toNat
      let none_ : Rnd := ⟨0, 0⟩
      let copy (bytes : Bool) (r : Rnd) : Copy := Copy.new s.owner s.holder v.t (s.reg (t.n.toNat + 1)) bytes d o
        (Claims.mode s r) (Claims.policy s r) none
      let n : Needs := { mem := true, t := rdGroup t 2 }
      let good (view : Option Nat) : Prop := D.extentBad = false ∧ S.sameExtents D = true ∧
        s.cloveOperand D { w := true } view 200 = .ok (d, false) ∧ s.cloveOperand S { r := true } view 220 = .ok (o, false) ∧
        D.spanBad d.fmt d.off = false ∧ S.spanBad o.fmt o.off = false ∧ ((d.fmt = 11 ∨ d.fmt = 12) → d.fmt = o.fmt)
      (Ready s n v →
        (good (some 36) → exec (.copyB ld ls t) s = .next (if s.here.copyRefused s.cur.core then s.park .net
          else (s.onHere (fun p => p.startCopy (copy true none_))).advance)) ∧
        (good none → exec (.copyL rnd ld ls t) s = .next (if s.here.copyRefused s.cur.core then s.park .net
          else (s.onHere (fun p => p.startCopy (copy false rnd))).advance))) ∧
      (Ready s { mem := true, t := rdGroup t 3 } v → ∀ (a b : Operand),
        let m := s.reg (t.n.toNat + 2)
        let ra := s.hereCore.layout (m.toNat / 2 ^ 4 % 16)
        let rb := s.hereCore.layout (m.toNat / 2 ^ 8 % 16)
        let tile := m.toNat / 4 % 4
        let mode : MmaMode := match m.toNat % 4 with | 0 => .ovr | 1 => .acc | 2 => .decay | _ => .sat
        good none → s.here.coreHolder (clusterCore (clusterOf s.cur.core) tile) = s.holder →
        Claims.Latches s ra { r := true } 240 none a → Claims.Latches s rb { r := true } 241 none b →
        ra.e2 = 1 → ra.e3 = 1 → ra.e0 ≤ 128 → rb.e2 = 1 → rb.e3 = 1 → rb.e1 ≤ 128 → rb.e0 = ra.e1 →
        isInteger a.fmt = isInteger b.fmt → (mode = .decay → isInteger a.fmt = false) → (mode = .sat → isInteger a.fmt = true) →
        exec (.copym rnd ld ls t) s = .next (
          if 8 ≤ s.hereCore.dispatch.length then s.park .engine
          else if s.here.copyRefused s.cur.core then s.park .net
          else ((s.onHere (fun p => p.startCopy (copy false rnd))).enqueue (CassiaOp.new s.owner
            (.mma mode tile a b (word (m.toNat / 2 ^ 32 * 2 ^ 32 + m.toNat / 2 ^ 12 % 4))) (some s.here.nextId))).advance))) ∧
  (
    ∀ (s : State) (chip id : Nat) (x : Piece) (c : Copy), (s.pkg chip).phase = .running →
      let p := s.pkg chip
      risingFrom 0 p.flights = true → p.job id = some (.piece x) → p.job x.copy = some (.copy c) → id ≠ x.copy → x.save = none →
      let block := if c.packet.isSome then blockOuter 2 else x.streamer
      let reads := (p.pieceLines c x.streamer).1
      let writes := (p.pieceLines c x.streamer).2
      (x.stage = .queued → (x.streamer < 2000 ∨ 3000 ≤ x.streamer ∨ (p.cluster (x.streamer - 2000)).power = .active) →
        p.serves block c.holder (p.pieceWaiters block) = true →
        (x.refused = false → (∀ y ∈ reads ++ writes, p.holds c.holder y 1 = true) →
          (p.linkUp = true ∨ ∀ y ∈ reads ++ writes, ∀ f, p.place y ≠ .host f) →
          ∃ t y, exec (.clovePieceArrival chip id) s = .next t ∧ (t.pkg chip).mem = p.mem ∧
            (t.pkg chip).job id = some (.piece y) ∧ y.stage = .reading ∧ y.copy = x.copy ∧ y.toRead = reads ∧ y.toWrite = writes ∧
            (t.pkg chip).job x.copy = some (.copy { c with untaken := c.untaken - 1 })) ∧
        ((x.refused = true ∨ ∃ y ∈ reads ++ writes, p.holds c.holder y 1 = false) → (∀ y ∈ reads ++ writes, ∀ f, p.place y ≠ .host f) →
          ∃ t, exec (.clovePieceArrival chip id) s = .next t ∧ (t.pkg chip).mem = p.mem ∧
            (2 ≤ c.pieces → c.status = 0 → (t.pkg chip).job id = none ∧
              ∃ k : Copy, (t.pkg chip).job x.copy = some (.copy k) ∧ k.status = 9))) ∧
      (∀ z rest, x.stage = .reading → x.toRead = z :: rest → p.serves block c.holder (p.pieceWaiters block) = true →
        ∃ t, exec (.engineLineRead chip id) s = .next t ∧ (t.pkg chip).mem = p.mem ∧ ∃ y ∈ x.toRead, ∃ z : Piece,
          (t.pkg chip).job id = some (.piece z) ∧ z.toRead = sdel x.toRead y ∧ z.toWrite = x.toWrite ∧
          (x.cap.wf = true → y % 64 = 0 → ∀ a, z.cap.byte a = if a / 64 = y / 64 then p.mem.byte a else x.cap.byte a)) ∧
      (∀ l rest, x.stage = .reading → x.toWrite = l :: rest → (∀ y ∈ x.toWrite, p.awakeAt y = true ∧ p.lineReady x c y = true) →
        ∃ t, exec (.clovePieceWrite chip id) s = .next t ∧
          ∃ y ∈ x.toWrite, (∀ a, lineOf a ≠ y → (t.pkg chip).mem.byte a = p.mem.byte a) ∧
            (∀ a k, (t.pkg chip).mem.byte a ≠ p.mem.byte a → Claims.Unstable (t.pkg chip) k a) ∧
            (c.dst.fmt = c.src.fmt → isScaled c.dst.fmt = false → p.mem.wf = true → Claims.Apart c.dst (p.pieceElems c x.streamer) →
              ∀ j ∈ p.pieceElems c x.streamer, Claims.within c.dst j y →
                Claims.element (t.pkg chip).mem c.dst (c.dst.at_ j) = Claims.element x.cap c.src (c.src.at_ j)) ∧
            (c.dst.fmt ≠ c.src.fmt → isScaled c.dst.fmt = false → x.cap.bad = [] → p.mem.wf = true → 1 ≤ c.rm → c.rm ≤ 5 → c.ovf ≤ 3 →
              Claims.Apart c.dst (p.pieceElems c x.streamer) → ∀ j ∈ p.pieceElems c x.streamer, Claims.within c.dst j y →
                ∃ a, Claims.ValueOf x.cap c.src (c.src.at_ j) true a ∧
                  Claims.Encoded c.dst.fmt c.rm c.ovf true a (Claims.element (t.pkg chip).mem c.dst (c.dst.at_ j)))))

/-- What the engines write, from the rows that an operation has read and from its tile, where they hold no error.
R53, R54: a row of MMA in its tile: each element in groups of 32 of K, of exact products. R253: an uncorrectable word in a row of its
operands poisons the bank.
R249, R274, R445: ACCRD moves elements of the bank to memory, poisoned if the bank is, and ACCWR moves elements of memory to the bank.
R55 to R57: DRAIN requantises the window of the bank. R278 to R284: an element-wise operation and a reduction compute each element in FP32 or FP64, and
encode it in the destination's format. -/
def Obligations.EngineResults : Prop :=
  ∀ (s : State) (chip id line : Nat) (rest : List Nat) (o : CassiaOp), (s.pkg chip).phase = .running →
    let p := s.pkg chip
    let k := clusterOf o.owner.core
    p.job id = some (.cassia o) → o.stage = .writing → o.toWrite = line :: rest → p.mem.wf = true → o.cap.wf = true →
    let wrote (q : State → Nat → Prop) : Prop := ∃ t y, exec (.engineLineWrite chip id) s = .next t ∧ y ∈ o.toWrite ∧ q t y
    let clean : Prop := o.cap.bad = []
    let sound (u : Tile) : Prop := u.bankPoison = false ∧ u.wbad = [] ∧ u.vbad = []
    let place (win : Word) (i j : Nat) : Nat := 128 * (win.toNat / 2 ^ 8 % 128 + i) + (win.toNat / 2 ^ 16 % 128 + j)
    let old (u : Tile) (n : Nat) : BitVec 32 := tget u.bank n 0
    let each (d : Operand) (q : Memory → Nat → Nat → Prop) : Prop := wrote (fun t y => ∀ j, j < d.count → Claims.within d j y →
      q (t.pkg chip).mem j (Claims.element (t.pkg chip).mem d (d.at_ j)))
    (∀ mode tile a b ctl, o.fn = .mma mode tile a b ctl → wrote (fun t y =>
      let u := p.tileOf k tile
      let u' := (t.pkg chip).tileOf k tile
      (clean → ∀ j, j < b.e1 →
        Claims.MatrixElement mode o.satMode o.cap a b ctl y j (tget u.working (128 * y + j) 0) (tget u'.working (128 * y + j) 0)) ∧
      (¬ clean → u'.wpoison = true) ∧ u'.visible = u.visible)) ∧
    (∀ tile d win, o.fn = .accrd tile d win → d.fmt = 33 → Claims.Apart d (List.range d.count) →
      let u := p.tileOf k tile
      (sound u → each d (fun _ j new => new = (old u (place win (j % d.e0) (j / d.e0 % d.e1))).toNat)) ∧
      (u.bankPoison = true → each d (fun m j _ => ∀ b ∈ d.bytesOf (d.at_ j), m.isBad (wordOf (d.addr b)) = true))) ∧
    (∀ tile d win, o.fn = .accwr tile d win → d.fmt = 33 → wrote (fun t y =>
      let u := p.tileOf k tile
      let u' := (t.pkg chip).tileOf k tile
      (∀ j, j < d.e1 → (old u' (place win y j)).toNat = Claims.element o.cap d (d.index y j 0 0)) ∧
      (clean → u'.bankPoison = u.bankPoison) ∧
      (∀ j b, j < d.e1 → b ∈ d.bytesOf (d.index y j 0 0) → o.cap.isBad (wordOf (d.addr b)) = true → u'.bankPoison = true))) ∧
    (∀ float d corr col zp win rm pol, o.fn = .drain float d corr col zp win rm pol → clean → col.fmt = 34 → (∀ c ∈ corr, c.fmt = 33) →
      1 ≤ rm → rm ≤ 5 → pol ≤ 3 → (if float then d.fmt ≤ 7 else isInteger d.fmt = true) → Claims.Apart d (List.range d.count) →
      let u := p.tileOf k (win.toNat % 4)
      sound u → each d (fun _ j new =>
        let c := j / d.e0 % d.e1
        let acc := (old u (place win (j % d.e0) c)).toNat
        let correction := match corr with | some v => Claims.element o.cap v (v.at_ c) | none => 0
        let param := Claims.element o.cap col (col.at_ c)
        if float then Claims.DrainedFloat d.fmt rm pol acc correction param new
        else Claims.DrainedInt d.fmt (win.getLsbD 2) acc correction param (BitVec.ofNat 32 zp.toNat).toInt new)) ∧
    (∀ fn double d sv tv sources scalar rm pol, o.fn = .vec fn double (d :: sv :: tv :: sources) scalar rm pol → clean → 1 ≤ rm → rm ≤ 5 → pol ≤ 3 →
      isScaled d.fmt = false → Claims.Apart d (List.range d.count) → Claims.Undisturbed d sv 1 → Claims.Undisturbed d tv 1 →
      (fn ≠ .cvt → ∀ x ∈ [d, sv, tv], if double then x.fmt = 34 else x.fmt ≤ 12) →
      let e := if double then 11 else 8
      let m := if double then 52 else 23
      each d (fun _ j new => ∃ xd xs xt xc,
        Claims.ValueOf o.cap d (d.at_ j) true xd ∧ Claims.ValueOf o.cap sv (sv.at_ j) true xs ∧ Claims.ValueOf o.cap tv (tv.at_ j) true xt ∧
        Claims.StandsFor e m (scalar.toNat % 2 ^ (1 + e + m)) xc ∧
        let kept : Prop := fn = .sel ∧ ∃ n, xt = .zero n
        let copied : Prop := fn = .fill ∧ double = true
        (fn = .cvt → Claims.Encoded d.fmt rm pol true xs new) ∧
        (kept → new = Claims.element p.mem d (d.at_ j)) ∧
        (copied → new = scalar.toNat) ∧
        (fn ≠ .cvt → ¬ kept → ¬ copied → ∃ bits, Claims.VectorOf fn e m rm xd xs xt xc bits ∧
          if double then new = bits else ∃ x, Claims.StandsFor 8 23 bits x ∧ Claims.Encoded d.fmt rm pol true x new))) ∧
    (∀ fn double d sv rm pol, o.fn = .red fn double d sv rm pol → clean → 1 ≤ rm → rm ≤ 5 → pol ≤ 3 → 0 < sv.e0 → isScaled d.fmt = false →
      Claims.Apart d (List.range d.count) → Claims.Undisturbed d sv sv.e0 → (∀ x ∈ [d, sv], if double then x.fmt = 34 else x.fmt ≤ 12) →
      let e := if double then 11 else 8
      let m := if double then 52 else 23
      each d (fun _ j new => ∃ xs : List Claims.Exact, xs.length = sv.e0 ∧
        (∀ i x, xs[i]? = some x → Claims.ValueOf o.cap sv (sv.at_ (j * sv.e0 + i)) true x) ∧
        ∃ bits, Claims.ReductionOf fn e m rm xs bits ∧
          if double then new = bits else ∃ x, Claims.StandsFor 8 23 bits x ∧ Claims.Encoded d.fmt rm pol true x new))

/-! ## Pre-emption (R259 to R262, R291, R292) -/

/-- R259, R291, R292: SAVEAREA reads and writes the save-area register; PACK retires the PREEMPT handler and counts its core, and is a NOP
elsewhere.
R260: the PREEMPT message of a core starts its handler 0 in slot 63 when that slot is free, whatever its latch holds.
R260: a request that reaches its controller sends each core whose threads stand still the PREEMPT message, or counts it as packed when it has no
handler 0; a second one for the cluster waits. When the last core has packed, the save copy begins, which moves the marked banks and the visible
tile bank of each core to its save area, line by line. After it each core sends PREEMPT-DONE, its threads retire, and its transfer goes on
with the commit of that core alone (R365).
R261: with budget 0, and when the budget expires, every thread is retired, the dispatch queues are emptied, nothing is saved, and each core sends LOST.
R262: a message goes to the CONTACT core, or to the former holder's notice core. -/
def Obligations.PreEmption : Prop :=
  (
    ∀ (s : State) (v : Vals) (d : Reg),
      (Ready s { mem := true, d := wrReg d } v → exec (.saveareaRead d) s = .next ((s.setReg d.toNat s.hereCore.saveArea).advance)) ∧
      (Ready s { mem := true, d := rdReg d } v →
        let w := v.d &&& 0xFFFFF00FFFFFFFFF
        let base := w.toNat % 2 ^ 36 * 65536
        let n := 65536 * (areaParts w).length
        ((w.getLsbD 44 = false ∨ n = 0 ∨ (0x10000000000 ≤ base ∧ base + n ≤ 0x18000000000 ∧ s.here.holds s.holder base n = true)) →
          exec (.saveareaWrite d) s = .next ((s.onHereCore (fun k => { k with saveArea := w })).advance)) ∧
        (w.getLsbD 44 = true → n ≠ 0 → (base < 0x10000000000 ∨ 0x18000000000 < base + n) →
          ∃ t, exec (.saveareaWrite d) s = .next t ∧ t.hereCore.saveArea = s.hereCore.saveArea ∧ t.me.cause.toNat % 256 = 5 ∧
            t.me.value = word base)) ∧
      (Ready s {} v →
        ((s.here.preempting s.cur.core = none ∨ s.me.preempt = false) → exec .pack s = .next s.advance) ∧
        (∀ id, s.here.preempting s.cur.core = some id → s.me.preempt = true → s.here.cassiaIdle s.cur.core = true →
          ∃ t, exec .pack s = .next t ∧ t.me.life = .retired ∧ t.hereCore.packed = true ∧
            ∀ q, s.here.job id = some (.preempt q) → q.started = true → q.saving = false → q.starting = [] →
              risingFrom 0 s.here.flights = true → (∀ e ∈ s.here.flights, e.1 < s.here.nextId) →
              (∀ c ∈ q.cores, c = s.cur.core ∨ (s.here.core c).packed = true) →
              t.here.job id = some (.preempt { q with saving := true }) ∧
              ∀ c ∈ q.cores, let w := (s.here.core c).saveArea
                w.getLsbD 44 = true → ∀ i part, (areaParts w)[i]? = some part → t.here.flights.any (fun e => match e.2 with
                  | .piece x => decide (x.copy = id ∧ x.save = some (c, part, w.toNat % 2 ^ 36 * 65536 + 65536 * i))
                  | _ => false) = true))) ∧
  (
    ∀ (s : State) (chip core id q i : Nat) (m : Msg), (s.pkg chip).phase = .running →
      (s.pkg chip).flights = [(id, .msg m)] → m.preempt = some q → m.dst = core → m.bounce = false → m.toThread = none →
      m.launch = none → m.tagged = false → m.hdr = header 3 0 0 0 7 →
      (tget ((s.pkg chip).core core).handlers 0 0).getLsbD 63 = true → ((s.pkg chip).core core).slotFree 63 = true →
      (s.pkg chip).freeCell (coreDie core) (s.free 4) = some i →
      ∃ t, exec (.preemptHandlerStart chip core) s = .next t ∧
        ((t.pkg chip).thread core 63).life = .ready ∧ ((t.pkg chip).thread core 63).preempt = true ∧
        ((t.pkg chip).thread core 63).prio = 1 ∧ ((t.pkg chip).thread core 63).base = 2016 ∧ ((t.pkg chip).thread core 63).len = 32) ∧
  (
    ∀ (s : State) (chip id : Nat) (q : Preempt), (s.pkg chip).phase = .running →
      let p := s.pkg chip
      p.job id = some (.preempt q) → risingFrom 0 p.flights = true → (∀ e ∈ p.flights, e.1 < p.nextId) →
      let area (c : Nat) : Word := (p.core c).saveArea
      let told (t : State) (c status base saved : Nat) : Prop :=
        let sent (dst : Nat) : Prop := (t.pkg chip).flights.any (fun e => match e.2 with
          | .msg m => decide (m.src = c ∧ m.dst = dst ∧ m.hdr = header 3 0 0 0 status ∧ m.pay = [word c, word base, word saved])
          | _ => false) = true
        let contact := (area c).toNat / 2 ^ 54
        ((area c).getLsbD 44 = true → contact ∉ q.cores → sent contact) ∧
        (((area c).getLsbD 44 = false ∨ contact ∈ q.cores) → ∀ dst, p.noticeCore q.former (q.cores ++ p.leaving q.former) = some dst → sent dst)
      let ended (t : State) : Prop := (t.pkg chip).job id = none ∧
        (∀ c ∈ q.cores, ((t.pkg chip).core c).packed = false ∧ ∀ slot, ((t.pkg chip).thread c slot).live = false) ∧
        ∀ tid ∈ q.transfers, ∀ x, p.job tid = some (.transfer x) → (t.pkg chip).job tid = some (.transfer { x with emptied := true }) ∧
          (t.pkg chip).flights.any (fun e => decide (e.2 =
            .commit { scope := [x.rid % 2 ^ 28], started := false, todo := [], reg := none, transfer := some tid })) = true
      let hard (t : State) : Prop := ended t ∧ (∀ c ∈ q.cores, ((t.pkg chip).core c).dispatch = []) ∧ ∀ c ∈ q.cores, told t c 3 0 0
      let alone : Prop := ∀ e ∈ p.flights, ∀ r : Preempt, e.2 = .preempt r → r.cluster = q.cluster → (r.started = true ∨ r.saving = true) → e.1 = id
      (q.started = false → (p.cluster q.cluster).power = .active →
        (∀ e ∈ p.flights, ∀ r : Preempt, e.2 = .preempt r → r.started = true → r.cluster ≠ q.cluster) →
        (q.budget = 0 → ∃ t, exec (.preemptRequest chip id) s = .next t ∧ hard t) ∧
        (q.budget ≠ 0 → ∃ t, exec (.preemptRequest chip id) s = .next t ∧
          (∃ r : Preempt, (t.pkg chip).job id = some (.preempt r) ∧ r.started = true) ∧
          ((∀ c ∈ q.cores, ∀ slot, slot ≠ 63 → (p.thread c slot).life ≠ .ready ∧ (p.thread c slot).life ≠ .parked) → ∀ c ∈ q.cores,
            ((tget (p.core c).handlers 0 0).getLsbD 63 = false → ((t.pkg chip).core c).packed = true) ∧
            ((tget (p.core c).handlers 0 0).getLsbD 63 = true → (t.pkg chip).flights.any (fun e => match e.2 with
              | .msg m => decide (m.dst = c ∧ m.preempt = some id ∧ m.hdr = header 3 0 0 0 7 ∧
                  m.pay = [word q.why, word q.budget, word (q.cores.foldl (fun n x => n + 2 ^ positionOf x) 0)])
              | _ => false) = true)))) ∧
      (q.started = true → ∀ other r, p.job other = some (.preempt r) → r.cluster = q.cluster → r.started = false →
        exec (.preemptRequest chip other) s = .fault .notEnabled) ∧
      (q.started = true → q.saving = false → alone → ∃ t, exec (.preemptBudgetExpiry chip q.cluster) s = .next t ∧ hard t) ∧
      (q.started = true → q.saving = true → alone → (∀ e ∈ p.flights, ∀ x : Piece, e.2 = .piece x → x.copy = id → x.save = none) →
        ∃ t, exec (.preemptDone chip q.cluster) s = .next t ∧ ended t ∧ ∀ c ∈ q.cores,
          told t c 8 (if (area c).getLsbD 44 then (area c).toNat % 2 ^ 36 else 0) (tget q.saved c 0))) ∧
  (
    ∀ (s : State) (chip id core part target : Nat) (x : Piece), (s.pkg chip).phase = .running →
      let p := s.pkg chip
      risingFrom 0 p.flights = true → p.job id = some (.piece x) → id ≠ x.copy → x.save = some (core, part, target) →
      let bank := core * 0x80000 + part * 0x10000
      (∀ z rest, x.stage = .reading → x.toRead = z :: rest → ∃ t, exec (.engineLineRead chip id) s = .next t ∧ (t.pkg chip).mem = p.mem ∧
        ∃ y ∈ x.toRead, ∃ w : Piece, (t.pkg chip).job id = some (.piece w) ∧ w.toRead = sdel x.toRead y ∧
          (w.toRead = [] → w.stage = .writing ∧ w.toWrite = span target 64 1024) ∧
          (x.cap.wf = true → y % 64 = 0 → ∀ a, w.cap.byte a = if a / 64 = y / 64 then p.mem.byte a else x.cap.byte a)) ∧
      (∀ l rest, x.stage = .writing → x.toWrite = l :: rest → (∀ y ∈ x.toWrite, y % 64 = 0 ∧ target ≤ y ∧ p.awakeAt y = true) → p.mem.wf = true →
        ∃ t, exec (.clovePieceWrite chip id) s = .next t ∧ ∃ y ∈ x.toWrite, (∀ a, lineOf a ≠ y → (t.pkg chip).mem.byte a = p.mem.byte a) ∧
          (p.holds (p.coreHolder core) y 64 = false → (t.pkg chip).mem = p.mem) ∧
          (p.holds (p.coreHolder core) y 64 = true →
            (part < 8 → ∀ i, i < 64 → (t.pkg chip).mem.byte (y + i) = x.cap.byte (bank + (y - target) + i)) ∧
            (part = 8 → ∀ i, i < 64 → (t.pkg chip).mem.byte (y + i) =
              BitVec.ofNat 8 ((tget (p.core core).tile.visible ((y - target + i) / 4) 0).toNat / 256 ^ (i % 4))) ∧
            ∀ q, p.job x.copy = some (.preempt q) → ∃ r : Preempt, (t.pkg chip).job x.copy = some (.preempt r) ∧
              tget r.saved core 0 = tget q.saved core 0 + 64)))

/-! ## Barriers, phases and commits (R301 to R305, R313, R314, R331, R332, R340, R217) -/

/-- R301, R302, R313, R331, R332: BARSET reads a barrier register, or sets one, which keeps EPOCH and begins with no arrival; BAR and PHASE.b arrive
and park past themselves, BARA arrives and goes on with EPOCH in D, BARW parks while EPOCH is the bit that D holds, and an
arrival at a register that is not set traps ILLEGAL; PHASE.c parks for a commit of its own core. BARSET checks every core of the
rectangle before the value. When an arrival counts and where a commit opens follow the reading of log 16.
R217, R303, R304, R313, R314: the row signal of a core goes one hop once it has arrived and its right neighbour's is there, the column signal of a row's
first core once its row's and the one from below are there, and neither before; the release toggles EPOCH on a core and wakes its waiters, a commit starts when
no commit meets its scope, applies the oldest entry of a core to M, which makes its words unstable for the cores outside the scope alone (R214), and at its refresh makes the views of the cores M. R340: a PHASE.b waiter
wakes at the commit of its own register and rectangle. -/
def Obligations.BarriersAndCommits : Prop :=
  (
    ∀ (s : State) (v : Vals) (d : Reg) (n : BitVec 2),
      let c := s.cur.core
      let b := s.here.bar c n.toNat
      let parks (i : Instr) (r : Reason) (w : Wait) : Prop := ∃ t, exec i s = .next t ∧ t.me.life = .parked ∧ t.me.reason = some r ∧
        t.me.pc = s.nextPc ∧ t.me.wait = w
      (Ready s { d := wrReg d } v →
        exec (.barsetRead d n) s = .next ((s.setReg d.toNat b.word).advance) ∧
        (b.rect < 2 ^ 16 → b.count < 128 → b.arrived < 64 → b.word.toNat % 2 ^ 16 = b.rect ∧ b.word.toNat / 2 ^ 33 % 128 = b.count ∧
          b.word.toNat / 2 ^ 40 % 2 = (if b.epoch then 1 else 0) ∧ b.word.toNat / 2 ^ 41 % 64 = b.arrived)) ∧
      (Ready s { d := rdReg d } v →
        let r := v.d.toNat % 65536
        let count := v.d.toNat / 2 ^ 33 % 128
        let bad : Bool := decide (rectX1 r < rectX0 r ∨ rectY1 r < rectY0 r ∨ 64 < count ∨ c ∉ rectCores (coreDie c) r)
        ((∀ k ∈ rectCores (coreDie c) r, s.here.coreHolder k = s.holder) → ∃ t, exec (.barsetWrite d n) s = .next t ∧
          t.me.pc = s.nextPc ∧ (t.here.bar c n.toNat).count = (if bad then 0 else count) ∧
          (t.here.bar c n.toNat).rect = (if bad then 0 else r) ∧
          (t.here.bar c n.toNat).arrived = 0 ∧ (t.here.bar c n.toNat).epoch = b.epoch) ∧
        (∀ k, (rectCores (coreDie c) r).find? (fun k => decide (s.here.coreHolder k ≠ s.holder)) = some k →
          exec (.barsetWrite d n) s = .next (s.takeTrap .notHolder 0 (word k))) ∧
        (b.epoch = v.d.getLsbD 0 → exec (.barw d n) s = .next (s.park .barrier)) ∧
        (b.epoch ≠ v.d.getLsbD 0 → exec (.barw d n) s = .next s.advance)) ∧
      (Ready s {} v → b.count = 0 → ∀ i ∈ [Instr.bar n, .phaseB n], exec i s = .next (s.takeTrap .illegal 0 (chainWord0 s))) ∧
      (Ready s {} v → b.count ≠ 0 → ¬ (b.closed = true ∧ b.arrived + 1 = b.count) →
        parks (.bar n) .barrier (.epoch n.toNat b.epoch) ∧ parks (.phaseB n) .phase (.phase n.toNat b.rect b.closed)) ∧
      (Ready s { d := wrReg d } v → b.count ≠ 0 → ¬ (b.closed = true ∧ b.arrived + 1 = b.count) →
        ∃ t, exec (.bara d n) s = .next t ∧ t.me.pc = s.nextPc ∧ t.reg d.toNat = (if b.epoch then 1 else 0) ∧
          (t.here.bar c n.toNat).epoch = b.epoch ∧
          (b.closed = false → b.arrived + 1 ≠ b.count → (t.here.bar c n.toNat).arrived = b.arrived + 1)) ∧
      (Ready s {} v → parks .phaseC .phase (.commit s.here.nextId) ∧
        (∀ t, exec .phaseC s = .next t → t.here.job s.here.nextId =
          some (.commit { scope := [c], started := false, todo := [], reg := none, transfer := none })) ∧
        ((∀ e ∈ s.here.flights, ∀ q, e.2 ≠ .phaseH q) → parks .phaseH .phase (.commit s.here.nextId)))) ∧
  (
    ∀ (s : State) (chip : Nat), (s.pkg chip).phase = .running →
      let p := s.pkg chip
      (∀ c n, let b := p.bar c n
        let r := b.rect
        (b.closed = true → b.count ≠ 0 → coreX c = rectX1 r ∨ r ∈ b.rowIn →
          (rectX0 r < coreX c → r ∉ b.rowSent → ∃ t, exec (.barrierSignalHop chip c n) s = .next t ∧
            r ∈ ((t.pkg chip).bar (c - 1) n).rowIn ∧ r ∈ ((t.pkg chip).bar c n).rowSent) ∧
          (coreX c = rectX0 r → rectY0 r < coreY c → coreY c = rectY1 r ∨ r ∈ b.colIn → r ∉ b.colSent →
            ∃ t, exec (.barrierSignalHop chip c n) s = .next t ∧
              r ∈ ((t.pkg chip).bar (c - 16) n).colIn ∧ r ∈ ((t.pkg chip).bar c n).colSent)) ∧
        (b.closed = false ∨ (coreX c ≠ rectX1 r ∧ r ∉ b.rowIn) ∨ (coreX c = rectX0 r ∧ coreY c ≠ rectY1 r ∧ r ∉ b.colIn) →
          exec (.barrierSignalHop chip c n) s = .fault .notEnabled)) ∧
      (∀ c n, let b := p.bar c n
        (b.released ≠ [] ∨ p.mayRelease c n = true) →
        ∃ t, exec (.barrierRelease chip c n) s = .next t ∧ ((t.pkg chip).bar c n).epoch = !b.epoch ∧
          ∀ slot, (p.thread c slot).life = .parked → (p.thread c slot).wait = .epoch n b.epoch →
            ((t.pkg chip).thread c slot).life = .ready) ∧
      (∀ id (k : Commit), p.job id = some (.commit k) →
        (k.started = false → (∀ e ∈ p.flights, ∀ q : Commit, e.2 = .commit q → q.started = true → ∀ c ∈ q.scope, c ∉ k.scope) →
          exec (.phaseCommitStart chip id) s =
            .next (s.setPkg chip (p.setJob id (.commit { k with started := true, todo := k.scope })))) ∧
        (∀ c rest l more, k.started = true → k.todo = c :: rest → (p.core c).spilled = [] → (p.core c).outbox = l :: more →
          p.awakeAt l.line = true → p.discards c l = false → p.mem.wf = true → risingFrom 0 l.bytes = true →
          ∃ t, exec (.commitEntryApply chip id) s = .next t ∧ ((t.pkg chip).core c).outbox = more ∧
            (∀ o x, (o, x) ∈ l.bytes → (t.pkg chip).mem.byte (l.line + o) = x ∧
              ∀ e, e ∉ k.scope → Claims.Unstable (t.pkg chip) e (l.line + o)) ∧
            (∀ e w, e ∈ k.scope → tget? (p.core e).unstable w = none → tget? ((t.pkg chip).core e).unstable w = none) ∧
            ∀ a, (∀ e ∈ l.bytes, a ≠ l.line + e.1) → (t.pkg chip).mem.byte a = p.mem.byte a) ∧
        (k.started = true → (∀ c ∈ k.todo, (p.core c).spilled = [] ∧ (p.core c).outbox = []) →
          ∃ t, exec (.commitRefresh chip id) s = .next t ∧ (t.pkg chip).mem = p.mem ∧
            ∀ c ∈ k.scope, ((t.pkg chip).core c).view = p.mem ∧ ((t.pkg chip).core c).unstable = [] ∧
              ((t.pkg chip).core c).exported = (p.core c).pending ∧
              (∀ slot, (p.thread c slot).life = .parked → (p.thread c slot).wait = .commit id →
                ((t.pkg chip).thread c slot).life = .ready) ∧
              ∀ slot n r, (p.thread c slot).life = .parked → (p.thread c slot).wait = .phase n r false →
                (((t.pkg chip).thread c slot).life = .ready ↔ k.reg = some (n, r)))))

/-! ## Forks, joins, completion cells and cancellation (R306 to R312, R333 to R339) -/

/-- The window of a recruit (R307): its thread stands READY at the entry, and its registers are full: the creator's handle, its range, the join
cell and the chunk size; the others are zero. `skip` is a file entry that RFORK writes besides. -/
def Claims.Recruited (k : Core) (slot base len : Nat) (entry : BitVec 56) (creator first last join c : Word) (cell skip : Nat) : Prop :=
  (k.thread slot).life = .ready ∧ (k.thread slot).pc = entry ∧ (k.thread slot).base = base ∧ (k.thread slot).len = len ∧
  (k.thread slot).role = 0 ∧ (k.thread slot).cell = some cell ∧
  ∀ n, n < len → base + n ≠ skip → (k.cell (base + n)).full = true ∧
    (k.cell (base + n)).val = match n with | 0 => creator | 2 => first | 3 => last | 4 => join | 5 => c | _ => 0

/-- A cell is another, or stands under it within some levels (R309, R312). -/
def Claims.Under (p : Package) (id : Nat) : Nat → Nat → Prop
  | 0, j => j = id
  | n + 1, j => Claims.Under p id n j ∨ (j ∈ p.cellIds ∧ (p.cellAt j).level ≠ 3 ∧ Claims.Under p id n (p.cellAt j).parent)

/-- R306 to R309, R333, R334, R336 to R339: RFORK recruits threads under a new cell, adds their number to its join cell, and starts each
READY at the entry with its run of chunks in its registers; the operations of cells send their requests to the cell's die and
wait; CELL.new makes a cell, whose notify word keeps its three fields (R6, R285), or reports why not: LEVEL, or NOT-HOLDER for a parent that does
not qualify (that LEVEL comes first, and that a parent reference with J = 1 does not qualify, are the model's choices: log 49).
R308, R309, R311, R335 to R337: an operation of a cell performed at its die completes its chain: JOIN of a count of 2 or more takes one and
retires the thread, the last JOIN goes on; reading a cell fills D with its word; adding to one changes its count within bounds, and
leaves a cell of another holder or of another generation as it was.
R30, R312, R339: a CANCEL of a live cell of its holder sets CANCEL on it and on every cell under it, in one step with the threads under those cells: a
READY one stays so and a PARKED one becomes READY, each to retire at its next issue with the cell that the CANCEL named; one that waits
for its FFENCE waits on; and a TRAPPED one retires at once. -/
def Obligations.ForksJoinsAndCells : Prop :=
  (
    ∀ (s : State) (v : Vals) (d : Reg) (src : RegOp),
      let sent (act : CellAct) (reg : Nat) (x : Word) : Host.Outcome State Fault Refusal :=
        .next ((s.onHere (fun p => p.addJob (.cellOp ⟨s.owner, act, v.s, reg, x, s.cur.words.length⟩))).onMe
          (fun t => { t with pend := some s.here.nextId }))
      (Ready s { s := rdOp src } v → s.me.pend = none →
        exec (.join src) s = sent .join 0 0 ∧ exec (.cancel src) s = sent .cancel 0 0) ∧
      (Ready s { s := rdOp src, d := wrReg d } v → s.me.pend = none → exec (.cellRd d src) s = sent .rd d.toNat 0) ∧
      (Ready s { s := rdOp src, d := rdReg d } v → s.me.pend = none → exec (.cellAdd d src) s = sent .add 0 v.d) ∧
      (∀ t : Tgt, let n : Needs := { t := tgtOpr t, s := rdGroup src 2, d := wrReg d }
        let level := v.t.toNat / 2 ^ 60 % 4
        let parent := v.s.toNat % 2 ^ 20
        Ready s n v →
        ((level = 0 ∨ (level = 3 ∧ parent ≠ 0)) → exec (.cellNew d src t) s = .next (endOf n (s.setReg d.toNat (failedWord 6)))) ∧
        (level ≠ 0 → ¬ (level = 3 ∧ parent ≠ 0) →
          (v.s.getLsbD 20 = true ∨ (level ≠ 3 ∧ parent ≠ 0 ∧ (s.here.cellLive parent = false ∨ (s.here.cellAt parent).holder ≠ s.holder ∨
            (s.here.cellAt parent).level ≤ level))) →
          exec (.cellNew d src t) s = .next (endOf n (s.setReg d.toNat (failedWord 3)))) ∧
        (∀ i, level ≠ 0 → ¬ (level = 3 ∧ parent ≠ 0) → v.s.getLsbD 20 = false →
          (level = 3 ∨ parent = 0 ∨ s.here.mayParent s.holder parent level = true) →
          s.here.freeCell (coreDie s.cur.core) (s.free 4) = some i →
          ∃ u, exec (.cellNew d src t) s = .next u ∧ (u.reg d.toNat).toNat = (cellId (tget (s.here.die (coreDie s.cur.core)).cells i
            Cell.fresh).gen (coreDie s.cur.core) i) % 2 ^ 64 ∧
            (s.cur.core < 1024 → (tget (s.here.die (coreDie s.cur.core)).cells i Cell.fresh).gen < 256 →
              let c := u.here.cellAt (u.reg d.toNat).toNat
              c.used = true ∧ c.holder = s.holder ∧ c.level = level ∧ c.live = v.t.toNat % 2 ^ 32 ∧
              c.notify = s.reg (src.n.toNat + 1) &&& 0x8000000003FF003F))) ∧
      (∀ t : Tgt, let n : Needs := { t := tgtOpr t, s := rdGroup src 4, d := wrReg d }
        let join := v.t.toNat / 2 ^ 32 % 4096
        let named := v.t.toNat / 2 ^ 44
        let c := (s.reg (src.n.toNat + 2)).toNat
        let hi := (s.reg (src.n.toNat + 1)).toInt
        let len := 8 * (v.t.toNat % 16 + 1)
        let cs := s.here.candidates s.cur.core s.holder len
        Ready s n v →
        ((s.here.entry (0x60000000 + join)).holder ≠ s.holder →
          exec (.rfork d src t) s = .next (s.takeTrap .notHolder 0 (word (0x60000000 + join)))) ∧
        ((s.here.entry (0x60000000 + join)).holder = s.holder → named ≠ 0 →
          (s.here.cellLive named = false ∨ (s.here.cellAt named).holder ≠ s.holder ∨ (s.here.cellAt named).level = 0) →
          exec (.rfork d src t) s = .next (s.takeTrap .notHolder 0 (word named))) ∧
        ((s.here.entry (0x60000000 + join)).holder = s.holder → (named = 0 ∨ s.here.mayParent s.holder named 0 = true) →
          ((hi ≤ v.s.toInt ∨ c = 0) → exec (.rfork d src t) s = .next (endOf n (s.setReg d.toNat (failedWord 4)))) ∧
          (v.s.toInt < hi → c ≠ 0 → cs = [] → exec (.rfork d src t) s = .next (endOf n (s.setReg d.toNat (failedWord 1)))) ∧
          (∀ i, v.s.toInt < hi → c ≠ 0 → cs ≠ [] → s.here.freeCell (coreDie s.cur.core) (s.free 4) = some i →
            let lo := v.s.toInt
            let chunks := ((hi - lo).toNat + c - 1) / c
            let k := min cs.length chunks
            let cell := cellId (tget (s.here.die (coreDie s.cur.core)).cells i Cell.fresh).gen (coreDie s.cur.core) i
            ∃ u, exec (.rfork d src t) s = .next u ∧ u.reg d.toNat = word (cell * 2 ^ 32 + k) ∧
              (u.here.joinCell join).toNat % 2 ^ 32 = ((s.here.joinCell join).toNat + k) % 2 ^ 32 ∧
              ∀ j core slot base, j < k → cs[j]? = some core → (s.here.core core).pickSlot = some slot → (s.here.core core).fitWindow len = some base →
                let before := j * (chunks / k) + min j (chunks % k)
                let after := (j + 1) * (chunks / k) + min (j + 1) (chunks % k)
                Claims.Recruited (u.here.core core) slot base len ((s.reg (src.n.toNat + 3)).setWidth 56) (word s.self)
                  (BitVec.ofInt 64 (lo + c * before)) (BitVec.ofInt 64 (min hi (lo + c * after))) (word join) (word c) cell
                  (if core = s.cur.core then s.me.base + d.toNat else 2048))))) ∧
  (
    ∀ (s : State) (chip id : Nat) (q : CellReq), (s.pkg chip).phase = .running → (s.pkg chip).job id = some (.cellOp q) →
      let p := s.pkg chip
      p.ownerLive q.owner = true →
      let join := q.ref.toNat % 4096
      let held : Prop := (p.entry (0x60000000 + join)).holder = p.coreHolder q.owner.core
      let n := (p.joinCell join).toNat % 2 ^ 32
      let t0 := p.thread q.owner.core q.owner.slot
      let past (u : State) : Prop :=
        ((u.pkg chip).thread q.owner.core q.owner.slot).pc = t0.pc + BitVec.ofNat 56 q.len ∧
        ((u.pkg chip).thread q.owner.core q.owner.slot).pend = none
      (q.act = .join → held → 2 ≤ n → ∃ u, exec (.cellOperation chip id) s = .next u ∧
        ((u.pkg chip).joinCell join).toNat % 2 ^ 32 = n - 1 ∧
        ((u.pkg chip).thread q.owner.core q.owner.slot).life = .retired) ∧
      (q.act = .join → held → n < 2 → ∃ u, exec (.cellOperation chip id) s = .next u ∧
        ((u.pkg chip).joinCell join).toNat % 2 ^ 32 = 0 ∧ (n = 0 → ((u.pkg chip).joinCell join).getLsbD 63 = true) ∧ past u) ∧
      (q.act = .rd → q.ref.getLsbD 20 = true → held → ∃ u, exec (.cellOperation chip id) s = .next u ∧ past u ∧
        (q.reg < t0.len → (((u.pkg chip).core q.owner.core).reg t0 q.reg).val = p.joinCell join)) ∧
      (q.act = .rd → q.ref.getLsbD 20 = false → ∃ u, exec (.cellOperation chip id) s = .next u ∧ past u ∧
        (q.reg < t0.len →
          let cell := p.cellAt (q.ref.toNat % 2 ^ 20)
          let gen := q.ref.toNat / 2 ^ 12 % 2 ^ 8
          let w := (((u.pkg chip).core q.owner.core).reg t0 q.reg).val
          (cell.gen ≠ gen → w = 0x4000000000000000) ∧
          (cell.gen = gen → (cell.used = false ∨ cell.holder ≠ p.coreHolder q.owner.core) → w = 0) ∧
          (cell.gen = gen → cell.used = true → cell.holder = p.coreHolder q.owner.core →
            (q.ref.getLsbD 21 = true → w = cell.notify) ∧
            (q.ref.getLsbD 21 = false → cell.live < 2 ^ 32 → cell.parent < 2 ^ 20 → cell.level < 4 →
              w.toNat = cell.live + 2 ^ 40 * cell.parent + 2 ^ 60 * cell.level + if cell.cancel then 2 ^ 63 else 0)))) ∧
      (q.act = .add → q.ref.getLsbD 20 = false → ∃ u, exec (.cellOperation chip id) s = .next u ∧ past u ∧
        let at_ := q.ref.toNat % 2 ^ 20
        let cell := p.cellAt at_
        let least : Nat := if cell.root then 1 else 0
        let live := min (2 ^ 32 - 1) (max least ((cell.live : Int) + q.amount.toInt).toNat)
        let own : Prop := p.cellLive at_ = true ∧ cell.holder = p.coreHolder q.owner.core
        (own → (live ≠ 0 ∨ cell.live = 0) → (u.pkg chip).cellAt at_ = { cell with live := live }) ∧
        (own → live = 0 → cell.live ≠ 0 → cell.level = 3 → ((u.pkg chip).cellAt at_).used = false ∧
          ((u.pkg chip).cellAt at_).gen = (cell.gen + 1) % 256) ∧
        (¬ own → (u.pkg chip).cellAt at_ = cell)) ∧
      (q.act = .add → q.ref.getLsbD 20 = true → held → ∃ u, exec (.cellOperation chip id) s = .next u ∧ past u ∧
        ((u.pkg chip).joinCell join).toNat % 2 ^ 32 =
          min (2 ^ 32 - 1) ((n : Int) + q.amount.toInt).toNat) ∧
      (q.act = .cancel → q.ref.getLsbD 20 = false → ∃ u, exec (.cellOperation chip id) s = .next u ∧
        (p.cellLive (q.ref.toNat % 2 ^ 20) = true →
          (p.cellAt (q.ref.toNat % 2 ^ 20)).holder = p.coreHolder q.owner.core →
          let named := q.ref.toNat % 2 ^ 20
          ((∀ k ∈ p.cores, ∀ x ∈ k.2.threads, x.2.life ≠ .trapped) →
            ∀ j, Claims.Under p named 3 j → ((u.pkg chip).cellAt j).cancel = true) ∧
          ∀ core slot k t j, tget? p.cores core = some k → tget? k.threads slot = some t → t.cell = some j → Claims.Under p named 3 j →
            (core, slot) ≠ (q.owner.core, q.owner.slot) →
            let t' := (u.pkg chip).thread core slot
            (t.life = .ready → t'.life = .ready ∧ t'.pc = t.pc ∧ t'.cancel = some (t.cancel.getD named)) ∧
            (t.life = .parked → (∀ o len, t.wait ≠ .fence o len) → t'.life = .ready ∧ t'.reason = none ∧ t'.pc = t.pc ∧
              t'.cancel = some (t.cancel.getD named)) ∧
            (∀ o len, t.life = .parked → t.wait = .fence o len → t'.life = .parked ∧ t'.cancel = some (t.cancel.getD named)) ∧
            (t.life = .trapped → t'.life = .retired ∧ t'.cause = 0x10 ∧ t'.value = word named))))

/-! ## Grids and halos (R315 to R325, R341 to R347), and budgets (R326 to R328, R348) -/

/-- The slot of the issuing die that a word names is held by the issuer's holder. -/
def Claims.slotHeld (s : State) (n : Nat) : Prop := (s.here.entry (0x50000000 + coreDie s.cur.core * 64 + n)).holder = s.holder

/-- The interior cell that stands for a cell of a self-filled face (R322): the cell next to the face for COPY, and the one as far inside the
face as the halo cell is outside it for REFLECT and ANTI. -/
def Claims.Mirrored (d : Desc) (f : Nat) (c inner : Nat × Nat × Nat) : Prop :=
  let at_ (c : Nat × Nat × Nat) (k : Nat) : Nat := match k with | 0 => c.1 | 1 => c.2.1 | _ => c.2.2
  let k := f / 2
  let edge := d.halo (2 * k) + d.tile k
  (∀ j, j < 3 → j ≠ k → at_ inner j = at_ c j) ∧
  (if f % 2 = 0 then at_ inner k = d.halo f + (if d.rule f = 2 then 0 else d.halo f - 1 - at_ c k)
    else at_ inner k + 1 + (if d.rule f = 2 then 0 else at_ c k - edge) = edge)

/-- A number of a grid's format with the other sign (R322): integers saturate, and a NaN is the default NaN. -/
def Claims.Negated (fmt old new : Nat) : Prop :=
  let w := if fmt = 16 then 64 else elemBits fmt
  if Claims.isInt fmt then
    (BitVec.ofNat w new).toInt = min (2 ^ (w - 1) - 1) (-(BitVec.ofNat w old).toInt) ∧ new < 2 ^ w
  else
    (Claims.NaNOf fmt old → some new = Claims.defaultNaN fmt) ∧
    (¬ Claims.NaNOf fmt old → new % 2 ^ (w - 1) = old % 2 ^ (w - 1) ∧ new < 2 ^ w ∧ new / 2 ^ (w - 1) = 1 - old / 2 ^ (w - 1))

/-- A trap of an operand that stands behind the checks of R31 steps 1 to 5. -/
def Claims.OperandTrap (c : Cause) : Prop := c ∉ [Cause.illegal, .role, .alignOperand, .window, .empty]

/-- A chain that names a slot which its holder does not hold traps NOT-HOLDER, also where another operand would trap (R329). -/
def Claims.NotHolder (s : State) (i : Instr) (m : Needs) (o : Opr) (x : Word) : Prop :=
  (∃ v, Ready s m v) ∨ (s.here.phase = .running ∧ s.me.life = .ready ∧ ∃ c w, gate s m = .trap c w ∧ Claims.OperandTrap c) → Holds s o x = true →
    ¬ Claims.slotHeld s (x.toNat % 64) →
    exec i s = .next (s.takeTrap .notHolder 0 (word (0x50000000 + coreDie s.cur.core * 64 + x.toNat % 64)))

/-- R319, R324, R329, R341 to R347: GRID places a good descriptor in a free slot, GBIND binds the core's tile. HWAIT, HWAIT.f and LDH go on at once when
each face that they test holds the step or a later one; while one holds an earlier step, HWAIT and HWAIT.f park with HALO, and LDH parks so under
STALL and traps STALE-HALO with its address under TRAP. GSTAT.g and GSTAT.f read the slot, GFREE unbinds. A slot that the holder does not hold traps
NOT-HOLDER, before any trap of another operand, and HSTEP, HWAIT and HWAIT.f without a tile trap RECLAIMED.
R320, R343: HSTEP publishes the step after the one published, once the tile's deliveries and self-fills have taken their last read steps, and starts
a self-fill of each face on a global boundary that has a halo and, at an exchange step, a delivery across each other face whose opposite face has
one, and no other; any other step traps STALE-HALO with it. A delivery reads
its tile and writes the receiving tile line by line, each write inside its line, and then sets the receiving face's register and step area word, as
a self-fill sets its own face's.
R321, R322: it writes the cells of its edge, as it has read them, into the halo cells of the receiving face in their order; a self-filled face gets the
constant, or cells of the tile's own interior. R325: a delivery to an unbound tile is abandoned, and the first failure is recorded, for GSTAT.g to
read (R346). That GBIND reports BOUND before TILE is the model's choice (log 45). -/
def Obligations.GridsAndHalos : Prop :=
  (
    ∀ (s : State) (v : Vals) (d : Reg) (src : RegOp),
      let die := coreDie s.cur.core
      let c := s.cur.core
      (∀ disp (ws : List Word), Ready s { mem := true, s := rdOp src, d := rwReg d } v →
        let n := v.d.toNat % 64
        (v.s + disp).toNat % 8 = 0 → Claims.slotHeld s n → ws.length = 8 → Desc.fault ws = none →
        (∀ i, i < 8 → ∃ pa, s.plainAddr (v.s + disp + word (8 * i)) 8 { r := true } (300 + i) = .ok pa ∧
          (s.plainLoad pa 8 (10 + i)).bad = false ∧ word (s.plainLoad pa 8 (10 + i)).val = (ws[i]?).getD 0) →
        ((s.here.grid die n).desc = none → exec (.grid d src disp) s =
          .next (((s.onHere (fun p => p.onGrid die n (fun g => { g with desc := some ws }))).setReg d.toNat 0).advance)) ∧
        ((s.here.grid die n).desc ≠ none → exec (.grid d src disp) s = .next ((s.setReg d.toNat 1).advance))) ∧
      (∀ (t : Tgt) (pa : Nat), let m : Needs := { mem := true, t := tgtOpr t, s := rdOp src, d := rwReg d }
        Ready s m v →
        let n := v.d.toNat % 64
        Claims.slotHeld s n → v.s.toNat % 64 = 0 → s.xlate v.s.toNat { r := true, w := true } 1 = .ok pa →
        s.here.place pa = .scratch c (pa / 0x10000 % 8) →
        ((s.here.grid die n).desc = none → exec (.gbind d src t) s = .next (endOf m (s.setReg d.toNat 1))) ∧
        (∀ ds, (s.here.grid die n).desc = some ds → s.here.inPrivateSpan c pa (Desc.size ds) = true →
          ((s.here.grid die n).tileOn c ≠ none → exec (.gbind d src t) s = .next (endOf m (s.setReg d.toNat 2))) ∧
          ((s.here.grid die n).tileOn c = none → Desc.tiles ds ≤ v.t.toNat % 2 ^ 32 →
            exec (.gbind d src t) s = .next (endOf m (s.setReg d.toNat 3))) ∧
          ((s.here.grid die n).tileOn c = none → v.t.toNat % 2 ^ 32 < Desc.tiles ds → ∃ u b, exec (.gbind d src t) s = .next u ∧
            u.reg d.toNat = 0 ∧ (u.here.grid die n).tileOn c = some b ∧ b.index = v.t.toNat % 2 ^ 32 ∧ b.base = pa ∧
            b.s0 = BitVec.ofNat 32 (v.t.toNat / 2 ^ 32) ∧ b.published = b.s0 - 1 ∧ ∀ f, b.face f = b.s0 - 1))) ∧
      (∀ (t : Tgt), let h : Needs := { s := rdOp src, d := rdReg d }
        let hf : Needs := { t := tgtOpr t, s := rdOp src, d := rdReg d }
        let gf : Needs := { t := tgtOpr t, s := rdOp src, d := wrReg d }
        let n := v.d.toNat % 64
        let g := s.here.grid die n
        let parks (i : Instr) (fs : List Nat) : Prop := ∃ u, exec i s = .next u ∧ u.me.life = .parked ∧ u.me.reason = some .halo ∧
          u.me.pc = s.me.pc ∧ u.me.wait = .faces n fs (v.s.setWidth 32)
        let goes (i : Instr) : Prop := ∃ u, exec i s = .next u ∧ u.me.pc = s.nextPc ∧ u.here.mem = s.here.mem
        (∀ b ds, g.tileOn c = some b → g.desc = some ds →
          let holds (f : Nat) : Prop := atOrLater (b.face f) (v.s.setWidth 32) = true
          (Ready s h v → Claims.slotHeld s n →
            ((∀ f, f < 2 * Desc.dims ds → 0 < Desc.halo ds f → holds f) → goes (.hwait d src)) ∧
            (∀ f, f < 2 * Desc.dims ds → 0 < Desc.halo ds f → ¬ holds f →
              parks (.hwait d src) ((List.range (2 * Desc.dims ds)).filter (fun f => decide (0 < Desc.halo ds f))))) ∧
          (Ready s hf v → Claims.slotHeld s n →
            let f := v.t.toNat % 8
            ((2 * Desc.dims ds ≤ f ∨ Desc.halo ds f = 0 ∨ holds f) → goes (.hwaitF d src t)) ∧
            (f < 2 * Desc.dims ds → 0 < Desc.halo ds f → ¬ holds f → parks (.hwaitF d src t) [f]))) ∧
        (g.tileOn c = none → Claims.slotHeld s n →
          let gone : Host.Outcome State Fault Refusal := .next (s.takeTrap .reclaimed 0 (word (0x50000000 + die * 64 + n)))
          (Ready s h v → exec (.hwait d src) s = gone ∧ exec (.hstep d src) s = gone) ∧ (Ready s hf v → exec (.hwaitF d src t) s = gone)) ∧
        (Ready s gf v → Claims.slotHeld s (v.s.toNat % 64) →
          let g := s.here.grid die (v.s.toNat % 64)
          let f := v.t.toNat % 8
          let reads (x : Word) : Prop := exec (.gstatF d src t) s = .next (endOf gf (s.setReg d.toNat x))
          (g.tileOn c = none → reads 0x8000000000000000) ∧
          ∀ b ds, g.tileOn c = some b → g.desc = some ds →
            (f < 6 → reads (word (Desc.halo ds f * 2 ^ 32 + (b.face f).toNat))) ∧ (6 ≤ f → reads 0)) ∧
        (∀ x, Claims.NotHolder s (.gbind d src t) { mem := true, t := tgtOpr t, s := rdOp src, d := rwReg d } (rwReg d) x ∧
          Claims.NotHolder s (.hstep d src) h (rdReg d) x ∧ Claims.NotHolder s (.hwait d src) h (rdReg d) x ∧
          Claims.NotHolder s (.hwaitF d src t) hf (rdReg d) x ∧ Claims.NotHolder s (.gstatF d src t) gf (rdOp src) x ∧
          Claims.NotHolder s (.gfree src) { s := rdOp src } (rdOp src) x ∧
          ∀ gs, Claims.NotHolder s (.gstatG d gs) { s := srcOpr gs, d := wrReg d } (srcOpr gs) x)) ∧
      (∀ (sz : Size) disp (t : Tgt) (pa slot : Nat) b ds, Ready s { mem := true, t := tgtOpr t, s := rdOp src, d := wrReg d } v →
        s.checkAddr (v.s + disp) (sizeBytes sz) { r := true } 1 = .ok pa → s.here.frameAt c pa = some (slot, b, ds) →
        (∀ f, Desc.classify ds (pa - b.base) = some f → atOrLater (b.face f) (v.t.setWidth 32) = true) →
        ∃ u, exec (.ldh sz d src disp t) s = .next u ∧ u.me.pc = s.nextPc ∧ u.here.mem = s.here.mem ∧
          u.reg d.toNat = word (s.here.mem.read pa (sizeBytes sz))) ∧
      (∀ (sz : Size) disp (t : Tgt) (pa slot f : Nat) b ds, Ready s { mem := true, t := tgtOpr t, s := rdOp src, d := wrReg d } v →
        s.checkAddr (v.s + disp) (sizeBytes sz) { r := true } 1 = .ok pa → s.here.frameAt c pa = some (slot, b, ds) →
        Desc.classify ds (pa - b.base) = some f → atOrLater (b.face f) (v.t.setWidth 32) = false →
        (Desc.stale ds = true → exec (.ldh sz d src disp t) s = .next (s.takeTrap .staleHalo 0 (v.s + disp))) ∧
        (Desc.stale ds = false → ∃ u, exec (.ldh sz d src disp t) s = .next u ∧ u.me.life = .parked ∧ u.me.reason = some .halo ∧
          u.me.pc = s.me.pc ∧ u.me.wait = .faces slot [f] (v.t.setWidth 32))) ∧
      (∀ gs : Src, Ready s { s := srcOpr gs, d := wrReg d } v → Claims.slotHeld s (v.s.toNat % 64) →
        let g := s.here.grid die (v.s.toNat % 64)
        let reads (x : Word) : Prop := exec (.gstatG d gs) s = .next (endOf { s := srcOpr gs, d := wrReg d } (s.setReg d.toNat x))
        (g.desc = none → reads 0) ∧
        (g.desc.isSome = true → reads (word (g.bound.length + 2 ^ 32 * (g.etile % 65536) + (if g.err then 2 ^ 52 else 0) + 2 ^ 53 * g.eface +
          2 ^ 56 * g.estat)))) ∧
      (Ready s { s := rdOp src } v → Claims.slotHeld s (v.s.toNat % 64) → (∀ e ∈ s.here.flights, ∀ x, e.2 ≠ .slab x) →
        ∃ u, exec (.gfree src) s = .next u ∧ u.me.pc = s.nextPc ∧ (u.here.grid die (v.s.toNat % 64)).tileOn c = none)) ∧
  (
    (∀ (s : State) (v : Vals) (d : Reg) (src : RegOp) b ds, Ready s { s := rdOp src, d := rdReg d } v →
      let n := v.d.toNat % 64
      let die := coreDie s.cur.core
      let step : BitVec 32 := v.s.setWidth 32
      Claims.slotHeld s n → (s.here.grid die n).tileOn s.cur.core = some b → (s.here.grid die n).desc = some ds →
      (step ≠ b.published + 1 → exec (.hstep d src) s = .next (s.takeTrap .staleHalo 0 (step.setWidth 64))) ∧
      (step = b.published + 1 → (∀ e ∈ s.here.flights, ∀ x : Slab, e.2 = .slab x → x.die = die → x.slot = n → x.core = s.cur.core → x.notice = false →
          x.stage ≠ .placing ∧ x.stage ≠ .reading ∧ (x.self = true → x.stage = .writing → Desc.rule ds x.face = 1)) →
        ∃ u b', exec (.hstep d src) s = .next u ∧ u.me.pc = s.nextPc ∧ (u.here.grid die n).tileOn s.cur.core = some b' ∧
          b'.published = step ∧ u.here.mem = s.here.mem ∧
          let boundary (f : Nat) : Prop := Desc.boundary ds b.index f = true
          let starts (x : Slab) : Prop := x.die = die ∧ x.slot = n ∧ x.core = s.cur.core ∧ x.step = step ∧ x.face < 2 * Desc.dims ds ∧
            (x.self = true → x.notice = false ∧ boundary x.face ∧ 0 < Desc.halo ds x.face ∧ x.stage = .writing) ∧
            (x.self = false → x.notice = false → ¬ boundary x.face ∧ 0 < Desc.halo ds (opposite x.face) ∧ Desc.exchanges ds b.s0 step = true ∧
              (x.stage = .placing ∨ x.stage = .reading))
          (∀ f, f < 2 * Desc.dims ds → boundary f → 0 < Desc.halo ds f →
            ∃ id x, (id, Job.slab x) ∈ u.here.flights ∧ starts x ∧ x.face = f ∧ x.self = true) ∧
          (∀ f, f < 2 * Desc.dims ds → ¬ boundary f → 0 < Desc.halo ds (opposite f) → Desc.exchanges ds b.s0 step = true →
            ∃ id x, (id, Job.slab x) ∈ u.here.flights ∧ starts x ∧ x.face = f ∧ x.self = false ∧ x.notice = false) ∧
          ∀ id x, (id, Job.slab x) ∈ u.here.flights → (id, Job.slab x) ∉ s.here.flights → starts x)) ∧
    (∀ (s : State) (chip id : Nat) (x : Slab) b ds, (s.pkg chip).phase = .running → (s.pkg chip).job id = some (.slab x) →
      let p := s.pkg chip
      (p.grid x.die x.slot).tileOn x.core = some b → (p.grid x.die x.slot).desc = some ds →
      (x.stage = .placing → ∃ t, exec (.anisePlacementRead chip id) s = .next t ∧ (t.pkg chip).mem = p.mem) ∧
      (∀ l rest, x.stage = .reading → x.toRead = l :: rest → (∀ g, g < x.face / 2 * 2 → Desc.filled ds b.index b.s0 x.step g = true →
          atOrLater (b.face g) x.step = true) →
        ∃ t, exec (.aniseSlabRead chip id) s = .next t ∧ (t.pkg chip).mem = p.mem ∧ ∃ y ∈ x.toRead, ∃ z : Slab,
          (t.pkg chip).job id = some (.slab z) ∧ z.toRead = sdel x.toRead y) ∧
      (∀ l rest r, x.stage = .writing → x.toWrite = l :: rest → x.begun = true → x.self = false → x.notice = false → x.dstChip = chip →
        p.slabBefore id x = false → p.slotHolder (coreDie x.dstCore) x.slot = p.slotHolder x.die x.slot →
        (p.grid (coreDie x.dstCore) x.slot).tileOn x.dstCore = some r → (p.grid (coreDie x.dstCore) x.slot).desc = some ds →
        atOrLater r.published (x.step - 1) = true → p.awake x.dstCore = true → s.aniseAdmits chip x = true →
        ∃ t, exec (.aniseSlabWrite chip id) s = .next t ∧ ∃ y ∈ x.toWrite, (∀ a, lineOf a ≠ y → (t.pkg chip).mem.byte a = p.mem.byte a) ∧
          (p.mem.wf = true → x.face < 6 →
            let plane (base : Nat) : Nat := base + x.step.toNat % 2 * Desc.plane ds
            ∀ e ∈ (Desc.edgeCells ds x.face).zip (Desc.haloCells ds (opposite x.face)), ∀ i, i < Desc.elem ds →
              lineOf (plane r.base + e.2 + i) = y →
              (t.pkg chip).mem.byte (plane r.base + e.2 + i) = x.cap.byte (plane b.base + e.1 + i))) ∧
      (∀ l rest, x.stage = .writing → x.toWrite = l :: rest → x.self = true →
        (∀ g, g < x.face / 2 * 2 → Desc.filled ds b.index b.s0 x.step g = true → atOrLater (b.face g) x.step = true) →
        p.awake x.core = true → s.aniseAdmits chip x = true →
        ∃ t, exec (.aniseSelfFill chip id) s = .next t ∧ ∃ y ∈ x.toWrite, (∀ a, lineOf a ≠ y → (t.pkg chip).mem.byte a = p.mem.byte a) ∧
          (p.mem.wf = true → x.face < 6 → Desc.fmtOk ds = true →
            let plane := b.base + x.step.toNat % 2 * Desc.plane ds
            ∀ c ∈ Desc.slabBox ds x.face (Desc.haloStart ds x.face) (Desc.halo ds x.face), ∀ inner, Claims.Mirrored ds x.face c inner →
              let old := p.mem.read (plane + Desc.offsetOf ds inner) (Desc.elem ds)
              ∃ new, (Desc.rule ds x.face = 1 → new = (Desc.w ds 5).toNat) ∧
                (Desc.rule ds x.face = 2 ∨ Desc.rule ds x.face = 3 → new = old) ∧
                (Desc.rule ds x.face = 4 → Claims.Negated (Desc.fmt ds) old new) ∧
                ∀ i, i < Desc.elem ds → lineOf (plane + Desc.offsetOf ds c + i) = y →
                  (t.pkg chip).mem.byte (plane + Desc.offsetOf ds c + i) = BitVec.ofNat 8 (new / 256 ^ i))) ∧
      (let sets (die core face : Nat) (r : Bound) : Prop := ∃ t b', exec (.aniseFaceStepSet chip id) s = .next t ∧
          ((t.pkg chip).grid die x.slot).tileOn core = some b' ∧ b'.face face = x.step ∧
          (p.mem.wf = true → (∀ e ∈ p.flights, ∀ h, e.2 ≠ .fe h) →
            (t.pkg chip).mem.read (r.base + 2 * Desc.plane ds + 8 * face) 8 = x.step.toNat ∧
            ∀ a, a < r.base + 2 * Desc.plane ds + 8 * face ∨ r.base + 2 * Desc.plane ds + 8 * face + 8 ≤ a →
              (t.pkg chip).mem.byte a = p.mem.byte a)
       (x.stage = .setting → x.self = true → p.fillBefore id x = false → sets x.die x.core x.face b) ∧
       (∀ r, x.stage = .setting → x.self = false → x.notice = false → x.dstChip = chip →
         p.slotHolder (coreDie x.dstCore) x.slot = p.slotHolder x.die x.slot →
         (p.grid (coreDie x.dstCore) x.slot).tileOn x.dstCore = some r → (p.grid (coreDie x.dstCore) x.slot).desc = some ds →
         sets (coreDie x.dstCore) x.dstCore (opposite x.face) r)) ∧
      (x.stage = .writing → x.self = false → x.notice = false → x.dstChip = chip →
        (p.grid (coreDie x.dstCore) x.slot).tileOn x.dstCore = none →
        ∃ t, exec (.aniseDeliveryAbandon chip id) s = .next t ∧ (t.pkg chip).mem = p.mem ∧
          ((p.grid x.die x.slot).err = false → ((t.pkg chip).grid x.die x.slot).err = true ∧
            ((t.pkg chip).grid x.die x.slot).estat = 9 ∧ ((t.pkg chip).grid x.die x.slot).eface = x.face ∧
            ((t.pkg chip).grid x.die x.slot).etile = x.index))))

/-- R326, R328, R348: BUDGET.rd reads an entry of a die's table, BUDGET.set places one in the entry of its holder and activity or the first free
one, or traps MAP-FULL and leaves the table; BUDGET.clr removes it; to another than the holder of the table each traps NOT-HOLDER. A period that
begins for a holder in a block has no usage, and the entry of its table is then in force. A block serves no holder at its ceiling, and none
that has its guarantee before one that waits below its own. -/
def Obligations.Budgets : Prop :=
  (∀ (s : State) (v : Vals) (d : Reg) (src : Src),
    let die := v.s.toNat % 4
    let held (die : Nat) : Prop := (s.here.entry (0x90000000 + die)).holder = s.holder
    let n : Needs := { s := srcOpr src, d := rdReg d }
    (Ready s { s := srcOpr src, d := wrReg d } v → held (v.s.toNat / 32 % 4) → exec (.budgetRd d src) s =
      .next (endOf { s := srcOpr src, d := wrReg d } (s.setReg d.toNat (tget (s.here.die (v.s.toNat / 32 % 4)).budget (v.s.toNat % 32) 0)))) ∧
    (Ready s { s := srcOpr src, d := wrReg d } v → ¬ held (v.s.toNat / 32 % 4) → exec (.budgetRd d src) s =
      .next (s.takeTrap .notHolder 0 (word (0x90000000 + v.s.toNat / 32 % 4)))) ∧
    (Ready s n v → held die →
      (∀ i, (s.here.die die).budgetMatch v.d = some i → budgetBad v.d = false →
        (s.here.die die).guarSum (v.d.toNat / 2 ^ 46 % 4) i + v.d.toNat % 2048 ≤ 1024 →
        ∃ t, exec (.budgetSet d src) s = .next t ∧ t.me.pc = s.nextPc ∧ tget (t.here.die die).budget i 0 = v.d) ∧
      (∀ i, (s.here.die die).budgetMatch v.d = none → i < 32 → (tget (s.here.die die).budget i 0).toNat / 2 ^ 48 = 0 →
        (∀ j, j < i → (tget (s.here.die die).budget j 0).toNat / 2 ^ 48 ≠ 0) → budgetBad v.d = false →
        (s.here.die die).guarSum (v.d.toNat / 2 ^ 46 % 4) i + v.d.toNat % 2048 ≤ 1024 →
        ∃ t, exec (.budgetSet d src) s = .next t ∧ t.me.pc = s.nextPc ∧ tget (t.here.die die).budget i 0 = v.d) ∧
      ((budgetBad v.d = true ∨
          (∀ i, (s.here.die die).budgetMatch v.d = some i ∨ ((s.here.die die).budgetMatch v.d = none ∧ i < 32) →
            1024 < (s.here.die die).guarSum (v.d.toNat / 2 ^ 46 % 4) i + v.d.toNat % 2048) ∨
          ((s.here.die die).budgetMatch v.d = none ∧ ∀ i, i < 32 → (tget (s.here.die die).budget i 0).toNat / 2 ^ 48 ≠ 0)) →
        exec (.budgetSet d src) s = .next (s.takeTrap .mapFull 0 v.d)) ∧
      ((s.here.die die).budgetMatch v.d = none → exec (.budgetClr d src) s = .next (endOf n
        (s.onHere (fun p => p.onDie die (fun t => t))))) ∧
      (∀ i, (s.here.die die).budgetMatch v.d = some i → ∃ t, exec (.budgetClr d src) s = .next t ∧ t.me.pc = s.nextPc ∧
        (risingFrom 0 (s.here.die die).budget = true → tget? (t.here.die die).budget i = none))) ∧
    (Ready s n v → ¬ held die → ∀ i ∈ [Instr.budgetSet d src, .budgetClr d src],
      exec i s = .next (s.takeTrap .notHolder 0 (word (0x90000000 + die))))) ∧
  (∀ (w : Word), budgetBad w = true ↔
    w.toNat / 2 ^ 48 = 0 ∨ w.toNat / 2 ^ 40 % 64 < 10 ∨ 30 < w.toNat / 2 ^ 40 % 64 ∨ w.toNat / 2 ^ 11 % 2048 = 0 ∨
    1024 < w.toNat / 2 ^ 11 % 2048 ∨ w.toNat / 2 ^ 11 % 2048 < w.toNat % 2048 ∨ w.toNat / 2 ^ 22 % 2 ^ 18 ≠ 0) ∧
  (∀ (s : State) (chip block holder : Nat), (s.pkg chip).phase = .running → holder < 65536 →
    let p := s.pkg chip
    let key := block * 65536 + holder
    ∃ t, exec (.budgetPeriodStart chip (blockDie block) key) s = .next t ∧
      (risingFrom 0 p.usage = true → tget? (t.pkg chip).usage key = none) ∧
      (∀ i e, (p.die (blockDie block)).budgetFor holder (blockAct block) = some (i, e) → tget? (t.pkg chip).inForce key = some e) ∧
      ((p.die (blockDie block)).budgetFor holder (blockAct block) = none → risingFrom 0 p.inForce = true →
        tget? (t.pkg chip).inForce key = none)) ∧
  (∀ (p : Package) (block holder : Nat) (waiting : List Nat), p.serves block holder waiting = true →
    let share (h field : Nat) (e : Word) : Prop :=
      1024 * tget p.usage (block * 65536 + h) 0 < field * blockCapacity block * 2 ^ (e.toNat / 2 ^ 40 % 64)
    (∀ e, tget? p.inForce (block * 65536 + holder) = some e → share holder (e.toNat / 2 ^ 11 % 2048) e) ∧
    (∀ h ∈ waiting, ∀ e, tget? p.inForce (block * 65536 + h) = some e → share h (e.toNat % 2048) e → share h (e.toNat / 2 ^ 11 % 2048) e →
      ∃ e', tget? p.inForce (block * 65536 + holder) = some e' ∧ share holder (e'.toNat % 2048) e'))

/-! ## The ownership map (R353, R361 to R367, R384 to R399) -/

/-- A trade request stands at the map block, and its thread still waits for it. -/
def Claims.AtMap (p : Package) (id : Nat) (q : TradeReq) : Prop :=
  p.phase = .running ∧ p.job id = some (.trade q) ∧ p.ownerLive q.owner = true

/-- The map block judges a request, and its chain traps on the reply: the map is as before. -/
def Claims.Refused (s : State) (chip id : Nat) (q : TradeReq) (cause : Cause) (x : Word) : Prop :=
  exec (.mapTradeArrival chip id) s =
    .next (s.setPkg chip (((s.pkg chip).dropJob id).trapReply chip q.owner.core q.owner.slot cause x))

/-- The map block performs a trade, and its chain is complete. -/
def Claims.Performed (s : State) (chip id : Nat) (q : TradeReq) (after : Package → Prop) : Prop :=
  ∃ t, exec (.mapTradeArrival chip id) s = .next t ∧ (t.pkg chip).mem = (s.pkg chip).mem ∧
    (let u := (t.pkg chip).thread q.owner.core q.owner.slot
     u.pc = ((s.pkg chip).thread q.owner.core q.owner.slot).pc + BitVec.ofNat 56 q.len ∧ u.pend = none) ∧ after (t.pkg chip)

/-- A register of the window of a request's thread holds a result. -/
def Claims.Result (t : Package) (q : TradeReq) (n : Nat) (x : Word) : Prop :=
  let u := t.thread q.owner.core q.owner.slot
  n < u.len → ((t.core q.owner.core).cell (u.base + n)).val = x ∧ ((t.core q.owner.core).cell (u.base + n)).full = true

/-- A transfer of a resource begins (R365): its entry is BUSY and has its holder still; a core with live threads is pre-empted. -/
def Claims.Begins (p t : Package) (r holder lender why budget : Nat) (minted : Bool) : Prop :=
  let e := p.entry r
  (t.entry r).busy = true ∧ (t.entry r).holder = e.holder ∧ (t.entry r).pend = e.pend ∧ (t.entry r).pkind = e.pkind ∧
  ((ridKind r = 0 → risingFrom 0 p.flights = true) →
    (∃ f x, (f, Job.transfer x) ∈ t.flights ∧ x.rid = r ∧ x.former = e.holder ∧ x.holder = holder ∧ x.lender = lender ∧ x.why = why ∧
      x.budget = budget ∧ x.start.isSome = minted) ∧
    (ridKind r = 0 → (∃ u ∈ (p.core (ridIndex r)).threads, u.2.live = true) → ∃ f x, (f, Job.preempt x) ∈ t.flights ∧
      ridIndex r ∈ x.cores ∧ x.cluster = clusterOf (ridIndex r) ∧ x.former = e.holder ∧ x.why = why ∧ x.budget = budget))

/-- R386 to R396: each trade sends its request, with its operands, to the map block and waits there; OWNQ.a answers at once with the resource that covers an
address.
R387: MINT of a core that the holder does not hold outright traps NOT-HOLDER, with the records all in use MAP-FULL; of one with a slot that is not
FREE its result is FAIL, reason LIVE; else the lowest free holder id gets its record, the core's transfer begins, and the result names the thread's handle and
the new holder.
R362, R389: GIVE.s and LEND.s of a misaligned span trap MEM-ALIGN, and of one that no region of the holder contains NOT-HOLDER; a span that is its entry is
traded unsplit, and of a larger entry its index keeps the span, while the buddy pieces take the lowest free indices of the table of its die, in the order of
their bases, or the trade traps MAP-FULL.
R392: DENY of an open claim by the holder ends it, and the claimant's chain is complete; any other traps NOT-HOLDER.
R394: HEIR sets the heir of an entry, or the default heir and the notice core of the holder's record.
R361, R395: OWNQ returns the words of an entry whole to a holder that it names, and else its kind and index alone, and zeros where there is no entry. -/
def Obligations.TradeInstructions : Prop :=
  (∀ (s : State) (v : Vals) (d : Reg) (src t : RegOp), s.me.pend = none →
    let sent (kind : TradeKind) (d src t : Word) (reg : Nat) : Host.Outcome State Fault Refusal :=
      .next ((s.onHere (fun p => p.addJob (.trade ⟨s.owner, s.holder, kind, d, src, t, reg, s.cur.words.length⟩))).onMe
        (fun t => { t with pend := some s.here.nextId }))
    (Ready s { t := rdOp t, s := rdOp src, d := rwReg d } v → exec (.mint d src t) s = sent .mint v.d v.s v.t d.toNat) ∧
    (Ready s { mem := true, t := rdOp t, s := rdOp src, d := rwReg d } v →
      exec (.giveS d src t) s = sent .giveS v.d v.s v.t d.toNat ∧ exec (.lendS d src t) s = sent .lendS v.d v.s v.t d.toNat) ∧
    (Ready s { s := rdOp src, d := rdReg d } v →
      ∀ p ∈ [(Instr.give d src, TradeKind.give), (.lend d src, .lend), (.heirResource d src, .heir), (.heirRecord d src, .heir)],
        exec p.1 s = sent p.2 v.d v.s 0 0) ∧
    (Ready s { s := rdOp src } v →
      ∀ p ∈ [(Instr.accept src, TradeKind.accept), (.reclaim src, .reclaim), (.returnLoan src, .returnLoan), (.deny src, .deny)],
        exec p.1 s = sent p.2 v.s 0 0 0) ∧
    (Ready s { t := rdOp t, s := rdOp src } v →
      exec (.reclaimB src t) s = sent .reclaimB v.s 0 v.t 0 ∧ exec (.claim src t) s = sent .claim v.s 0 v.t 0) ∧
    (Ready s { s := rdOp src, d := wrGroup d 3 } v → exec (.ownq d src) s = sent .ownq v.s 0 0 d.toNat) ∧
    (∀ disp : Word, Ready s { mem := true, s := rdOp src, d := wrReg d } v →
      let a := (v.s + disp).toNat
      (∀ r stop, a < 2 ^ 52 → s.here.covering a = some (r, stop) →
        exec (.ownqA d src disp) s = .next ((s.setReg d.toNat (word (2 ^ 32 + r))).advance)) ∧
      ((2 ^ 52 ≤ a ∨ s.here.covering a = none) → exec (.ownqA d src disp) s = .next ((s.setReg d.toNat 0).advance)))) ∧
  ∀ (s : State) (chip id : Nat) (q : TradeReq), Claims.AtMap (s.pkg chip) id q →
    let p := s.pkg chip
    let refused := Claims.Refused s chip id q
    let performed := Claims.Performed s chip id q
    (q.kind = .mint →
      let c := q.d.toNat % 1024
      let e := p.entry c
      let outright : Prop := e.holder = q.holder ∧ e.lender = 0 ∧ e.pkind = 0
      let slot := if q.t.getLsbD 4 then 63 else 0
      let allFree : Prop := ∀ u ∈ (p.core c).threads, u.2.life = .free
      (e.busy = true → exec (.mapTradeArrival chip id) s = .fault .notEnabled) ∧
      (e.busy = false →
        (¬ outright → refused .notHolder (word c)) ∧
        (outright → 4096 ≤ p.holders.length → refused .mapFull (word c)) ∧
        (outright → p.holders.length < 4096 → ¬ allFree → performed (fun t => Claims.Result t q q.reg (word (2 ^ 63 + 5)) ∧ t.map = p.map)) ∧
        (outright → p.holders.length < 4096 → allFree → ∀ h, 2 ≤ h → h < 65536 → p.holderRec h = none →
          (∀ j, 2 ≤ j → j < h → p.holderRec j ≠ none) →
          performed (fun t => Claims.Begins p t c h 0 3 65536 true ∧
            Claims.Result t q q.reg (word ((((p.core c).thread slot).gen * 2 ^ 16 + c * 2 ^ 6 + slot) * 2 ^ 16 + h)) ∧
            ∃ x, t.holderRec h = some x ∧ x.minter = q.holder ∧ x.heir = q.holder ∧ x.notice = some c ∧ x.rootSlot = none)))) ∧
    ((q.kind = .giveS ∨ q.kind = .lendS) →
      let b := q.d.toNat
      let z := q.t.toNat % 64
      let dest := q.s.toNat % 2 ^ 16
      let aligned : Prop := 6 ≤ z ∧ z ≤ 52 ∧ b % 2 ^ z = 0
      let spans (x : Nat × MapEntry) : Prop := ridKind x.1 = 1 ∧ x.2.holder ≠ 0 ∧ x.2.base ≤ b ∧ b + 2 ^ z ≤ x.2.base + 2 ^ x.2.log2
      (¬ aligned → refused .memAlign q.d) ∧
      (aligned → (∀ x ∈ p.map, spans x → x.2.busy = false ∧ x.2.holder ≠ q.holder) → refused .notHolder 0x1FFFFFFF) ∧
      (∀ r e, aligned → (r, e) ∈ p.map → spans (r, e) → (∀ x ∈ p.map, spans x → x = (r, e)) → p.entry r = e →
        (e.busy = true → exec (.mapTradeArrival chip id) s = .fault .notEnabled) ∧
        (e.busy = false → e.holder = q.holder →
          let cancels : Prop := q.kind = .giveS ∧ dest = e.holder
          let free (k : Nat) : Prop := k / 4096 = r / 4096 ∧ (p.entry k).holder = 0
          let offered (x : MapEntry) : Prop := x.pend = dest ∧ x.pkind = (if q.kind = .lendS then 2 else 1) ∧ x.holder = e.holder ∧
            x.heir = e.heir ∧ x.lender = 0 ∧ x.gen = e.gen ∧ x.busy = false ∧ x.base = b ∧ x.log2 = z
          ((e.lender ≠ 0 ∨ (e.pkind ≠ 0 ∧ ¬ cancels) ∨ (¬ cancels ∧ p.holderRec dest = none)) → refused .notHolder (word r)) ∧
          (e.lender = 0 → e.pkind = 0 → ¬ cancels → p.holderRec dest ≠ none →
            (e.log2 = z → performed (fun t => Claims.Result t q q.reg (word r) ∧ offered (t.entry r))) ∧
            (z < e.log2 →
              (e.log2 - z ≤ (p.freeRegions (ridIndex r / 4096) (e.log2 - z)).length →
                performed (fun t => Claims.Result t q q.reg (word r) ∧ offered (t.entry r) ∧
                  let buddy (i : Nat) : Nat := let base := b / 2 ^ (z + i) * 2 ^ (z + i)
                    if base / 2 ^ (z + i) % 2 = 0 then base + 2 ^ (z + i) else base - 2 ^ (z + i)
                  ∃ ks : Nat → Nat, ∀ i, i < e.log2 - z → free (ks i) ∧
                    t.entry (ks i) = { e with base := buddy i, log2 := z + i, pend := 0, pkind := 0 } ∧
                    (∀ j, j < e.log2 - z → buddy i < buddy j → ks i < ks j) ∧
                    ∀ k, free k → (∀ j, j < e.log2 - z → ks j ≠ k) → ks i < k)) ∧
              ((p.freeRegions (ridIndex r / 4096) (e.log2 - z)).length < e.log2 - z → refused .mapFull (word r))))))) ∧
    (let r := q.d.toNat % 2 ^ 32
     let e := p.entry r
     (q.kind = .deny →
      (∀ f c, (f, Job.claim c) ∈ p.flights → c.rid = r → (∀ g c', (g, Job.claim c') ∈ p.flights → c'.rid = r → g = f ∧ c' = c) →
        (e.holder ≠ q.holder → refused .notHolder (word r)) ∧
        (e.holder = q.holder → ridKind r ≠ 1 → ¬ (c.owner.core = q.owner.core ∧ c.owner.slot = q.owner.slot) →
          performed (fun t => t.entry r = { e with busy := false } ∧ (risingFrom 0 p.flights = true → t.job f = none) ∧
            (p.ownerLive c.owner = true → let u := t.thread c.owner.core c.owner.slot
              u.pc = (p.thread c.owner.core c.owner.slot).pc + BitVec.ofNat 56 c.len ∧ u.pend = none)))) ∧
      ((∀ f c, (f, Job.claim c) ∈ p.flights → c.rid ≠ r) → refused .notHolder (word r))) ∧
     (q.kind = .heir → r = 0xF0000000 → ∀ x, p.holderRec q.holder = some x → p.named q.holder = true →
      performed (fun t => t.map = p.map ∧ t.holderRec q.holder = some { x with
        heir := q.s.toNat % 2 ^ 16, notice := if q.s.getLsbD 26 then some (q.s.toNat / 2 ^ 16 % 1024) else x.notice })) ∧
     (q.kind = .heir → ridExists r = true → e.busy = false →
      ((e.holder ≠ q.holder ∨ e.lender ≠ 0) → refused .notHolder (word r)) ∧
      (e.holder = q.holder → e.lender = 0 → ridKind r ≠ 1 → performed (fun t => t.entry r = { e with heir := q.s.toNat % 2 ^ 16 }))) ∧
     (q.kind = .ownq →
      let named : Prop := q.holder = e.holder ∨ q.holder = e.pend ∨ q.holder = e.lender ∨ q.holder = e.heir
      let kind := ridKind r * 2 ^ 60 + ridIndex r * 2 ^ 32
      let reads (a b c : Word) : Prop := performed (fun t => t.map = p.map ∧ Claims.Result t q q.reg a ∧ Claims.Result t q (q.reg + 1) b ∧
        Claims.Result t q (q.reg + 2) c)
      (ridExists r = true → named → reads (word (kind + e.holder * 2 ^ 16 + e.heir))
        (word (e.pend * 2 ^ 48 + e.lender * 2 ^ 32 + e.gen * 2 ^ 16 + (if e.busy then 256 else 0) + e.pkind * 64 + e.log2))
        (if ridKind r = 1 then word e.base else 0)) ∧
      (ridExists r = true → ¬ named → reads (word kind) 0 0) ∧ (ridExists r = false → reads 0 0 0)))

/-- R363, R364, R386 to R388, R390, R391: the map block's judgement of a trade on one entry. While the entry is BUSY the trade waits, and of a
resource that does not exist it traps NOT-HOLDER. GIVE and LEND of what the holder holds outright leave the
trade pending, and GIVE to itself cancels what pends; ACCEPT by another than the named holder, and a trade of what the holder does not hold, trap NOT-HOLDER
and change no entry; ACCEPT by the named holder begins the transfer: the entry is BUSY, and its trade stands until it is written. RETURN by the borrower
and RECLAIM by the lender begin the transfer to the lender, RECLAIM with its budget; RECLAIM of what the holder holds unlent has no effect.
R366, R386, R392: CLAIM by the heir of what another holds outright opens a claim, and its chain waits; where that holder holds no core the transfer begins at
once; by the lender it acts as RECLAIM, and by the holder it has no effect.
R361, R365, R366: the last step of a transfer writes its entry: the new holder and lender, its
generation advanced, no trade pending and not BUSY (of a region: where the new holder holds no other to merge it with). No thread of a core that passes
is live, and where MINT passes it, its thread starts (R387), once its die has a free cell (log 17). A claim whose grace has passed begins the transfer to its
claimant, and its chain is complete. That the chain of a CLAIM waits until the claim is settled and is complete at the expiry is the model's
choice (log 17). A trap on a reply is one as on an issue, unless it would stop a thread under a
cancelled cell, which retires with CANCELLED and that cell (R30, R312). -/
def Obligations.TradesAndTransfers : Prop :=
  (∀ (p : Package) (chip core slot : Nat) (cause : Cause) (x : Word),
    let u := p.thread core slot
    (u.cancel = none ∨ u.stopsOnTrap = false → p.trapReply chip core slot cause x = p.takeTrap core slot cause 0 x) ∧
    (∀ cell, u.cancel = some cell → u.stopsOnTrap = true →
      let h := (p.trapReply chip core slot cause x).thread core slot
      h.life = .retired ∧ h.cause = 0x10 ∧ h.value = word cell)) ∧
  (
    ∀ (s : State) (chip id : Nat) (q : TradeReq), Claims.AtMap (s.pkg chip) id q →
      q.kind ∉ [TradeKind.mint, .giveS, .lendS, .deny, .ownq, .heir] →
      let p := s.pkg chip
      let r := q.d.toNat % 2 ^ 32
      let e := p.entry r
      let dest := q.s.toNat % 2 ^ 16
      let refused : Prop := Claims.Refused s chip id q .notHolder (word r)
      let performed := Claims.Performed s chip id q
      let begins (holder lender why budget : Nat) : Prop := performed (fun t => Claims.Begins p t r holder lender why budget false)
      let outright : Prop := e.holder = q.holder ∧ e.lender = 0
      let cancels : Prop := q.kind = .give ∧ dest = e.holder
      (ridExists r = false → refused) ∧
      (ridExists r = true → e.busy = true → exec (.mapTradeArrival chip id) s = .fault .notEnabled) ∧
      (ridExists r = true → e.busy = false →
        ((q.kind = .give ∨ q.kind = .lend) →
          (¬ outright ∨ (e.pkind ≠ 0 ∧ ¬ cancels) ∨ (¬ cancels ∧ p.holderRec dest = none) → refused) ∧
          (outright → e.pkind = 0 → ¬ cancels → p.holderRec dest ≠ none → performed (fun t =>
            t.entry r = { e with pend := dest, pkind := if q.kind = .lend then 2 else 1 })) ∧
          (outright → cancels → ridKind r ≠ 1 → performed (fun t => t.entry r = { e with pend := 0, pkind := 0 }))) ∧
        (q.kind = .accept →
          (e.pkind = 0 ∨ e.pend ≠ q.holder → refused) ∧
          (e.pkind ≠ 0 → e.pend = q.holder → begins q.holder (if e.pkind = 2 then e.holder else 0) 3 65536)) ∧
        (q.kind = .returnLoan →
          (e.holder ≠ q.holder ∨ e.lender = 0 → refused) ∧ (e.holder = q.holder → e.lender ≠ 0 → begins e.lender 0 3 65536)) ∧
        (q.holder ≠ 0 → (q.kind = .reclaim ∨ q.kind = .reclaimB ∨ q.kind = .claim) →
          (e.lender = q.holder → begins e.lender 0 1 (if q.kind = .reclaimB then q.t.toNat % 2 ^ 32 else 65536)) ∧
          (outright → performed (fun t => t.map = p.map)) ∧
          (q.kind ≠ .claim → e.lender ≠ q.holder → ¬ outright → refused)) ∧
        (q.kind = .claim → q.holder ≠ 0 →
          (e.holder = q.holder → e.lender ≠ q.holder → performed (fun t => t.map = p.map)) ∧
          (e.holder ≠ q.holder → e.lender ≠ q.holder → (e.heir ≠ q.holder ∨ e.lender ≠ 0) → refused) ∧
          (e.holder ≠ q.holder → e.lender = 0 → e.heir = q.holder →
            ((∀ c, c < 1024 → p.coreHolder c ≠ e.holder) → begins q.holder 0 2 65536) ∧
            (∀ c, c < 1024 → p.coreHolder c = e.holder →
              ∃ t, exec (.mapTradeArrival chip id) s = .next t ∧ (t.pkg chip).entry r = { e with busy := true, pend := 0, pkind := 0 } ∧
                (t.pkg chip).job id = some (.claim ⟨r, q.holder, q.t.toNat % 2 ^ 32, q.owner, q.len⟩) ∧
                (t.pkg chip).thread q.owner.core q.owner.slot = p.thread q.owner.core q.owner.slot))))) ∧
  (
    (∀ (s : State) (chip id : Nat) (x : Transfer), (s.pkg chip).phase = .running → (s.pkg chip).job id = some (.transfer x) →
      let p := s.pkg chip
      let c := ridIndex x.rid
      let e := p.entry x.rid
      let written (t : Package) : Prop := let u := t.entry x.rid
        u.holder = x.holder ∧ u.lender = x.lender ∧ u.gen = (e.gen + 1) % 65536 ∧ u.busy = false ∧ u.pend = 0 ∧ u.pkind = 0 ∧
        (x.lender ≠ 0 → u.heir = x.lender) ∧ ∀ a, t.mem.byte a = p.mem.byte a
      x.emptied = true → x.committed = true → x.onward = 0 → p.pieceUnder x.rid = false →
      (ridKind x.rid = 0 → (p.core c).outbox = [] ∧ (p.core c).spilled = [] ∧
        ∀ y ∈ p.started (clusterOf c), y.2.fn.tile ≠ some (positionOf c)) →
      (x.start = none → (ridKind x.rid = 1 → ∀ y ∈ p.map, ridKind y.1 = 1 → y.1 ≠ x.rid → y.2.holder ≠ x.holder) →
        ∃ t, exec (.mapTransferComplete chip id) s = .next t ∧ written (t.pkg chip) ∧
          (ridKind x.rid = 0 → ∀ slot, ((t.pkg chip).thread c slot).live = false)) ∧
      (∀ slot entry len arg creator i, x.start = some (slot, entry, len, arg, creator) → ridKind x.rid = 0 →
        (∀ u ∈ (p.core c).threads, u.2.life = .free) → p.freeCell (coreDie c) (s.free 4) = some i →
        ∃ t, exec (.mapTransferComplete chip id) s = .next t ∧ written (t.pkg chip) ∧
          let base := if slot = 63 then 2016 else 0
          Claims.Fresh ((t.pkg chip).core c) slot base len entry 0 creator arg (base + len))) ∧
    (∀ (s : State) (chip id : Nat) (c : Claim), (s.pkg chip).phase = .running → (s.pkg chip).job id = some (.claim c) →
      ∃ t, exec (.claimExpiry chip id) s = .next t ∧ Claims.Begins (s.pkg chip) (t.pkg chip) c.rid c.claimant 0 2 65536 false ∧
        ((s.pkg chip).ownerLive c.owner = true → ((t.pkg chip).thread c.owner.core c.owner.slot).pc =
          ((s.pkg chip).thread c.owner.core c.owner.slot).pc + BitVec.ofNat 56 c.len ∧
          ((t.pkg chip).thread c.owner.core c.owner.slot).pend = none)))

/-- R357 to R359, R378, R397 to R399: ROOTSET binds a root, LATT records the holder's latency limit, ROOTSET, TLBINV and TLBINV.p remove cached
translations of the holder's cores, of both levels, and are complete in their first turn (log 24); a walk that completes
enters the caches of the cores that wait for it, and a line that is filled its instruction cache, with memory unchanged. -/
def Obligations.TranslationAndLimits : Prop :=
  (∀ (s : State) (v : Vals), (tget? s.here.cores s.cur.core).isSome = true →
    let untouched (t : State) : Prop := t.me.pc = s.nextPc ∧ t.here.mem = s.here.mem
    let emptied (t : State) (gone : TlbEntry → Prop) (table : Nat → Prop) : Prop :=
      (∀ e ∈ t.here.cores, t.here.coreHolder e.1 = s.holder → (∀ x ∈ e.2.tlb, ¬ gone x) ∧ ∀ x ∈ e.2.walked, ¬ table x.1) ∧
      (∀ e ∈ t.here.clusters, ∀ x ∈ e.2.tlb, x.1 = s.holder → ¬ gone x.2) ∧
      ∀ e ∈ t.here.flights, ∀ cs va, e.2 = .walk cs va → ∀ c ∈ cs.head?, t.here.coreHolder c ≠ s.holder
    (∀ (d : Reg) (src : Src), let n : Needs := { mem := true, s := srcOpr src, d := rdReg d }
      Ready s n v →
      let slot := v.s.toNat % 1024
      ((s.here.entry (0x70000000 + slot)).holder ≠ s.holder →
        exec (.rootset d src) s = .next (s.takeTrap .notHolder 0 (word (0x70000000 + slot)))) ∧
      ((s.here.entry (0x70000000 + slot)).holder = s.holder → v.d.toNat % 4096 ≠ 0 →
        exec (.rootset d src) s = .next (s.takeTrap .memAlign 0 v.d)) ∧
      ((s.here.entry (0x70000000 + slot)).holder = s.holder → v.d.toNat % 4096 = 0 →
        (v.d = 0 ∨ s.here.place v.d.toNat = .hbm ∨ s.here.place v.d.toNat = .dump ∨ ∃ c b, s.here.place v.d.toNat = .scratch c b) →
        ∃ t, exec (.rootset d src) s = .next t ∧ untouched t ∧
          ((s.here.holderRec s.holder).isSome = true → t.here.rootOf s.holder = v.d.toNat) ∧ emptied t (fun _ => True) (fun _ => True))) ∧
    (Ready s {} v → ∃ t, exec .tlbinv s = .next t ∧ untouched t ∧ emptied t (fun _ => True) (fun _ => True)) ∧
    (∀ (b : RegOp) (disp : Word), Ready s { mem := true, s := rdOp b } v → ∃ t, exec (.tlbinvP b disp) s = .next t ∧ untouched t ∧
      emptied t (fun x => x.va ≤ (v.s + disp).toNat ∧ (v.s + disp).toNat < x.va + x.size)
        (fun k => (v.s + disp).toNat / 2 ^ (12 + 9 * (k % 8)) = k / 8)) ∧
    (∀ src : RegOp, Ready s { s := rdOp src } v → ∃ t, exec (.latt src) s = .next t ∧ untouched t ∧
      ((s.here.holderRec s.holder).isSome = true → (t.here.holderRec s.holder).bind (·.latt) =
        if v.s.getLsbD 63 then none else some (v.s.toNat % 2 ^ 32, v.s.getLsbD 32)))) ∧
  (∀ (s : State) (chip id c va pa : Nat), (s.pkg chip).phase = .running →
    let p := s.pkg chip
    (∀ cs, p.job id = some (.walk (c :: cs) va) → ∃ t, exec (.translationWalkComplete chip id) s = .next t ∧ (t.pkg chip).mem = p.mem ∧
      (∀ e, (p.core c).walked = [] → p.walkTables (p.coreHolder c) va (s.free 5) = .page e → ∀ x ∈ c :: cs,
        e ∈ ((t.pkg chip).core x).tlb ∧ (p.coreHolder c, e) ∈ ((t.pkg chip).cluster (clusterOf x)).tlb)) ∧
    (p.job id = some (.fill c va pa) → p.gated c = false → ∃ t, exec (.icacheFill chip id) s = .next t ∧ (t.pkg chip).mem = p.mem ∧
      (p.inPrivate c pa = true → ⟨va, (p.mem.bytes pa 64).map (·.2)⟩ ∈ ((t.pkg chip).core c).icache)))

/-! ## Capabilities and the fabric (R404 to R439) -/

/-- A capability in a register pair permits an access of n bytes by a permission bit (R408 to R410, R428). -/
def Claims.Permits (c : Cap) (perm : Nat) (a : Word) (n : Nat) : Prop :=
  a.toNat % n = 0 ∧ c.tag = true ∧ c.w1.getLsbD perm = true ∧
    let l := c.w1.toNat / 2 ^ 38 % 64
    6 ≤ l ∧ l ≤ 57 ∧ c.w0.toNat / 2 ^ l = a.toNat / 2 ^ l ∧ a.toNat / 2 ^ l = (a.toNat + n - 1) / 2 ^ l

/-- R429 to R431: CAPMK mints a tagged capability with the generation of the entry that covers the address, or one with tag 0 and GEN 0; CAPNAR narrows
one, keeps its chip, holder and generation, and never widens it; CAPCHK reports the tag and the region's base. -/
def Obligations.Capabilities : Prop :=
  ∀ (s : State) (v : Vals) (d : Reg) (src t : RegOp),
    (∀ pa e, Ready s { mem := true, t := rdOp t, s := rdOp src, d := wrGroup d 2 } v → s.xlate v.s.toNat {} 1 = .ok pa →
      s.here.grantOf pa = some e → e.gen < 2 ^ 16 → s.holder < 2 ^ 16 → s.cur.chip < 2 ^ 20 →
      let l := v.t.toNat / 2 ^ 38 % 64
      6 ≤ l → l ≤ 57 → ∃ u, exec (.capmk d src t) s = .next u ∧ u.me.pc = s.nextPc ∧ u.reg d.toNat = v.s ∧
        (u.reg (d.toNat + 1)).toNat = (((s.cur.chip * 64 + l) * 64 + v.t.toNat / 2 ^ 32 % 64) * 65536 + s.holder) * 65536 + e.gen ∧
        u.pairTag d.toNat = true) ∧
    (∀ pa, Ready s { mem := true, t := rdOp t, s := rdOp src, d := wrGroup d 2 } v → s.xlate v.s.toNat {} 1 = .ok pa →
      s.holder < 2 ^ 16 → s.cur.chip < 2 ^ 20 →
      let l := v.t.toNat / 2 ^ 38 % 64
      (¬ (6 ≤ l ∧ l ≤ 57) ∨ s.here.grantOf pa = none) → ∃ u, exec (.capmk d src t) s = .next u ∧ u.me.pc = s.nextPc ∧ u.reg d.toNat = v.s ∧
        (u.reg (d.toNat + 1)).toNat = (((s.cur.chip * 64 + l) * 64 + v.t.toNat / 2 ^ 32 % 64) * 65536 + s.holder) * 65536 ∧
        u.pairTag d.toNat = false) ∧
    (∀ imm : BitVec 12, Ready s { t := rdOp t, s := rdGroup src 2, d := wrGroup d 2 } v →
      let c := s.cap src.n.toNat
      let l := imm.toNat % 64
      let old := c.w1.toNat / 2 ^ 38 % 64
      ∃ u, exec (.capnar d src t imm) s = .next u ∧ u.me.pc = s.nextPc ∧ u.reg d.toNat = v.t ∧
        (u.reg (d.toNat + 1)).toNat % 2 ^ 32 = c.w1.toNat % 2 ^ 32 ∧
        (u.reg (d.toNat + 1)).toNat / 2 ^ 32 % 64 = c.w1.toNat / 2 ^ 32 % 64 &&& imm.toNat / 64 ∧
        (u.reg (d.toNat + 1)).toNat / 2 ^ 38 % 64 = l ∧ (u.reg (d.toNat + 1)).toNat / 2 ^ 44 = c.w1.toNat / 2 ^ 44 ∧
        (u.pairTag d.toNat = true ↔ c.tag = true ∧ 6 ≤ l ∧ l ≤ old ∧ v.t.toNat / 2 ^ old = c.w0.toNat / 2 ^ old)) ∧
    (Ready s { s := rdGroup src 2, d := wrReg d } v →
      let c := s.cap src.n.toNat
      let l := c.w1.toNat / 2 ^ 38 % 64
      ∃ w : Word, exec (.capchk d src) s = .next ((s.setReg d.toNat w).advance) ∧
        ((6 ≤ l ∧ l ≤ 57) → w.getLsbD 63 = c.tag ∧ w.toNat % 2 ^ 63 = c.w0.toNat / 2 ^ l * 2 ^ l % 2 ^ 57) ∧ (¬ (6 ≤ l ∧ l ≤ 57) → w = 0))

/-- What a departure needs (R419): no service slot and no pair, a window of at most 32 registers, no long-latency producer outstanding, and room in the ring
and a turn at the source unit. -/
def Claims.MayDepart (s : State) (dst : Nat) : Prop :=
  s.cur.slot ≠ 63 ∧ s.me.pair = none ∧ s.me.len ≤ 32 ∧ s.owes s.cur.chip s.owner = false ∧ s.onTorus dst = true ∧
  ∀ u, s.route false s.cur.chip dst = some u → s.ringRoom s.cur.chip u 2 = true ∧ s.unitServes s.cur.chip u s.holder = true

/-- The issuing thread may leave, with its producers returned, but the ring of the port toward the chip has no room for it, or its holder has
no turn there. -/
def Claims.MustWait (s : State) (dst : Nat) : Prop :=
  s.cur.slot ≠ 63 ∧ s.me.pair = none ∧ s.me.len ≤ 32 ∧ s.owes s.cur.chip s.owner = false ∧ s.onTorus dst = true ∧
  ∃ u, s.route false s.cur.chip dst = some u ∧ (s.ringRoom s.cur.chip u 2 = false ∨ s.unitServes s.cur.chip u s.holder = false)

/-- The issuing thread is MIGRATING at its chain, and its MIGRATE packet, with its registers, its control registers and its home, stands at its router. -/
def Claims.Departs (s u : State) (dst : Nat) (homing : Bool) : Prop :=
  u.me.life = .migrating ∧ u.me.pc = s.me.pc ∧ ∃ (k : Packet) (t : Thread), tget? u.packets s.nextPacket = some k ∧
    k.dst = dst ∧ k.src = s.cur.chip ∧ k.here = s.cur.chip ∧
    k.load = .migrate t ((span 0 1 s.me.len).map (fun n => s.hereCore.reg s.me n)) s.self homing (s.cur.core, s.cur.slot) ∧
    t.home = some (s.me.home.getD ⟨s.cur.chip, s.cur.core, s.holder⟩) ∧ t.pc = s.me.pc ∧ t.len = s.me.len ∧ t.vec = s.me.vec ∧
    t.cause = s.me.cause ∧ t.value = s.me.value ∧ t.epc = s.me.epc ∧ t.fmode = s.me.fmode ∧ t.flags = s.me.flags

/-- R428, R432, R434, R435: under a capability that permits them, remote stores and atomics send their request, or park with NET while the source unit has no room; an
atomic with a reply empties the pair D. A load under a capability of the issuing chip loads in place, and is replayed while a commit of its core's scope
is under way (R216). A misaligned form traps MEM-ALIGN. Every aligned
form without permission traps CAP with the capability's word 1, and so does a load whose target refuses it, or whose capability names another chip
without M. R419: with M the thread leaves for that chip, or traps ROLE or MIGRATE-TOO-LARGE. It is replayed until its producers have returned, and parks
with NET while the port toward the chip does not take it.
That LDR.q tags its pair only when the versions that it takes of both words carry the tag is the model's choice (log 49). -/
def Obligations.RemoteAccesses : Prop :=
  ∀ (s : State) (v : Vals) (d : Reg) (b : RegOp) (disp : Word),
    let c := s.cap b.n.toNat
    let a := v.s + disp
    let chip := capChip c.w1
    let sent (s' : State) (reg : Nat) (load : Load) : Host.Outcome State Fault Refusal :=
      .next (if s.mayRequest chip then (s'.sendRequest (s.request chip a c.w1 reg load)).advance
        else (s.onMe (fun t => { t with wait := .unit chip })).park .net)
    let emptied (s : State) : State := (s.emptyReg d.toNat).emptyReg (d.toNat + 1)
    let refused : Host.Outcome State Fault Refusal := .next (s.takeTrap .cap 0 c.w1)
    (∀ sz : Size, Ready s { mem := true, s := rdGroup b 2, d := rdReg d } v → Claims.Permits c 36 a (sizeBytes sz) →
      exec (.str sz d b disp) s = sent s 0 (.store ((bytesAt 0 v.d.toNat (sizeBytes sz)).map (·.2)) false)) ∧
    (∀ (sz : Size), Ready s { mem := true, s := rdGroup b 2, d := rdReg d } v → a.toNat % sizeBytes sz = 0 →
      ¬ Claims.Permits c 36 a (sizeBytes sz) → exec (.str sz d b disp) s = refused) ∧
    (∀ hi : RegOp, Ready s { mem := true, t := rdOp hi, s := rdGroup b 2, d := rdReg d } v → a.toNat % 16 = 0 →
      ¬ Claims.Permits c 36 a 16 → exec (.strQ d hi b disp) s = refused) ∧
    (∀ hi : RegOp, Ready s { mem := true, t := rdOp hi, s := rdGroup b 2, d := rdReg d } v → Claims.Permits c 36 a 16 →
      exec (.strQ d hi b disp) s = sent s 0 (.store ((bytesAt 0 v.d.toNat 8 ++ bytesAt 8 v.t.toNat 8).map (·.2))
        (decide (d.toNat % 2 = 0 ∧ hi.n.toNat = d.toNat + 1) && s.pairTag d.toNat && c.w1.getLsbD 32))) ∧
    (Ready s { mem := true, s := rdGroup b 2, d := rwGroup d 2 } v →
      (∀ p ∈ [(Instr.ramoAddD d b disp, AmoOp.add), (.ramoAndD d b disp, .and), (.ramoOrD d b disp, .or),
          (.ramoXorD d b disp, .xor), (.ramoMinD d b disp, .min), (.ramoMaxD d b disp, .max), (.ramoMinuD d b disp, .minu),
          (.ramoMaxuD d b disp, .maxu), (.ramoSwapD d b disp, .swap)],
        (Claims.Permits c 35 a 8 → exec p.1 s = sent (emptied s) d.toNat (.amo p.2 true v.d v.t)) ∧
        (a.toNat % 8 = 0 → ¬ Claims.Permits c 35 a 8 → exec p.1 s = refused)) ∧
      (∀ p ∈ [(Instr.ramoAddW d b disp, AmoOp.add), (.ramoAndW d b disp, .and), (.ramoOrW d b disp, .or),
          (.ramoXorW d b disp, .xor), (.ramoMinW d b disp, .min), (.ramoMaxW d b disp, .max), (.ramoMinuW d b disp, .minu),
          (.ramoMaxuW d b disp, .maxu), (.ramoSwapW d b disp, .swap)],
        (Claims.Permits c 35 a 4 → exec p.1 s = sent (emptied s) d.toNat (.amo p.2 false v.d v.t)) ∧
        (a.toNat % 4 = 0 → ¬ Claims.Permits c 35 a 4 → exec p.1 s = refused))) ∧
    (∀ t : RegOp, Ready s { mem := true, t := rdOp t, s := rdGroup b 2, d := rwGroup d 2 } v →
      (Claims.Permits c 35 a 8 → exec (.rcasD d b disp t) s = sent (emptied s) d.toNat (.amo .cas true v.d v.t)) ∧
      (a.toNat % 8 = 0 → ¬ Claims.Permits c 35 a 8 → exec (.rcasD d b disp t) s = refused) ∧
      (Claims.Permits c 35 a 4 → exec (.rcasW d b disp t) s = sent (emptied s) d.toNat (.amo .cas false v.d v.t)) ∧
      (a.toNat % 4 = 0 → ¬ Claims.Permits c 35 a 4 → exec (.rcasW d b disp t) s = refused)) ∧
    (Ready s { mem := true, s := rdGroup b 2, d := rdReg d } v →
      ∀ p ∈ [(Instr.ramoAddN d b disp, AmoOp.add), (.ramoAndN d b disp, .and), (.ramoOrN d b disp, .or), (.ramoXorN d b disp, .xor),
          (.ramoMinN d b disp, .min), (.ramoMaxN d b disp, .max), (.ramoMinuN d b disp, .minu), (.ramoMaxuN d b disp, .maxu),
          (.ramoSwapN d b disp, .swap)],
        (Claims.Permits c 35 a 8 → exec p.1 s = sent s 0 (.posted p.2 v.d)) ∧
        (a.toNat % 8 = 0 → ¬ Claims.Permits c 35 a 8 → exec p.1 s = refused)) ∧
    (let misaligned (i : Instr) : Prop := exec i s = .next (s.takeTrap .memAlign 0 a)
     (∀ sz : Size, a.toNat % sizeBytes sz ≠ 0 →
       (Ready s { mem := true, s := rdGroup b 2, d := rdReg d } v → misaligned (.str sz d b disp)) ∧
       (Ready s { mem := true, s := rdGroup b 2, d := wrReg d } v → misaligned (.ldr sz d b disp))) ∧
     (∀ r : RegOp, a.toNat % 16 ≠ 0 →
       (Ready s { mem := true, t := rdOp r, s := rdGroup b 2, d := rdReg d } v → misaligned (.strQ d r b disp)) ∧
       (Ready s { mem := true, t := wrReg r.n, s := rdGroup b 2, d := wrReg d } v → misaligned (.ldrQ d r b disp))) ∧
     (a.toNat % 8 ≠ 0 → Ready s { mem := true, s := rdGroup b 2, d := rdReg d } v →
       ∀ i ∈ [Instr.ramoAddN d b disp, .ramoAndN d b disp, .ramoOrN d b disp, .ramoXorN d b disp, .ramoMinN d b disp, .ramoMaxN d b disp,
         .ramoMinuN d b disp, .ramoMaxuN d b disp, .ramoSwapN d b disp], misaligned i) ∧
     (Ready s { mem := true, s := rdGroup b 2, d := rwGroup d 2 } v →
       (a.toNat % 8 ≠ 0 → ∀ i ∈ [Instr.ramoAddD d b disp, .ramoAndD d b disp, .ramoOrD d b disp, .ramoXorD d b disp, .ramoMinD d b disp,
         .ramoMaxD d b disp, .ramoMinuD d b disp, .ramoMaxuD d b disp, .ramoSwapD d b disp], misaligned i) ∧
       (a.toNat % 4 ≠ 0 → ∀ i ∈ [Instr.ramoAddW d b disp, .ramoAndW d b disp, .ramoOrW d b disp, .ramoXorW d b disp, .ramoMinW d b disp,
         .ramoMaxW d b disp, .ramoMinuW d b disp, .ramoMaxuW d b disp, .ramoSwapW d b disp], misaligned i)) ∧
     (∀ t : RegOp, Ready s { mem := true, t := rdOp t, s := rdGroup b 2, d := rwGroup d 2 } v →
       (a.toNat % 8 ≠ 0 → misaligned (.rcasD d b disp t)) ∧ (a.toNat % 4 ≠ 0 → misaligned (.rcasW d b disp t)))) ∧
    (chip ≠ s.cur.chip → c.w1.getLsbD 34 = true → ∀ (sz : Size) (hi : RegOp), ∀ p ∈ [(Instr.ldr sz d b disp, sizeBytes sz,
        ({ mem := true, s := rdGroup b 2, d := wrReg d } : Needs)),
        (.ldrQ d hi b disp, 16, { mem := true, t := wrReg hi.n, s := rdGroup b 2, d := wrReg d })],
      Ready s p.2.2 v → Claims.Permits c 37 a p.2.1 →
      ((s.cur.slot = 63 ∨ s.me.pair ≠ none) → exec p.1 s = .next (s.takeTrap .role 0 (chainWord0 s))) ∧
      (s.cur.slot ≠ 63 → s.me.pair = none → 32 < s.me.len → exec p.1 s = .next (s.takeTrap .migrateTooLarge 0 (word s.me.len))) ∧
      (s.cur.slot ≠ 63 → s.me.pair = none → s.me.len ≤ 32 → s.owes s.cur.chip s.owner = true → exec p.1 s = .next s) ∧
      (Claims.MustWait s chip → exec p.1 s = .next (s.parkFor (.leave chip) .net).state) ∧
      (Claims.MayDepart s chip → ∃ u, exec p.1 s = .next u ∧ Claims.Departs s u chip false)) ∧
    (let cannot (n : Nat) : Prop := ¬ Claims.Permits c 37 a n ∨ (chip ≠ s.cur.chip ∧ c.w1.getLsbD 34 = false) ∨
        (chip = s.cur.chip ∧ s.here.gated s.cur.core = false ∧ s.here.target c.w1 a.toNat n (s.free 9) { r := true } = none)
     (∀ sz : Size, Ready s { mem := true, s := rdGroup b 2, d := wrReg d } v → a.toNat % sizeBytes sz = 0 → cannot (sizeBytes sz) →
       exec (.ldr sz d b disp) s = refused) ∧
     (∀ hi : RegOp, Ready s { mem := true, t := wrReg hi.n, s := rdGroup b 2, d := wrReg d } v → a.toNat % 16 = 0 → cannot 16 →
       exec (.ldrQ d hi b disp) s = refused)) ∧
    (chip = s.cur.chip → s.here.gated s.cur.core = true →
      (∀ sz : Size, Ready s { mem := true, s := rdGroup b 2, d := wrReg d } v → Claims.Permits c 37 a (sizeBytes sz) →
        exec (.ldr sz d b disp) s = .next s) ∧
      (∀ hi : RegOp, Ready s { mem := true, t := wrReg hi.n, s := rdGroup b 2, d := wrReg d } v → Claims.Permits c 37 a 16 →
        exec (.ldrQ d hi b disp) s = .next s)) ∧
    (chip = s.cur.chip → s.here.gated s.cur.core = false →
      (∀ (sz : Size) (pa : Nat), Ready s { mem := true, s := rdGroup b 2, d := wrReg d } v → Claims.Permits c 37 a (sizeBytes sz) →
        s.here.target c.w1 a.toNat (sizeBytes sz) (s.free 9) { r := true } = some pa →
        let l := s.plainLoad pa (sizeBytes sz) 3
        exec (.ldr sz d b disp) s = .next ((s.result [⟨d.toNat, word l.val, l.bad, false⟩]).advance)) ∧
      (∀ (hi : RegOp) (pa : Nat), Ready s { mem := true, t := wrReg hi.n, s := rdGroup b 2, d := wrReg d } v → Claims.Permits c 37 a 16 →
        s.here.target c.w1 a.toNat 16 (s.free 9) { r := true } = some pa →
        let lo := s.plainLoad pa 8 3
        let up := s.plainLoad (pa + 8) 8 4
        exec (.ldrQ d hi b disp) s = .next ((s.result [⟨hi.n.toNat, word up.val, up.bad, false⟩, ⟨d.toNat, word lo.val, lo.bad,
          decide (d.toNat % 2 = 0 ∧ hi.n.toNat = d.toNat + 1) && lo.tag && up.tag⟩]).advance)))

/-- R419, R422, R423, R433, R436 to R439: FFENCE waits for what it covers, reports the first failure, or sends its FENCE with the value of T and what it covers, and parks; HOME is a NOP at
home, and elsewhere the thread leaves: it is replayed until its producers have returned, and parks with NET while the port toward its home does not take
it; MCAST sends one message to each member of a group that its holder holds, on this chip or through the fabric to another, or parks with NET when a
copy is refused; MCGRP writes a group and GUESTSET a pool. For another's group or pool each traps NOT-HOLDER. -/
def Obligations.FabricControl : Prop :=
  ∀ (s : State) (v : Vals) (d : Reg) (src : RegOp),
    (∀ t : RegOp, Ready s { mem := true, t := rdOp t, s := rdGroup src 2, d := wrReg d } v →
      let c := s.cap src.n.toNat
      let dst := capChip c.w1
      Claims.Permits c 36 c.w0 8 →
      (s.covering dst = true → exec (.ffence d src t) s = .next (s.parkFor (.cover dst) .fence).state) ∧
      (s.covering dst = false →
        (∀ st, (s.me.cover dst).failed = some st → exec (.ffence d src t) s =
          .next (((s.onMe (fun t => t.setCover dst Cover.fresh)).setReg d.toNat (word st)).advance)) ∧
        ((s.me.cover dst).failed = none → s.onTorus dst = true → s.mayRequest dst = true →
          ∃ u, exec (.ffence d src t) s = .next u ∧ u.me.life = .parked ∧ u.me.reason = some .fence ∧ u.me.pc = s.me.pc ∧
            u.me.wait = .fence s.nextPacket s.cur.words.length ∧
            ∃ k, tget? u.packets s.nextPacket = some k ∧ k.load = .fence v.t (s.me.cover dst).words ∧ k.addr = c.w0 ∧ k.cap1 = c.w1 ∧
              k.dst = dst ∧ k.src = s.cur.chip ∧ k.owner = s.owner ∧ k.reg = d.toNat))) ∧
    (Ready s {} v →
      ((s.me.home = none ∨ ∃ h, s.me.home = some h ∧ h.chip = s.cur.chip) → exec .home s = .next s.advance) ∧
      (∀ h, s.me.home = some h → h.chip ≠ s.cur.chip →
        ((s.cur.slot = 63 ∨ s.me.pair ≠ none) → exec .home s = .next (s.takeTrap .role 0 (chainWord0 s))) ∧
        (s.cur.slot ≠ 63 → s.me.pair = none → 32 < s.me.len → exec .home s = .next (s.takeTrap .migrateTooLarge 0 (word s.me.len))) ∧
        (s.cur.slot ≠ 63 → s.me.pair = none → s.me.len ≤ 32 → s.owes s.cur.chip s.owner = true → exec .home s = .next s) ∧
        (Claims.MustWait s h.chip → exec .home s = .next (s.parkFor (.leave h.chip) .net).state) ∧
        (Claims.MayDepart s h.chip → ∃ u, exec .home s = .next u ∧ Claims.Departs s u h.chip true))) ∧
    (Ready s { s := rdGroup src 2, d := rdReg d } v →
      let g := v.d.toNat % 256
      ((s.here.entry (0x40000000 + g)).holder ≠ s.holder →
        exec (.mcast d src) s = .next (s.takeTrap .notHolder 0 (word (0x40000000 + g)))) ∧
      ((s.here.entry (0x40000000 + g)).holder = s.holder → members (s.here.group g) = [] → exec (.mcast d src) s = .next s.advance) ∧
      (∀ i w, (s.here.entry (0x40000000 + g)).holder = s.holder → members (s.here.group g) = [(i, w)] → s.msgRefused 1 = false →
        w.toNat / 2 ^ 44 = s.cur.chip → ∃ u, exec (.mcast d src) s = .next u ∧ u.me.pc = s.nextPc ∧
          u.here.flights.any (fun e => match e.2 with
            | .msg m => decide (m.dst = w.toNat / 2 ^ 34 % 1024 ∧ m.pay.take 2 = [s.reg src.n.toNat, s.reg (src.n.toNat + 1)])
            | _ => false) = true) ∧
      (let e := s.here.group g
       let copies := s.mcastTo g (s.cap src.n.toNat)
       let isCopy (i : Nat) (w : Word) (m : Msg) : Bool := decide (m.dst = w.toNat / 2 ^ 34 % 1024 ∧ m.hdr.toNat / 2 ^ 48 = w.toNat / 2 ^ 28 % 64 ∧
         m.srcChip = s.cur.chip ∧ m.tagged = s.pairTag src.n.toNat ∧
         m.pay = [s.reg src.n.toNat, s.reg (src.n.toNat + 1), word ((e.headD 0).toNat / 2 ^ 48 * 65536 + g * 256 + i)])
       (s.here.entry (0x40000000 + g)).holder = s.holder →
       (copies = .error none → exec (.mcast d src) s = .next (s.park .net)) ∧
       (∀ dst, copies = .error (some dst) →
         exec (.mcast d src) s = .next ((s.onMe (fun t => { t with wait := .unit dst })).park .net)) ∧
       ((∃ s', copies = .ok s') → ∃ u, exec (.mcast d src) s = .next u ∧ u.me.pc = s.nextPc ∧ ∀ i w, (i, w) ∈ members e →
         let chip := w.toNat / 2 ^ 44
         (chip = s.cur.chip → u.here.flights.any (fun f => match f.2 with
           | .msg m => isCopy i w m
           | _ => false) = true) ∧
         (chip ≠ s.cur.chip → s.onTorus chip = true → u.packets.any (fun f => decide (f.2.dst = chip ∧ f.2.src = s.cur.chip) &&
           match f.2.load with
           | .mcast m => isCopy i w m
           | _ => false) = true)))) ∧
    (Ready s { mem := true, s := rdOp src, d := rwReg d } v → (s.here.entry (0x40000000 + v.d.toNat % 256)).holder ≠ s.holder →
      exec (.mcgrp d src) s = .next (s.takeTrap .notHolder 0 (word (0x40000000 + v.d.toNat % 256)))) ∧
    (∀ ws : List Word, Ready s { mem := true, s := rdOp src, d := rwReg d } v →
      let g := v.d.toNat % 256
      (s.here.entry (0x40000000 + g)).holder = s.holder → v.s.toNat % 8 = 0 → ws.length = 16 →
      (∀ i, i < 16 → ∃ pa, s.plainAddr (v.s + word (8 * i)) 8 { r := true } (300 + i) = .ok pa ∧
        (s.plainLoad pa 8 (10 + i)).bad = false ∧ word (s.plainLoad pa 8 (10 + i)).val = (ws[i]?).getD 0) →
      let gen := (((s.here.group g).headD 0).toNat / 2 ^ 48 + 1) % 65536
      let e := word (gen * 2 ^ 48) :: ws.tail.map (fun w => w &&& 0xFFFFFFFFF0000001)
      exec (.mcgrp d src) s =
        .next (((s.onHere (fun p => { p with groups := tset p.groups g e })).setReg d.toNat (word gen)).advance)) ∧
    (Ready s { s := rdGroup src 3, d := rdReg d } v →
      let g := v.d.toNat % 64
      let pool := (word (v.s.toNat % 2 ^ 20), s.reg (src.n.toNat + 1), s.reg (src.n.toNat + 2))
      ((s.here.entry (0x80000000 + g)).holder ≠ s.holder →
        exec (.guestset d src) s = .next (s.takeTrap .notHolder 0 (word (0x80000000 + g)))) ∧
      ((s.here.entry (0x80000000 + g)).holder = s.holder →
        exec (.guestset d src) s = .next ((s.onHere (fun p => { p with pools := tset p.pools g pool })).advance)))

/-- R405, R407, R415, R416, R425: a packet leaves its source unit, and goes on to the next router of its route, when that has room and no input that comes
before its own in the round robin of its class could be served; with the first hop of a MIGRATE packet its slot is RETIRED (R419); over a link that is down a request is answered NO-ROUTE, and a
migration stands again at the chip that it left (R421); a link that has failed
16 replays in a row goes down at both ends, and one that trains comes up at both; a request that times out is sent again, and is released at the
8th timeout; a stream with nothing outstanding opens anew, and its target lets its state go.
R411, R412, R416, R417, R423, R424, R434 to R436: a request that is next in its stream is performed at its target and answered: a store writes its bytes and
no other, a refused one writes nothing and is answered REVOKED, an atomic does what one at home does and its reply is the old value, a
fence writes its flag word full, a message, a bind request or a notice goes on, a value enters the queue of its port, and news that the other end has let go
breaks the port, which is the model's reading of R424 (log 27). A refused atomic, posted atomic
or fence changes no memory and is answered REVOKED too. A duplicate of any class is answered again as it was the first time and performs
nothing: of an atomic by the reply that the cache still holds, and by DUP-LOST or, where it had been refused, REVOKED when the cache holds none.
That a duplicate of a refused request is answered REVOKED again and that the nine inputs of a router take turns in one round are the model's readings
(log 30), and so is when a stream opens anew and its target lets its state go (log 41). -/
def Obligations.FabricTransport : Prop :=
  (∀ (s : State) (id : Nat) (k : Packet), tget? s.packets id = some k → (s.pkg k.here).routes = true →
    let last := tget (s.pkg k.here).served k.load.class_ 8
    let turn (k : Packet) : Nat := (k.via.getD 8 + 8 - last) % 9
    let first : Prop := ∀ e ∈ s.packets, e.2.here = k.here → e.2.load.class_ = k.load.class_ → turn e.2 < turn k → s.servable e.2 = false
    let crossed (t : State) (u : Nat) : Prop := tget (t.pkg k.here).served k.load.class_ 8 = k.via.getD 8 ∧
      (risingFrom 0 (s.pkg k.here).replays = true → tget? (t.pkg k.here).replays u = none)
    (∀ u, (k.load.class_ ≠ 0 ∨ k.original ≠ none) → k.here ≠ k.dst → s.route (decide (k.load.class_ = 1)) k.here k.dst = some u →
      (k.load.class_ ≠ 2 → u ∉ (s.pkg k.here).linksDown → s.mayHop k u = true → first → ∃ t, exec (.fabricPacketHop id) s = .next t ∧
        t.packets = tset s.packets id { k with here := s.neighbour k.here u, via := some u } ∧ crossed t u) ∧
      (∀ t0 regs h homing core slot, k.load = .migrate t0 regs h homing (core, slot) →
        (u ∉ (s.pkg k.here).linksDown → s.mayHop k u = true → first → ∃ t, exec (.fabricPacketHop id) s = .next t ∧
          t.packets = tset s.packets id { k with here := s.neighbour k.here u, via := some u } ∧ crossed t u ∧
          (k.via = none → s.leaving k = true → ((t.pkg k.src).thread core slot).life = .retired)) ∧
        (u ∈ (s.pkg k.here).linksDown → ∃ t, exec (.fabricPacketHop id) s = .next t ∧
          t.packets = tset s.packets id { k with dst := k.src, here := k.src, via := none })) ∧
      (∀ o, k.load.class_ = 0 → k.original = some o → u ∈ (s.pkg k.here).linksDown → ∃ t, exec (.fabricPacketHop id) s = .next t ∧
        t.packets.any (fun e => decide (e.2.load = .reply 0 false 5 ∧ e.2.original = some o ∧ e.2.dst = k.src ∧ e.2.here = k.here)) = true)) ∧
    (k.load.class_ = 0 → k.original = none → k.launched = false → k.dst ≠ k.src → k.here = k.src → k.unit ∉ (s.pkg k.src).linksDown →
      s.mayHop { k with via := none } k.unit = true → first → id ≠ s.nextPacket → ∃ t, exec (.fabricPacketHop id) s = .next t ∧
        tget? t.packets id = some { k with launched := true } ∧ crossed t k.unit ∧
        tget? t.packets s.nextPacket = some { k with here := s.neighbour k.src k.unit, via := some k.unit, original := some id, launched := true })) ∧
  (∀ (s : State) (chip port : Nat), port < 8 → (s.pkg chip).routes = true →
    (port ∉ (s.pkg chip).linksDown → tget (s.pkg chip).replays port 0 = 16 → ∃ t, exec (.linkDown chip port) s = .next t ∧
      port ∈ (t.pkg chip).linksDown ∧ farPort port ∈ (t.pkg (s.neighbour chip port)).linksDown) ∧
    (port ∈ (s.pkg chip).linksDown → srisingFrom 0 (s.pkg chip).linksDown = true → srisingFrom 0 (s.pkg (s.neighbour chip port)).linksDown = true →
      ∃ t, exec (.fabricLinkTrain chip port) s = .next t ∧ port ∉ (t.pkg chip).linksDown ∧
        farPort port ∉ (t.pkg (s.neighbour chip port)).linksDown)) ∧
  (∀ (s : State) (chip port dst : Nat), (s.pkg chip).phase = .running →
    let st := (s.pkg chip).srcStream dst port
    (∀ seq o k, st.out.find? (fun o => decide (o.seq = seq)) = some o → tget? s.packets o.packet = some k → k.launched = true →
      (o.tries < 7 → ∃ t, exec (.retransmitTimeout chip port dst seq) s = .next t ∧
        tget? t.packets o.packet = some { k with launched := false }) ∧
      (7 ≤ o.tries → risingFrom 0 s.packets = true → ∃ t, exec (.retransmitTimeout chip port dst seq) s = .next t ∧
        tget? t.packets o.packet = none)) ∧
    (st.fresh = false → st.out = [] → s.streamBusy chip port dst = false → ∃ t, exec (.streamRestart chip port dst) s = .next t ∧
      ((t.pkg chip).srcStream dst port).fresh = true) ∧
    (((s.pkg dst).srcStream chip port).fresh = true → (tget? (s.pkg chip).tgt (streamKey dst port)).isSome = true →
      s.streamBusy dst port chip = false → ∃ t, exec (.streamStateExpiry chip dst port) s = .next t ∧
        (risingFrom 0 (s.pkg chip).tgt = true → tget? (t.pkg chip).tgt (streamKey dst port) = none))) ∧
  (∀ (s : State) (id o : Nat) (k : Packet), tget? s.packets id = some k → k.original = some o → k.here = k.dst →
    (s.pkg k.dst).phase = .running →
    let p := s.pkg k.dst
    let answered (t : State) (l : Load) : Prop :=
      t.packets.any (fun e => decide (e.2.load = l ∧ e.2.original = some o ∧ e.2.dst = k.src ∧ e.2.src = k.dst)) = true
    let does (i : Instr) (l : Load) (q : State → Prop) : Prop := ∃ t, exec i s = .next t ∧ answered t l ∧ q t
    (s.standing k = .perform →
      (∀ bytes tag, k.load = .store bytes tag →
        (s.targetOf k bytes.length { w := true } = none →
          does (.fabricStoreArrival id) (.ack 6) (fun t => (t.pkg k.dst).mem = p.mem)) ∧
        (∀ pa, s.targetOf k bytes.length { w := true } = some pa → p.awakeAt pa = true → p.mem.wf = true →
          does (.fabricStoreArrival id) (.ack 0) (fun t =>
            (∀ i x, bytes[i]? = some x → (t.pkg k.dst).mem.byte (pa + i) = x) ∧
            ∀ a, a < pa ∨ pa + bytes.length ≤ a → (t.pkg k.dst).mem.byte a = p.mem.byte a))) ∧
      (∀ op double x y pa, k.load = .amo op double x y → s.targetOf k (if double then 8 else 4) { r := true, w := true } = some pa →
        p.awakeAt pa = true →
        let r := p.atomic none op double pa x y
        does (.fabricAmoArrival id) (.reply r.2.1 r.2.2 0) (fun t => (t.pkg k.dst).mem = r.1.mem)) ∧
      (∀ op x pa, k.load = .posted op x → s.targetOf k 8 { r := true, w := true } = some pa → p.awakeAt pa = true →
        does (.fabricPostedArrival id) (.ack 0) (fun t => (t.pkg k.dst).mem = (p.atomic none op true pa x 0).1.mem)) ∧
      (∀ x words pa, k.load = .fence x words → s.targetOf k 8 { w := true } = some pa → p.awakeAt pa = true → p.mem.wf = true →
        (∀ e ∈ p.flights, ∀ h, e.2 = .fe h → h.enlisted = false) →
        does (.fabricFenceArrival id) (.ack 0) (fun t => (t.pkg k.dst).mem.word pa = x ∧ (t.pkg k.dst).mem.full pa = true)) ∧
      (∀ op double x y, k.load = .amo op double x y → s.targetOf k (if double then 8 else 4) { r := true, w := true } = none →
        does (.fabricAmoArrival id) (.reply 0 false 6) (fun t => (t.pkg k.dst).mem = p.mem ∧
          k.seq ∈ ((t.pkg k.dst).tgtStream k.src k.unit).refused)) ∧
      (∀ op x, k.load = .posted op x → s.targetOf k 8 { r := true, w := true } = none →
        does (.fabricPostedArrival id) (.ack 6) (fun t => (t.pkg k.dst).mem = p.mem)) ∧
      (∀ x words, k.load = .fence x words → s.targetOf k 8 { w := true } = none →
        does (.fabricFenceArrival id) (.ack 6) (fun t => (t.pkg k.dst).mem = p.mem)) ∧
      (∀ m, k.load = .mcast m → does (.fabricMcastArrival id) (.ack 0) (fun t =>
        (t.pkg k.dst).flights.any (fun e => decide (e.2 = .msg m)) = true)) ∧
      (∀ b, k.load = .portBind b → does (.fabricPortArrival id) (.ack 0) (fun t =>
        (t.pkg k.dst).flights.any (fun e => decide (e.2 = .bind b)) = true)) ∧
      (∀ x, k.load = .portValue x → p.awake x.dst = true → does (.fabricPortArrival id) (.ack 0) (fun t => (t.pkg k.dst).mem = p.mem ∧
        let r := (p.thread x.dst x.slot).port x.port
        ((p.thread x.dst x.slot).live = true → (p.thread x.dst x.slot).gen = x.gen → r.st = .bound → r.peerChip = k.src →
          r.peer = handleOf x.src.gen x.src.core x.src.slot →
          (((t.pkg k.dst).thread x.dst x.slot).port x.port).queue = r.queue ++ [x.val]))) ∧
      (∀ n, k.load = .portNews n → n.refused = false → does (.fabricPortArrival id) (.ack 0) (fun t =>
        let r := (p.thread n.dst n.slot).port (opposite n.port)
        (p.thread n.dst n.slot).live = true → r.st = .bound → r.peerChip = k.src → r.peer = handleOf n.owner.gen n.owner.core n.owner.slot →
          (((t.pkg k.dst).thread n.dst n.slot).port (opposite n.port)).st = .broken)) ∧
      (∀ die slot core face step b, k.load = .notice die slot core face step → (p.grid die slot).tileOn core = some b →
        does (.fabricNoticeArrival id) (.ack 0) (fun t => ∃ b', ((t.pkg k.dst).grid die slot).tileOn core = some b' ∧
          tget? b'.notices face = some step))) ∧
    (s.standing k = .duplicate →
      let was (st : Nat) : Nat := if (p.tgtStream k.src k.unit).refused.contains k.seq then 6 else st
      let again (i : Instr) (l : Load) : Prop := does i l (fun t => ∀ chip, t.pkg chip = s.pkg chip)
      (∀ bytes tag, k.load = .store bytes tag → again (.fabricStoreArrival id) (.ack (was 0))) ∧
      (∀ op x, k.load = .posted op x → again (.fabricPostedArrival id) (.ack (was 0))) ∧
      (∀ x words, k.load = .fence x words → again (.fabricFenceArrival id) (.ack (was 0))) ∧
      (∀ m, k.load = .mcast m → again (.fabricMcastArrival id) (.ack (was 0))) ∧
      (((∃ x, k.load = .portValue x) ∨ (∃ b, k.load = .portBind b) ∨ ∃ n, k.load = .portNews n) → again (.fabricPortArrival id) (.ack (was 0))) ∧
      (∀ die slot core face step, k.load = .notice die slot core face step → again (.fabricNoticeArrival id) (.ack (was 0))) ∧
      (∀ op double x y, k.load = .amo op double x y →
        (p.recall k.src k.unit k.seq = none → again (.fabricAmoArrival id) (.reply 0 false (was 4))) ∧
        (∀ r, p.recall k.src k.unit k.seq = some r → does (.fabricAmoArrival id) (.reply r.val r.bad r.status) (fun t =>
          (∀ chip, chip ≠ k.dst → t.pkg chip = s.pkg chip) ∧ t.pkg k.dst = { p with cache := (t.pkg k.dst).cache })))))

/-- R412, R414, R417, R419 to R421: an answer releases the copy of its request, and an atomic's reply goes on to its thread. R436: the answer to a FENCE
writes D with its status and completes the chain; a NO-ROUTE that comes for a FENCE which has been performed gives the status of its
performance, which is the model's reading (log 30). A thread that comes home, or that a pool admits,
takes a slot of its core with its registers; a migration that is
not admitted turns back, and its thread then stands at its old chip with the trap CAP. -/
def Obligations.FabricAnswersAndThreads : Prop :=
  ∀ (s : State) (id : Nat) (k : Packet), tget? s.packets id = some k → (s.pkg k.dst).phase = .running →
    (∀ x bad st o h, k.here = k.dst → k.load = .reply x bad st → k.original = some o → tget? s.packets o = some h → o ≠ id → h.slab = none →
      (∃ op dbl a b, h.load = .amo op dbl a b) → ∃ t, exec (.fabricReplyArrival id) s = .next t ∧
        (risingFrom 0 s.packets = true → tget? t.packets o = none) ∧
        (t.pkg h.src).flights.any (fun e => decide (e.2 = .result h.owner (.regs [⟨h.reg, if st = 0 then x else 0, bad, false⟩,
          ⟨h.reg2, word st, false, false⟩]))) = true) ∧
    (∀ st o h, k.here = k.dst → k.load = .ack st → k.original = some o → tget? s.packets o = some h → o ≠ id →
      ∃ t, exec (.fabricAckArrival id) s = .next t ∧ (risingFrom 0 s.packets = true → tget? t.packets o = none)) ∧
    (∀ st o h x words len, k.here = k.dst → (k.load = .ack st ∨ k.load = .reply 0 false st) → k.original = some o → tget? s.packets o = some h → o ≠ id →
      h.load = .fence x words → h.slab = none → (st = 5 → s.performed h = false) →
      let t0 := (s.pkg h.src).thread h.owner.core h.owner.slot
      t0.wait = .fence o len → (s.pkg h.src).ownerLive h.owner = true → h.reg < t0.len →
      ∃ t, exec (match k.load with | .ack _ => .fabricAckArrival id | _ => .fabricReplyArrival id) s = .next t ∧
        let u := (t.pkg h.src).thread h.owner.core h.owner.slot
        u.pc = t0.pc + BitVec.ofNat 56 len ∧ u.wait = .none ∧ u.life = (if t0.life = .parked then .ready else t0.life) ∧
        (((t.pkg h.src).core h.owner.core).reg u h.reg).val = word st ∧ (((t.pkg h.src).core h.owner.core).reg u h.reg).full = true) ∧
    (let arrives (t0 : Thread) (regs : List RegCell) (c slot base : Nat) : Prop := ∃ t, exec (.migrateArrival id) s = .next t ∧
       let u := (t.pkg k.dst).thread c slot
       u.life = .ready ∧ u.pc = t0.pc ∧ u.base = base ∧ u.len = t0.len ∧ u.vec = t0.vec ∧ u.cause = t0.cause ∧ u.fmode = t0.fmode ∧
       u.flags = t0.flags ∧ (regs.length = t0.len → ∀ i r, regs[i]? = some r → ((t.pkg k.dst).core c).reg u i = r)
     (∀ t0 regs handle origin h slot base, k.load = .migrate t0 regs handle true origin → k.arrived = true → t0.home = some h →
       (s.pkg k.dst).coreHolder h.core = h.holder → (s.pkg k.dst).mayHost t0.len h.core = true → (s.pkg k.dst).awake h.core = true →
       ((s.pkg k.dst).core h.core).pickSlot = some slot → ((s.pkg k.dst).core h.core).fitWindow t0.len = some base →
       arrives t0 regs h.core slot base) ∧
     (∀ t0 regs handle origin pool c slot base, k.load = .migrate t0 regs handle false origin → k.arrived = true →
       s.admissible k t0 false = some pool → c ∈ (s.pkg k.dst).poolCores pool → (s.pkg k.dst).mayHost t0.len c = true →
       (∀ x ∈ (s.pkg k.dst).poolCores pool, x ≠ c → (s.pkg k.dst).mayHost t0.len x = false) → (s.pkg k.dst).awake c = true →
       ((s.pkg k.dst).core c).pickSlot = some slot → ((s.pkg k.dst).core c).fitWindow t0.len = some base →
       arrives t0 regs c slot base)) ∧
    (∀ t0 regs handle homing origin, k.load = .migrate t0 regs handle homing origin → k.arrived = true →
      s.admissible k t0 homing = none → exec (.migrateReturn id) s =
        .next { s with packets := tset s.packets id { k with dst := k.src, here := k.src, via := none } }) ∧
    (∀ t0 regs handle homing core slot0 slot base, k.load = .migrate t0 regs handle homing (core, slot0) → k.here = k.src → k.dst = k.src →
      ((s.pkg k.src).thread core slot0).life ≠ .migrating → (s.pkg k.src).coreHolder core = k.holder →
      (s.pkg k.src).mayHost t0.len core = true → (s.pkg k.src).awake core = true → firstIn 0 63 ((s.pkg k.src).core core).slotFree = some slot →
      ((s.pkg k.src).core core).fitWindow t0.len = some base →
      ∃ t, exec (.migrateReturn id) s = .next t ∧ ((t.pkg k.src).thread core slot).cause.toNat % 256 = 12 ∧
        ((t.pkg k.src).thread core slot).epc = t0.pc.setWidth 64)

/-! ## The host (R214, R223, R369 to R377, R382) and power (R378 to R383) -/

/-- R369 to R371, R376, R378, R382: what the host writes. A function writes the registers of a ring that its holder holds, and no other's; a pointer of 0 stops the ring, and any other starts a
sample of it, as a doorbell does; a usable sample of a control block, in any memory that its holder holds, comes into force and sets RSTAT to RUNNING, of one that agrees in BASE, LOG2N and
MERGE with the version in force, on a ring that is not halted, WRIDX alone is taken, and another leaves the ring as
it is and sets RSTAT to BAD-BLOCK (that a sample is one step, that any memory will do, that a BASE which is not 64-aligned is not usable, that bits [5:0] of a pointer are not kept, RUNNING, and BAD-BLOCK in a block that the
ring's holder does not hold are the model's readings: log 29); the boot
registers are function 0's, and a write by another function is ignored; BOOTGO starts a waiting package; a host write changes the bytes that it names and no other, and
makes their words unstable for every core (R214), a host read nothing. -/
def Obligations.HostWrites : Prop :=
  ∀ (s : State) (chip : Nat), (s.pkg chip).hostUp = true →
    let p := s.pkg chip
    (∀ fn ring (v : Word), p.mayWriteRing fn ring = false →
      exec (.cbptrWrite chip fn ring v) s = .next (s.setPkg chip p) ∧ exec (.doorbellWrite chip fn ring) s = .next (s.setPkg chip p)) ∧
    (∀ fn ring, p.mayWriteRing fn ring = true → ∃ t, exec (.cbptrWrite chip fn ring 0) s = .next t ∧
      ((t.pkg chip).ring ring).block = none ∧ ((t.pkg chip).ring ring).cbptr = 0 ∧ (t.pkg chip).mem = p.mem) ∧
    (∀ fn ring (v : Word), p.mayWriteRing fn ring = true → v.toNat / 64 ≠ 0 → ∃ t u, exec (.cbptrWrite chip fn ring v) s = .next t ∧
      exec (.doorbellWrite chip fn ring) (s.setPkg chip (p.setRing ring { p.ring ring with fn := fn, cbptr := v.toNat / 64 * 64 })) = .next u ∧
      t.pkg chip = u.pkg chip) ∧
    (∀ fn ring, p.mayWriteRing fn ring = true → (p.ring ring).cbptr ≠ 0 → (p.mem.word (p.ring ring).cbptr).getLsbD 0 = true →
      (∃ t, exec (.doorbellWrite chip fn ring) s = .next t ∧ ((t.pkg chip).ring ring).sampling = true ∧ (t.pkg chip).mem = p.mem) ∧
      ((p.ring ring).sampling = true → ∃ t, exec (.ringSampleRetry chip ring) s = .next t ∧ ((t.pkg chip).ring ring).sampling = true)) ∧
    (∀ fn ring (i : Instr), ((i = .doorbellWrite chip fn ring ∧ p.mayWriteRing fn ring = true) ∨ (i = .ringSampleRetry chip ring ∧ (p.ring ring).sampling = true)) →
      let x := p.ring ring
      let a := x.cbptr
      let at_ (j : Nat) : Word := p.mem.word (a + 8 * j)
      let w := (at_ 2).toNat
      let b : RingBlock := ⟨(at_ 1).toNat, w % 64, w / 2 ^ 8 % 16, w / 2 ^ 16 % 2 ^ 16, (at_ 3).toNat⟩
      let usable : Prop := b.holder = p.ringHolder ring ∧ 1 ≤ b.log2n ∧ b.log2n ≤ 16 ∧ b.base % 64 = 0 ∧ w / 2 ^ 32 = 0 ∧ w / 2 ^ 12 % 16 = 0 ∧
        w / 2 ^ 6 % 4 = 0 ∧ at_ 6 = 0 ∧ at_ 7 = 0 ∧ p.holds b.holder a 64 = true ∧ p.holds b.holder b.base (64 * 2 ^ b.log2n) = true
      a ≠ 0 → (at_ 0).getLsbD 0 = false → p.mem.wf = true →
      let agrees (o : RingBlock) : Prop := o.base = b.base ∧ o.log2n = b.log2n ∧ o.merge = b.merge ∧ x.halted = false
      (usable → ∃ t, exec i s = .next t ∧ ((t.pkg chip).ring ring).sampling = false ∧ (t.pkg chip).mem.word (a + 40) = 0 ∧
        (∀ o, x.block = some o → agrees o → ((t.pkg chip).ring ring).block = some { o with wridx := b.wridx } ∧
          ((t.pkg chip).ring ring).rdidx = x.rdidx) ∧
        ((∀ o, x.block = some o → ¬ agrees o) → ((t.pkg chip).ring ring).block = some b ∧
          ((t.pkg chip).ring ring).rdidx = (at_ 4).toNat ∧ ((t.pkg chip).ring ring).halted = false)) ∧
      (¬ usable → ∃ t, exec i s = .next t ∧ ((t.pkg chip).ring ring).block = x.block ∧ ((t.pkg chip).ring ring).rdidx = x.rdidx ∧
        ((t.pkg chip).ring ring).sampling = false ∧ (t.pkg chip).mem.word (a + 40) = 2)) ∧
    (∀ fn offset (v : Word), fn ≠ 0 → exec (.hostRegisterWrite chip fn offset v) s = .next (s.setPkg chip p)) ∧
    (∀ v : Word, exec (.hostRegisterWrite chip 0 0x10 v) s = .next (s.setPkg chip { p with bootAdr := v }) ∧
      (v.toNat ≤ 524288 → exec (.hostRegisterWrite chip 0 0x18 v) s = .next (s.setPkg chip { p with bootLen := v }))) ∧
    (p.phase = .waiting → exec (.bootgoWrite chip) s = .next (s.setPkg chip { p with phase := .booting })) ∧
    (∀ addr (bytes : List Byte), (∀ i, i < bytes.length → p.hostMayReach (addr + i) = true) → p.mem.wf = true →
      ∃ t, exec (.hostCxlWrite chip addr bytes) s = .next t ∧
        (∀ i x, bytes[i]? = some x → (t.pkg chip).mem.byte (addr + i) = x ∧
          ∀ c, Claims.Unstable (t.pkg chip) c (addr + i)) ∧
        ∀ a, a < addr ∨ addr + bytes.length ≤ a → (t.pkg chip).mem.byte a = p.mem.byte a) ∧
    (∀ addr n, (∀ i, i < n → p.hostMayReach (addr + i) = true) → exec (.hostCxlRead chip addr n) s = .next s) ∧
    (∀ ns, exec (.hostLtrUpdate chip ns) s = .next (s.setPkg chip { p with ltr := some ns }))

/-- R372 to R377: the merge unit takes the next packet of the ring whose turn it is: the groups one after the other, and in a group its rings in
ascending order; a packet whose signal address is not translated is taken as ABORTED. NOP is OK, BARRIER is ABORTED on a negative word and OK on words at or
below 0, SIGNAL adds or stores, LAUNCH sends a HOST message,
a COPY of no bytes is OK (log 49), one that is not translated, or would write an EXPORTED bank, is ABORTED, and any other starts its copy, whose last piece
to end completes it, OK if the copy is OK and else ABORTED; an INDIRECT of depth 4 halts its ring, one whose array has ended is OK, and else it takes the next
packet of its array, one level deeper, or is ABORTED where that is not translated; a packet that completes leaves, adding -1 to its signal word
or, ABORTED, storing 0x8000000000000000 there, once the word's cluster is awake (R378), and an ABORTED BARRIER aborts its ring; a link reset sets the
RSTAT of the blocks in HBM to RESET and empties every ring. A function that is reset drains the rings of its holder, whose entries pass
on to the heir, the lender or the minter, and whose loans return; of holder 1 it drains its own rings alone, and the map stands.
Which ring has its turn after the one last served is the model's reading (log 31), and so are how an INDIRECT ends, and that a reset of function 0
or of a function of holder 1 drains the rings whose CBPTR that function wrote last (log 29). -/
def Obligations.HostPackets : Prop :=
  ∀ (s : State) (chip : Nat), (s.pkg chip).phase = .running →
    let p := s.pkg chip
    (let ready (r : Nat) (b : RingBlock) : Prop := (p.ring r).block = some b ∧ (p.ring r).halted = false ∧
       (p.ring r).rdidx ≠ b.wridx ∧ p.ringHeld r [] = false
     let rank (t n x : Nat) : Nat := if t ≤ x then x - t else n + x
     ∀ r b, r < 1024 → b.merge < 16 → ready r b →
      (∀ q c, q < 1024 → c.merge < 16 → ready q c → c.merge ≠ b.merge → rank (tget p.mergeTurn 16 0) 16 b.merge < rank (tget p.mergeTurn 16 0) 16 c.merge) →
      (∀ q c, q < 1024 → q ≠ r → ready q c → c.merge = b.merge →
        rank (tget p.mergeTurn b.merge 0) 1024 r < rank (tget p.mergeTurn b.merge 0) 1024 q) →
      ∃ t, exec (.packetTake chip r) s = .next t ∧ ((t.pkg chip).ring r).rdidx = ((p.ring r).rdidx + 1) % 2 ^ 64 ∧
        tget (t.pkg chip).mergeTurn b.merge 0 = r + 1 ∧ tget (t.pkg chip).mergeTurn 16 0 = b.merge + 1 ∧
        ∃ j k, (t.pkg chip).job j = some (.packet k) ∧ k.ring = r ∧ k.depth = 0 ∧ k.holder = b.holder ∧
          k.bytes = ((p.mem.bytes (b.base + 64 * ((p.ring r).rdidx % 2 ^ b.log2n)) 64).map (·.2)) ∧
          (k.num 8 8 ≠ 0 → (t.pkg chip).packetWord k (k.num 8 8) (s.free 9) { r := true, w := true } = none → k.outcome = some false)) ∧
    (∀ id k, p.job id = some (.packet k) →
      let ends (i : Instr) (ok : Bool) : Prop := exec i s = .next (s.setPkg chip (p.setJob id (.packet { k with outcome := some ok })))
      let word_ (at_ : Nat) : Option Int := (p.packetWord k (k.num at_ 8) (s.free 9) { r := true }).map (fun pa => (p.mem.word pa).toInt)
      let names (at_ : Nat) : Prop := k.num at_ 8 ≠ 0
      (k.outcome = none →
        (k.kind = 0 → ends (.packetNop chip id) true) ∧
        (k.kind = 2 → (∀ at_ ∈ [16, 24, 32], names at_ → ∃ x, word_ at_ = some x ∧ x ≤ 0) →
          ((∃ at_ ∈ [16, 24, 32], names at_ ∧ ∃ x, word_ at_ = some x ∧ x < 0) → ends (.packetBarrier chip id) false) ∧
          ((∀ at_ ∈ [16, 24, 32], names at_ → word_ at_ = some 0) → ends (.packetBarrier chip id) true)) ∧
        (∀ pa, k.kind = 3 → k.num 32 1 = 0 → p.packetWord k (k.num 16 8) (s.free 9) { r := true, w := true } = some pa → p.awakeAt pa = true →
          p.mem.wf = true → p.mem.isBad (wordOf pa) = false → ∃ t, exec (.packetSignal chip id) s = .next t ∧
            (t.pkg chip).mem.word pa = p.mem.word pa + word (k.num 24 8) ∧ (t.pkg chip).job id = some (.packet { k with outcome := some true }) ∧
            ∀ a, a < pa ∨ pa + 8 ≤ a → (t.pkg chip).mem.byte a = p.mem.byte a) ∧
        (∀ pa, k.kind = 3 → k.num 32 1 = 1 → p.packetWord k (k.num 16 8) (s.free 9) { w := true } = some pa → p.awakeAt pa = true →
          p.mem.wf = true → ∃ t, exec (.packetSignal chip id) s = .next t ∧
            (t.pkg chip).mem.word pa = word (k.num 24 8) ∧ (t.pkg chip).job id = some (.packet { k with outcome := some true }) ∧
            ∀ a, a < pa ∨ pa + 8 ≤ a → (t.pkg chip).mem.byte a = p.mem.byte a) ∧
        (k.kind = 1 → k.taken = false → k.num 20 4 = 0 → k.num 18 1 ≠ 0 → p.serves 1024 k.holder p.launchWaiters = true →
          ∃ t, exec (.packetLaunch chip id) s = .next t ∧ (t.pkg chip).flights.any (fun e => match e.2 with
            | .msg m => decide (m.dst = k.num 16 2 ∧ m.hdr = header 4 (k.num 18 1) k.holder 0 0 ∧ m.pay.length = 5)
            | _ => false) = true) ∧
        (k.kind = 1 → k.taken = false → k.num 18 1 = 0 → k.num 48 8 = 0 → k.num 56 8 = 0 → p.serves 1024 k.holder p.launchWaiters = true →
          ∃ t, exec (.packetLaunch chip id) s = .next t ∧ (t.pkg chip).flights.any (fun e => match e.2 with
            | .msg m => decide (m.dst = k.num 16 2 ∧ m.hdr = header 4 0 k.holder 0 0 ∧ m.pay.length = 3)
            | _ => false) = true) ∧
        (k.kind = 5 → k.taken = false → k.num 32 8 = 0 → ends (.packetCopy chip id) true) ∧
        (k.kind = 5 → k.taken = false → k.num 32 8 ≠ 0 →
          let n := k.num 32 8
          let page (va : Nat) (need : Perm) (i : Nat) : Option Nat := p.packetAddr k (va / 4096 * 4096 + 4096 * i) (s.free 9) need
          let last (va : Nat) : Nat := (va % 4096 + n + 4095) / 4096
          let closed (pa : Nat) : Prop := ∃ c b, p.place pa = .scratch c b ∧ (p.core c).exported.contains b = true
          let from_ := k.num 16 8
          let to_ := k.num 24 8
          (((∃ i, i < last to_ ∧ (page to_ { w := true } i = none ∨ ∃ pa, page to_ { w := true } i = some pa ∧ closed pa)) ∨
            ∃ i, i < last from_ ∧ page from_ { r := true } i = none) → ends (.packetCopy chip id) false) ∧
          ((∀ i, i < last to_ → ∃ pa, page to_ { w := true } i = some pa ∧ ¬ closed pa) →
            (∀ i, i < last from_ → ∃ pa, page from_ { r := true } i = some pa) → (∀ e ∈ p.flights, e.1 < p.nextId) →
            ∃ t j, exec (.packetCopy chip id) s = .next t ∧ (t.pkg chip).mem = p.mem ∧
              (t.pkg chip).job id = some (.packet { k with taken := true }) ∧ ∃ c : Copy, (t.pkg chip).job j = some (.copy c) ∧
                c.packet = some id ∧ c.holder = k.holder ∧ c.spec.getLsbD 63 = true ∧ c.status = 0 ∧ c.pieces ≠ 0 ∧
                c.src.fmt = 36 ∧ c.dst.fmt = 36 ∧ c.src.count = n ∧ c.dst.count = n ∧
                (t.pkg chip).flights.any (fun e => match e.2 with
                  | .piece x => decide (x.copy = j ∧ x.stage = .queued)
                  | _ => false) = true ∧
                ∀ i pa, i < n → (page from_ { r := true } ((from_ % 4096 + i) / 4096) = some pa →
                    c.src.addr (from_ % 4096 + i) = pa / 4096 * 4096 + (from_ % 4096 + i) % 4096) ∧
                  (page to_ { w := true } ((to_ % 4096 + i) / 4096) = some pa →
                    c.dst.addr (to_ % 4096 + i) = pa / 4096 * 4096 + (to_ % 4096 + i) % 4096))) ∧
        (k.kind = 4 → k.depth ≠ 4 → (p.ring k.ring).halted = false → k.next < k.num 24 4 → p.ringHeld k.ring (p.enclosing 5 id) = false →
          let byte (i : Nat) : Option Nat := p.packetAddr k (k.num 16 8 + 64 * k.next + i) (s.free 9) { r := true }
          ((∃ i, i < 64 ∧ byte i = none) → ends (.packetIndirect chip id) false) ∧
          (∀ bs : List Byte, bs.length = 64 → (∀ i, i < 64 → ∃ pa, byte i = some pa ∧ bs[i]? = some (p.mem.byte pa)) →
            (∀ e ∈ p.flights, e.1 < p.nextId) → ∃ t j, exec (.packetIndirect chip id) s = .next t ∧ (t.pkg chip).mem = p.mem ∧
              ∃ q m : HostPacket, (t.pkg chip).job j = some (.packet q) ∧ q.parent = some id ∧ q.depth = k.depth + 1 ∧ q.ring = k.ring ∧
                q.holder = k.holder ∧ q.bytes = bs ∧ (t.pkg chip).job id = some (.packet m) ∧ m.next = k.next + 1 ∧
                (k.next + 1 < k.num 24 4 → m.outcome = none) ∧
                (k.next + 1 = k.num 24 4 → q.kind ≠ 4 →
                  (∀ e ∈ p.flights, ∀ o : HostPacket, e.2 = .packet o → o.parent = some id → o.kind = 4 → o.outcome ≠ none) →
                  m.outcome = some true))) ∧
        (k.kind = 4 → k.depth ≠ 4 → (p.ring k.ring).halted = false → k.num 24 4 ≤ k.next →
          (∀ e ∈ p.flights, ∀ q : HostPacket, e.2 = .packet q → q.parent = some id → q.kind = 4 → q.outcome ≠ none) → ends (.packetIndirect chip id) true) ∧
        (k.kind = 4 → k.depth = 4 → ∃ t, exec (.packetIndirect chip id) s = .next t ∧ ((t.pkg chip).ring k.ring).halted = true)) ∧
      (∀ piece l (x : Piece) (c : Copy), p.job piece = some (.piece x) → p.job x.copy = some (.copy c) → c.packet = some id → x.save = none →
        c.pieces = 1 → x.stage = .reading → x.toWrite = [l] → p.awakeAt l = true → p.lineReady x c l = true → c.spec.getLsbD 63 = true →
        risingFrom 0 p.flights = true → ∃ t, exec (.clovePieceWrite chip piece) s = .next t ∧
          (t.pkg chip).job id = some (.packet { k with outcome := some (decide (c.status = 0)) }) ∧ (t.pkg chip).job x.copy = none) ∧
      (∀ ok, k.outcome = some ok →
        let at_ : Option Nat := if k.num 8 8 = 0 then none else p.packetWord k (k.num 8 8) (s.free 9) { r := true, w := true }
        (∀ pa, at_ = some pa → p.awakeAt pa = false → exec (.packetComplete chip id) s = .fault .notEnabled) ∧
        ((∀ pa, at_ = some pa → p.awakeAt pa = true) → ∃ t, exec (.packetComplete chip id) s = .next t ∧
          (risingFrom 0 p.flights = true → (t.pkg chip).job id = none) ∧
          (k.kind = 2 → ok = false → ((t.pkg chip).ring k.ring).abort = true) ∧
          (at_ = none → (t.pkg chip).mem = p.mem) ∧
          ∀ pa, at_ = some pa → p.mem.wf = true → p.mem.isBad (wordOf pa) = false →
            (t.pkg chip).mem.word pa = (if ok then p.mem.word pa - 1 else 0x8000000000000000) ∧
            ∀ a, a < pa ∨ pa + 8 ≤ a → (t.pkg chip).mem.byte a = p.mem.byte a))) ∧
    (∃ t, exec (.hostLinkReset chip) s = .next t ∧ (t.pkg chip).rings = [] ∧ (t.pkg chip).linkUp = false ∧
      (∀ e ∈ (t.pkg chip).flights, ∀ k, e.2 = .packet k → k.outcome = some false ∧ k.sig ≠ 0) ∧
      ((∀ c, (p.cluster c).power = .active) → ∀ e ∈ (t.pkg chip).flights, ∀ k, e.2 ≠ .packet k) ∧
      (p.mem.wf = true → (∀ e ∈ p.rings, e.2.cbptr % 64 = 0) → ∀ e ∈ p.rings, 0x10000000000 ≤ e.2.cbptr → e.2.cbptr < 0x18000000000 →
        (t.pkg chip).mem.word (e.2.cbptr + 40) = 3)) ∧
    (p.linkUp = false → exec (.hostLinkUp chip) s = .next (s.setPkg chip { p with linkUp := true })) ∧
    (∀ fn, p.linkUp = true → fn ≤ 64 → risingFrom 0 p.flights = true → (∀ e ∈ p.flights, e.1 < p.nextId) →
      let h := (p.entry (0x30000000 + fn)).holder
      let drained (t : State) (r : Nat) : Prop :=
        (∀ e ∈ (t.pkg chip).flights, ∀ k : HostPacket, e.2 = .packet k → k.ring = r → k.outcome = some false ∧ k.sig ≠ 0) ∧
        ((∀ c, (p.cluster c).power = .active) → ∀ e ∈ (t.pkg chip).flights, ∀ k : HostPacket, e.2 = .packet k → k.ring ≠ r) ∧
        ∀ b, (p.ring r).block = some b → ((t.pkg chip).ring r).rdidx = b.wridx
      let leaves (t : State) (r to_ : Nat) : Prop := (t.pkg chip).flights.any (fun f => match f.2 with
        | .transfer x => decide (x.rid = r ∧ x.holder = to_ ∧ x.lender = 0)
        | _ => false) = true
      ∃ t, exec (.functionLevelReset chip fn) s = .next t ∧
        (fn ≠ 0 → h ≠ 1 → h ≠ 0 → (∀ r, p.ringHolder r = h → drained t r) ∧
          ∀ r e, tget? p.map r = some e → ridKind r ≠ 1 → e.busy = false →
            (e.holder = h → e.lender = 0 → (∀ f ∈ p.flights, ∀ c : Claim, f.2 = .claim c → c.rid ≠ r) → ((t.pkg chip).entry r).busy = true ∧
              (e.heir ≠ 0 → leaves t r e.heir) ∧ (e.heir = 0 → ∀ x, p.holderRec h = some x → leaves t r x.minter)) ∧
            (e.holder = h → e.lender ≠ 0 → e.lender ≠ h → leaves t r e.lender) ∧
            (e.lender = h → leaves t r h)) ∧
        ((fn = 0 ∨ h = 1) → (∀ r, p.ringHolder r = h → (p.ring r).fn = fn → drained t r) ∧ (t.pkg chip).map = p.map))

/-- R378 to R383, R415: power states of clusters, power-up, boot, fatal errors and the dump. A cluster enters the deepest state that its limit permits, keeps in it what that state
keeps, and leaves it ACTIVE; POWER_UP leaves a package as
reset leaves one, the boot starts slot 0 of core 0 at address 0 under holder 1, a fatal error freezes the package, the dump changes its
own region alone, and a fundamental reset boots the package with its memory as it stands, which is the model's choice (log 37).
The model's own besides: that slot generations outlast OFF, that RETAIN empties the caches and that what a state does not keep is lost at its
entry (log 32), that an exit may start at any time (log 33), the layout of the dump (log 36), and the values that the spec does not give of a package
after power-up (log 8). -/
def Obligations.PowerSteps : Prop :=
  ∀ (s : State) (chip : Nat),
    let p := s.pkg chip
    (∀ cluster w, p.phase = .running → cluster < 256 → (p.cluster cluster).power = .active → p.idle cluster = true → p.deepest cluster = some w →
      ∃ t, exec (.clusterPowerEntry chip cluster) s = .next t ∧ ((t.pkg chip).cluster cluster).power = w ∧
        (w ≠ .off → (t.pkg chip).mem = p.mem ∧ ∀ c e, ((t.pkg chip).core c).cell e = (p.core c).cell e) ∧
        (∀ c, c < 1024 → clusterOf c = cluster →
          (w = .retain → ((t.pkg chip).core c).icache = [] ∧ ((t.pkg chip).core c).tlb = [] ∧ ((t.pkg chip).core c).threads = (p.core c).threads ∧
            ((t.pkg chip).core c).mbox = (p.core c).mbox) ∧
          (w = .off → ((t.pkg chip).core c).outbox = [] ∧ ((t.pkg chip).core c).mbox = [] ∧
            (∀ slot, ((t.pkg chip).thread c slot).gen = (p.thread c slot).gen) ∧
            (p.mem.wf = true → ∀ a, c * 0x80000 ≤ a → a < (c + 1) * 0x80000 → (t.pkg chip).mem.byte a = 0))) ∧
        (p.mem.wf = true → ∀ a, (∀ c, c < 1024 → clusterOf c = cluster → a < c * 0x80000 ∨ (c + 1) * 0x80000 ≤ a) →
          (t.pkg chip).mem.byte a = p.mem.byte a)) ∧
    (∀ cluster, p.phase = .running → (p.cluster cluster).power ≠ .active → (p.cluster cluster).exiting = false →
      ∃ t, exec (.clusterPowerExitStart chip cluster) s = .next t ∧ ((t.pkg chip).cluster cluster).exiting = true) ∧
    (∀ cluster, p.phase = .running → (p.cluster cluster).exiting = true → ∃ t, exec (.clusterPowerExitComplete chip cluster) s = .next t ∧
      ((t.pkg chip).cluster cluster).power = .active ∧ ((t.pkg chip).cluster cluster).exiting = false ∧
      (t.pkg chip).mem = p.mem ∧ (t.pkg chip).cores = p.cores) ∧
    (p.phase = .unpowered → s.onTorus chip = true → p.tier0 = 0 → p.tier1 = 0 →
      exec (.powerUp chip) s = .next (s.setPkg chip Package.fresh)) ∧
    (p.phase ≠ .unpowered → ∃ t, exec (.powerLoss chip) s = .next t ∧ (t.pkg chip).phase = .unpowered ∧
      ∀ e ∈ t.packets, e.2.here ≠ chip) ∧
    (∀ i, p.phase = .booting → p.linkUp = true → p.freeCell 0 (s.free 4) = some i → ∃ t, exec (.bootStart chip) s = .next t ∧
      (t.pkg chip).phase = .running ∧ ((t.pkg chip).thread 0 0).life = .ready ∧ ((t.pkg chip).thread 0 0).pc = 0 ∧
      ((t.pkg chip).thread 0 0).base = 0 ∧ ((t.pkg chip).thread 0 0).len = 64 ∧ (((t.pkg chip).core 0).cell 2).val = p.bootLen) ∧
    (∀ die cause, die < 4 → (p.phase = .waiting ∨ p.phase = .booting ∨ p.phase = .running) →
      exec (.fatalError chip die cause) s = .next (s.setPkg chip { p with phase := .frozen, fatal := some (die, cause) })) ∧
    (p.phase = .frozen → ∃ t, exec (.dumpComplete chip) s = .next t ∧ (t.pkg chip).phase = .dumped ∧ (t.pkg chip).cores.length = p.cores.length ∧
      (∀ a, a < 0x17FC0000000 ∨ 0x18000000000 ≤ a → (t.pkg chip).mem.byte a = p.mem.byte a) ∧
      (p.mem.wf = true → ∀ die i b, die < 4 → i < 0x10000000 → Config.dumpLayout (p.dieDump die) i = some b →
        (t.pkg chip).mem.byte (0x17FC0000000 + die * 0x10000000 + i) = b)) ∧
    (p.phase = .dumped → ∃ t, exec (.fundamentalReset chip) s = .next t ∧ (t.pkg chip).phase = .waiting ∧ (t.pkg chip).cores = [] ∧
      (t.pkg chip).flights = [] ∧ (t.pkg chip).mem = p.mem) ∧
    (∀ port, p.phase = .running → port < 8 → port ∉ p.linksDown → tget p.replays port 0 < 16 →
      (tget p.errors (port / 4 * 4 + 2) 0).toNat < 2 ^ 64 - 1 → ∃ t, exec (.linkReplay chip port) s = .next t ∧
      tget (t.pkg chip).errors (port / 4 * 4 + 2) 0 = tget p.errors (port / 4 * 4 + 2) 0 + 1 ∧
      (tget? (t.pkg chip).replays port = some (tget p.replays port 0 + 1) ∨
        (risingFrom 0 p.replays = true → tget? (t.pkg chip).replays port = none)))

/-! ## Soft errors (R34, R169, R253, R380, R381) -/

/-- R34, R169, R253, R380, R381: a soft error that strikes a package changes no byte of memory and no register's bits. An uncorrectable one marks its word for
memory and every view, poisons its register, or stays with its element of a bank until Cassia reads it; a corrected one is counted; a plain load that takes a byte from an outbox word with an error is
bad, and a read of a poisoned register traps SOFT-ERROR. When errors arise is left to the order of steps (log 11). -/
def Obligations.SoftErrors : Prop :=
  (∀ (s : State) (chip : Nat) (u : Upset), s.nextMove = .upset chip u → (s.pkg chip).phase = .running → ∃ t, step s = .next t ∧
    (∀ c a, (t.pkg c).mem.byte a = (s.pkg c).mem.byte a) ∧
    (∀ c x e, (((t.pkg c).core x).cell e).val = (((s.pkg c).core x).cell e).val) ∧
    let p := s.pkg chip
    let q := t.pkg chip
    (∀ a, u = .word a → p.place (wordOf a) = .hbm →
      q.mem.isBad (wordOf a) = true ∧ ∀ c, (q.core c).view.isBad (wordOf a) = true) ∧
    (∀ c e, u = .reg c e → c < 1024 → e < 2048 → ((q.core c).cell e).bad = true) ∧
    (∀ c e, u = .bank c true e → c < 1024 → e < 16384 → e ∈ (q.core c).tile.vbad) ∧
    (∀ c e, u = .bank c false e → c < 1024 → e < 16384 → e ∈ (q.core c).tile.wbad) ∧
    (∀ die, u = .corrected die → die < 4 → (tget p.errors (die * 4) 0).toNat < 2 ^ 64 - 1 →
      tget q.errors (die * 4) 0 = tget p.errors (die * 4) 0 + 1)) ∧
  (∀ (p : Package) (chip c a n pick i : Nat), i < n → (p.core c).outboxBad (a + i) = true → (p.plainLoad chip c a n pick).bad = true) ∧
  (∀ (s : State) (d r : Reg), s.here.phase = .running → s.me.life = .ready → d.toNat < s.me.len → r.toNat < s.me.len →
    (s.hereCore.cell (s.me.base + d.toNat)).full = true → (s.hereCore.cell (s.me.base + r.toNat)).full = true → (s.hereCore.cell (s.me.base + r.toNat)).bad = true →
    exec (.mov (.reg d) (.reg ⟨r, false, false⟩)) s = .next (s.takeTrap .softError 0 (word r.toNat)))

/-! ## Steps, words and the whole machine (R59, R68, R137, R138, R210, R382) -/

/-- R382, R379: after power-up package 0 waits for BOOTGO; every resource that has an entry from the start is held by holder 1 with
HEIR 0; the HBM map is the nine regions of R382 in their order; every slot is FREE with the resets of R23; every bank is PRIVATE.
That no ring, no mailbox entry and no drop stands there is the model's choice (log 8), and so are the full/empty bits, tags and error marks of memory that
nothing has written (log 5). -/
def Obligations.ResetState : Prop :=
  let p := State.reset.pkg 0
  p.phase = .waiting ∧ p.rings = [] ∧ p.flights = [] ∧
  (∀ r, ridExists r = true → ridKind r ≠ 1 → (p.entry r).holder = 1 ∧ (p.entry r).heir = 0 ∧ (p.entry r).busy = false ∧
    (p.entry r).pkind = 0) ∧
  (∀ i, i < 9 → (p.entry (0x10000000 + i)).holder = 1 ∧ (p.entry (0x10000000 + i)).log2 = 38 - i ∧
    (p.entry (0x10000000 + i)).base + 2 ^ (38 - i) = (if i = 8 then 0x17FC0000000 else (p.entry (0x10000000 + i + 1)).base)) ∧
  (p.entry 0x10000000).base = 0x10000000000 ∧
  (∀ c slot, let t := p.thread c slot
    t.life = .free ∧ t.vec = 0 ∧ t.cause = 0 ∧ t.value = 0 ∧ t.epc = 0 ∧ t.fmode = 1 ∧ t.flags = 0 ∧ t.role = 0 ∧ t.prio = (if slot = 63 then 1 else 0)) ∧
  (∀ c bank, (p.core c).private_ bank = true) ∧ (∀ c, (p.core c).mbox = [] ∧ (p.core c).drops = 0 ∧ (p.core c).recs = []) ∧
  ∀ a, p.mem.full a = true ∧ p.mem.tag a = false ∧ p.mem.isBad a = false

/-- Words written out from the formats of R60 to R65 and the opcode map of R73 to R79, field by field: opcode, D, S, K or SZ, and the
prefixes before them, decode to the instructions that they stand for. -/
def Obligations.DecodedWords : Prop :=
  let g (n : Reg) : RegOp := ⟨n, false, false⟩
  let page (n : BitVec 4) : Half := 63#6 ++ n ++ 0#6
  let is (ws : List Half) (i : Instr) : Prop := (decode ws).toOption = some (i, ws.length)
  is [1#6 ++ 1#4 ++ 2#4 ++ 0#2] (.add 1 (.reg (g 2))) ∧
  is [0xFC50, 0xF480, 0x290C] (.faddS ⟨2, 0⟩ 20 (.reg (g 3))) ∧
  is [0xF3D8, 0xA558] (.beq 5 (.reg (g 6)) (BitVec.ofInt 64 (-40))) ∧
  is [60#6 ++ 8#10, 57#6 ++ 3#4 ++ 4#4 ++ 3#2] (.ldz .d 3 (g 4) 8) ∧
  decode [page 2, 42#6 ++ 1#4 ++ 2#4 ++ 0#2] = .error .missingPrefix ∧
  is [page 2, 62#6 ++ 3#7 ++ 0#3, 42#6 ++ 1#4 ++ 2#4 ++ 0#2] (.spawnL 1 (g 2) (.reg (g 3))) ∧
  is [page 4, 2#6 ++ 0#4 ++ 3#4 ++ 2#2] (.bar 3) ∧
  is [page 5, 16#6 ++ 0#10] .tlbinv ∧
  is [page 6, 5#6 ++ 0#10] .home

/-- R68, R165: the words of a chain stand in the instruction cache of a core from a word address on: prefixes, then a base word, or five
prefixes. -/
def Claims.Fetched (k : Core) (pc : BitVec 56) (ws : List Half) : Prop :=
  ws ≠ [] ∧ ws.length ≤ 5 ∧ ∀ j h, ws[j]? = some h →
    (j + 1 < ws.length → isPrefix h = true) ∧ (j + 1 = ws.length → ws.length < 5 → isPrefix h = false) ∧
    let va := (pc.toNat + j) % 2 ^ 56 * 2
    ∃ l, k.icache.find? (fun l => decide (l.va = va / 64 * 64)) = some l ∧
      h = (l.bytes[va % 64 + 1]?).getD 0 ++ (l.bytes[va % 64]?).getD 0

/-- R59, R68, R137, R138, R210: a step that is a cycle of a core issues the chain that its selected slot fetches: it is `exec` of the decoded
instruction, or of ILLEGAL_CHAIN, in the state whose core has counted the cycle, moved its pointer past the slot (a
service slot leaves it) and noted the issue, and whose issue context names the chain. While the thread's request is out, its turn has no
effect, but that it parks once its home has enlisted the request or holds it back (R100, R175). R30, R312: the turn of a thread under a
cancelled cell retires it with CANCELLED and the cell that the CANCEL named. R30, R358: the turn of one whose awaited resource was taken from its
holder traps RECLAIMED with the resource's id; either comes before its request and its chain, and only a claim that is open before them (R386). A step that is an event of the
tables is `exec` of that event, and changes nothing where it is not enabled. The plan's first move is the step's, and is
spent. Around either, when the step ends, what a package owes another chip is paid (a launch cell that counts one thread less, R310; news
of a binding on its way, R424), which changes nothing where no package owes anything, and a PHASE.h episode whose last core has arrived is closed
(R313), which changes nothing where none stands open. Both together are `ended`. -/
def Obligations.StepRunsDecoded : Prop :=
  (∀ s : State, (∀ e ∈ s.chips, e.2.owed = []) → (∀ e ∈ s.chips, ∀ f ∈ e.2.flights, ∀ q, f.2 ≠ .phaseH q) → s.ended = s) ∧
  ∀ (s : State) (chip core : Nat),
    let p := s.pkg chip
    let k := p.core core
    let next : State := { s with plan := s.plan.tail, tick := s.tick + 1 }
    (∀ m rest, s.plan = m :: rest → s.nextMove = m) ∧
    (∀ slot ws, s.nextMove = .cycle chip core → p.phase = .running → (p.cluster (clusterOf core)).power = .active →
      k.selectSlot = some slot → (k.thread slot).cancel = none → (k.thread slot).lost = none →
      let service : Bool := decide (slot = 63) && (k.thread 63).prio.getLsbD 0
      let j : Core := { k.setThread slot { k.thread slot with lastIssue := k.cycle, gap := 8 } with
        cycle := k.cycle + 1, ptr := if service then k.ptr else (slot + 1) % 64 }
      let turn (words : List Half) : State := { next.setPkg chip (p.setCore core j) with cur := ⟨chip, core, slot, words⟩ }
      let u := turn ws
      ((k.thread slot).pend.bind p.job = none → Claims.Fetched k (k.thread slot).pc ws →
        (∀ i n t, decode ws = .ok (i, n) → exec i u = .next t → step s = .next t.ended) ∧
        (∀ i n, decode ws = .ok (i, n) → (∀ t, exec i u ≠ .next t) → step s = exec i u) ∧
        (∀ why t, decode ws = .error why → exec (.illegalChain why) u = .next t → step s = .next t.ended)) ∧
      (∀ r, (k.thread slot).pend.bind p.job = some r →
        ((∀ h, r ≠ .fe h) → step s = .next (turn []).ended) ∧
        (∀ h, r = .fe h → step s = .next
          (if h.enlisted = true ∨ p.heldBack h = true then ((turn []).park .word).ended else (turn []).ended)))) ∧
    (∀ slot, s.nextMove = .cycle chip core → p.phase = .running → (p.cluster (clusterOf core)).power = .active →
      k.selectSlot = some slot → p.claiming (k.thread slot) = false →
      (∀ cell, (k.thread slot).cancel = some cell → ∃ t : State, step s = .next t.ended ∧ (t.pkg chip).mem = p.mem ∧
        let h := (t.pkg chip).thread core slot
        h.life = .retired ∧ h.cause = 0x10 ∧ h.value = word cell ∧ h.gen = (k.thread slot).gen) ∧
      (∀ rid, (k.thread slot).cancel = none → (k.thread slot).lost = some rid → ∃ t : State, step s = .next t.ended ∧ (t.pkg chip).mem = p.mem ∧
        let u := k.thread slot
        let h := (t.pkg chip).thread core slot
        h.value = word rid ∧ h.epc = u.pc.setWidth 64 ∧ h.lost = none ∧ h.pend = none ∧
        (u.stopsOnTrap = true → h.life = .trapped ∧ h.cause = causeWord .reclaimed 0 u.inHandler ∧ h.pc = u.pc) ∧
        (u.stopsOnTrap = false → h.life = .ready ∧ h.cause = causeWord .reclaimed 0 true ∧ h.pc = u.vec.setWidth 56))) ∧
    (∀ i, s.nextMove = .event i → i.isStep = true →
      (∀ t, exec i next = .next t → step s = .next t.ended) ∧ (∀ f, exec i next = .fault f → step s = .next next.ended))

/-- R59 to R67, R73 to R81: decoding the words of a well-formed instruction, whatever follows them, gives that instruction
and its length, for every operand that its form admits. -/
def Obligations.RoundTrip : Prop :=
  ∀ (i : Sys2Proof.Instr) (rest : List Sys2Proof.Half), i.wf = true →
    Sys2Proof.decode (Sys2Proof.encode i ++ rest) = .ok (i, (Sys2Proof.encode i).length)

/-- R210: no step of the machine stops: from every state the next step answers a next state. That a step whose condition does not hold
changes nothing, rather than stop, is the model's choice (log 3). -/
def Obligations.EveryStepAnswers : Prop := ∀ s : State, ∃ t, step s = .next t

/-- Memory of every package in its canonical form. -/
def Claims.Canonical (s : State) : Prop := ∀ e ∈ s.chips, e.2.mem.wf = true

/-- R5, R209: every step keeps the memory of every package in its canonical form, so that equal memories are equal data. -/
def Obligations.MemoryStaysCanonical : Prop :=
  ∀ s t : State, Claims.Canonical s → step s = .next t → Claims.Canonical t

/-- The canonical form holds at reset. -/
def Obligations.ResetIsCanonical : Prop := Claims.Canonical State.reset

/-! ## Frames -/

/-- What a chain that writes one register leaves: every other file entry of every core, every other thread, the thread's own
registers of R23 (but tc.flags where `flags` allows it), window and life state, everything else of each core and package,
the fabric's packets, and all of memory. -/
def Claims.Frame (s t : State) (d : Nat) (flags : Bool) : Prop :=
  let e := s.me.base + d
  (∀ chip c x, (chip, c, x) ≠ (s.cur.chip, s.cur.core, e) →
    let a := ((s.pkg chip).core c).cell x
    let b := ((t.pkg chip).core c).cell x
    b.val = a.val ∧ b.full = a.full ∧ b.bad = a.bad ∧ (x ≠ e / 2 * 2 → b.tag = a.tag)) ∧
  (∀ chip c n, (chip, c, n) ≠ (s.cur.chip, s.cur.core, s.cur.slot) → (t.pkg chip).thread c n = (s.pkg chip).thread c n) ∧
  t.me = { s.me with pc := t.me.pc, pend := t.me.pend, reply := t.me.reply, flags := if flags then t.me.flags else s.me.flags } ∧
  (∀ chip c, { (t.pkg chip).core c with regs := [], threads := [] } = { (s.pkg chip).core c with regs := [], threads := [] }) ∧
  (∀ chip, { t.pkg chip with cores := [] } = { s.pkg chip with cores := [] }) ∧
  (∀ chip a, (t.pkg chip).mem.byte a = (s.pkg chip).mem.byte a) ∧ t.packets = s.packets ∧ t.extents = s.extents ∧ t.cur = s.cur

/-- R99, R104 to R111, R124 to R132: the chains that write register D from registers, streams and immediates change D, the program counter, the flags of
the floating forms, and what their stream sources lose when they are popped, and nothing else. -/
def Obligations.RegisterFrame : Prop :=
  ∀ (s : State) (v : Vals) (d : Reg) (src : Src) (r : Rnd),
    let leaves (n : Needs) (flags : Bool) (i : Instr) : Prop :=
      ∃ t, exec i s = .next t ∧ Claims.Frame (n.pops.foldl State.pop s) t d.toNat flags
    (Ready s (needDS d src) v →
      (∀ i ∈ [Instr.add d src, .addW d src, .sub d src, .subW d src, .mul d src, .mulW d src, .mulh d src, .div d src, .divu d src,
          .rem d src, .remu d src, .and d src, .or d src, .xor d src, .shl d src, .shlW d src, .shr d src, .sar d src, .min d src,
          .max d src, .minu d src, .maxu d src, .ceq d src, .cne d src, .clt d src, .cltu d src, .cle d src, .cleu d src, .bfx d src,
          .crcB d src, .crcH d src, .crcW d src, .crcD d src],
        leaves (needDS d src) false i) ∧
      (∀ i ∈ [Instr.faddD r d src, .faddS r d src, .fsubD r d src, .fsubS r d src, .fmulD r d src, .fmulS r d src, .fdivD r d src,
          .fdivS r d src, .fminD d src, .fminS d src, .fmaxD d src, .fmaxS d src, .feqD d src, .feqS d src, .fltD d src, .fltS d src,
          .fleD d src, .fleS d src, .fsgnD d src, .fsgnS d src, .fsgnnD d src, .fsgnnS d src, .fsgnxD d src, .fsgnxS d src],
        leaves (needDS d src) true i)) ∧
    (Ready s (needWS d src) v →
      (∀ i ∈ [Instr.mov (.reg d) src, .ctz d src, .bswap d src, .fclassD d src, .fclassS d src], leaves (needWS d src) false i) ∧
      (∀ i ∈ [Instr.fsqrtD r d src, .fsqrtS r d src, .fcvtDL r d src, .fcvtDLu r d src, .fcvtSL r d src, .fcvtSLu r d src],
        leaves (needWS d src) true i) ∧
      (Claims.policy s r ≠ 3 → ∀ i ∈ [Instr.fcvtSD r d src, .fcvtDS r d src, .fcvtLD r d src, .fcvtLuD r d src, .fcvtLS r d src,
          .fcvtLuS r d src], leaves (needWS d src) true i)) ∧
    (∀ t, Ready s (needDST d src t) v →
      (∀ i ∈ [Instr.sel d src t, .bfi d src t], leaves (needDST d src t) false i) ∧
      (∀ i ∈ [Instr.fmaD r d src t, .fmaS r d src t, .fmsD r d src t, .fmsS r d src t, .fnmaD r d src t, .fnmaS r d src t,
          .fnmsD r d src t, .fnmsS r d src t], leaves (needDST d src t) true i)) ∧
    (∀ imm : Word, Ready s { d := rwReg d } v → ∀ i ∈ [Instr.addi d imm, .lih d imm, .shli d imm, .shri d imm],
      leaves { d := rwReg d } false i) ∧
    (∀ (imm : Word) (n : BitVec 3), Ready s { d := wrReg d } v → ∀ i ∈ [Instr.li (.reg d) imm, .rdflg d, .sread d n],
      leaves { d := wrReg d } false i) ∧
    (∀ (b : RegOp) (disp : Word), Ready s (needMem (wrReg d) b) v → leaves (needMem (wrReg d) b) false (.lea d b disp))

/-- The chains that may change home memory in the step in which they issue: a store or QST into a PRIVATE bank or through a
spill to the log, a full/empty operation performed on the core's own scratchpad, and GBIND, which writes its tile's step words. -/
def Claims.StoresAtIssue (i : Instr) : Prop :=
  (∃ sz d b x, i = .st sz d b x) ∨ (∃ sz q b x, i = .qst sz q b x) ∨ (∃ d b x, i = .ldf d b x) ∨ (∃ d b x, i = .ldfe d b x) ∨
  (∃ d b x, i = .stef d b x) ∨ (∃ d b x, i = .stf d b x) ∨ (∃ b x, i = .seteMemory b x) ∨ (∃ d b x, i = .feqry d b x) ∨
  (∃ d b t, i = .gbind d b t)

/-- R122, R175, R200, R212, R342: whatever its operands and however it ends, a chain of any other form leaves every byte, full/empty bit, tag and error mark of
the memory of every package as it was. -/
def Obligations.MemoryFrame : Prop :=
  ∀ (i : Instr) (s t : State), i.isStep = false → ¬ Claims.StoresAtIssue i → exec i s = .next t →
    ∀ chip, (t.pkg chip).mem = (s.pkg chip).mem
end

