-- ==== Sys2Proof/Laws/Table.lean ====
section
/-! SUPPORT. Laws of sparse tables and rising lists: what a write leaves, and that it keeps the order. -/

namespace Sys2Proof.Machine

variable {α : Type}

@[simp] theorem tget?_tset_same (t : Tab α) (n : Nat) (v : α) : tget? (tset t n v) n = some v := by
  induction t with
  | nil => simp [tset, tget?]
  | cons e t ih =>
    obtain ⟨k, w⟩ := e
    simp only [tset]
    split
    · simp [tget?]
    · split
      · simp [tget?]
      · simp [tget?, *]

@[simp] theorem tget?_tset_other (t : Tab α) (n m : Nat) (v : α) (h : m ≠ n) : tget? (tset t n v) m = tget? t m := by
  induction t with
  | nil => simp [tset, tget?, h]
  | cons e t ih =>
    obtain ⟨k, w⟩ := e
    simp only [tset]
    split
    · simp [tget?, h]
    · split
      · subst_vars; simp [tget?, h]
      · simp [tget?, ih]

@[simp] theorem tget_tset_same (t : Tab α) (n : Nat) (v d : α) : tget (tset t n v) n d = v := by simp [tget]

@[simp] theorem tget_tset_other (t : Tab α) (n m : Nat) (v d : α) (h : m ≠ n) : tget (tset t n v) m d = tget t m d := by
  simp [tget, h]

/-- A table that rises from a bound rises from every lower one. -/
theorem risingFrom_mono {b c : Nat} {t : Tab α} (h : c ≤ b) (r : risingFrom b t = true) : risingFrom c t = true := by
  cases t with
  | nil => rfl
  | cons e t => simp_all [risingFrom]; omega

theorem risingFrom_tset {b n : Nat} {t : Tab α} (v : α) (h : b ≤ n) (r : risingFrom b t = true) :
    risingFrom b (tset t n v) = true := by
  induction t generalizing b with
  | nil => simp [tset, risingFrom, h]
  | cons e t ih =>
    obtain ⟨k, w⟩ := e
    simp only [risingFrom, Bool.and_eq_true, decide_eq_true_eq] at r
    simp only [tset]
    split
    · simp [risingFrom, h, r]; omega
    · split
      · subst_vars; simp [risingFrom, r]
      · simp [risingFrom, r]; exact ih (by omega) r.2

theorem risingFrom_tdel {b n : Nat} {t : Tab α} (r : risingFrom b t = true) : risingFrom b (tdel t n) = true := by
  induction t generalizing b with
  | nil => rfl
  | cons e t ih =>
    obtain ⟨k, w⟩ := e
    simp only [risingFrom, Bool.and_eq_true, decide_eq_true_eq] at r
    simp only [tdel]
    split
    · exact risingFrom_mono (by omega) r.2
    · simp [risingFrom, r]; exact ih r.2

/-- Below its first key a rising table lists nothing. -/
theorem tget?_below {b n : Nat} {t : Tab α} (r : risingFrom b t = true) (h : n < b) : tget? t n = none := by
  induction t generalizing b with
  | nil => rfl
  | cons e t ih =>
    obtain ⟨k, w⟩ := e
    simp only [risingFrom, Bool.and_eq_true, decide_eq_true_eq] at r
    simp only [tget?]
    rw [if_neg (by omega)]
    exact ih r.2 (by omega)

theorem tget?_tdel_same {b n : Nat} {t : Tab α} (r : risingFrom b t = true) : tget? (tdel t n) n = none := by
  induction t generalizing b with
  | nil => rfl
  | cons e t ih =>
    obtain ⟨k, w⟩ := e
    simp only [risingFrom, Bool.and_eq_true, decide_eq_true_eq] at r
    simp only [tdel]
    split
    · subst_vars; exact tget?_below r.2 (by omega)
    · simp only [tget?]; rw [if_neg (by assumption)]; exact ih r.2

@[simp] theorem tget?_tdel_other (t : Tab α) (n m : Nat) (h : m ≠ n) : tget? (tdel t n) m = tget? t m := by
  induction t with
  | nil => rfl
  | cons e t ih =>
    obtain ⟨k, w⟩ := e
    simp only [tdel]
    split
    · subst_vars; simp [tget?, h]
    · simp [tget?, ih]

/-! ## Rising lists of numbers -/

theorem srisingFrom_mono {b c : Nat} {l : List Nat} (h : c ≤ b) (r : srisingFrom b l = true) : srisingFrom c l = true := by
  cases l with
  | nil => rfl
  | cons k t => simp_all [srisingFrom]; omega

theorem srisingFrom_sadd {b n : Nat} {l : List Nat} (h : b ≤ n) (r : srisingFrom b l = true) :
    srisingFrom b (sadd l n) = true := by
  induction l generalizing b with
  | nil => simp [sadd, srisingFrom, h]
  | cons k t ih =>
    simp only [srisingFrom, Bool.and_eq_true, decide_eq_true_eq] at r
    simp only [sadd]
    split
    · simp [srisingFrom, h, r]; omega
    · split
      · subst_vars; simp [srisingFrom, r]
      · simp [srisingFrom, r]; exact ih (by omega) r.2

theorem srisingFrom_sdel {b n : Nat} {l : List Nat} (r : srisingFrom b l = true) : srisingFrom b (sdel l n) = true := by
  induction l generalizing b with
  | nil => rfl
  | cons k t ih =>
    simp only [srisingFrom, Bool.and_eq_true, decide_eq_true_eq] at r
    simp only [sdel]
    split
    · exact srisingFrom_mono (by omega) r.2
    · simp [srisingFrom, r]; exact ih r.2

@[simp] theorem mem_sadd (l : List Nat) (n m : Nat) : m ∈ sadd l n ↔ m = n ∨ m ∈ l := by
  induction l with
  | nil => simp [sadd]
  | cons k t ih =>
    simp only [sadd]
    split
    · simp
    · split
      · subst_vars; simp
      · simp only [List.mem_cons, ih]; tauto

theorem mem_sdel_other (l : List Nat) (n m : Nat) (h : m ≠ n) : m ∈ sdel l n ↔ m ∈ l := by
  induction l with
  | nil => simp [sdel]
  | cons k t ih =>
    simp only [sdel]
    split
    · subst_vars; simp [h]
    · simp [ih]

end Sys2Proof.Machine
end

