-- ==== Sys2Proof/Laws/State.lean ====
section
/-! SUPPORT. What the updates of a state, a package and a core leave of each field, and what reading gives back after a
write of the same place and of another. -/

namespace Sys2Proof.Machine

/-! ## The fields that an update does not touch -/

@[simp] theorem State.setPkg_extents (s : State) (c : Nat) (p : Package) : (s.setPkg c p).extents = s.extents := rfl
@[simp] theorem State.onPkg_extents (s : State) (c : Nat) (g : Package → Package) : (s.onPkg c g).extents = s.extents := rfl
@[simp] theorem State.onHere_extents (s : State) (g : Package → Package) : (s.onHere g).extents = s.extents := rfl
@[simp] theorem State.onHereCore_extents (s : State) (g : Core → Core) : (s.onHereCore g).extents = s.extents := rfl
@[simp] theorem State.onMe_extents (s : State) (g : Thread → Thread) : (s.onMe g).extents = s.extents := rfl
@[simp] theorem State.setReg_extents (s : State) (n : Nat) (v : Word) : (s.setReg n v).extents = s.extents := rfl
@[simp] theorem State.goto_extents (s : State) (a : BitVec 56) : (s.goto a).extents = s.extents := rfl
@[simp] theorem State.setPkg_packets (s : State) (c : Nat) (p : Package) : (s.setPkg c p).packets = s.packets := rfl
@[simp] theorem State.onPkg_packets (s : State) (c : Nat) (g : Package → Package) : (s.onPkg c g).packets = s.packets := rfl
@[simp] theorem State.onHere_packets (s : State) (g : Package → Package) : (s.onHere g).packets = s.packets := rfl
@[simp] theorem State.onHereCore_packets (s : State) (g : Core → Core) : (s.onHereCore g).packets = s.packets := rfl
@[simp] theorem State.onMe_packets (s : State) (g : Thread → Thread) : (s.onMe g).packets = s.packets := rfl
@[simp] theorem State.setReg_packets (s : State) (n : Nat) (v : Word) : (s.setReg n v).packets = s.packets := rfl
@[simp] theorem State.goto_packets (s : State) (a : BitVec 56) : (s.goto a).packets = s.packets := rfl
@[simp] theorem State.setPkg_nextPacket (s : State) (c : Nat) (p : Package) : (s.setPkg c p).nextPacket = s.nextPacket := rfl
@[simp] theorem State.onPkg_nextPacket (s : State) (c : Nat) (g : Package → Package) : (s.onPkg c g).nextPacket = s.nextPacket := rfl
@[simp] theorem State.onHere_nextPacket (s : State) (g : Package → Package) : (s.onHere g).nextPacket = s.nextPacket := rfl
@[simp] theorem State.onHereCore_nextPacket (s : State) (g : Core → Core) : (s.onHereCore g).nextPacket = s.nextPacket := rfl
@[simp] theorem State.onMe_nextPacket (s : State) (g : Thread → Thread) : (s.onMe g).nextPacket = s.nextPacket := rfl
@[simp] theorem State.setReg_nextPacket (s : State) (n : Nat) (v : Word) : (s.setReg n v).nextPacket = s.nextPacket := rfl
@[simp] theorem State.goto_nextPacket (s : State) (a : BitVec 56) : (s.goto a).nextPacket = s.nextPacket := rfl
@[simp] theorem State.setPkg_cur (s : State) (c : Nat) (p : Package) : (s.setPkg c p).cur = s.cur := rfl
@[simp] theorem State.onPkg_cur (s : State) (c : Nat) (g : Package → Package) : (s.onPkg c g).cur = s.cur := rfl
@[simp] theorem State.onHere_cur (s : State) (g : Package → Package) : (s.onHere g).cur = s.cur := rfl
@[simp] theorem State.onHereCore_cur (s : State) (g : Core → Core) : (s.onHereCore g).cur = s.cur := rfl
@[simp] theorem State.onMe_cur (s : State) (g : Thread → Thread) : (s.onMe g).cur = s.cur := rfl
@[simp] theorem State.setReg_cur (s : State) (n : Nat) (v : Word) : (s.setReg n v).cur = s.cur := rfl
@[simp] theorem State.goto_cur (s : State) (a : BitVec 56) : (s.goto a).cur = s.cur := rfl
@[simp] theorem State.setPkg_plan (s : State) (c : Nat) (p : Package) : (s.setPkg c p).plan = s.plan := rfl
@[simp] theorem State.onPkg_plan (s : State) (c : Nat) (g : Package → Package) : (s.onPkg c g).plan = s.plan := rfl
@[simp] theorem State.onHere_plan (s : State) (g : Package → Package) : (s.onHere g).plan = s.plan := rfl
@[simp] theorem State.onHereCore_plan (s : State) (g : Core → Core) : (s.onHereCore g).plan = s.plan := rfl
@[simp] theorem State.onMe_plan (s : State) (g : Thread → Thread) : (s.onMe g).plan = s.plan := rfl
@[simp] theorem State.setReg_plan (s : State) (n : Nat) (v : Word) : (s.setReg n v).plan = s.plan := rfl
@[simp] theorem State.goto_plan (s : State) (a : BitVec 56) : (s.goto a).plan = s.plan := rfl
@[simp] theorem State.setPkg_tick (s : State) (c : Nat) (p : Package) : (s.setPkg c p).tick = s.tick := rfl
@[simp] theorem State.onPkg_tick (s : State) (c : Nat) (g : Package → Package) : (s.onPkg c g).tick = s.tick := rfl
@[simp] theorem State.onHere_tick (s : State) (g : Package → Package) : (s.onHere g).tick = s.tick := rfl
@[simp] theorem State.onHereCore_tick (s : State) (g : Core → Core) : (s.onHereCore g).tick = s.tick := rfl
@[simp] theorem State.onMe_tick (s : State) (g : Thread → Thread) : (s.onMe g).tick = s.tick := rfl
@[simp] theorem State.setReg_tick (s : State) (n : Nat) (v : Word) : (s.setReg n v).tick = s.tick := rfl
@[simp] theorem State.goto_tick (s : State) (a : BitVec 56) : (s.goto a).tick = s.tick := rfl
@[simp] theorem Core.setThread_regs (k : Core) (n : Nat) (t : Thread) : (k.setThread n t).regs = k.regs := rfl
@[simp] theorem Core.setThread_cycle (k : Core) (n : Nat) (t : Thread) : (k.setThread n t).cycle = k.cycle := rfl
@[simp] theorem Core.setThread_ptr (k : Core) (n : Nat) (t : Thread) : (k.setThread n t).ptr = k.ptr := rfl
@[simp] theorem Core.setThread_elig (k : Core) (n : Nat) (t : Thread) : (k.setThread n t).elig = k.elig := rfl
@[simp] theorem Core.setThread_accept (k : Core) (n : Nat) (t : Thread) : (k.setThread n t).accept = k.accept := rfl
@[simp] theorem Core.setThread_handlers (k : Core) (n : Nat) (t : Thread) : (k.setThread n t).handlers = k.handlers := rfl
@[simp] theorem Core.setThread_mbox (k : Core) (n : Nat) (t : Thread) : (k.setThread n t).mbox = k.mbox := rfl
@[simp] theorem Core.setThread_mboxPos (k : Core) (n : Nat) (t : Thread) : (k.setThread n t).mboxPos = k.mboxPos := rfl
@[simp] theorem Core.setThread_waitm (k : Core) (n : Nat) (t : Thread) : (k.setThread n t).waitm = k.waitm := rfl
@[simp] theorem Core.setThread_drops (k : Core) (n : Nat) (t : Thread) : (k.setThread n t).drops = k.drops := rfl
@[simp] theorem Core.setThread_latch (k : Core) (n : Nat) (t : Thread) : (k.setThread n t).latch = k.latch := rfl
@[simp] theorem Core.setThread_bankFmt (k : Core) (n : Nat) (t : Thread) : (k.setThread n t).bankFmt = k.bankFmt := rfl
@[simp] theorem Core.setThread_exported (k : Core) (n : Nat) (t : Thread) : (k.setThread n t).exported = k.exported := rfl
@[simp] theorem Core.setThread_pending (k : Core) (n : Nat) (t : Thread) : (k.setThread n t).pending = k.pending := rfl
@[simp] theorem Core.setThread_outbox (k : Core) (n : Nat) (t : Thread) : (k.setThread n t).outbox = k.outbox := rfl
@[simp] theorem Core.setThread_logBase (k : Core) (n : Nat) (t : Thread) : (k.setThread n t).logBase = k.logBase := rfl
@[simp] theorem Core.setThread_logSize (k : Core) (n : Nat) (t : Thread) : (k.setThread n t).logSize = k.logSize := rfl
@[simp] theorem Core.setThread_logNext (k : Core) (n : Nat) (t : Thread) : (k.setThread n t).logNext = k.logNext := rfl
@[simp] theorem Core.setThread_spilled (k : Core) (n : Nat) (t : Thread) : (k.setThread n t).spilled = k.spilled := rfl
@[simp] theorem Core.setThread_pairs (k : Core) (n : Nat) (t : Thread) : (k.setThread n t).pairs = k.pairs := rfl
@[simp] theorem Core.setThread_icache (k : Core) (n : Nat) (t : Thread) : (k.setThread n t).icache = k.icache := rfl
@[simp] theorem Core.setThread_recs (k : Core) (n : Nat) (t : Thread) : (k.setThread n t).recs = k.recs := rfl
@[simp] theorem Core.setThread_conflicts (k : Core) (n : Nat) (t : Thread) : (k.setThread n t).conflicts = k.conflicts := rfl
@[simp] theorem Core.setThread_saveArea (k : Core) (n : Nat) (t : Thread) : (k.setThread n t).saveArea = k.saveArea := rfl
@[simp] theorem Core.setThread_bars (k : Core) (n : Nat) (t : Thread) : (k.setThread n t).bars = k.bars := rfl
@[simp] theorem Core.setThread_dispatch (k : Core) (n : Nat) (t : Thread) : (k.setThread n t).dispatch = k.dispatch := rfl
@[simp] theorem Core.setThread_finished (k : Core) (n : Nat) (t : Thread) : (k.setThread n t).finished = k.finished := rfl
@[simp] theorem Core.setThread_view (k : Core) (n : Nat) (t : Thread) : (k.setThread n t).view = k.view := rfl
@[simp] theorem Core.setThread_unstable (k : Core) (n : Nat) (t : Thread) : (k.setThread n t).unstable = k.unstable := rfl
@[simp] theorem Core.setThread_tlb (k : Core) (n : Nat) (t : Thread) : (k.setThread n t).tlb = k.tlb := rfl
@[simp] theorem Core.setThread_walked (k : Core) (n : Nat) (t : Thread) : (k.setThread n t).walked = k.walked := rfl
@[simp] theorem Core.setThread_tile (k : Core) (n : Nat) (t : Thread) : (k.setThread n t).tile = k.tile := rfl
@[simp] theorem Core.setThread_packed (k : Core) (n : Nat) (t : Thread) : (k.setThread n t).packed = k.packed := rfl
@[simp] theorem Core.setThread_minted (k : Core) (n : Nat) (t : Thread) : (k.setThread n t).minted = k.minted := rfl

/-! ## Reading after writing -/

@[simp] theorem State.pkg_setPkg_same (s : State) (c : Nat) (p : Package) : (s.setPkg c p).pkg c = p := by
  simp [State.pkg, State.setPkg]
@[simp] theorem State.pkg_setPkg_other (s : State) (c d : Nat) (p : Package) (h : d ≠ c) : (s.setPkg c p).pkg d = s.pkg d := by
  simp [State.pkg, State.setPkg, h]
@[simp] theorem State.pkg_onPkg_same (s : State) (c : Nat) (g : Package → Package) : (s.onPkg c g).pkg c = g (s.pkg c) := by
  simp [State.onPkg]
@[simp] theorem State.pkg_onPkg_other (s : State) (c d : Nat) (g : Package → Package) (h : d ≠ c) :
    (s.onPkg c g).pkg d = s.pkg d := by simp [State.onPkg, h]
@[simp] theorem State.here_onHere (s : State) (g : Package → Package) : (s.onHere g).here = g s.here := by
  simp [State.here, State.onHere]
@[simp] theorem Package.core_setCore_same (p : Package) (c : Nat) (k : Core) : (p.setCore c k).core c = k := by
  simp [Package.core, Package.setCore]
@[simp] theorem Package.core_setCore_other (p : Package) (c d : Nat) (k : Core) (h : d ≠ c) :
    (p.setCore c k).core d = p.core d := by simp [Package.core, Package.setCore, h]
@[simp] theorem Package.core_onCore_same (p : Package) (c : Nat) (g : Core → Core) : (p.onCore c g).core c = g (p.core c) := by
  simp [Package.onCore]
@[simp] theorem Package.core_onCore_other (p : Package) (c d : Nat) (g : Core → Core) (h : d ≠ c) :
    (p.onCore c g).core d = p.core d := by simp [Package.onCore, h]
@[simp] theorem Core.thread_setThread_same (k : Core) (n : Nat) (t : Thread) : (k.setThread n t).thread n = t := by
  simp [Core.thread, Core.setThread]
@[simp] theorem Core.thread_setThread_other (k : Core) (n m : Nat) (t : Thread) (h : m ≠ n) :
    (k.setThread n t).thread m = k.thread m := by simp [Core.thread, Core.setThread, h]
@[simp] theorem Package.thread_setThread_same (p : Package) (c n : Nat) (t : Thread) : (p.setThread c n t).thread c n = t := by
  simp [Package.thread, Package.setThread]
@[simp] theorem State.hereCore_onHereCore (s : State) (g : Core → Core) : (s.onHereCore g).hereCore = g s.hereCore := by
  simp [State.hereCore, State.onHereCore]
@[simp] theorem State.me_onMe (s : State) (g : Thread → Thread) : (s.onMe g).me = g s.me := by
  simp [State.me, State.hereCore, State.onMe, Package.onThread, Package.setThread, Package.thread]
@[simp] theorem State.mem_onHereCore (s : State) (g : Core → Core) : (s.onHereCore g).here.mem = s.here.mem := by
  simp [State.onHereCore, Package.onCore]; rfl
@[simp] theorem State.mem_onMe (s : State) (g : Thread → Thread) : (s.onMe g).here.mem = s.here.mem := by
  simp [State.onMe, Package.onThread]; rfl

/-! ## Registers -/

theorem Core.clearTag_fields (k : Core) (e : Nat) : k.clearTag e = { k with regs := (k.clearTag e).regs } := by
  simp only [Core.clearTag]; split <;> rfl

/-- Clearing a pair's tag leaves the bits, presence and poison of every register. -/
theorem Core.clearTag_cell (k : Core) (e x : Nat) :
    ((k.clearTag e).cell x).val = (k.cell x).val ∧ ((k.clearTag e).cell x).full = (k.cell x).full ∧
    ((k.clearTag e).cell x).bad = (k.cell x).bad := by
  unfold Core.clearTag
  dsimp only
  split
  · simp
  · rename_i c hc
    by_cases hx : x = e / 2 * 2
    · subst hx; simp [Core.cell, tget, hc]
    · simp [Core.cell, hx]

/-- A register that is written holds the value, is full and not poisoned. -/
theorem Core.writeReg_same (k : Core) (t : Thread) (n : Nat) (v : Word) :
    let c := (k.writeReg t n v).cell (t.base + n)
    c.val = v ∧ c.full = true ∧ c.bad = false := by simp [Core.writeReg, Core.cell]

/-- Another register keeps its bits, presence and poison. -/
theorem Core.writeReg_other (k : Core) (t : Thread) (n x : Nat) (v : Word) (h : x ≠ t.base + n) :
    let c := (k.writeReg t n v).cell x
    c.val = (k.cell x).val ∧ c.full = (k.cell x).full ∧ c.bad = (k.cell x).bad := by
  have := Core.clearTag_cell k (t.base + n) x
  simpa [Core.writeReg, Core.cell, h] using this

theorem State.reg_setReg (s : State) (n : Nat) (v : Word) : ((s.setReg n v).hereCore.cell (s.me.base + n)).val = v := by
  simp [State.setReg, Core.writeReg, Core.cell]

end Sys2Proof.Machine
end

