-- ==== Sys2Proof/Laws/Chain.lean ====
section
/-! SUPPORT. Laws of the shared operations: how a chain ends, what a trap leaves, and which parts of a state the ends of a
chain do not touch. -/

namespace Sys2Proof.Machine

/-! ## Chains -/

/-- A chain of a thread that may issue always answers a next state. -/
theorem chain_answers (s : State) (n : Needs) (body : Vals → State → Res) (h : s.issuing = true) :
    ∃ t, chain s n body = .next t := by simp [chain, h]

/-- A chain of a thread that may not issue stops. -/
theorem chain_stops (s : State) (n : Needs) (body : Vals → State → Res) (h : s.issuing = false) :
    chain s n body = .fault .notIssuing := by simp [chain, h]

/-- A chain whose checks pass does its effect and, when it takes effect, pops its streams. -/
theorem chain_ok {s : State} {n : Needs} {v : Vals} (h : s.issuing = true) (g : gate s n = .ok v) (body : Vals → State → Res) :
    chain s n body =
      .next (let r := body v s; (if r.took then r.map (fun s => n.pops.foldl State.pop s) else r).state) := by
  simp [chain, h, g]

theorem chainNext_ok {s : State} {n : Needs} {v : Vals} (h : s.issuing = true) (g : gate s n = .ok v)
    (body : Vals → State → State) : chainNext s n body = .next ((n.pops.foldl State.pop (body v s)).advance) := by
  simp [chainNext, chain_ok h g, Res.took, Res.map, Res.state]

/-- A chain that a check stops traps, and does nothing of its effect. -/
theorem chain_trap {s : State} {n : Needs} {c : Cause} {x : Word} (h : s.issuing = true) (g : gate s n = .trap c x)
    (body : Vals → State → Res) : chain s n body = .next ((s.consumeReport c).takeTrap c 0 x) := by
  simp [chain, h, g]

/-- A chain that must wait parks, and does nothing of its effect. -/
theorem chain_park {s : State} {n : Needs} {r : Reason} (h : s.issuing = true) (g : gate s n = .park r)
    (body : Vals → State → Res) : chain s n body = .next (s.parkGate n r) := by
  simp [chain, h, g]

/-- A chain that names a grid slot is a plain chain where its checks pass, or where its holder holds the slot. -/
theorem chainSlot_ok {s : State} {n : Needs} {v : Vals} (g : gate s n = .ok v) (slot : Opr) (body : Vals → State → Res) :
    chainSlot s n slot body = chain s n body := by simp [chainSlot, g]

theorem chainSlot_held {s : State} {n : Needs} {slot : Opr} {x : Word} (r : slot.ready s = .val x)
    (h : s.here.slotHolder (coreDie s.cur.core) (bits x 5 0) = s.holder) (body : Vals → State → Res) :
    chainSlot s n slot body = chain s n body := by
  unfold chainSlot
  split
  · simp_all
  · rfl

/-- A trap of another operand gives way to NOT-HOLDER (R329). -/
theorem chainSlot_notHolder {s : State} {n : Needs} {slot : Opr} {c : Cause} {w x : Word} (i : s.issuing = true) (g : gate s n = .trap c w)
    (late : c.late = true) (r : slot.ready s = .val x) (h : s.here.slotHolder (coreDie s.cur.core) (bits x 5 0) ≠ s.holder)
    (body : Vals → State → Res) :
    chainSlot s n slot body = .next (s.takeTrap .notHolder 0 (word (slotRid (coreDie s.cur.core) (bits x 5 0)))) := by
  have none_ : gate s {} = .ok ⟨0, 0, 0⟩ := by
    simp [gate, RoleRule.bad, Opr.roleBad, Opr.alignBad, Opr.windowBad, Opr.emptyBad, Opr.ready, firstSome, Ready.park?, Ready.trap?, Ready.value]
  simp [chainSlot, g, r, late, h, chain_ok i none_, Res.took, Res.state]

/-- A chain that parks has what it waits for in its thread. -/
theorem State.me_parkFor (s : State) (w : Wait) (r : Reason) :
    (s.parkFor w r).state.me.life = .parked ∧ (s.parkFor w r).state.me.reason = some r ∧ (s.parkFor w r).state.me.wait = w := by
  simp [State.parkFor, Res.state, State.park]

/-- A chain that parks at the gate stands parked with the reason. -/
theorem State.me_parkGate (s : State) (n : Needs) (r : Reason) :
    (s.parkGate n r).me.life = .parked ∧ (s.parkGate n r).me.reason = some r ∧ (s.parkGate n r).me.chain = s.cur.words := by
  simp [State.parkGate, State.parkFor, Res.state, State.park]

/-! ## The ends of a chain -/

@[simp] theorem State.mem_goto (s : State) (a : BitVec 56) : (s.goto a).here.mem = s.here.mem := by simp [State.goto]
@[simp] theorem State.mem_advance (s : State) : s.advance.here.mem = s.here.mem := by simp [State.advance]
@[simp] theorem State.mem_setReg (s : State) (n : Nat) (v : Word) : (s.setReg n v).here.mem = s.here.mem := by
  simp [State.setReg]
@[simp] theorem State.me_goto (s : State) (a : BitVec 56) :
    (s.goto a).me = { s.me with pc := a, pend := none, reply := none } := by simp [State.goto]

@[simp] theorem State.mem_park (s : State) (r : Reason) : (s.park r).here.mem = s.here.mem := by simp [State.park]
@[simp] theorem State.me_park (s : State) (r : Reason) :
    (s.park r).me = { s.me with life := .parked, reason := some r, chain := s.cur.words } := by simp [State.park]

/-! ## Traps (R32) -/

theorem Thread.trap_saves (t : Thread) (c : Cause) (d : Nat) (x : Word) :
    (t.trap c d x).value = x ∧ (t.trap c d x).epc = t.pc.setWidth 64 ∧ (t.trap c d x).vec = t.vec ∧
    (t.trap c d x).fmode = t.fmode ∧ (t.trap c d x).flags = t.flags ∧ (t.trap c d x).gen = t.gen ∧
    (t.trap c d x).base = t.base ∧ (t.trap c d x).len = t.len := by
  unfold Thread.trap; dsimp only; split <;> simp

theorem Thread.trap_stops (t : Thread) (c : Cause) (d : Nat) (x : Word) (h : t.stopsOnTrap = true) :
    (t.trap c d x).life = .trapped ∧ (t.trap c d x).pc = t.pc := by simp [Thread.trap, h]

theorem Thread.trap_enters (t : Thread) (c : Cause) (d : Nat) (x : Word) (h : t.stopsOnTrap = false) :
    (t.trap c d x).life = .ready ∧ (t.trap c d x).pc = t.vec.setWidth 56 := by simp [Thread.trap, h]

/-- A trap changes the memory of no package. -/
theorem Package.mem_takeTrap (p : Package) (core slot : Nat) (c : Cause) (d : Nat) (x : Word) :
    (p.takeTrap core slot c d x).mem = p.mem := by
  unfold Package.takeTrap Package.faultMessage Package.send Package.count
  dsimp only; split <;> split <;> rfl

end Sys2Proof.Machine
end

