-- ==== Sys2Proof/Laws/Memory.lean ====
section
/-! SUPPORT. Laws of memory: every operation keeps the canonical form, a read after a write gives the value written, and a
write leaves every other place alone. -/

namespace Sys2Proof.Machine

/-! ## The canonical form -/

theorem Memory.wf_iff (m : Memory) : m.wf = true ↔
    risingFrom 0 m.cells = true ∧ (∀ c ∈ m.cells, c.2 ≠ unlistedByte) ∧ srisingFrom 0 m.empties = true ∧
    srisingFrom 0 m.tags = true ∧ srisingFrom 0 m.bad = true := by
  simp only [Memory.wf, Bool.and_eq_true, List.all_eq_true, bne_iff_ne, and_assoc, Ne]

theorem Memory.wf_empty : Memory.empty.wf = true := by decide

theorem mem_tset {α : Type} {t : Tab α} {n : Nat} {v : α} {e : Nat × α} (h : e ∈ tset t n v) : e = (n, v) ∨ e ∈ t := by
  induction t with
  | nil => simpa [tset] using h
  | cons x t ih =>
    obtain ⟨k, w⟩ := x
    simp only [tset] at h
    split at h
    · simpa using h
    · split at h
      · simp only [List.mem_cons] at h ⊢; tauto
      · simp only [List.mem_cons] at h ⊢
        rcases h with h | h
        · exact .inr (.inl h)
        · rcases ih h with h | h <;> tauto

theorem mem_tdel {α : Type} {t : Tab α} {n : Nat} {e : Nat × α} (h : e ∈ tdel t n) : e ∈ t := by
  induction t with
  | nil => exact h
  | cons x t ih =>
    obtain ⟨k, w⟩ := x
    simp only [tdel] at h
    split at h
    · exact List.mem_cons_of_mem _ h
    · simp only [List.mem_cons] at h ⊢
      rcases h with h | h
      · exact .inl h
      · exact .inr (ih h)

theorem Memory.wf_setByte {m : Memory} (a : Nat) (v : Byte) (h : m.wf = true) : (m.setByte a v).wf = true := by
  rw [Memory.wf_iff] at h ⊢
  obtain ⟨h1, h2, h3⟩ := h
  refine ⟨?_, ?_, h3⟩
  · simp only [Memory.setByte]; split
    · exact risingFrom_tdel h1
    · exact risingFrom_tset _ (Nat.zero_le _) h1
  · intro c hc
    simp only [Memory.setByte] at hc
    split at hc
    · exact h2 c (mem_tdel hc)
    · rcases mem_tset hc with rfl | hc
      · assumption
      · exact h2 c hc

theorem Memory.wf_setFull {m : Memory} (w : Nat) (b : Bool) (h : m.wf = true) : (m.setFull w b).wf = true := by
  rw [Memory.wf_iff] at h ⊢
  obtain ⟨h1, h2, h3, h4⟩ := h
  refine ⟨h1, h2, ?_, h4⟩
  simp only [Memory.setFull]; split
  · exact srisingFrom_sdel h3
  · exact srisingFrom_sadd (Nat.zero_le _) h3

theorem Memory.wf_setTag {m : Memory} (g : Nat) (b : Bool) (h : m.wf = true) : (m.setTag g b).wf = true := by
  rw [Memory.wf_iff] at h ⊢
  obtain ⟨h1, h2, h3, h4, h5⟩ := h
  refine ⟨h1, h2, h3, ?_, h5⟩
  simp only [Memory.setTag]; split
  · exact srisingFrom_sadd (Nat.zero_le _) h4
  · exact srisingFrom_sdel h4

theorem Memory.wf_setBad {m : Memory} (w : Nat) (b : Bool) (h : m.wf = true) : (m.setBad w b).wf = true := by
  rw [Memory.wf_iff] at h ⊢
  obtain ⟨h1, h2, h3, h4, h5⟩ := h
  refine ⟨h1, h2, h3, h4, ?_⟩
  simp only [Memory.setBad]; split
  · exact srisingFrom_sadd (Nat.zero_le _) h5
  · exact srisingFrom_sdel h5

/-- A fold of operations that each keep the form keeps it. -/
theorem Memory.wf_foldl {β : Type} (f : Memory → β → Memory) (hf : ∀ m b, m.wf = true → (f m b).wf = true) (l : List β)
    {m : Memory} (h : m.wf = true) : (l.foldl f m).wf = true := by
  induction l generalizing m with
  | nil => exact h
  | cons b t ih => exact ih (hf m b h)

theorem Memory.wf_write {m : Memory} (ws : List (Nat × Byte)) (h : m.wf = true) : (m.write ws).wf = true := by
  refine Memory.wf_foldl _ (fun m w hm => Memory.wf_setTag _ _ (Memory.wf_setBad _ _ hm)) _ ?_
  exact Memory.wf_foldl _ (fun m w hm => Memory.wf_setByte _ _ hm) _ h

theorem Memory.wf_setVersion {m : Memory} (w : Nat) (v : MemWord) (h : m.wf = true) : (m.setVersion w v).wf = true :=
  Memory.wf_setBad _ _ (Memory.wf_setTag _ _ (Memory.wf_foldl _ (fun _ _ hm => Memory.wf_setByte _ _ hm) _ h))

theorem Memory.wf_copyWords {m : Memory} (from_ : Memory) (ws : List Nat) (h : m.wf = true) :
    (m.copyWords from_ ws).wf = true :=
  Memory.wf_foldl _ (fun _ _ hm => Memory.wf_setVersion _ _ hm) _ h

/-! ## Bytes -/

theorem Memory.byte_setByte_same {m : Memory} (a : Nat) (v : Byte) (h : m.wf = true) : (m.setByte a v).byte a = v := by
  have h1 := (Memory.wf_iff m).mp h |>.1
  by_cases hv : v = unlistedByte
  · subst hv; simp [Memory.byte, Memory.setByte, tget, tget?_tdel_same h1]
  · simp only [Memory.byte, Memory.setByte, if_neg hv, tget_tset_same]

@[simp] theorem Memory.byte_setByte_other (m : Memory) (a b : Nat) (v : Byte) (h : b ≠ a) :
    (m.setByte a v).byte b = m.byte b := by
  simp only [Memory.byte, Memory.setByte]
  split <;> simp [tget, h]

@[simp] theorem Memory.byte_setFull (m : Memory) (w a : Nat) (b : Bool) : (m.setFull w b).byte a = m.byte a := rfl
@[simp] theorem Memory.byte_setTag (m : Memory) (g a : Nat) (b : Bool) : (m.setTag g b).byte a = m.byte a := rfl
@[simp] theorem Memory.byte_setBad (m : Memory) (w a : Nat) (b : Bool) : (m.setBad w b).byte a = m.byte a := rfl

/-- The marks that a write clears change no byte. -/
theorem Memory.byte_foldl_marks (ws : List Nat) (m : Memory) (a : Nat) :
    (ws.foldl (fun m w => (m.setBad w false).setTag (granuleOf w) false) m).byte a = m.byte a := by
  induction ws generalizing m with
  | nil => rfl
  | cons w t ih => rw [List.foldl_cons, ih]; rfl

theorem Memory.byte_foldl_other (ws : List (Nat × Byte)) (m : Memory) (a : Nat) (h : ∀ w ∈ ws, a ≠ w.1) :
    (ws.foldl (fun m w => m.setByte w.1 w.2) m).byte a = m.byte a := by
  induction ws generalizing m with
  | nil => rfl
  | cons w t ih =>
    rw [List.foldl_cons, ih _ (fun x hx => h x (List.mem_cons_of_mem _ hx))]
    exact Memory.byte_setByte_other _ _ _ _ (h w List.mem_cons_self)

/-- A write leaves every byte that it does not name. -/
theorem Memory.byte_write_other (ws : List (Nat × Byte)) (m : Memory) (a : Nat) (h : ∀ w ∈ ws, a ≠ w.1) :
    (m.write ws).byte a = m.byte a := by
  simp only [Memory.write]
  rw [Memory.byte_foldl_marks, Memory.byte_foldl_other _ _ _ h]

theorem mem_bytesAt {a v n : Nat} {w : Nat × Byte} (h : w ∈ bytesAt a v n) : a ≤ w.1 ∧ w.1 < a + n := by
  induction n generalizing a v with
  | zero => simp [bytesAt] at h
  | succ n ih =>
    simp only [bytesAt, List.mem_cons] at h
    rcases h with rfl | h
    · simp
    · have := ih h; omega

/-- The bytes of a value written at an address read back as the value's bytes. -/
theorem Memory.byte_write_bytesAt (n : Nat) (m : Memory) (a v i : Nat) (h : m.wf = true) (hi : i < n) :
    (m.write (bytesAt a v n)).byte (a + i) = BitVec.ofNat 8 (v / 256 ^ i) := by
  simp only [Memory.write]
  rw [Memory.byte_foldl_marks]
  induction n generalizing m a v i with
  | zero => omega
  | succ n ih =>
    rw [bytesAt, List.foldl_cons]
    cases i with
    | zero =>
      rw [Memory.byte_foldl_other _ _ _ (fun w hw => by have := mem_bytesAt hw; omega)]
      simp [Memory.byte_setByte_same _ _ h]
    | succ i =>
      have := ih (m.setByte a (BitVec.ofNat 8 v)) (a + 1) (v / 256) i (Memory.wf_setByte _ _ h) (by omega)
      rw [show a + (i + 1) = a + 1 + i by omega, this, Nat.div_div_eq_div_mul, ← Nat.pow_succ']

end Sys2Proof.Machine
end

