-- ==== Sys2Proof/Laws/Package.lean ====
section
/-! SUPPORT. What the updates of a package leave of each of its fields. -/

namespace Sys2Proof.Machine

@[simp] theorem Package.setCore_phase (p : Package) (c : Nat) (k : Core) : (p.setCore c k).phase = p.phase := rfl
@[simp] theorem Package.setThread_phase (p : Package) (c n : Nat) (t : Thread) : (p.setThread c n t).phase = p.phase := rfl
@[simp] theorem Package.setJob_phase (p : Package) (i : Nat) (j : Job) : (p.setJob i j).phase = p.phase := rfl
@[simp] theorem Package.dropJob_phase (p : Package) (i : Nat) : (p.dropJob i).phase = p.phase := rfl
@[simp] theorem Package.dropJobs_phase (p : Package) (g : Job → Bool) : (p.dropJobs g).phase = p.phase := rfl
@[simp] theorem Package.addJob_phase (p : Package) (j : Job) : (p.addJob j).phase = p.phase := rfl
@[simp] theorem Package.setEntry_phase (p : Package) (r : Nat) (e : MapEntry) : (p.setEntry r e).phase = p.phase := rfl
@[simp] theorem Package.setCore_bootAdr (p : Package) (c : Nat) (k : Core) : (p.setCore c k).bootAdr = p.bootAdr := rfl
@[simp] theorem Package.setThread_bootAdr (p : Package) (c n : Nat) (t : Thread) : (p.setThread c n t).bootAdr = p.bootAdr := rfl
@[simp] theorem Package.setJob_bootAdr (p : Package) (i : Nat) (j : Job) : (p.setJob i j).bootAdr = p.bootAdr := rfl
@[simp] theorem Package.dropJob_bootAdr (p : Package) (i : Nat) : (p.dropJob i).bootAdr = p.bootAdr := rfl
@[simp] theorem Package.dropJobs_bootAdr (p : Package) (g : Job → Bool) : (p.dropJobs g).bootAdr = p.bootAdr := rfl
@[simp] theorem Package.addJob_bootAdr (p : Package) (j : Job) : (p.addJob j).bootAdr = p.bootAdr := rfl
@[simp] theorem Package.setEntry_bootAdr (p : Package) (r : Nat) (e : MapEntry) : (p.setEntry r e).bootAdr = p.bootAdr := rfl
@[simp] theorem Package.setCore_bootLen (p : Package) (c : Nat) (k : Core) : (p.setCore c k).bootLen = p.bootLen := rfl
@[simp] theorem Package.setThread_bootLen (p : Package) (c n : Nat) (t : Thread) : (p.setThread c n t).bootLen = p.bootLen := rfl
@[simp] theorem Package.setJob_bootLen (p : Package) (i : Nat) (j : Job) : (p.setJob i j).bootLen = p.bootLen := rfl
@[simp] theorem Package.dropJob_bootLen (p : Package) (i : Nat) : (p.dropJob i).bootLen = p.bootLen := rfl
@[simp] theorem Package.dropJobs_bootLen (p : Package) (g : Job → Bool) : (p.dropJobs g).bootLen = p.bootLen := rfl
@[simp] theorem Package.addJob_bootLen (p : Package) (j : Job) : (p.addJob j).bootLen = p.bootLen := rfl
@[simp] theorem Package.setEntry_bootLen (p : Package) (r : Nat) (e : MapEntry) : (p.setEntry r e).bootLen = p.bootLen := rfl
@[simp] theorem Package.setCore_fatal (p : Package) (c : Nat) (k : Core) : (p.setCore c k).fatal = p.fatal := rfl
@[simp] theorem Package.setThread_fatal (p : Package) (c n : Nat) (t : Thread) : (p.setThread c n t).fatal = p.fatal := rfl
@[simp] theorem Package.setJob_fatal (p : Package) (i : Nat) (j : Job) : (p.setJob i j).fatal = p.fatal := rfl
@[simp] theorem Package.dropJob_fatal (p : Package) (i : Nat) : (p.dropJob i).fatal = p.fatal := rfl
@[simp] theorem Package.dropJobs_fatal (p : Package) (g : Job → Bool) : (p.dropJobs g).fatal = p.fatal := rfl
@[simp] theorem Package.addJob_fatal (p : Package) (j : Job) : (p.addJob j).fatal = p.fatal := rfl
@[simp] theorem Package.setEntry_fatal (p : Package) (r : Nat) (e : MapEntry) : (p.setEntry r e).fatal = p.fatal := rfl
@[simp] theorem Package.setCore_tier0 (p : Package) (c : Nat) (k : Core) : (p.setCore c k).tier0 = p.tier0 := rfl
@[simp] theorem Package.setThread_tier0 (p : Package) (c n : Nat) (t : Thread) : (p.setThread c n t).tier0 = p.tier0 := rfl
@[simp] theorem Package.setJob_tier0 (p : Package) (i : Nat) (j : Job) : (p.setJob i j).tier0 = p.tier0 := rfl
@[simp] theorem Package.dropJob_tier0 (p : Package) (i : Nat) : (p.dropJob i).tier0 = p.tier0 := rfl
@[simp] theorem Package.dropJobs_tier0 (p : Package) (g : Job → Bool) : (p.dropJobs g).tier0 = p.tier0 := rfl
@[simp] theorem Package.addJob_tier0 (p : Package) (j : Job) : (p.addJob j).tier0 = p.tier0 := rfl
@[simp] theorem Package.setEntry_tier0 (p : Package) (r : Nat) (e : MapEntry) : (p.setEntry r e).tier0 = p.tier0 := rfl
@[simp] theorem Package.setCore_tier1 (p : Package) (c : Nat) (k : Core) : (p.setCore c k).tier1 = p.tier1 := rfl
@[simp] theorem Package.setThread_tier1 (p : Package) (c n : Nat) (t : Thread) : (p.setThread c n t).tier1 = p.tier1 := rfl
@[simp] theorem Package.setJob_tier1 (p : Package) (i : Nat) (j : Job) : (p.setJob i j).tier1 = p.tier1 := rfl
@[simp] theorem Package.dropJob_tier1 (p : Package) (i : Nat) : (p.dropJob i).tier1 = p.tier1 := rfl
@[simp] theorem Package.dropJobs_tier1 (p : Package) (g : Job → Bool) : (p.dropJobs g).tier1 = p.tier1 := rfl
@[simp] theorem Package.addJob_tier1 (p : Package) (j : Job) : (p.addJob j).tier1 = p.tier1 := rfl
@[simp] theorem Package.setEntry_tier1 (p : Package) (r : Nat) (e : MapEntry) : (p.setEntry r e).tier1 = p.tier1 := rfl
@[simp] theorem Package.setCore_mem (p : Package) (c : Nat) (k : Core) : (p.setCore c k).mem = p.mem := rfl
@[simp] theorem Package.setThread_mem (p : Package) (c n : Nat) (t : Thread) : (p.setThread c n t).mem = p.mem := rfl
@[simp] theorem Package.setJob_mem (p : Package) (i : Nat) (j : Job) : (p.setJob i j).mem = p.mem := rfl
@[simp] theorem Package.dropJob_mem (p : Package) (i : Nat) : (p.dropJob i).mem = p.mem := rfl
@[simp] theorem Package.dropJobs_mem (p : Package) (g : Job → Bool) : (p.dropJobs g).mem = p.mem := rfl
@[simp] theorem Package.addJob_mem (p : Package) (j : Job) : (p.addJob j).mem = p.mem := rfl
@[simp] theorem Package.setEntry_mem (p : Package) (r : Nat) (e : MapEntry) : (p.setEntry r e).mem = p.mem := rfl
@[simp] theorem Package.setCore_dflt (p : Package) (c : Nat) (k : Core) : (p.setCore c k).dflt = p.dflt := rfl
@[simp] theorem Package.setThread_dflt (p : Package) (c n : Nat) (t : Thread) : (p.setThread c n t).dflt = p.dflt := rfl
@[simp] theorem Package.setJob_dflt (p : Package) (i : Nat) (j : Job) : (p.setJob i j).dflt = p.dflt := rfl
@[simp] theorem Package.dropJob_dflt (p : Package) (i : Nat) : (p.dropJob i).dflt = p.dflt := rfl
@[simp] theorem Package.dropJobs_dflt (p : Package) (g : Job → Bool) : (p.dropJobs g).dflt = p.dflt := rfl
@[simp] theorem Package.addJob_dflt (p : Package) (j : Job) : (p.addJob j).dflt = p.dflt := rfl
@[simp] theorem Package.setEntry_dflt (p : Package) (r : Nat) (e : MapEntry) : (p.setEntry r e).dflt = p.dflt := rfl
@[simp] theorem Package.setJob_cores (p : Package) (i : Nat) (j : Job) : (p.setJob i j).cores = p.cores := rfl
@[simp] theorem Package.dropJob_cores (p : Package) (i : Nat) : (p.dropJob i).cores = p.cores := rfl
@[simp] theorem Package.dropJobs_cores (p : Package) (g : Job → Bool) : (p.dropJobs g).cores = p.cores := rfl
@[simp] theorem Package.addJob_cores (p : Package) (j : Job) : (p.addJob j).cores = p.cores := rfl
@[simp] theorem Package.setEntry_cores (p : Package) (r : Nat) (e : MapEntry) : (p.setEntry r e).cores = p.cores := rfl
@[simp] theorem Package.setCore_clusters (p : Package) (c : Nat) (k : Core) : (p.setCore c k).clusters = p.clusters := rfl
@[simp] theorem Package.setThread_clusters (p : Package) (c n : Nat) (t : Thread) : (p.setThread c n t).clusters = p.clusters := rfl
@[simp] theorem Package.setJob_clusters (p : Package) (i : Nat) (j : Job) : (p.setJob i j).clusters = p.clusters := rfl
@[simp] theorem Package.dropJob_clusters (p : Package) (i : Nat) : (p.dropJob i).clusters = p.clusters := rfl
@[simp] theorem Package.dropJobs_clusters (p : Package) (g : Job → Bool) : (p.dropJobs g).clusters = p.clusters := rfl
@[simp] theorem Package.addJob_clusters (p : Package) (j : Job) : (p.addJob j).clusters = p.clusters := rfl
@[simp] theorem Package.setEntry_clusters (p : Package) (r : Nat) (e : MapEntry) : (p.setEntry r e).clusters = p.clusters := rfl
@[simp] theorem Package.setCore_dies (p : Package) (c : Nat) (k : Core) : (p.setCore c k).dies = p.dies := rfl
@[simp] theorem Package.setThread_dies (p : Package) (c n : Nat) (t : Thread) : (p.setThread c n t).dies = p.dies := rfl
@[simp] theorem Package.setJob_dies (p : Package) (i : Nat) (j : Job) : (p.setJob i j).dies = p.dies := rfl
@[simp] theorem Package.dropJob_dies (p : Package) (i : Nat) : (p.dropJob i).dies = p.dies := rfl
@[simp] theorem Package.dropJobs_dies (p : Package) (g : Job → Bool) : (p.dropJobs g).dies = p.dies := rfl
@[simp] theorem Package.addJob_dies (p : Package) (j : Job) : (p.addJob j).dies = p.dies := rfl
@[simp] theorem Package.setEntry_dies (p : Package) (r : Nat) (e : MapEntry) : (p.setEntry r e).dies = p.dies := rfl
@[simp] theorem Package.setCore_map (p : Package) (c : Nat) (k : Core) : (p.setCore c k).map = p.map := rfl
@[simp] theorem Package.setThread_map (p : Package) (c n : Nat) (t : Thread) : (p.setThread c n t).map = p.map := rfl
@[simp] theorem Package.setJob_map (p : Package) (i : Nat) (j : Job) : (p.setJob i j).map = p.map := rfl
@[simp] theorem Package.dropJob_map (p : Package) (i : Nat) : (p.dropJob i).map = p.map := rfl
@[simp] theorem Package.dropJobs_map (p : Package) (g : Job → Bool) : (p.dropJobs g).map = p.map := rfl
@[simp] theorem Package.addJob_map (p : Package) (j : Job) : (p.addJob j).map = p.map := rfl
@[simp] theorem Package.setCore_holders (p : Package) (c : Nat) (k : Core) : (p.setCore c k).holders = p.holders := rfl
@[simp] theorem Package.setThread_holders (p : Package) (c n : Nat) (t : Thread) : (p.setThread c n t).holders = p.holders := rfl
@[simp] theorem Package.setJob_holders (p : Package) (i : Nat) (j : Job) : (p.setJob i j).holders = p.holders := rfl
@[simp] theorem Package.dropJob_holders (p : Package) (i : Nat) : (p.dropJob i).holders = p.holders := rfl
@[simp] theorem Package.dropJobs_holders (p : Package) (g : Job → Bool) : (p.dropJobs g).holders = p.holders := rfl
@[simp] theorem Package.addJob_holders (p : Package) (j : Job) : (p.addJob j).holders = p.holders := rfl
@[simp] theorem Package.setEntry_holders (p : Package) (r : Nat) (e : MapEntry) : (p.setEntry r e).holders = p.holders := rfl
@[simp] theorem Package.setCore_roots (p : Package) (c : Nat) (k : Core) : (p.setCore c k).roots = p.roots := rfl
@[simp] theorem Package.setThread_roots (p : Package) (c n : Nat) (t : Thread) : (p.setThread c n t).roots = p.roots := rfl
@[simp] theorem Package.setJob_roots (p : Package) (i : Nat) (j : Job) : (p.setJob i j).roots = p.roots := rfl
@[simp] theorem Package.dropJob_roots (p : Package) (i : Nat) : (p.dropJob i).roots = p.roots := rfl
@[simp] theorem Package.dropJobs_roots (p : Package) (g : Job → Bool) : (p.dropJobs g).roots = p.roots := rfl
@[simp] theorem Package.addJob_roots (p : Package) (j : Job) : (p.addJob j).roots = p.roots := rfl
@[simp] theorem Package.setEntry_roots (p : Package) (r : Nat) (e : MapEntry) : (p.setEntry r e).roots = p.roots := rfl
@[simp] theorem Package.setCore_pools (p : Package) (c : Nat) (k : Core) : (p.setCore c k).pools = p.pools := rfl
@[simp] theorem Package.setThread_pools (p : Package) (c n : Nat) (t : Thread) : (p.setThread c n t).pools = p.pools := rfl
@[simp] theorem Package.setJob_pools (p : Package) (i : Nat) (j : Job) : (p.setJob i j).pools = p.pools := rfl
@[simp] theorem Package.dropJob_pools (p : Package) (i : Nat) : (p.dropJob i).pools = p.pools := rfl
@[simp] theorem Package.dropJobs_pools (p : Package) (g : Job → Bool) : (p.dropJobs g).pools = p.pools := rfl
@[simp] theorem Package.addJob_pools (p : Package) (j : Job) : (p.addJob j).pools = p.pools := rfl
@[simp] theorem Package.setEntry_pools (p : Package) (r : Nat) (e : MapEntry) : (p.setEntry r e).pools = p.pools := rfl
@[simp] theorem Package.setCore_groups (p : Package) (c : Nat) (k : Core) : (p.setCore c k).groups = p.groups := rfl
@[simp] theorem Package.setThread_groups (p : Package) (c n : Nat) (t : Thread) : (p.setThread c n t).groups = p.groups := rfl
@[simp] theorem Package.setJob_groups (p : Package) (i : Nat) (j : Job) : (p.setJob i j).groups = p.groups := rfl
@[simp] theorem Package.dropJob_groups (p : Package) (i : Nat) : (p.dropJob i).groups = p.groups := rfl
@[simp] theorem Package.dropJobs_groups (p : Package) (g : Job → Bool) : (p.dropJobs g).groups = p.groups := rfl
@[simp] theorem Package.addJob_groups (p : Package) (j : Job) : (p.addJob j).groups = p.groups := rfl
@[simp] theorem Package.setEntry_groups (p : Package) (r : Nat) (e : MapEntry) : (p.setEntry r e).groups = p.groups := rfl
@[simp] theorem Package.setCore_rings (p : Package) (c : Nat) (k : Core) : (p.setCore c k).rings = p.rings := rfl
@[simp] theorem Package.setThread_rings (p : Package) (c n : Nat) (t : Thread) : (p.setThread c n t).rings = p.rings := rfl
@[simp] theorem Package.setJob_rings (p : Package) (i : Nat) (j : Job) : (p.setJob i j).rings = p.rings := rfl
@[simp] theorem Package.dropJob_rings (p : Package) (i : Nat) : (p.dropJob i).rings = p.rings := rfl
@[simp] theorem Package.dropJobs_rings (p : Package) (g : Job → Bool) : (p.dropJobs g).rings = p.rings := rfl
@[simp] theorem Package.addJob_rings (p : Package) (j : Job) : (p.addJob j).rings = p.rings := rfl
@[simp] theorem Package.setEntry_rings (p : Package) (r : Nat) (e : MapEntry) : (p.setEntry r e).rings = p.rings := rfl
@[simp] theorem Package.setCore_linkUp (p : Package) (c : Nat) (k : Core) : (p.setCore c k).linkUp = p.linkUp := rfl
@[simp] theorem Package.setThread_linkUp (p : Package) (c n : Nat) (t : Thread) : (p.setThread c n t).linkUp = p.linkUp := rfl
@[simp] theorem Package.setJob_linkUp (p : Package) (i : Nat) (j : Job) : (p.setJob i j).linkUp = p.linkUp := rfl
@[simp] theorem Package.dropJob_linkUp (p : Package) (i : Nat) : (p.dropJob i).linkUp = p.linkUp := rfl
@[simp] theorem Package.dropJobs_linkUp (p : Package) (g : Job → Bool) : (p.dropJobs g).linkUp = p.linkUp := rfl
@[simp] theorem Package.addJob_linkUp (p : Package) (j : Job) : (p.addJob j).linkUp = p.linkUp := rfl
@[simp] theorem Package.setEntry_linkUp (p : Package) (r : Nat) (e : MapEntry) : (p.setEntry r e).linkUp = p.linkUp := rfl
@[simp] theorem Package.setCore_ltr (p : Package) (c : Nat) (k : Core) : (p.setCore c k).ltr = p.ltr := rfl
@[simp] theorem Package.setThread_ltr (p : Package) (c n : Nat) (t : Thread) : (p.setThread c n t).ltr = p.ltr := rfl
@[simp] theorem Package.setJob_ltr (p : Package) (i : Nat) (j : Job) : (p.setJob i j).ltr = p.ltr := rfl
@[simp] theorem Package.dropJob_ltr (p : Package) (i : Nat) : (p.dropJob i).ltr = p.ltr := rfl
@[simp] theorem Package.dropJobs_ltr (p : Package) (g : Job → Bool) : (p.dropJobs g).ltr = p.ltr := rfl
@[simp] theorem Package.addJob_ltr (p : Package) (j : Job) : (p.addJob j).ltr = p.ltr := rfl
@[simp] theorem Package.setEntry_ltr (p : Package) (r : Nat) (e : MapEntry) : (p.setEntry r e).ltr = p.ltr := rfl
@[simp] theorem Package.setCore_errors (p : Package) (c : Nat) (k : Core) : (p.setCore c k).errors = p.errors := rfl
@[simp] theorem Package.setThread_errors (p : Package) (c n : Nat) (t : Thread) : (p.setThread c n t).errors = p.errors := rfl
@[simp] theorem Package.setJob_errors (p : Package) (i : Nat) (j : Job) : (p.setJob i j).errors = p.errors := rfl
@[simp] theorem Package.dropJob_errors (p : Package) (i : Nat) : (p.dropJob i).errors = p.errors := rfl
@[simp] theorem Package.dropJobs_errors (p : Package) (g : Job → Bool) : (p.dropJobs g).errors = p.errors := rfl
@[simp] theorem Package.addJob_errors (p : Package) (j : Job) : (p.addJob j).errors = p.errors := rfl
@[simp] theorem Package.setEntry_errors (p : Package) (r : Nat) (e : MapEntry) : (p.setEntry r e).errors = p.errors := rfl
@[simp] theorem Package.setCore_usage (p : Package) (c : Nat) (k : Core) : (p.setCore c k).usage = p.usage := rfl
@[simp] theorem Package.setThread_usage (p : Package) (c n : Nat) (t : Thread) : (p.setThread c n t).usage = p.usage := rfl
@[simp] theorem Package.setJob_usage (p : Package) (i : Nat) (j : Job) : (p.setJob i j).usage = p.usage := rfl
@[simp] theorem Package.dropJob_usage (p : Package) (i : Nat) : (p.dropJob i).usage = p.usage := rfl
@[simp] theorem Package.dropJobs_usage (p : Package) (g : Job → Bool) : (p.dropJobs g).usage = p.usage := rfl
@[simp] theorem Package.addJob_usage (p : Package) (j : Job) : (p.addJob j).usage = p.usage := rfl
@[simp] theorem Package.setEntry_usage (p : Package) (r : Nat) (e : MapEntry) : (p.setEntry r e).usage = p.usage := rfl
@[simp] theorem Package.setCore_flights (p : Package) (c : Nat) (k : Core) : (p.setCore c k).flights = p.flights := rfl
@[simp] theorem Package.setThread_flights (p : Package) (c n : Nat) (t : Thread) : (p.setThread c n t).flights = p.flights := rfl
@[simp] theorem Package.setEntry_flights (p : Package) (r : Nat) (e : MapEntry) : (p.setEntry r e).flights = p.flights := rfl
@[simp] theorem Package.setCore_nextId (p : Package) (c : Nat) (k : Core) : (p.setCore c k).nextId = p.nextId := rfl
@[simp] theorem Package.setThread_nextId (p : Package) (c n : Nat) (t : Thread) : (p.setThread c n t).nextId = p.nextId := rfl
@[simp] theorem Package.setJob_nextId (p : Package) (i : Nat) (j : Job) : (p.setJob i j).nextId = p.nextId := rfl
@[simp] theorem Package.dropJob_nextId (p : Package) (i : Nat) : (p.dropJob i).nextId = p.nextId := rfl
@[simp] theorem Package.dropJobs_nextId (p : Package) (g : Job → Bool) : (p.dropJobs g).nextId = p.nextId := rfl
@[simp] theorem Package.setEntry_nextId (p : Package) (r : Nat) (e : MapEntry) : (p.setEntry r e).nextId = p.nextId := rfl
@[simp] theorem Package.setCore_src (p : Package) (c : Nat) (k : Core) : (p.setCore c k).src = p.src := rfl
@[simp] theorem Package.setThread_src (p : Package) (c n : Nat) (t : Thread) : (p.setThread c n t).src = p.src := rfl
@[simp] theorem Package.setJob_src (p : Package) (i : Nat) (j : Job) : (p.setJob i j).src = p.src := rfl
@[simp] theorem Package.dropJob_src (p : Package) (i : Nat) : (p.dropJob i).src = p.src := rfl
@[simp] theorem Package.dropJobs_src (p : Package) (g : Job → Bool) : (p.dropJobs g).src = p.src := rfl
@[simp] theorem Package.addJob_src (p : Package) (j : Job) : (p.addJob j).src = p.src := rfl
@[simp] theorem Package.setEntry_src (p : Package) (r : Nat) (e : MapEntry) : (p.setEntry r e).src = p.src := rfl
@[simp] theorem Package.setCore_tgt (p : Package) (c : Nat) (k : Core) : (p.setCore c k).tgt = p.tgt := rfl
@[simp] theorem Package.setThread_tgt (p : Package) (c n : Nat) (t : Thread) : (p.setThread c n t).tgt = p.tgt := rfl
@[simp] theorem Package.setJob_tgt (p : Package) (i : Nat) (j : Job) : (p.setJob i j).tgt = p.tgt := rfl
@[simp] theorem Package.dropJob_tgt (p : Package) (i : Nat) : (p.dropJob i).tgt = p.tgt := rfl
@[simp] theorem Package.dropJobs_tgt (p : Package) (g : Job → Bool) : (p.dropJobs g).tgt = p.tgt := rfl
@[simp] theorem Package.addJob_tgt (p : Package) (j : Job) : (p.addJob j).tgt = p.tgt := rfl
@[simp] theorem Package.setEntry_tgt (p : Package) (r : Nat) (e : MapEntry) : (p.setEntry r e).tgt = p.tgt := rfl
@[simp] theorem Package.setCore_cache (p : Package) (c : Nat) (k : Core) : (p.setCore c k).cache = p.cache := rfl
@[simp] theorem Package.setThread_cache (p : Package) (c n : Nat) (t : Thread) : (p.setThread c n t).cache = p.cache := rfl
@[simp] theorem Package.setJob_cache (p : Package) (i : Nat) (j : Job) : (p.setJob i j).cache = p.cache := rfl
@[simp] theorem Package.dropJob_cache (p : Package) (i : Nat) : (p.dropJob i).cache = p.cache := rfl
@[simp] theorem Package.dropJobs_cache (p : Package) (g : Job → Bool) : (p.dropJobs g).cache = p.cache := rfl
@[simp] theorem Package.addJob_cache (p : Package) (j : Job) : (p.addJob j).cache = p.cache := rfl
@[simp] theorem Package.setEntry_cache (p : Package) (r : Nat) (e : MapEntry) : (p.setEntry r e).cache = p.cache := rfl
@[simp] theorem Package.setCore_linksDown (p : Package) (c : Nat) (k : Core) : (p.setCore c k).linksDown = p.linksDown := rfl
@[simp] theorem Package.setThread_linksDown (p : Package) (c n : Nat) (t : Thread) : (p.setThread c n t).linksDown = p.linksDown := rfl
@[simp] theorem Package.setJob_linksDown (p : Package) (i : Nat) (j : Job) : (p.setJob i j).linksDown = p.linksDown := rfl
@[simp] theorem Package.dropJob_linksDown (p : Package) (i : Nat) : (p.dropJob i).linksDown = p.linksDown := rfl
@[simp] theorem Package.dropJobs_linksDown (p : Package) (g : Job → Bool) : (p.dropJobs g).linksDown = p.linksDown := rfl
@[simp] theorem Package.addJob_linksDown (p : Package) (j : Job) : (p.addJob j).linksDown = p.linksDown := rfl
@[simp] theorem Package.setEntry_linksDown (p : Package) (r : Nat) (e : MapEntry) : (p.setEntry r e).linksDown = p.linksDown := rfl
@[simp] theorem Package.setCore_covers (p : Package) (c : Nat) (k : Core) : (p.setCore c k).covers = p.covers := rfl
@[simp] theorem Package.setThread_covers (p : Package) (c n : Nat) (t : Thread) : (p.setThread c n t).covers = p.covers := rfl
@[simp] theorem Package.setJob_covers (p : Package) (i : Nat) (j : Job) : (p.setJob i j).covers = p.covers := rfl
@[simp] theorem Package.dropJob_covers (p : Package) (i : Nat) : (p.dropJob i).covers = p.covers := rfl
@[simp] theorem Package.dropJobs_covers (p : Package) (g : Job → Bool) : (p.dropJobs g).covers = p.covers := rfl
@[simp] theorem Package.addJob_covers (p : Package) (j : Job) : (p.addJob j).covers = p.covers := rfl
@[simp] theorem Package.setEntry_covers (p : Package) (r : Nat) (e : MapEntry) : (p.setEntry r e).covers = p.covers := rfl
@[simp] theorem Package.setCore_booted (p : Package) (c : Nat) (k : Core) : (p.setCore c k).booted = p.booted := rfl
@[simp] theorem Package.setThread_booted (p : Package) (c n : Nat) (t : Thread) : (p.setThread c n t).booted = p.booted := rfl
@[simp] theorem Package.setJob_booted (p : Package) (i : Nat) (j : Job) : (p.setJob i j).booted = p.booted := rfl
@[simp] theorem Package.dropJob_booted (p : Package) (i : Nat) : (p.dropJob i).booted = p.booted := rfl
@[simp] theorem Package.dropJobs_booted (p : Package) (g : Job → Bool) : (p.dropJobs g).booted = p.booted := rfl
@[simp] theorem Package.addJob_booted (p : Package) (j : Job) : (p.addJob j).booted = p.booted := rfl
@[simp] theorem Package.setEntry_booted (p : Package) (r : Nat) (e : MapEntry) : (p.setEntry r e).booted = p.booted := rfl
@[simp] theorem Package.setCore_mergeTurn (p : Package) (c : Nat) (k : Core) : (p.setCore c k).mergeTurn = p.mergeTurn := rfl
@[simp] theorem Package.setThread_mergeTurn (p : Package) (c n : Nat) (t : Thread) : (p.setThread c n t).mergeTurn = p.mergeTurn := rfl
@[simp] theorem Package.setJob_mergeTurn (p : Package) (i : Nat) (j : Job) : (p.setJob i j).mergeTurn = p.mergeTurn := rfl
@[simp] theorem Package.dropJob_mergeTurn (p : Package) (i : Nat) : (p.dropJob i).mergeTurn = p.mergeTurn := rfl
@[simp] theorem Package.dropJobs_mergeTurn (p : Package) (g : Job → Bool) : (p.dropJobs g).mergeTurn = p.mergeTurn := rfl
@[simp] theorem Package.addJob_mergeTurn (p : Package) (j : Job) : (p.addJob j).mergeTurn = p.mergeTurn := rfl
@[simp] theorem Package.setEntry_mergeTurn (p : Package) (r : Nat) (e : MapEntry) : (p.setEntry r e).mergeTurn = p.mergeTurn := rfl
@[simp] theorem Package.setCore_inForce (p : Package) (c : Nat) (k : Core) : (p.setCore c k).inForce = p.inForce := rfl
@[simp] theorem Package.setThread_inForce (p : Package) (c n : Nat) (t : Thread) : (p.setThread c n t).inForce = p.inForce := rfl
@[simp] theorem Package.setJob_inForce (p : Package) (i : Nat) (j : Job) : (p.setJob i j).inForce = p.inForce := rfl
@[simp] theorem Package.dropJob_inForce (p : Package) (i : Nat) : (p.dropJob i).inForce = p.inForce := rfl
@[simp] theorem Package.dropJobs_inForce (p : Package) (g : Job → Bool) : (p.dropJobs g).inForce = p.inForce := rfl
@[simp] theorem Package.addJob_inForce (p : Package) (j : Job) : (p.addJob j).inForce = p.inForce := rfl
@[simp] theorem Package.setEntry_inForce (p : Package) (r : Nat) (e : MapEntry) : (p.setEntry r e).inForce = p.inForce := rfl
@[simp] theorem Package.setCore_turns (p : Package) (c : Nat) (k : Core) : (p.setCore c k).turns = p.turns := rfl
@[simp] theorem Package.setThread_turns (p : Package) (c n : Nat) (t : Thread) : (p.setThread c n t).turns = p.turns := rfl
@[simp] theorem Package.setJob_turns (p : Package) (i : Nat) (j : Job) : (p.setJob i j).turns = p.turns := rfl
@[simp] theorem Package.dropJob_turns (p : Package) (i : Nat) : (p.dropJob i).turns = p.turns := rfl
@[simp] theorem Package.dropJobs_turns (p : Package) (g : Job → Bool) : (p.dropJobs g).turns = p.turns := rfl
@[simp] theorem Package.addJob_turns (p : Package) (j : Job) : (p.addJob j).turns = p.turns := rfl
@[simp] theorem Package.setEntry_turns (p : Package) (r : Nat) (e : MapEntry) : (p.setEntry r e).turns = p.turns := rfl
@[simp] theorem Package.setCore_replays (p : Package) (c : Nat) (k : Core) : (p.setCore c k).replays = p.replays := rfl
@[simp] theorem Package.setThread_replays (p : Package) (c n : Nat) (t : Thread) : (p.setThread c n t).replays = p.replays := rfl
@[simp] theorem Package.setJob_replays (p : Package) (i : Nat) (j : Job) : (p.setJob i j).replays = p.replays := rfl
@[simp] theorem Package.dropJob_replays (p : Package) (i : Nat) : (p.dropJob i).replays = p.replays := rfl
@[simp] theorem Package.dropJobs_replays (p : Package) (g : Job → Bool) : (p.dropJobs g).replays = p.replays := rfl
@[simp] theorem Package.addJob_replays (p : Package) (j : Job) : (p.addJob j).replays = p.replays := rfl
@[simp] theorem Package.setEntry_replays (p : Package) (r : Nat) (e : MapEntry) : (p.setEntry r e).replays = p.replays := rfl
@[simp] theorem Package.setCore_served (p : Package) (c : Nat) (k : Core) : (p.setCore c k).served = p.served := rfl
@[simp] theorem Package.setThread_served (p : Package) (c n : Nat) (t : Thread) : (p.setThread c n t).served = p.served := rfl
@[simp] theorem Package.setJob_served (p : Package) (i : Nat) (j : Job) : (p.setJob i j).served = p.served := rfl
@[simp] theorem Package.dropJob_served (p : Package) (i : Nat) : (p.dropJob i).served = p.served := rfl
@[simp] theorem Package.dropJobs_served (p : Package) (g : Job → Bool) : (p.dropJobs g).served = p.served := rfl
@[simp] theorem Package.addJob_served (p : Package) (j : Job) : (p.addJob j).served = p.served := rfl
@[simp] theorem Package.setEntry_served (p : Package) (r : Nat) (e : MapEntry) : (p.setEntry r e).served = p.served := rfl
@[simp] theorem Package.setCore_owed (p : Package) (c : Nat) (k : Core) : (p.setCore c k).owed = p.owed := rfl
@[simp] theorem Package.setThread_owed (p : Package) (c n : Nat) (t : Thread) : (p.setThread c n t).owed = p.owed := rfl
@[simp] theorem Package.setJob_owed (p : Package) (i : Nat) (j : Job) : (p.setJob i j).owed = p.owed := rfl
@[simp] theorem Package.dropJob_owed (p : Package) (i : Nat) : (p.dropJob i).owed = p.owed := rfl
@[simp] theorem Package.dropJobs_owed (p : Package) (g : Job → Bool) : (p.dropJobs g).owed = p.owed := rfl
@[simp] theorem Package.addJob_owed (p : Package) (j : Job) : (p.addJob j).owed = p.owed := rfl
@[simp] theorem Package.setEntry_owed (p : Package) (r : Nat) (e : MapEntry) : (p.setEntry r e).owed = p.owed := rfl

end Sys2Proof.Machine
end

