-- ==== Sys2Proof/Laws/Shared.lean ====
section
/-! SUPPORT. What the shared operations of messages, barriers and the fabric leave alone, and what they change. -/

namespace Sys2Proof.Machine

/-! ## Messages (R150) -/

@[simp] theorem State.mem_joinWaitm (s : State) : s.joinWaitm.here.mem = s.here.mem := by simp [State.joinWaitm]
@[simp] theorem State.cur_joinWaitm (s : State) : s.joinWaitm.cur = s.cur := rfl

/-- A message that has been refused stays refused. -/
theorem Package.judge_refused (p : Package) (id : Nat) (m : Msg) (h : m.refused = true) : p.judge id m = .refuse := by
  simp [Package.judge, h]

/-! ## Barriers (R302, R304) -/

/-- The release of a rectangle's episode takes its signals away, and leaves those of every other rectangle. -/
theorem Bar.toggled_rowIn (b : Bar) (r q : Nat) : q ∈ (b.toggled r).rowIn ↔ q ∈ b.rowIn ∧ q ≠ r := by
  simp only [Bar.toggled]; split <;> simp

theorem Bar.toggled_epoch (b : Bar) (r : Nat) : (b.toggled r).epoch = !b.epoch := by
  simp only [Bar.toggled]; split <;> rfl

/-- A register that is set anew, or whose core passes on, keeps the signals that have been sent. -/
theorem Bar.passed_signals (b : Bar) :
    b.passed.rowIn = b.rowIn ∧ b.passed.colIn = b.colIn ∧ b.passed.rowSent = b.rowSent ∧ b.passed.colSent = b.colSent :=
  ⟨rfl, rfl, rfl, rfl⟩

/-- Only an episode of PHASE.h is closed, and to a commit of its scope that has not started (R313). -/
theorem Package.closePhase_eq (p : Package) (j : Job) :
    p.closePhase j = j ∨ ∃ q, j = .phaseH q ∧ p.phaseDone q = true ∧ p.closePhase j = .commit ⟨q.scope, false, [], none, none⟩ := by
  cases j <;> first | exact .inl rfl | skip
  rename_i q
  by_cases h : p.phaseDone q = true
  · exact .inr ⟨q, rfl, h, by simp [Package.closePhase, h]⟩
  · exact .inl (by simp [Package.closePhase, h])

/-! ## Threads that stop (R30) -/

/-- A trap on a reply is one as on an issue, but for a thread under a cancelled cell that it would stop. -/
theorem Package.trapReply_eq (p : Package) (chip core slot : Nat) (cause : Cause) (value : Word) :
    p.trapReply chip core slot cause value = p.takeTrap core slot cause 0 value ∨
    ∃ cell, (p.thread core slot).cancel = some cell ∧ (p.thread core slot).stopsOnTrap = true ∧
      p.trapReply chip core slot cause value = p.retireCancelled chip core slot cell := by
  cases h : (p.thread core slot).cancel with
  | none => exact .inl (by simp [Package.trapReply, h])
  | some cell =>
    by_cases g : (p.thread core slot).stopsOnTrap = true
    · exact .inr ⟨cell, rfl, g, by simp [Package.trapReply, h, g]⟩
    · exact .inl (by simp [Package.trapReply, h, g])

@[simp] theorem Package.retireStopped_live (p : Package) (chip core slot : Nat) (h : (p.thread core slot).cancel = none) :
    p.retireStopped chip core slot = p := by simp [Package.retireStopped, h]

/-! ## Bytes that a synchronising write removes (R177) -/

/-- A line loses the removed bytes, and keeps its address and the others. -/
theorem OutLine.mem_without (l : OutLine) (as : List Nat) (b : Nat × Byte) :
    b ∈ (l.without as).bytes ↔ b ∈ l.bytes ∧ l.line + b.1 ∉ as := by simp [OutLine.without]
@[simp] theorem OutLine.without_line (l : OutLine) (as : List Nat) : (l.without as).line = l.line := rfl
@[simp] theorem Core.dropBytes_lines (k : Core) (as : List Nat) : (k.dropBytes as).outbox.length = k.outbox.length := by simp [Core.dropBytes]

theorem Package.cutLog_nothing (p : Package) (c : Nat) (as : List Nat) (h : p.cutMasks c as = []) : p.cutLog c as = p := by
  simp [Package.cutLog, h]

/-! ## Bindings (R159) -/

/-- A binding is made only between two requests that stand. -/
theorem State.answersBind_stand (s : State) (chip : Nat) (b : BindReq) (h : s.answersBind chip b = true) :
    (s.pkg b.fromChip).bindStands b = true ∧ ((s.pkg chip).thread b.dst b.slot).bindingTo (opposite b.port) b.owner.slot = true := by
  simp only [State.answersBind, Bool.and_eq_true] at h
  exact ⟨h.1.1.2, h.1.1.1.1.1⟩

/-! ## Host packets that are aborted (R376 to R378) -/

/-- A packet is aborted at once, or stays, ABORTED and with no kind, until its signal can be written. -/
theorem Package.abortPacket_eq (p : Package) (k : HostPacket) (spare : Bool) (pick : Nat) :
    (p.signalFree k pick = true ∧ p.abortPacket k spare pick = p.endPacket k false spare pick) ∨
    (p.signalFree k pick = false ∧
      p.abortPacket k spare pick = (p.noteAbort k false).addJob (.packet { k with bytes := 0 :: k.bytes.drop 1, outcome := some false })) := by
  cases h : p.signalFree k pick
  · exact .inr ⟨rfl, by simp [Package.abortPacket, h]⟩
  · exact .inl ⟨rfl, by simp [Package.abortPacket, h]⟩

/-! ## The record of posted requests (R413) -/

@[simp] theorem Packet.onFormer_dst (k : Packet) (src : Nat) (o : Owner) (f : Thread → Thread) : (k.onFormer src o f).dst = k.dst := by
  simp only [Packet.onFormer]; split <;> (try split) <;> rfl
@[simp] theorem Packet.onFormer_src (k : Packet) (src : Nat) (o : Owner) (f : Thread → Thread) : (k.onFormer src o f).src = k.src := by
  simp only [Packet.onFormer]; split <;> (try split) <;> rfl
@[simp] theorem Packet.onFormer_original (k : Packet) (src : Nat) (o : Owner) (f : Thread → Thread) :
    (k.onFormer src o f).original = k.original := by
  simp only [Packet.onFormer]; split <;> (try split) <;> rfl
@[simp] theorem Package.onFormer_mem (p : Package) (src : Nat) (o : Owner) (f : Thread → Thread) : (p.onFormer src o f).mem = p.mem := rfl
@[simp] theorem Package.onFormer_flights (p : Package) (src : Nat) (o : Owner) (f : Thread → Thread) :
    (p.onFormer src o f).flights = p.flights := rfl

/-! ## What packages owe (R424) -/

theorem State.tell_nothing (s : State) (chip : Nat) (h : (s.pkg chip).owed = []) : s.tell chip = s := by
  simp [State.tell, h]

end Sys2Proof.Machine
end

