-- ==== Sys2Proof/Laws/Writes.lean ====
section
/-! SUPPORT. The writes to home memory: what each leaves in M and in the unstable sets, and that M keeps its canonical form; what an acquire leaves. -/

namespace Sys2Proof.Machine

theorem Package.mem_foldl_onCore (cs : List Nat) (p : Package) : (cs.foldl (fun p c => p.onCore c id) p).mem = p.mem := by
  induction cs generalizing p with
  | nil => rfl
  | cons c t ih => rw [List.foldl_cons, ih]; rfl

theorem Package.mem_unsettle (p : Package) (spare ws : List Nat) : (p.unsettle spare ws).mem = p.mem :=
  Package.mem_foldl_onCore spare (p.dropRows ws)

theorem Package.mem_writeM (p : Package) (spare : List Nat) (ws : List (Nat × Byte)) :
    (p.writeM spare ws).mem = p.mem.write ws := Package.mem_unsettle _ _ _

theorem Package.mem_writeQuiet (p : Package) (ws : List (Nat × Byte)) : (p.writeQuiet ws).mem = p.mem.write ws := rfl

/-- One new version joins the word's set and no other's. -/
theorem Core.versions_cons (w : Nat × MemWord) (ws : List (Nat × MemWord)) (k : Core) :
    k.versions true (w :: ws)
      = ({ k with unstable := tset k.unstable w.1 ((tget? k.unstable w.1).getD [] ++ [w.2]) } : Core).versions true ws := by
  simp only [Core.versions, List.foldl_cons]
  cases tget? k.unstable w.1 <;> rfl

/-- A version that stands in an unstable set stays there when others are added. -/
theorem Core.unstable_versions_mono (ws : List (Nat × MemWord)) (k : Core) (a : Nat) (v : MemWord)
    (h : v ∈ (tget? k.unstable a).getD []) : v ∈ (tget? (k.versions true ws).unstable a).getD [] := by
  induction ws generalizing k with
  | nil => exact h
  | cons w ws ih =>
    rw [Core.versions_cons]
    refine ih _ ?_
    by_cases e : a = w.1
    · subst e; simp [h]
    · simpa [e] using h

/-- Every word that M takes a new version of is unstable afterwards, with that version among its values (R214). -/
theorem Core.unstable_versions {ws : List (Nat × MemWord)} {w : Nat × MemWord} (h : w ∈ ws) (k : Core) :
    w.2 ∈ (tget? (k.versions true ws).unstable w.1).getD [] := by
  induction ws generalizing k with
  | nil => cases h
  | cons x ws ih =>
    rw [Core.versions_cons]
    rcases List.mem_cons.1 h with rfl | h
    · exact Core.unstable_versions_mono _ _ _ _ (by simp)
    · exact ih h _

theorem Package.mem_acquire (p : Package) (c : Nat) (ws : List Nat) : (p.acquire c ws).mem = p.mem := rfl

theorem Package.wf_writeM {p : Package} (spare : List Nat) (ws : List (Nat × Byte)) (h : p.mem.wf = true) :
    (p.writeM spare ws).mem.wf = true := by rw [Package.mem_writeM]; exact Memory.wf_write ws h

theorem Package.wf_writeQuiet {p : Package} (ws : List (Nat × Byte)) (h : p.mem.wf = true) :
    (p.writeQuiet ws).mem.wf = true := by rw [Package.mem_writeQuiet]; exact Memory.wf_write ws h

theorem Package.wf_writeLine {p : Package} (spare : List Nat) (l : LineWrite) (h : p.mem.wf = true) :
    (p.writeLine spare l).mem.wf = true := by
  unfold Package.writeLine
  rw [Package.mem_unsettle]
  exact Memory.wf_foldl _ (fun _ _ hm => Memory.wf_setBad _ _ hm) _ (Memory.wf_write _ h)

/-- A quiet write changes no byte that it does not name. -/
theorem Package.byte_writeQuiet_other (p : Package) (ws : List (Nat × Byte)) (a : Nat) (h : ∀ w ∈ ws, a ≠ w.1) :
    (p.writeQuiet ws).mem.byte a = p.mem.byte a := by
  rw [Package.mem_writeQuiet]; exact Memory.byte_write_other ws p.mem a h

/-- Memory at reset is in its canonical form. -/
theorem Package.wf_fresh : Package.fresh.mem.wf = true := by decide

end Sys2Proof.Machine
end

