-- ==== Sys2Proof/Tests/Slice0.lean ====
section
/-! SUPPORT. Tests: words of every family against their encodings, ill-formed terms, known answers of the spec, and for each
statement a state and operands that meet its hypotheses. -/

namespace Sys2Proof.Tests

open Sys2Proof.Machine Sys2Proof.Claims

set_option maxRecDepth 100000
set_option Elab.async false

/-! ## Small states -/

/-- Package 0 running, slot 0 of core 0 READY with a window of 64 registers at entry 0, as boot leaves it (R382). -/
def base : State := { State.reset with chips := [(0, Package.fresh.placed [])] }

/-- The base with registers written. -/
def regs (l : List (Nat × Word)) : State := l.foldl (fun s r => s.setReg r.1 r.2) base

/-- A change of the core, of the thread, of the package. -/
def withCore (s : State) (f : Core → Core) : State := s.onHereCore f
def withMe (s : State) (f : Thread → Thread) : State := s.onMe f
def withPkg (s : State) (f : Package → Package) : State := s.onHere f

/-- The base with items in flight, numbered from 1. -/
def flying (s : State) (js : List Job) : State := withPkg s (fun p => js.foldl Package.addJob p)

def op (n : Reg) : RegOp := ⟨n, false, false⟩
def src (n : Reg) : Src := .reg (op n)
def tgt (n : Reg) : Tgt := .reg (op n)

/-- The next state of an outcome. -/
def after (o : Host.Outcome State Fault Refusal) : Option State :=
  match o with
  | .next t => some t
  | _ => none

/-- A scratchpad address of core 0 (bank 0), and one of HBM. -/
def near : Word := 0x1000
def far : Word := 0x10000001000

theorem addr_ok {r : Addr} {pa : Nat} (h : (match r with | .ok x => decide (x = pa) | _ => false) = true) : r = .ok pa := by
  cases r with
  | ok x => simpa using h
  | trap c d s => simp at h
  | replay s => simp at h

/-! ## Decoding: words written out from R60 to R65 and the maps of R73 to R79 -/

/-- PAGE with a rounding override and a policy; REGX with DHI, SHI, SREUSE, STRAP, DS; REGT; IMM (R65). -/
def page (n : BitVec 4) (rnd : BitVec 3) (ovp : BitVec 2) : Half := 63#6 ++ n ++ rnd ++ ovp ++ 0#1
def regx (dhi shi reuse : BitVec 3) : Half := 61#6 ++ dhi ++ shi ++ reuse ++ 0#1
def regt (n : BitVec 7) (low : BitVec 3) : Half := 62#6 ++ n ++ low
def imm (v : BitVec 10) : Half := 60#6 ++ v

/-- The words are the whole chain of the instruction, as the decoder reads it and as the encoder writes it. -/
noncomputable def is (ws : List Half) (i : Instr) : Bool := decide ((decode ws).toOption = some (i, ws.length) ∧ encode i = ws ∧ i.wf = true)

/-- The words are refused for a reason. -/
noncomputable def bad (ws : List Half) (e : Illegal) : Bool := decide (decode ws = .error e)

theorem test_decode_integer :
    is [1#6 ++ 3#4 ++ 4#4 ++ 0#2] (.add 3 (src 4)) = true ∧ is [4#6 ++ 3#4 ++ 15#4 ++ 2#2] (.subW 3 (.imm (BitVec.ofInt 64 (-1)))) = true ∧
    is [regx 2 5 0, 8#6 ++ 3#4 ++ 4#4 ++ 0#2] (.div 35 (src 84)) = true ∧ is [23#6 ++ 3#4 ++ 10#4 ++ 1#2] (.mov (.reg 3) (.stream 10)) = true ∧
    is [regx 0 0 1, 23#6 ++ 2#4 ++ 5#4 ++ 0#2] (.mov (.stream 2) (src 5)) = true ∧
    is [imm 1, 30#6 ++ 3#4 ++ 0#6] (.addi 3 64) = true ∧ is [imm 512, imm 0, 31#6 ++ 3#4 ++ 7#6] (.li (.reg 3) (BitVec.ofInt 64 (-(2 ^ 25) + 7))) = true ∧
    is [regt 9 0, 36#6 ++ 1#4 ++ 2#4 ++ 0#2] (.sel 1 (src 2) (tgt 9)) = true ∧
    is [imm 1023, 35#6 ++ 1#4 ++ 2#4 ++ 0#2] (.lea 1 (op 2) (BitVec.ofInt 64 (-1))) = true := by decide +kernel

theorem test_decode_control :
    is [37#6 ++ 1#4 ++ 33#6] (.bez 1 (BitVec.ofInt 64 (-31))) = true ∧ is [0xF3D8, 0xA558] (.beq 5 (src 6) (BitVec.ofInt 64 (-40))) = true ∧
    is [47#6 ++ 1023#10] (.j (BitVec.ofInt 64 (-1))) = true ∧ is [imm 1, 48#6 ++ 2#10] (.call 1026) = true ∧ is [49#6 ++ 0#4 ++ 7#4 ++ 0#2] (.jr (op 7)) = true ∧
    is [50#6 ++ 0#10] .ret = true ∧ is [regt 9 0, 51#6 ++ 1#4 ++ 2#4 ++ 0#2] (.jtab 1 (op 2) (op 9)) = true ∧ is [0xD000] .yield = true ∧
    is [0xD400] .retire = true ∧ is [0xD800] .nop = true ∧ is [55#6 ++ 5#10] (.trap 5) = true ∧ is [56#6 ++ 6#10] (.bkpt 6) = true := by decide +kernel

theorem test_decode_scalar :
    is [0xFC50, 0xF480, 0x290C] (.faddS ⟨2, 0⟩ 20 (src 3)) = true ∧ is [page 1 0 0, 1#6 ++ 1#4 ++ 2#4 ++ 0#2] (.bfx 1 (src 2)) = true ∧
    is [page 1 0 0, 8#6 ++ 1#4 ++ 2#4 ++ 0#2] (.crcD 1 (src 2)) = true ∧ is [page 1 1 2, 45#6 ++ 1#4 ++ 2#4 ++ 0#2] (.fcvtSD ⟨1, 2⟩ 1 (src 2)) = true ∧
    is [page 1 0 0, 55#6 ++ 0#4 ++ 10#6] (.setrm 0x0A) = true ∧ is [page 1 0 0, 58#6 ++ 1#4 ++ 4#6] (.sread 1 4) = true := by decide +kernel

theorem test_decode_memory :
    is [imm 8, 57#6 ++ 3#4 ++ 4#4 ++ 3#2] (.ldz .d 3 (op 4) 8) = true ∧ is [58#6 ++ 3#4 ++ 4#4 ++ 1#2] (.lds .h 3 (op 4) 0) = true ∧
    is [59#6 ++ 3#4 ++ 4#4 ++ 0#2] (.st .b 3 (op 4) 0) = true ∧ is [page 2 0 0, 3#6 ++ 3#4 ++ 4#4 ++ 3#2] (.stef 3 (op 4) 0) = true ∧
    is [page 2 0 0, 7#6 ++ 3#4 ++ 4#4 ++ 3#2] (.amoAddD 3 (op 4) 0) = true ∧
    is [page 2 0 0, regt 5 0, 25#6 ++ 3#4 ++ 4#4 ++ 3#2] (.acasD 3 (op 4) 0 (op 5)) = true := by decide +kernel

theorem test_decode_core :
    is [page 2 0 0, regt 5 1, 27#6 ++ 3#4 ++ 4#4 ++ 0#2] (.forkae 3 (op 4) (.stream 5)) = true ∧
    is [page 2 0 0, 34#6 ++ 3#4 ++ 0#6] (.takem 3) = true ∧ is [page 2 0 0, 40#6 ++ 3#4 ++ 4#4 ++ 0#2] (.push 3 (src 4)) = true ∧
    is [page 2 0 0, regt 5 0, 45#6 ++ 3#4 ++ 4#4 ++ 0#2] (.treg 3 (op 4) (tgt 5)) = true ∧
    is [page 2 0 0, imm 0, 49#6 ++ 3#4 ++ 8#4 ++ 2#2] (.bfmtRead 3 (.imm 8)) = true := by decide +kernel

theorem test_decode_engines :
    is [page 3 0 0, 1#6 ++ 3#4 ++ 4#4 ++ 0#2] (.layout 3 (op 4) 0) = true ∧ is [page 3 0 0, regt 2 0, 14#6 ++ 1#4 ++ 3#4 ++ 0#2] (.vaddS ⟨0, 0⟩ 1 3) = false ∧
    is [page 3 0 0, 14#6 ++ 1#4 ++ 3#4 ++ 0#2] (.vaddS ⟨0, 0⟩ 1 3) = true ∧ is [page 3 0 0, regt 2 0, 21#6 ++ 1#4 ++ 3#4 ++ 0#2] (.vfmaD ⟨0, 0⟩ 1 3 2) = true ∧
    is [page 3 0 0, 56#6 ++ 0#10] .esync = true ∧ is [page 3 0 0, regt 7 0, 53#6 ++ 1#4 ++ 3#4 ++ 0#2] (.copyB 1 3 (op 7)) = true := by decide +kernel

theorem test_decode_cluster_and_die :
    is [page 4 0 0, 2#6 ++ 0#4 ++ 3#4 ++ 2#2] (.bar 3) = true ∧ is [page 4 0 0, regt 12 1, 5#6 ++ 3#4 ++ 4#4 ++ 0#2] (.rfork 3 (op 4) (.stream 12)) = true ∧
    is [page 4 0 0, 14#6 ++ 3#4 ++ 4#4 ++ 3#2] (.grid 3 (op 4) 0) = true ∧ is [page 4 0 0, regt 5 0, 17#6 ++ 3#4 ++ 4#4 ++ 2#2] (.ldh .w 3 (op 4) 0 (tgt 5)) = true ∧
    is [0xFD00, 0x0E4A] (.bara 9 2) = true ∧ is [0xFD00, 0xF830, 0xF008, 0x4552] (.ldh .w 5 (op 4) 8 (tgt 6)) = true ∧
    is [page 4 0 0, 23#6 ++ 3#4 ++ 4#4 ++ 0#2] (.budgetSet 3 (src 4)) = true := by decide +kernel

theorem test_decode_package_and_fabric :
    is [page 5 0 0, 2#6 ++ 3#4 ++ 4#4 ++ 0#2] (.give 3 (op 4)) = true ∧ is [page 5 0 0, 14#6 ++ 3#4 ++ 4#4 ++ 0#2] (.ownqA 3 (op 4) 0) = true ∧
    is [page 5 0 0, 16#6 ++ 0#10] .tlbinv = true ∧ is [page 6 0 0, regt 5 0, 1#6 ++ 2#4 ++ 4#4 ++ 0#2] (.capmk 2 (op 4) (op 5)) = true ∧
    is [page 6 0 0, 4#6 ++ 3#4 ++ 4#4 ++ 2#2] (.ldr .w 3 (op 4) 0) = true ∧ is [page 6 0 0, regt 7 0, 4#6 ++ 6#4 ++ 4#4 ++ 3#2] (.ldrQ 6 (op 7) (op 4) 0) = true ∧
    is [page 6 0 0, 27#6 ++ 3#4 ++ 4#4 ++ 3#2] (.ramoAddN 3 (op 4) 0) = true ∧ is [page 6 0 0, 37#6 ++ 3#4 ++ 4#4 ++ 0#2] (.mcast 3 (op 4)) = true := by decide +kernel

/-- R67, R71, R81: what traps ILLEGAL. -/
theorem test_decode_illegal :
    bad [0] .unassigned = true ∧ bad [0xFFFF] .reservedBit = true ∧ bad [page 7 0 0, 1#6 ++ 0#10] .page = true ∧ bad [1#6 ++ 0#8 ++ 3#2] .kind = true ∧ bad [page 2 0 0, 1#6 ++ 3#4 ++ 4#4 ++ 0#2] .kind = true ∧
    bad [page 2 0 0, 54#6 ++ 0#10] .unassigned = true ∧ bad [imm 0, imm 0, imm 0, imm 0, 30#6 ++ 0#10] .prefixCount = true ∧
    bad [regt 3 0, 1#6 ++ 3#4 ++ 4#4 ++ 0#2] .strayPrefix = true ∧ bad [36#6 ++ 1#4 ++ 2#4 ++ 0#2] .missingPrefix = true ∧
    bad [regx 0 0 1, 1#6 ++ 2#4 ++ 5#4 ++ 0#2] .streamUse = true ∧ bad [1#6 ++ 3#4 ++ 8#4 ++ 1#2] .streamUse = true ∧
    bad [page 1 6 0, 10#6 ++ 3#4 ++ 4#4 ++ 0#2] .rounding = true ∧ bad [imm 1] .truncated = true := by decide +kernel

/-- A term that each check of well-formedness refuses. -/
theorem test_ill_formed :
    (Instr.mov (.stream 6) (src 1)).wf = false ∧ (Instr.add 1 (.stream 8)).wf = false ∧ (Instr.sel 1 (src 2) (.stream 9)).wf = false ∧
    (Instr.addi 1 (2 ^ 40)).wf = false ∧ (Instr.faddD ⟨7, 0⟩ 1 (src 2)).wf = false ∧
    (Instr.ldh .w 20 (op 30) (2 ^ 25) (tgt 3)).wf = false ∧ (Instr.setrm 6).wf = false ∧ (Instr.heirRecord 1 (op 2)).wf = false ∧
    (Instr.linkReplay 0 0).wf = false := by decide +kernel

/-- The opcode table's own words of ADD and of BAR 0. -/
theorem test_table_words : decodeTableWord 16 0x0400 = some (.add 0 (src 0)) ∧ decodeTableWord 32 0xFD000802 = some (.bar 0) := by decide +kernel

/-- The worked encodings of the sections on the core, the cluster and the die. -/
theorem test_worked_encodings :
    is [0xFC80, 0xF850, 0xF020, 0x7E16] (.sendT 8 5 (some (op 10)) 2) = true ∧ is [0xFC80, 0x9442] (.pbind .w (.imm 0)) = true ∧
    is [0xF402, 0x5C20] (.mov (.stream 0) (src 8)) = true ∧ is [0xFC80, 0xF848, 0xB6E0] (.treg 11 (op 8) (tgt 9)) = true ∧
    is [0xFCC0, 0xF828, 0x1119] (.mmaAcc 1 4 5 (op 6) 0) = true ∧ is [0xFCC0, 0xF410, 0x3100] (.drainI ⟨0, 0⟩ 4 (op 16)) = true ∧
    is [0xFCC0, 0xF808, 0x1430] (.mmaDecay 0 0 1 (op 12) 0) = true ∧ is [0xFCC0, 0xEB82] (.saveareaWrite 14) = true ∧
    is [0xFD00, 0x0E4A] (.bara 9 2) = true ∧ is [0xFD00, 0xF830, 0xF008, 0x4552] (.ldh .w 5 (op 4) 8 (tgt 6)) = true ∧
    is [0xFD00, 0xF490, 0x4010] (.hstep 16 (op 20)) = true ∧
    is [0xFD00, 0xF410, 0xF8A0, 0xF3E8, 0x475E] (.ldh .w 13 (op 23) (BitVec.ofInt 64 (-24)) (tgt 20)) = true := by decide +kernel

/-- The worked encodings of the sections on the package and the fabric. -/
theorem test_worked_encodings_beyond :
    is [0xFD40, 0x1024] (.accept (op 9)) = true ∧ is [0xFD40, 0xF860, 0x2824] (.claim (op 9) (op 12)) = true ∧
    is [0xFD40, 0xF860, 0x06AC] (.mint 10 (op 11) (op 12)) = true ∧ is [0xFD40, 0x0BF4] (.give 15 (op 13)) = true ∧
    is [0xFD40, 0xF870, 0x0E74] (.giveS 9 (op 13) (op 14)) = true ∧ is [0xFD40, 0x3524] (.ownq 4 (op 9)) = true ∧
    is [0xFD80, 0xF850, 0x65A3] (.rcasD 6 (op 8) 0 (op 10)) = true ∧ is [0xFD80, 0xF828, 0x1923] (.strQ 4 (op 5) (op 8) 0) = true ∧
    is [0xFD80, 0xF830, 0x0610] (.capmk 8 (op 4) (op 6)) = true ∧ is [0xFD80, 0x9560] (.mcast 5 (op 8)) = true ∧
    is [0xFD80, 0x1D8B] (.ramoAddD 6 (op 2) 0) = true ∧ is [0xFD80, 0xF860, 0xF003, 0xF3CA, 0x0A88] (.capnar 10 (op 2) (op 12) 0xFCA) = true ∧
    is [0xFD80, 0xF008, 0x1B6B] (.str .d 13 (op 10) 8) = true ∧ is [0xFD80, 0xF870, 0x93E8] (.ffence 15 (op 10) (op 14)) = true := by decide +kernel
/-- R67, R136: a field of an operand that is absent, and a prefix that an instruction's row does not list. -/
theorem test_decode_absent_operands :
    is [page 2 0 0, 5#6 ++ 3#4 ++ 0#4 ++ 0#2] (.seteRegister 3) = true ∧
    bad [page 2 0 0, 5#6 ++ 3#4 ++ 4#4 ++ 0#2] .strayPrefix = true ∧ bad [page 2 0 0, regx 0 1 0, 5#6 ++ 3#4 ++ 0#4 ++ 0#2] .strayPrefix = true ∧
    bad [page 1 0 0, imm 0, 55#6 ++ 0#4 ++ 10#6] .strayPrefix = true ∧ bad [page 1 0 0, imm 0, 58#6 ++ 1#4 ++ 4#6] .strayPrefix = true := by decide +kernel
/-! ## Known answers of the spec -/

/-- A register of the next state of an instruction. -/
def result (i : Instr) (s : State) (n : Nat) : Option Word := (after (exec i s)).map (fun t => t.reg n)

/-- The table of R105. -/
theorem test_division_table :
    (∀ r ∈ [(-7, 2, -3, -1, 0x7FFFFFFFFFFFFFFC, 1), (7, -2, -3, 1, 0, 7), (9, 0, -1, 9, -1, 9), (2 ^ 63, -1, -(2 ^ 63), 0, 0, 2 ^ 63)],
      let s := regs [(1, BitVec.ofInt 64 r.1), (2, BitVec.ofInt 64 r.2.1)]
      result (.div 1 (src 2)) s 1 = some (BitVec.ofInt 64 r.2.2.1) ∧ result (.rem 1 (src 2)) s 1 = some (BitVec.ofInt 64 r.2.2.2.1) ∧
      result (.divu 1 (src 2)) s 1 = some (BitVec.ofInt 64 r.2.2.2.2.1) ∧ result (.remu 1 (src 2)) s 1 = some (BitVec.ofInt 64 r.2.2.2.2.2)) := by
  decide +kernel

/-- R104: the sum wraps; a word sum is sign-extended; D may be S. -/
theorem test_add_wraps :
    result (.add 1 (src 2)) (regs [(1, BitVec.allOnes 64), (2, 2)]) 1 = some 1 ∧
    result (.addW 1 (src 2)) (regs [(1, 0x7FFFFFFF), (2, 1)]) 1 = some 0xFFFFFFFF80000000 ∧
    result (.sub 1 (src 1)) (regs [(1, 7)]) 1 = some 0 ∧ result (.mulh 1 (src 2)) (regs [(1, BitVec.allOnes 64), (2, 3)]) 1 = some (BitVec.allOnes 64) := by
  decide +kernel

/-- The example of R106: the words of both chains, and what they leave in g6. -/
theorem test_li_lih :
    is [0xF004, 0xF234, 0xF159, 0x7DB8] (.li (.reg 6) 0x12345678) = true ∧ is [0xF037, 0xF2AD, 0xF2FB, 0x81AF] (.lih 6 0xDEADBEEF) = true ∧
    ((after (exec (.li (.reg 6) 0x12345678) base)).map (fun t => result (.lih 6 0xDEADBEEF) t 6)) = some (some 0xDEADBEEF12345678) := by decide +kernel

/-- R111: nine CRC.b steps over "123456789" from all ones, inverted. -/
theorem test_crc :
    ([0x31, 0x32, 0x33, 0x34, 0x35, 0x36, 0x37, 0x38, 0x39].foldl (fun c b => crcSteps c b 1) (0xFFFFFFFF : Word)) ^^^ 0xFFFFFFFF = 0xE3069283 := by
  decide +kernel

/-- R124: one half unit in the last place goes to the even neighbour, and upward under RUP; an inexact sum sets NX. -/
theorem test_fadd_rounds :
    let s := regs [(1, 0x3FF0000000000000), (2, 0x3CA0000000000000)]
    result (.faddD ⟨1, 0⟩ 1 (src 2)) s 1 = some 0x3FF0000000000000 ∧ result (.faddD ⟨4, 0⟩ 1 (src 2)) s 1 = some 0x3FF0000000000001 ∧
    ((after (exec (.faddD ⟨1, 0⟩ 1 (src 2)) s)).map (fun t => t.me.flags)) = some 1 := by decide +kernel

/-- R132: SETRM 0x0A selects RTZ and policy 01. -/
theorem test_setrm : (after (exec (.setrm 0x0A) base)).map (fun t => t.me.fmode) = some 0x0A := by decide +kernel

/-- The example of R17: a window of 16 registers at entry 96; pairs and groups at its end. -/
theorem test_windows :
    let s := withMe base (fun t => { t with base := 96, len := 16 })
    let trap (i : Instr) : Option Nat := (after (exec i s)).map (fun t => t.me.cause.toNat % 256)
    trap (.capchk 1 (op 14)) = some 0 ∧ trap (.capchk 1 (op 15)) = some 3 ∧ trap (.takem 12) = some 0 ∧ trap (.takem 14) = some 2 ∧
    trap (.jr (op 20)) = some 2 ∧ trap (.capchk 1 (op 21)) = some 3 := by decide +kernel

/-- R32: with a vector, TRAP 5 enters the handler with IH set; without one the thread stops and sends handler 1 a fault message. -/
theorem test_trap_entry :
    ((after (exec (.trap 5) (withMe base (fun t => { t with vec := 0x40 })))).map (fun t => (t.me.life, t.me.pc, t.me.cause.getLsbD 16, t.me.value, t.me.epc)) =
      some (.ready, 0x40, true, 5, 0)) ∧
    ((after (exec (.trap 5) base)).map (fun t => (t.me.life, t.me.cause.getLsbD 16, t.here.flights.length)) = some (.trapped, false, 1)) := by decide +kernel

/-- R138: the table of slots 2, 5, 9 and 63, the last at service priority, with ptr 61. -/
theorem test_round_robin :
    let k := [2, 5, 9, 63].foldl (fun (k : Core) i => k.setThread i { Thread.fresh with life := .ready, gap := 0, prio := if i = 63 then 1 else 0 }) { base.hereCore with threads := [], ptr := 61 }
    let k1 := k.turnTaken 63
    let k2 := k1.turnTaken 2
    let k3 := (k2.turnTaken 5).turnTaken 9
    k.selectSlot = some 63 ∧ k1.ptr = 61 ∧ k1.selectSlot = some 2 ∧ k2.ptr = 3 ∧ k2.selectSlot = some 5 ∧ k3.ptr = 10 ∧ k3.selectSlot = none ∧
    ({ k3 with cycle := 8 } : Core).selectSlot = some 63 := by decide +kernel

/-- R2, R123: a store's bytes lie little-endian; a byte load extends its sign. -/
theorem test_store_and_load :
    ((after (exec (.st .d 1 (op 2) 0) (regs [(1, 0x0102030405060708), (2, near)]))).map (fun t => (t.here.mem.byte 0x1000, t.here.mem.byte 0x1007)) = some (8, 1)) ∧
    (let s := withPkg (regs [(2, near)]) (fun p => { p with mem := p.mem.write [(0x1000, 0x80)] })
     (after (exec (.lds .b 1 (op 2) 0) s)).map (fun t => (t.hereCore.cell 1).full || decide (t.reg 1 ≠ 0)) = some false ∧
     (after (exec (.lds .b 1 (op 2) 0) s)).map (fun t => t.here.flights.map (·.2)) =
       some [.result ⟨0, 0, 0⟩ (.regs [⟨1, 0xFFFFFFFFFFFFFF80, false, false⟩])]) := by decide +kernel

/-- The example of R177: STEF waits, LDFE takes 5 and lets it write 9, and a LDF then finds 9 full. -/
theorem test_full_empty_scan :
    let fe (slot : Nat) (o : FeOp) (v : Word) : Job := .fe ⟨⟨0, 0, slot⟩, o, far.toNat, 6, v, 2, true⟩
    let p := { (flying base [fe 1 .stef 9, fe 2 .ldfe 0]).here with mem := Memory.empty.write (bytesAt far.toNat 5 8) }
    let q := ((p.onThread 0 1 (fun _ => { Thread.fresh with life := .parked })).onThread 0 2 (fun _ => { Thread.fresh with life := .parked })).scanWord far.toNat
    q.mem.word far.toNat = 9 ∧ q.mem.full far.toNat = true ∧ q.waiters (homeOf far.toNat) = 0 := by decide +kernel

/-- R235: core (1, 9, 3) is in position 3 of cluster 76. -/
theorem test_cluster_position : clusterOf (256 + 3 * 16 + 9) = 76 ∧ positionOf (256 + 3 * 16 + 9) = 3 ∧ clusterCore 76 3 = 256 + 3 * 16 + 9 := by decide

/-- R10: slot 7 of core (1, 9, 3) in generation 5. -/
theorem test_handle : handleOf 5 313 7 = 0x054E47 ∧ meshX 313 = 25 ∧ meshY 313 = 3 := by decide

/-- R53, R54: a group of products rounds once; a negative zero sum becomes +0; ∞ × 0 is the default NaN and NV. -/
theorem test_matrix_float :
    floatElement .ovr 0 0 ((.fin ⟨1, 0⟩, 0) :: List.replicate 3 (.fin ⟨1, -25⟩, 0) ++ List.replicate 28 (.zero false, 0)) = ⟨0x3F800001, 0⟩ ∧
    (addAcc 0x80000000 0).bits = 0 ∧ groupSum [matProduct (e5m2.decode 0x7C) (e5m2.decode 0)] = ⟨0x7FC00000, 16⟩ := by decide +kernel

/-- R53: saturation after each group, or a wrap. -/
theorem test_matrix_integer :
    let ps : List Int := 1000 :: List.replicate 31 0 ++ (-500) :: List.replicate 31 0
    (intElement .sat false 2147483000 ps).bits = 2147483147 ∧ (intElement .acc false 2147483000 ps).bits = 2 ^ 32 - 2147483796 := by decide +kernel

/-- R56: the table of an INT8 target with OutZp = -3: bits, flags OF and NX, w. -/
theorem test_drain_integer :
    let col (mult shift : Nat) : Word := word (shift * 2 ^ 32 + mult)
    (drainInt 1000 200 (col 3 4) (-3) 9 true) = (⟨127, flagOF ||| flagNX, true⟩, 147) ∧
    (drainInt (2 ^ 32 - 10) 0 (col 5 2) (-3) 9 true) = (⟨241, 0, false⟩, BitVec.ofInt 64 (-15)) ∧
    (drainInt 5 0 (col 1 1) (-3) 9 true) = (⟨255, 0, false⟩, BitVec.ofInt 64 (-1)) ∧ (drainInt 7 0 (col 1 1) (-3) 9 true) = (⟨1, 0, false⟩, 1) := by decide +kernel

/-- R51: +∞ to E4M3 under policy 00 is 448 and sets OF. -/
theorem test_infinity_to_e4m3 : (e4m3.convert 1 0 (.inf false)).bits = 0x7E ∧ (e4m3.convert 1 0 (.inf false)).flags &&& flagOF = flagOF := by decide +kernel

/-- R404, R405: in a ring of 4, three hops forward are one back, and a tie goes forward. -/
theorem test_route :
    let s := { base with extents := [4, 1, 1, 1] }
    s.route false 0 3 = some 1 ∧ s.route false 0 2 = some 0 ∧ s.neighbour 0 1 = 3 ∧ s.onTorus 4 = false ∧ s.route false 2 2 = none := by decide +kernel

/-- R382: a step from reset with a word placed where core 0 fetches runs it. -/
theorem test_step_runs : (after (step (State.reset.withFetchWord 16 0xD800))).map (fun t => t.me.pc) = some 1 := by decide +kernel

/-- The example of R247, with 4 of its 128 rows: an A of BF16 elements in bank 2 has a row of memory for each of its own in a fetch group row by row,
and one column by column; B has one. -/
theorem test_fetch_rows :
    let a (s0 s1 : Int) : Operand := ⟨0, 0x20000, 0, 1, 0, 4, 256, 1, 1, s0, s1, 1, 1, (span 0 1 16).map (fun i => (i, 0x20000 + 4096 * i))⟩
    let b : Operand := ⟨1, 0xB0000, 0, 1, 0, 256, 4, 1, 1, 128, 1, 1, 1, (span 0 1 16).map (fun i => (i, 0xB0000 + 4096 * i))⟩
    ((CassiaFn.mma .ovr 0 (a 256 1) b 0).needs 0).map (·.rows.length) = [4, 1] ∧
    ((CassiaFn.mma .ovr 0 (a 1 128) b 0).needs 5).map (·.rows.length) = [1, 1] := by decide +kernel

/-- R369, R383: STATUS of a package that booted, met a fatal error and dumped, and of one that waits for its boot. -/
theorem test_status :
    ({ State.reset.pkg 0 with booted := true, phase := .dumped } : Package).statusWord = 7 ∧ (State.reset.pkg 0).statusWord = 0 := by decide +kernel

/-- R28: ADD g4, mbox parks REG while g4 is empty, and TAKEM g4 while g5 is. That the mailbox is drained meanwhile wakes neither; the register full does. -/
theorem test_wake :
    (∀ x ∈ [((.add 4 (.stream 11) : Instr), 4), (.takem 4, 5)],
      let s := { (withCore base (fun k => { k with mbox := [⟨0, 0, 0, 0, none, []⟩] })).emptyReg x.2 with cur := ⟨0, 0, 0, encode x.1⟩ }
      (after (exec x.1 s)).map (fun t => (t.me.reason, t.mayWake 0 0 0, (withCore t (fun k => { k with mbox := [] })).mayWake 0 0 0,
        (withCore t (fun k => k.writeReg t.me x.2 0)).mayWake 0 0 0)) = some (some .reg, false, false, true)) := by
  decide +kernel

/-! ## What meets each statement's hypotheses -/

/-! ## Hypotheses that are met -/

theorem witness_Gate :
    Ready base {} ⟨0, 0, 0⟩ ∧ Ready (regs [(1, 5)]) (needDS 1 (.imm 7)) ⟨5, 7, 0⟩ ∧
    Ready base { s := .pop 13, d := rdReg 1 } ⟨0, word base.self, 0⟩ ∧ ¬ Ready base { d := rdReg 64 } ⟨0, 0, 0⟩ := by
  unfold Claims.Ready; decide +kernel

theorem witness_IntegerArithmetic :
    Ready (regs [(1, 5), (2, 7)]) (needDS 1 (src 2)) ⟨5, 7, 0⟩ ∧ Ready (regs [(1, 5)]) (needDS 1 (.stream 14)) ⟨5, 0, 0⟩ ∧
    Ready (regs [(63, 5)]) (needDS 63 (.imm (-8))) ⟨5, -8, 0⟩ := by unfold Claims.Ready; decide +kernel

theorem witness_Division :
    Ready (regs [(1, 5), (2, 0)]) (needDS 1 (src 2)) ⟨5, 0, 0⟩ ∧
    Ready (regs [(1, 0x8000000000000000)]) (needDS 1 (.imm (-1))) ⟨0x8000000000000000, -1, 0⟩ ∧
    Ready (regs [(1, 0x8000000000000000)]) (needDS 1 (.imm 1)) ⟨0x8000000000000000, 1, 0⟩ := by unfold Claims.Ready; decide +kernel

theorem witness_MovesAndImmediates :
    Ready base { s := .imm 3, d := dstOpr (.reg 1) } ⟨0, 3, 0⟩ ∧ Ready base { d := dstOpr (.reg 63) } ⟨0, 0, 0⟩ ∧
    Ready (regs [(1, 5)]) { d := rwReg 1 } ⟨5, 0, 0⟩ ∧ Ready (regs [(2, 64)]) (needMem (wrReg 1) (op 2)) ⟨0, 64, 0⟩ ∧
    Ready (regs [(1, 5), (2, 6), (3, 1)]) (needDST 1 (src 2) (tgt 3)) ⟨5, 6, 1⟩ ∧ (63 : Word).toNat < 64 := by
  unfold Claims.Ready; decide +kernel

theorem witness_ShiftsAndFields :
    Ready (regs [(1, 5), (2, 63)]) (needDS 1 (src 2)) ⟨5, 63, 0⟩ ∧
    Ready (regs [(1, 5), (2, 6), (3, 0xFFF)]) (needDST 1 (src 2) (tgt 3)) ⟨5, 6, 0xFFF⟩ := by unfold Claims.Ready; decide +kernel

theorem witness_CountsSwapsAndCrc :
    Ready base (needWS 1 (.imm 0)) ⟨0, 0, 0⟩ ∧ Ready (regs [(1, 5), (2, 0x31)]) (needDS 1 (src 2)) ⟨5, 0x31, 0⟩ := by
  unfold Claims.Ready; decide +kernel

theorem witness_ControlTransfer :
    Ready (regs [(1, 5)]) { d := rdReg 1 } ⟨5, 0, 0⟩ ∧ Ready (regs [(1, 5)]) { s := srcOpr (.stream 12), d := rdReg 1 } ⟨5, 0, 0⟩ ∧
    Ready base {} ⟨0, 0, 0⟩ ∧ Ready base { d := wrReg 1 } ⟨0, 0, 0⟩ ∧ Ready (regs [(9, 5)]) { s := rdOp (op 9) } ⟨0, 5, 0⟩ ∧
    Ready (regs [(1, 5)]) { s := rdReg 1 } ⟨0, 5, 0⟩ := by unfold Claims.Ready; decide +kernel

theorem witness_TrapEntry : (255 : Nat) < 256 := by decide

theorem witness_TrapsYieldAndRetire : Ready base {} ⟨0, 0, 0⟩ := by unfold Claims.Ready; decide +kernel

theorem witness_ModeFlagsAndControlRegisters :
    Ready base {} ⟨0, 0, 0⟩ ∧ (29 : Word).toNat < 32 ∧ (29 : Word).toNat % 8 < 6 ∧ Ready base { d := wrReg 1 } ⟨0, 0, 0⟩ ∧
    Ready (regs [(1, 5)]) { d := rdReg 1 } ⟨5, 0, 0⟩ ∧
    (((withMe base (fun t => { t with reply := some 0x1FF })).me.reply.getD 0).toNat / 32 % 16 = 15) := by
  unfold Claims.Ready; decide +kernel

theorem witness_FloatArithmetic :
    Ready (regs [(1, 0x3FF0000000000000), (2, 0x4000000000000000)]) (needDS 1 (src 2))
      ⟨0x3FF0000000000000, 0x4000000000000000, 0⟩ ∧
    Ready base (needWS 1 (src 2)) ⟨0, 0, 0⟩ ∧ Ready base (needDST 1 (src 2) (tgt 3)) ⟨0, 0, 0⟩ := by unfold Claims.Ready; decide +kernel

theorem witness_FloatSelectCompareClassify :
    Ready (regs [(1, 0x7FF0000000000001), (2, 0x8000000000000000)]) (needDS 1 (src 2))
      ⟨0x7FF0000000000001, 0x8000000000000000, 0⟩ ∧
    Claims.isSNaN 11 52 0x7FF0000000000001 ∧ ¬ Claims.isNaN 11 52 0x8000000000000000 ∧ Ready base (needWS 1 (src 2)) ⟨0, 0, 0⟩ := by
  unfold Claims.Ready Claims.isSNaN Claims.isNaN; decide +kernel

/-- 1 is below 2, −∞ below 1 and 1 below +∞, and nothing below itself. -/
theorem witness_Below :
    Claims.Below 11 52 0x3FF0000000000000 0x4000000000000000 ∧ Claims.Below 8 23 0xFF800000 0x3F800000 ∧
    Claims.Below 8 23 0x3F800000 0x7F800000 ∧ ¬ Claims.Below 8 23 0x7F800000 0x7F800000 := by
  have h1 : Claims.value 11 52 0x3FF0000000000000 = 1 := by
    have h : Claims.negative 11 52 0x3FF0000000000000 = false := by decide
    unfold Claims.value; rw [h]; norm_num
  have h2 : Claims.value 11 52 0x4000000000000000 = 2 := by
    have h : Claims.negative 11 52 0x4000000000000000 = false := by decide
    unfold Claims.value; rw [h]; norm_num
  refine ⟨.inr (.inr ⟨by unfold Claims.isFinite; decide, by unfold Claims.isFinite; decide, ?_⟩), ?_, ?_, ?_⟩
  · rw [h1, h2]; norm_num
  · left; unfold Claims.isInf Claims.negative; decide
  · right; left; unfold Claims.isInf Claims.negative; decide
  · rintro (⟨_, h, _⟩ | ⟨_, _, h⟩ | ⟨h, _⟩)
    · revert h; unfold Claims.negative; decide
    · exact h ⟨by unfold Claims.isInf; decide, by unfold Claims.negative; decide⟩
    · revert h; unfold Claims.isFinite; decide

/-- What encodings stand for: a NaN, an infinity, a zero and a number. -/
theorem witness_StandsFor :
    Claims.StandsFor 11 52 0x7FF0000000000001 (.nan true) ∧ Claims.StandsFor 11 52 0xFFF0000000000000 (.inf true) ∧
    Claims.StandsFor 11 52 0x8000000000000000 (.zero true) ∧ Claims.StandsFor 11 52 0x3FF0000000000000 (.real 1) ∧
    Claims.StandsFor 8 23 0xC0000000 (.real (-2)) := by
  norm_num [Claims.StandsFor, Claims.isNaN, Claims.isSNaN, Claims.isInf, Claims.isFinite, Claims.negative, Claims.value]

/-- A tie between two integers, in each mode. -/
theorem witness_RoundsTo :
    Claims.RoundsTo 1 (5 / 2) 2 ∧ Claims.RoundsTo 2 (-5 / 2) (-2) ∧ Claims.RoundsTo 3 (-5 / 2) (-3) ∧ Claims.RoundsTo 4 (5 / 2) 3 ∧
    Claims.RoundsTo 5 (5 / 2) 3 := by
  refine ⟨?_, ?_, ?_, ?_, ?_⟩ <;> simp only [Claims.RoundsTo]
  · refine ⟨by norm_num [abs_le], fun _ => by decide⟩
  · norm_num [abs_le, abs_of_neg]
  · symm; rw [Int.floor_eq_iff]; norm_num
  · symm; rw [Int.ceil_eq_iff]; norm_num
  · norm_num [abs_le, abs_of_pos, abs_of_neg]

theorem witness_FloatConversions :
    Ready (regs [(2, 0x7FF0000000000000)]) (needWS 1 (src 2)) ⟨0, 0x7FF0000000000000, 0⟩ ∧
    Claims.policy base ⟨1, 3⟩ = 3 ∧ Claims.policy base ⟨1, 0⟩ ≠ 3 ∧ Claims.isInf 11 52 0x7FF0000000000000 ∧
    Claims.isFinite 8 23 0x3F800000 ∧ Claims.isNaN 8 23 0x7FC00000 ∧ ¬ Claims.isNaN 11 52 0x7FEFFFFFFFFFFFFF := by
  unfold Claims.Ready Claims.isInf Claims.isFinite Claims.isNaN; decide +kernel

theorem witness_Stores :
    Ready (regs [(1, 5), (2, near)]) (needMem (rdReg 1) (op 2)) ⟨5, near, 0⟩ ∧
    (regs [(1, 5), (2, near)]).plainAddr (near + 8) 8 { w := true } 1 = .ok 0x1008 ∧
    (regs [(1, 5), (2, near)]).here.inPrivate 0 0x1008 = true ∧ base.here.mem.wf = true ∧
    Ready (regs [(1, 5), (2, far)]) (needMem (rdReg 1) (op 2)) ⟨5, far, 0⟩ ∧
    (regs [(1, 5), (2, far)]).plainAddr (far + 56) 8 { w := true } 1 = .ok 0x10000001038 ∧
    (regs [(1, 5), (2, far)]).here.inPrivate 0 0x10000001038 = false ∧ base.hereCore.outbox.length < 1024 := by
  refine ⟨?_, addr_ok ?_, ?_, ?_, ?_, addr_ok ?_, ?_, ?_⟩ <;> (try unfold Claims.Ready) <;> decide +kernel

theorem witness_LoadsAndJumpTable :
    Ready (regs [(2, near)]) (needMem (wrReg 1) (op 2)) ⟨0, near, 0⟩ ∧
    (regs [(2, near)]).plainAddr (near + 7) (sizeBytes .b) { r := true } 1 = .ok 0x1007 ∧
    (near + 7).toNat % sizeBytes .d ≠ 0 ∧ base.here.gated 0 = false ∧ Ready (regs [(2, near)]) (needMem (rdReg 1) (op 2)) ⟨0, near, 0⟩ ∧
    Ready (regs [(1, 2), (2, near), (3, 3)]) { mem := true, t := rdOp (op 3), s := rdOp (op 2), d := rdReg 1 } ⟨2, near, 3⟩ ∧
    (regs [(1, 2), (2, near), (3, 3)]).plainAddr (near + 8 * 2) 8 { r := true } 1 = .ok 0x1010 ∧
    Ready (regs [(1, 3), (2, near), (3, 3)]) { mem := true, t := rdOp (op 3), s := rdOp (op 2), d := rdReg 1 } ⟨3, near, 3⟩ := by
  refine ⟨?_, addr_ok ?_, ?_, ?_, ?_, ?_, addr_ok ?_, ?_⟩ <;> (try unfold Claims.Ready) <;> decide +kernel

/-- R122, R213: a store to the core's own PRIVATE bank, or to HBM, that a load of the next state reads. -/
theorem witness_LoadAfterStore :
    Ready (regs [(1, 5), (2, near)]) (needMem (rdReg 1) (op 2)) ⟨5, near, 0⟩ ∧ Ready (regs [(1, 5), (2, far)]) (needMem (rdReg 1) (op 2)) ⟨5, far, 0⟩ ∧
    (regs [(2, near)]).plainAddr (near + 0) 8 { w := true } 1 = .ok near.toNat ∧ (regs [(2, far)]).plainAddr (far + 0) 8 { w := true } 1 = .ok far.toNat ∧
    base.here.inPrivate 0 near.toNat = true ∧ base.here.inPrivate 0 far.toNat = false ∧ base.here.mem.wf = true ∧ base.hereCore.outbox = [] ∧
    base.hereCore.spilled = [] ∧ (after (exec (.st .d 1 (op 2) 0) (regs [(1, 5), (2, far)]))).isSome = true ∧
    ∃ t, exec (.st .d 1 (op 2) 0) (regs [(1, 5), (2, near)]) = .next t ∧ (t.plainLoad near.toNat 8 7).val = 5 := by
  refine ⟨?_, ?_, addr_ok ?_, addr_ok ?_, ?_, ?_, ?_, ?_, ?_, ?_, _, rfl, ?_⟩ <;> (try unfold Claims.Ready) <;> decide +kernel

/-- R216: a commit of the scope of core 0 is under way. -/
def committing (s : State) : State := flying s [.commit ⟨[0], true, [], none, none⟩]

theorem witness_Gated :
    (committing base).here.gated 0 = true ∧ Ready (committing (regs [(1, 5), (2, near)])) (needMem (rdReg 1) (op 2)) ⟨5, near, 0⟩ ∧
    Ready (committing (regs [(2, near)])) (needMem (wrReg 1) (op 2)) ⟨0, near, 0⟩ ∧
    Ready (committing (regs [(1, 2), (2, near), (3, 3)])) { mem := true, t := rdOp (op 3), s := rdOp (op 2), d := rdReg 1 } ⟨2, near, 3⟩ := by
  unfold Claims.Ready; decide +kernel

/-- A full/empty request of slot 0 of core 0. -/
def fe (o : FeOp) : HomeFe := ⟨⟨0, 0, 0⟩, o, 0x1008, 5, 7, 2, false⟩

theorem witness_FullEmptyOperations :
    base.me.pend = none ∧ Ready (regs [(2, near)]) (needMem (wrReg 1) (op 2)) ⟨0, near, 0⟩ ∧
    (regs [(2, near)]).homeAddr (near + 8) 8 { r := true, w := true } = .ok 0x1008 ∧
    (regs [(2, near)]).homeAddr (near + 8) 8 { r := true } = .ok 0x1008 ∧
    (regs [(2, near)]).homeAddr (near + 8) 8 { w := true } = .ok 0x1008 ∧
    Ready (regs [(1, 5), (2, near)]) (needMem (rdReg 1) (op 2)) ⟨5, near, 0⟩ ∧ Ready (regs [(2, near)]) (needMem .none (op 2)) ⟨0, near, 0⟩ ∧
    (let s := flying base [.fe (fe .ldf)]
     (s.pkg 0).phase = .running ∧ (s.pkg 0).job 1 = some (.fe (fe .ldf)) ∧ (s.pkg 0).feMayArrive 1 (fe .ldf) = true ∧
     (fe .ldf).addr % 8 = 0 ∧ (s.pkg 0).mem.isBad 0x1008 = false ∧ (s.pkg 0).mem.wf = true ∧ (s.pkg 0).mem.full 0x1008 = true ∧
     (∀ e ∈ (s.pkg 0).flights, ∀ g, e.2 = .fe g → g.enlisted = true → g.addr ≠ (fe .ldf).addr) ∧
     (s.pkg 0).ownerLive (fe .ldf).owner = true ∧ (fe .ldf).reg < ((s.pkg 0).thread 0 0).len) ∧
    (let s := flying (withPkg base (fun p => { p with mem := p.mem.setFull 0x1008 false })) [.fe (fe .stef)]
     (s.pkg 0).mem.full 0x1008 = false ∧ (s.pkg 0).feMayArrive 1 (fe .stef) = true) := by
  refine ⟨?_, ?_, addr_ok ?_, addr_ok ?_, addr_ok ?_, ?_, ?_, ⟨?_, ?_, ?_, ?_, ?_, ?_, ?_, ?_, ?_, ?_⟩, ?_⟩ <;> (try unfold Claims.Ready) <;>
    (try decide +kernel)
  intro e he g h1 h2
  have : e = (1, .fe (fe .ldf)) := by
    have : (((flying base [.fe (fe .ldf)]).pkg 0).flights) = [(1, .fe (fe .ldf))] := by decide +kernel
    rw [this] at he; simpa using he
  subst this; injection h1 with h1; subst h1; simp [fe] at h2

theorem witness_AtOnce :
    Claims.AtOnce base 0x1008 ∧ Claims.AtOnce (withPkg base (fun p => { p with mem := p.mem.setFull 0x1008 false })) 0x1008 ∧
    base.here.mem.full 0x1008 = true ∧ (withPkg base (fun p => { p with mem := p.mem.setFull 0x1008 false })).here.mem.full 0x1008 = false := by
  have h : ∀ s : State, s.here.flights = [] → (s.me.pend = none ∧ homeOf 0x1008 = s.cur.core ∧ s.here.awakeAt 0x1008 = true ∧
      s.here.mem.isBad 0x1008 = false ∧ s.here.mem.wf = true ∧ s.here.waiters (homeOf 0x1008) < 256) → Claims.AtOnce s 0x1008 := by
    intro s hf ⟨h1, h2, h3, h4, h5, h6⟩
    refine ⟨h1, h2, by decide, h3, h4, h5, h6, ?_⟩
    rw [hf]; intro e he; cases he
  refine ⟨h _ ?_ ?_, h _ ?_ ?_, ?_, ?_⟩ <;> decide +kernel
/-- A free cell exists on a die that has made none, whichever the free choice picks. -/
theorem some_cell (p : Package) (die start : Nat) (h : (p.die die).cells = []) : ∃ i, p.freeCell die start = some i := by
  refine ⟨start % 1024, ?_⟩
  have h2 : start % 1024 < 1024 := Nat.mod_lt _ (by decide)
  obtain ⟨n, hn⟩ : ∃ n, 1024 - start % 1024 = n + 1 := ⟨1023 - start % 1024, by omega⟩
  simp [Package.freeCell, h, hn, firstIn, span, tget, tget?, Cell.fresh]

/-- An atomic of slot 0 of core 0. -/
def amo (o : AmoOp) : HomeAtomic := ⟨⟨0, 0, 0⟩, o, true, 0x1008, 5, 7, 9⟩

theorem witness_Atomics :
    Ready (regs [(1, 5), (2, near)]) (needMem (rwReg 1) (op 2)) ⟨5, near, 0⟩ ∧
    (regs [(1, 5), (2, near)]).homeAddr (near + 8) 8 { r := true, w := true } = .ok 0x1008 ∧
    (regs [(1, 5), (2, near)]).homeAddr (near + 12) 4 { r := true, w := true } = .ok 0x100C ∧
    Ready (regs [(1, 5), (2, near), (3, 6)]) { needMem (rwReg 1) (op 2) with t := rdOp (op 3) } ⟨5, near, 6⟩ ∧
    (let p := (flying base [.amo (amo .cas)]).pkg 0
     p.phase = .running ∧ p.job 1 = some (.amo (amo .cas)) ∧ p.awakeAt 0x1008 = true ∧
     p.atomicBefore (amo .cas).owner (homeOf 0x1008) 1 = false ∧ p.mem.isBad (wordOf 0x1008) = false ∧ p.mem.wf = true) := by
  refine ⟨?_, addr_ok ?_, addr_ok ?_, ?_, ?_⟩ <;> (try unfold Claims.Ready) <;> decide +kernel

theorem witness_ResultArrival :
    (let p := (flying base [.result ⟨0, 0, 0⟩ (.regs [⟨63, 7, false, false⟩])]).pkg 0
     p.phase = .running ∧ p.job 1 = some (.result ⟨0, 0, 0⟩ (.regs [⟨63, 7, false, false⟩])) ∧ p.awake 0 = true ∧
     p.ownerLive ⟨0, 0, 0⟩ = true ∧ 63 < (p.thread 0 0).len ∧ p.ownerLive ⟨0, 0, 1⟩ = false) ∧
    Ready base { d := wrReg 1 } ⟨0, 0, 0⟩ := by unfold Claims.Ready; decide +kernel

/-- The base with slot n of core 0 in some life state, at entry 64 with a window of m registers. -/
def other (n m : Nat) (l : Life) : State :=
  withCore base (fun k => k.setThread n { Thread.fresh with life := l, base := 64, len := m })

theorem witness_ThreadCreation :
    (∀ s ∈ [(span 1 1 62).foldl (fun s i => withCore s (fun k => k.setThread i { Thread.fresh with life := .retired })) base],
      Ready s { t := .pop 12, s := rdOp (op 2), d := wrReg 1 } ⟨0, 0, 0⟩ ∧ s.hereCore.pickSlot = none) ∧
    ((other 1 1952 .retired).hereCore.pickSlot = some 2 ∧ (other 1 1952 .retired).hereCore.fitWindow 8 = none) ∧
    (base.hereCore.pickSlot = some 1 ∧ base.hereCore.fitWindow 8 = some 64) ∧
    (∃ i, base.here.freeCell (coreDie base.cur.core) (base.free 4) = some i) ∧
    Ready base { role := .notPair, t := .pop 12, s := rdGroup (op 2) 2, d := wrReg 1 } ⟨0, 0, 0⟩ := by
  refine ⟨?_, ?_, ?_, some_cell _ _ _ (by decide +kernel), ?_⟩ <;> (try unfold Claims.Ready) <;> decide +kernel

/-- FORKAE with eight pairs; with one slot left; without room for a second window; and with all it needs. -/
theorem witness_Forkae :
    (∀ q, q < 8 → (tget? (withCore base (fun k => { k with pairs := (span 0 1 8).map (fun i => (i, Pair.fresh 1 2)) })).hereCore.pairs q).isSome = true) ∧
    (let k := ((span 2 1 61).foldl (fun s i => withCore s (fun k => k.setThread i { Thread.fresh with life := .retired })) base).hereCore
     k.pickSlot = some 1 ∧ (k.setThread 1 { Thread.fresh with life := .ready }).pickSlot = none) ∧
    (let k := (other 1 1944 .retired).hereCore
     k.pickSlot = some 2 ∧ (k.setThread 2 { Thread.fresh with life := .ready }).pickSlot = some 3 ∧ k.fitWindow 8 = some 2008 ∧
     (k.setThread 2 { Thread.fresh with life := .ready, base := 2008, len := 8 }).fitWindow 8 = none) ∧
    (let k := base.hereCore
     k.pickSlot = some 1 ∧ (k.setThread 1 { Thread.fresh with life := .ready }).pickSlot = some 2 ∧ tget? k.pairs 0 = none ∧ k.fitWindow 8 = some 64 ∧
     (k.setThread 1 { Thread.fresh with life := .ready, base := 64, len := 8 }).fitWindow 8 = some 72) := by decide +kernel

/-- A request of slot 0 of core 0 for a thread of core 5. -/
def spawn : SpawnReq := ⟨⟨0, 0, 0⟩, 5, 1, 0x40, 0, 0⟩

theorem witness_RemoteThreads :
    Ready (regs [(1, 5)]) { t := .pop 12, s := rdOp (op 2), d := rwReg 1 } ⟨5, 0, 0⟩ ∧
    (base.here.freeCell (coreDie base.cur.core) 0).isSome = true ∧ Ready (regs [(2, 64 * 5)]) { s := rdOp (op 2), d := wrReg 1 } ⟨0, 64 * 5, 0⟩ ∧ (64 * 5 : Word).toNat / 64 % 1024 ≠ 0 ∧
    Ready base { s := rdOp (op 2), d := wrReg 1 } ⟨0, 0, 0⟩ ∧ (base.hereCore.thread 0).len ≤ 128 ∧
    (let p := (flying base [.tstat ⟨⟨0, 0, 0⟩, 1, 5, 0⟩]).pkg 0
     p.phase = .running ∧ p.job 1 = some (.tstat ⟨⟨0, 0, 0⟩, 1, 5, 0⟩) ∧ p.awake 5 = true) ∧
    (let p := (flying base [.spawn spawn]).pkg 0
     p.job 1 = some (.spawn spawn) ∧ p.awake 5 = true ∧ p.transferring 5 = false ∧ p.coreHolder 5 = p.coreHolder 0 ∧
     (p.core 5).pickSlot = some 0 ∧ (p.core 5).fitWindow 8 = some 0 ∧ (p.die 0).cells = []) ∧
    (let p := (flying (withPkg base (fun p => p.setEntry (rid 0 5) { p.entry (rid 0 5) with holder := 2 })) [.spawn spawn]).pkg 0
     p.job 1 = some (.spawn spawn) ∧ p.coreHolder 5 ≠ p.coreHolder 0) := by unfold Claims.Ready; decide +kernel

theorem witness_ThreadInspection :
    Ready (regs [(2, 64)]) { t := .pop 12, s := rdOp (op 2), d := wrReg 1 } ⟨0, 64, 0⟩ ∧ (regs [(2, 64)]).target? 64 = none ∧
    base.target? 0 = some 0 ∧ Ready base { t := rdOp (op 3), s := rdOp (op 2), d := rdReg 1 } ⟨0, 0, 0⟩ ∧
    (base.hereCore.thread 0).life ≠ .trapped ∧ (other 1 8 .trapped).target? 1 = some 1 ∧
    ((other 1 8 .trapped).hereCore.thread 1).life = .trapped ∧ 7 < ((other 1 8 .trapped).hereCore.thread 1).len ∧
    (∀ sel ∈ [0, 7, 8, 127, 128, 135, 136, 137, 138, 139, 255], sel ≠ 134 ∧ (BitVec.ofNat 64 sel).toNat % 256 = sel) ∧
    Ready ((other 1 8 .trapped).setReg 3 134) { t := rdOp (op 3), s := rdOp (op 2), d := rdReg 1 } ⟨0, 0, 134⟩ := by
  unfold Claims.Ready; decide +kernel

/-- Slot 0 as the access member of pair 0, or as its execute member, with slot 1 the other. -/
def paired (role : Word) (q : Pair) : State :=
  withMe (withCore (other 1 8 .ready) (fun k => { k with pairs := [(0, q)] })) (fun t => { t with role := role, pair := some 0 })

theorem witness_AccessExecutePairs :
    (let s := (paired 1 { Pair.fresh 0 1 with sq0 := [9], exeRdv := some 7 }).setReg 2 near
     let r := { Pair.fresh 0 1 with sq0 := [9], exeRdv := some 7 }
     s.me.pair = some 0 ∧ tget? s.hereCore.pairs 0 = some r ∧ Ready s { mem := true, role := .loadQueue false, s := rdOp (op 2) } ⟨0, near, 0⟩ ∧
     Ready s { mem := true, role := .storeQueue false, s := rdOp (op 2) } ⟨0, near, 0⟩ ∧
     r.lq0.length < 16 ∧ s.plainAddr (near + 8) (sizeBytes .d) { r := true } 1 = .ok 0x1008 ∧ r.sq0 = 9 :: [] ∧
     s.plainAddr (near + 8) (sizeBytes .d) { w := true } 1 = .ok 0x1008 ∧ s.here.inPrivate s.cur.core 0x1008 = true ∧
     s.here.mem.wf = true ∧ s.isExe = false ∧ r.exeRdv = some 7 ∧ r.exePops = [] ∧ Ready s { role := .rdv, s := .imm 3, d := wrReg 1 } ⟨0, 3, 0⟩) ∧
    (let r := { Pair.fresh 0 1 with exeSlot := none, lq0 := List.replicate 16 ⟨none, false, 0⟩ }
     (paired 1 r).issuing = true ∧ (paired 1 r).me.role = 1 ∧ r.exeSlot = none ∧ 16 ≤ r.lq0.length ∧ r.sq0 = []) := by
  refine ⟨⟨?_, ?_, ?_, ?_, ?_, addr_ok ?_, ?_, addr_ok ?_, ?_, ?_, ?_, ?_, ?_, ?_⟩, ?_⟩ <;> (try unfold Claims.Ready) <;> decide +kernel

/-- R216: the queues of a pair whose core's scope commits. -/
theorem witness_GatedQueues :
    let r := { Pair.fresh 0 1 with sq0 := [9] }
    let s := committing ((paired 1 r).setReg 2 near)
    s.here.gated s.cur.core = true ∧ s.me.pair = some 0 ∧ tget? s.hereCore.pairs 0 = some r ∧ r.lq0.length < 16 ∧ r.sq0 ≠ [] ∧
    Ready s { mem := true, role := .loadQueue false, s := rdOp (op 2) } ⟨0, near, 0⟩ ∧
    Ready s { mem := true, role := .storeQueue false, s := rdOp (op 2) } ⟨0, near, 0⟩ := by unfold Claims.Ready; decide +kernel

/-- RDV of the execute thread, alone, with its partner waiting, and after its partner has left; and of the access thread alone. -/
theorem witness_Rdv :
    (∀ q ∈ [Pair.fresh 1 0, { Pair.fresh 1 0 with accRdv := true }],
      let s := paired 2 q
      s.me.pair = some 0 ∧ tget? s.hereCore.pairs 0 = some q ∧ s.isExe = true ∧ q.left = false ∧
      Ready s { role := .rdv, s := .imm 3, d := .named 1 1 false } ⟨0, 3, 0⟩) ∧
    (let q := { Pair.fresh 1 0 with left := true, accSlot := none }
     let s := paired 2 q
     tget? s.hereCore.pairs 0 = some q ∧ s.isExe = true ∧ q.left = true) ∧
    (let s := paired 1 (Pair.fresh 0 1)
     s.isExe = false ∧ (Pair.fresh 0 1).exeRdv = none ∧ Ready s { role := .rdv, s := .imm 3, d := wrReg 1 } ⟨0, 3, 0⟩) := by
  unfold Claims.Ready; decide +kernel

theorem witness_StopResumeAndRelease :
    Ready (regs [(2, 64)]) { s := rdOp (op 2) } ⟨0, 64, 0⟩ ∧ (regs [(2, 64)]).target? 64 = none ∧ base.target? 0 = some base.cur.slot ∧
    (other 1 8 .trapped).target? 1 = some 1 ∧ ((other 1 8 .trapped).hereCore.thread 1).life = .trapped ∧
    (other 1 8 .parked).target? 1 = some 1 ∧ ((other 1 8 .parked).hereCore.thread 1).life = .parked ∧
    (other 1 8 .parked).here.settling ((other 1 8 .parked).hereCore.thread 1) ≠ .later ∧
    ((other 1 8 .retired).pkg 0).phase = .running ∧ (((other 1 8 .retired).pkg 0).thread 0 1).life = .retired ∧
    (other 1 8 .retired).owes 0 ⟨0, 1, 0⟩ = false := by unfold Claims.Ready; decide +kernel
/-- A message of slot 0 of core 0 to core 5, handler h. -/
def msg (h : Nat) : Msg := Msg.plain 0 5 (header 0 h 1 0 0) [7, 8]

theorem witness_MailboxAndConfiguration :
    Ready base {} ⟨0, 0, 0⟩ ∧ base.hereCore.mbox = [] ∧ Ready base { d := .named 60 4 true } ⟨0, 0, 0⟩ ∧
    (let s := withCore base (fun k => { k with mbox := [⟨1, 2, 3, 4, none, []⟩] })
     s.hereCore.mbox = ⟨1, 2, 3, 4, none, []⟩ :: [] ∧ Ready s { d := .named 60 4 true } ⟨0, 0, 0⟩ ∧
     (s.hereCore.reg s.me 60).full = true ∧ (s.hereCore.reg s.me 61).full = true ∧ (s.hereCore.reg s.me 62).full = true ∧
     (s.hereCore.reg s.me 63).full = true) ∧
    Ready base { s := .imm 63, d := rdReg 1 } ⟨0, 63, 0⟩ ∧ Ready base { d := wrReg 1 } ⟨0, 0, 0⟩ ∧ Ready base { d := rdReg 1 } ⟨0, 0, 0⟩ := by
  unfold Claims.Ready; decide +kernel

theorem witness_MessagesSentAndArriving :
    Ready base { t := .none, d := rdReg 1 } ⟨0, 0, 0⟩ ∧ Ready base { t := .reg 58 6 false .read false, d := rdReg 1 } ⟨0, 0, 0⟩ ∧
    base.msgRefused 1 = false ∧
    (flying base (List.replicate 16 (.msg { msg 0 with inject := true }))).msgRefused 1 = true ∧
    (let p := (flying base [.msg (msg 0)]).pkg 0
     p.phase = .running ∧ p.job 1 = some (.msg (msg 0)) ∧ p.awake 5 = true ∧ p.messageBefore 0 1 (msg 0) = false ∧
     p.judge 1 (msg 0) = .deposit ∧ (msg 0).launch = none ∧ (p.core 5).waitm = []) ∧
    (let p := (flying (withPkg base (fun p => p.onCore 5 (fun k => { k with elig := 2, handlers := [(3, 0x8000000000000040)] }))) [.msg (msg 3)]).pkg 0
     p.judge 1 (msg 3) = .start 1 0 8 ∧ (msg 3).tagged = false ∧ (p.die 0).cells = []) ∧
    (let p := (flying (withPkg base (fun p => p.onCore 5 (fun k =>
        { k with elig := 2, handlers := [(3, 0x8000000000000040)], threads := [(1, { Thread.fresh with life := .ready })] }))) [.msg (msg 3)]).pkg 0
     p.judge 1 (msg 3) = .wait ∧ (msg 3).waiting = false) ∧
    (let p := (flying base [.msg (msg 3), .msg (msg 0)]).pkg 0
     p.job 2 = some (.msg (msg 0)) ∧ p.messageBefore 0 2 (msg 0) = true ∧ (1, .msg (msg 3)) ∈ p.flights ∧ (msg 3).sender = some 0 ∧
     (msg 0).sender = some 0 ∧ (msg 3).src = (msg 0).src ∧ (msg 3).dst = (msg 0).dst ∧ (msg 3).origin 0 = (msg 0).origin 0 ∧
     (p.core (msg 0).dst).latch ≠ some 1) := by unfold Claims.Ready; decide +kernel

/-- A message that has arrived at core 5, whose core is as `f` leaves it. -/
def reaching (f : Core → Core) (m : Msg) : Package := (flying (withPkg base (fun p => p.onCore 5 f)) [.msg m]).pkg 0

/-- Messages that are refused, by kind: a bounce at a full mailbox, one of kind 0, those of kinds 1 to 3, one of a host packet. -/
theorem witness_MessagesRefused :
    (let m := { msg 0 with bounce := true }
     let p := reaching (fun k => { k with mbox := List.replicate 64 ⟨0, 0, 0, 0, none, []⟩ }) m
     p.awake m.dst = true ∧ p.messageBefore 0 1 m = false ∧ p.judge 1 m = .refuse) ∧
    (let p := reaching id (msg 3)
     p.judge 1 (msg 3) = .refuse ∧ (msg 3).bounce = false ∧ (msg 3).preempt = none ∧ (msg 3).hdr.toNat / 2 ^ 56 = 0 ∧ (msg 3).srcChip = 0) ∧
    (∀ kind ∈ [1, 2, 3],
      let m := { msg 0 with hdr := header kind 3 1 0 0 }
      let p := reaching id m
      p.judge 1 m = .refuse ∧ m.hdr.toNat / 2 ^ 56 = kind ∧ (p.core 5).mbox.length < 64 ∧ (p.core 5).waitm = []) ∧
    (let m := { msg 0 with hdr := header 4 3 1 0 0, launch := some (2, 0) }
     let k : HostPacket := ⟨3, 1, [], 0, none, true, 0, none, false, none⟩
     let p := (flying base [.msg m, .packet k]).pkg 0
     p.judge 1 m = .refuse ∧ m.hdr.toNat / 2 ^ 56 = 4 ∧ risingFrom 0 p.flights = true ∧ p.job 2 = some (.packet k)) := by decide +kernel

/-- The five checks of R146, one after the other: a sender that is not accepted; a thread that is not there, and one that is; handler 0 with and without
room; no handler; slot 63, free and not; no eligible slot; a free one with and without a window, and none. -/
theorem witness_MessagesJudged :
    (∀ m ∈ [msg 0, msg 3, { msg 0 with hdr := header 0 0 9 0 0 }, { msg 0 with toThread := some 0 }], m.waiting = false ∧ m.refused = false ∧ m.bounce = false) ∧
    ((reaching id (msg 0)).coreHolder 5 = 1 ∧ (msg 0).hdr.toNat / 2 ^ 32 % 2 ^ 16 = 1 ∧ (header 0 0 9 0 0).toNat / 2 ^ 32 % 2 ^ 16 = 9 ∧
      (reaching id (msg 0)).core 5 = (base.here.core 5) ∧ (base.here.core 5).accept = []) ∧
    (((base.here.core 5).thread 0).life = .free ∧ ((reaching (fun k => k.setThread 0 { Thread.fresh with life := .parked }) (msg 0)).thread 5 0).life = .parked) ∧
    (tget (base.here.core 5).handlers 3 0).getLsbD 63 = false ∧
    (let p := reaching (fun k => { k with handlers := [(3, 0xC000000000000040)] }) (msg 3)
     (tget (p.core 5).handlers 3 0).getLsbD 63 = true ∧ (tget (p.core 5).handlers 3 0).getLsbD 62 = true ∧ (p.core 5).latch = none ∧
     p.preempting 5 = none ∧ p.transferring 5 = false ∧ (p.core 5).slotFree 63 = true) ∧
    (let k := (base.here.core 5).setThread 63 { Thread.fresh with life := .ready }
     k.slotFree 63 = false) ∧
    (let p := reaching (fun k => { k with handlers := [(3, 0x8000000000000040)] }) (msg 3)
     (tget (p.core 5).handlers 3 0).getLsbD 62 = false ∧ (p.core 5).elig = 0) ∧
    (let k := (reaching (fun k => { k with elig := 2, handlers := [(3, 0x8000000000000040)] }) (msg 3)).core 5
     k.elig.getLsbD 1 = true ∧ k.elig.getLsbD 0 = false ∧ k.slotFree 1 = true ∧ k.fitWindow 8 = some 0 ∧
     (k.setThread 0 { Thread.fresh with life := .ready, len := 2016 }).fitWindow 8 = none ∧
     (k.setThread 1 { Thread.fresh with life := .ready }).slotFree 1 = false) := by decide +kernel

/-- A message that would start a thread on a core that is pre-empted, or whose transfer is under way, and one for a core with ELIG all zeros (R146, R260). -/
theorem witness_MessagesHeldBack :
    (∀ j ∈ [Job.preempt ⟨clusterOf 5, [5], 1, 9, 0, true, [], false, [], []⟩, .transfer ⟨rid 0 5, 1, 2, 0, 0, 9, false, false, none, 0⟩],
      let p := (flying (withPkg base (fun p => p.onCore 5 (fun k => { k with elig := 2, handlers := [(3, 0x8000000000000040)] }))) [.msg (msg 3), j]).pkg 0
      (p.core 5).elig ≠ 0 ∧ (p.preempting 5 ≠ none ∨ p.transferring 5 = true) ∧ (msg 3).preempt = none ∧ p.judge 1 (msg 3) = .wait) ∧
    (let p := (flying (withPkg base (fun p => p.onCore 5 (fun k => { k with handlers := [(3, 0x8000000000000040)] })))
        [.msg (msg 3), .transfer ⟨rid 0 5, 1, 2, 0, 0, 9, false, false, none, 0⟩]).pkg 0
     (p.core 5).elig = 0 ∧ p.transferring 5 = true ∧ p.judge 1 (msg 3) = .refuse) := by decide +kernel

/-- A bind request of slot 0 of core 0 through port e to slot 4 of core 1, and the one that answers it. -/
def bindReq : BindReq := ⟨⟨0, 0, 0⟩, 1, 0, 0, 1, 4, false⟩
def bindBack : BindReq := ⟨⟨1, 4, 0⟩, 1, 1, 0, 0, 0, true⟩
def binding : State :=
  withMe (withPkg base (fun p => p.setThread 1 4 { Thread.fresh with life := .ready, len := 8, ports := [(1, ⟨.binding, 0, 0, []⟩)] }))
    (fun t => t.setPort 0 ⟨.binding, 0, 4, []⟩)

/-- Slot 0 of core 271 of chip 0 and slot 4 of core 0 of chip 1, held by a holder, have bound each other; the request of the second waits. -/
def acrossReq : BindReq := ⟨⟨271, 0, 0⟩, 1, 0, 0, 0, 4, false⟩
def across (holder : Nat) : State :=
  let asks (q peerChip peer : Nat) : Thread := { Thread.fresh with life := .ready, len := 8, ports := [(q, ⟨.binding, peerChip, peer, []⟩)] }
  let p := (base.here.setThread 271 0 (asks 0 1 4)).addJob (.bind ⟨⟨0, 4, 0⟩, 1, 1, 1, 271, 0, true⟩)
  let q := ((base.here.setThread 0 4 (asks 1 0 0)).setEntry (rid 0 0) { base.here.entry (rid 0 0) with holder := holder }).addJob (.bind acrossReq)
  { base with extents := [2, 1, 1, 1], chips := [(0, p), (1, q)] }

/-- Slot 0 of core 0 BOUND through port e to slot 4 of core 1. -/
def bound : State :=
  withMe (withPkg base (fun p => p.setThread 1 4 { Thread.fresh with life := .ready, len := 8, ports := [(1, ⟨.bound, 0, 0, []⟩)] }))
    (fun t => t.setPort 0 ⟨.bound, 0, handleOf 0 1 4, []⟩)

theorem witness_Ports :
    Ready base { s := .imm 4 } ⟨0, 4, 0⟩ ∧ noPartner base.cur.slot 5 = true ∧ (4 : Word).toNat % 64 ≠ 63 ∧
    ¬ (noPartner base.cur.slot 0 = true ∨ (0 ≤ 3 ∧ (4 : Word).toNat % 64 = 63)) ∧ (base.partnerOf 0 0 0).1 = base.cur.chip ∧
    Ready base {} ⟨0, 0, 0⟩ ∧ Ready base { d := wrReg 1 } ⟨0, 0, 0⟩ ∧ Ready base { t := rdOp (op 2), d := wrReg 1 } ⟨0, 0, 0⟩ ∧
    Ready (bound.setReg 1 1) { s := .imm 9, d := rdReg 1 } ⟨1, 9, 0⟩ ∧
    (∀ q, q < 6 → (1 : Word).getLsbD q = true → bound.myPort q = .bound ∧ bound.portRoom q = true ∧ (bound.me.port q).peerChip = bound.cur.chip) ∧
    (let s := flying binding [.bind bindReq]
     let p := s.pkg 0
     p.job 1 = some (.bind bindReq) ∧ bindReq.arrived = false ∧ p.awake 1 = true ∧ p.ownerLive ⟨0, 0, 0⟩ = true ∧
     (p.thread 0 0).bindingTo 0 4 = true ∧ p.accepts 1 bindReq.holder = true ∧ s.answersBind 0 bindReq = false) ∧
    (let p := (flying (withPkg binding (fun p => p.setEntry (rid 0 1) { p.entry (rid 0 1) with holder := 2 })) [.bind bindReq]).pkg 0
     p.accepts 1 bindReq.holder = false) ∧
    (let s := flying binding [.bind bindReq, .bind bindBack]
     s.answersBind 0 bindReq = true ∧ (bindReq.dst, bindReq.slot) ≠ (0, 0)) ∧
    ((across 1).pkg 1).job 1 = some (.bind acrossReq) ∧ ((across 1).pkg 1).awake 0 = true ∧ acrossReq.fromChip ≠ 1 ∧
    ((across 1).pkg 1).accepts 0 acrossReq.holder = true ∧ (across 1).answersBind 1 acrossReq = true ∧
    ((across 2).pkg 1).job 1 = some (.bind acrossReq) ∧ ((across 2).pkg 1).accepts 0 acrossReq.holder = false ∧
    (let x : PortValue := ⟨⟨1, 4, 0⟩, 0, 0, 0, 0, 7⟩
     let p := (flying bound [.portv x]).pkg 0
     p.job 1 = some (.portv x) ∧ p.awake 0 = true ∧
     p.packetBefore 0 0 x.src.core x.dst 0 1 = false ∧ (p.thread 0 0).live = true ∧
     (p.thread 0 0).gen = x.gen ∧ ((p.thread 0 0).port 0).st = .bound ∧ ((p.thread 0 0).port 0).peerChip = 0 ∧
     ((p.thread 0 0).port 0).peer = handleOf 0 1 4) := by
  repeat' apply And.intro
  all_goals decide +kernel

/-- A deposit of slot 0 of core 0 for register 7 of slot 1 of core 0. -/
def depo (st : DepoStage) : Deposit := ⟨⟨0, 0, 0⟩, 0, 1, 0, 7, 9, st, 1, 2, []⟩

theorem witness_Deposits :
    Ready (regs [(1, 1)]) { s := .imm 9, d := rdReg 1 } ⟨1, 9, 0⟩ ∧ (regs [(1, 1)]).me.pend = none ∧
    (let p := (flying base [.depo (depo .travelling)]).pkg 0
     p.job 1 = some (.depo (depo .travelling)) ∧ p.awake 0 = true ∧ p.packetBefore 0 0 0 0 0 1 = false ∧
     p.handleAbsent 0 (some (handleOf 0 0 1)) = true) ∧
    (let p := (flying (other 1 8 .ready) [.depo (depo .travelling)]).pkg 0
     p.accepts 0 (p.coreHolder 0) = true ∧ p.handleAbsent 0 (some (handleOf 0 0 1)) = false ∧ 7 < (p.thread 0 1).len ∧
     (p.jobs (fun j => match j with | .depo e => decide (e.dst = 0 ∧ e.stage = .buffered) | _ => false)).length < 8) ∧
    (let s := flying (withCore (other 1 8 .ready) (fun k => k.emptyReg (k.thread 1) 7)) [.depo (depo .buffered)]
     s.here.job 1 = some (.depo (depo .buffered)) ∧ (s.hereCore.reg (s.hereCore.thread 1) 7).full = false ∧
     s.producing 0 ⟨0, 1, 0⟩ 7 = false ∧ s.here.ownerLive ⟨0, 1, 0⟩ = true ∧ (s.here.thread 0 1).life ≠ .migrating ∧ s.here.flights = [(1, .depo (depo .buffered))]) ∧
    (let p := (flying base [.depo (depo .refused)]).pkg 0
     p.job 1 = some (.depo (depo .refused)) ∧ (depo .refused).pops = [] ∧ p.ownerLive ⟨0, 0, 0⟩ = true ∧ 1 < (p.thread 0 0).len) := by
  unfold Claims.Ready; decide +kernel

theorem witness_BanksAndCode :
    Ready base { s := .imm 15, d := base.selD (.imm 15) 3 1 } ⟨0, 15, 0⟩ ∧ (15 : Word).getLsbD 3 = true ∧
    Ready (regs [(1, 12)]) { s := .imm 7, d := (regs [(1, 12)]).selD (.imm 7) 3 1 } ⟨12, 7, 0⟩ ∧ (7 : Word).getLsbD 3 = false ∧
    ((12 : Word).toNat % 16 < 13 ∧ (12 : Word).toNat / 16 % 4 = 0) ∧ ¬ ((13 : Word).toNat % 16 < 13 ∧ (13 : Word).toNat / 16 % 4 = 0) ∧
    Ready (regs [(1, far - 0x1000), (2, 128)]) { mem := true, s := rdOp (op 2), d := rdReg 1 } ⟨far - 0x1000, 128, 0⟩ ∧
    ((far - 0x1000).toNat % 128 = 0 ∧ base.here.inLogWindow (far - 0x1000).toNat 128 = true ∧ base.here.holds base.holder (far - 0x1000).toNat 128 = true) ∧
    base.hereCore.spilled = [] ∧ Ready base { mem := true, t := rdOp (op 3), s := rdOp (op 2), d := rdReg 1 } ⟨0, 0, 0⟩ ∧
    inRect 0 base.cur.core = true ∧ meshX 0 = 0 ∧ meshY 0 = 0 ∧ base.here.coreHolder 0 = base.holder ∧ (tget? base.here.cores base.cur.core).isSome = true ∧ Ready base {} ⟨0, 0, 0⟩ := by
  unfold Claims.Ready; decide +kernel
/-- What a check gives, and what holds of it. -/
theorem ok_of {ε α : Type} {r : Except ε α} (P : α → Bool)
    (h : (match r with | .ok x => P x | .error _ => false) = true) : ∃ x, r = .ok x ∧ P x = true := by
  cases r with
  | ok x => exact ⟨x, rfl, h⟩
  | error e => simp at h

/-- A record that passes its checks latches an operand of the format that its view or its bank gives. -/
theorem latched (s : State) (r : Layout) (need : Perm) (use : Nat) (view : Option Nat) (pa c b f : Nat)
    (h : s.xlate r.va.toNat need use = .ok pa ∧ s.here.place pa = .scratch c b ∧ clusterOf c = clusterOf s.cur.core ∧
      s.here.coreHolder c = s.holder ∧ (need.w = true → (s.here.core c).exported.contains b = false) ∧ b = r.bank ∧
      r.extentBad = false ∧ r.spanBad (view.getD ((tget (s.here.core c).bankFmt b 0).toNat % 16)) (pa % 65536) = false ∧
      view.getD ((tget (s.here.core c).bankFmt b 0).toNat % 16) = f) :
    ∃ o, Claims.Latches s r need use view o ∧ o.fmt = f :=
  ⟨_, ⟨pa, c, b, h.1, h.2.1, h.2.2.1, h.2.2.2.1, h.2.2.2.2.1, h.2.2.2.2.2.1, h.2.2.2.2.2.2.1, h.2.2.2.2.2.2.2.1, rfl⟩,
    h.2.2.2.2.2.2.2.2⟩

/-- A record of e0 by e1 elements, row after row, at an address of bank 0 (R92). -/
def record (va e0 e1 : Nat) : BitVec 256 :=
  BitVec.ofNat 256 (va + 2 ^ 64 * e0 + 2 ^ 80 * e1 + 2 ^ 96 + 2 ^ 112 + 2 ^ 128 + 2 ^ 160 * e0)

/-- Records L0 and L1 of 4 by 4 elements, L2 of 1 by 4. -/
def recs : State :=
  withCore base (fun k => { k with recs := [(0, record 0x1000 4 4), (1, record 0x2000 4 4), (2, record 0x3000 1 4)] })

/-- An operand of one element. -/
def opd : Operand := ⟨0, 0x1000, 0x1000, 0, 0, 1, 1, 1, 1, 1, 1, 1, 1, [(1, 0x1000)]⟩

/-- A Cassia operation of slot 0 of core 0. -/
def cassia (fn : CassiaFn) (st : Stage) : CassiaOp :=
  { CassiaOp.new ⟨0, 0, 0⟩ fn none with stage := st, need := [⟨[16, 17], false⟩], toWrite := [0x2000, 0x2040] }

theorem witness_EngineRegisters :
    Ready (regs [(2, near)]) { mem := true, s := rdOp (op 2) } ⟨0, near, 0⟩ ∧
    (regs [(2, near)]).plainAddr (near + 32) 32 { r := true } 1 = .ok 0x1020 ∧
    (∀ i ∈ [0, 1, 2, 3], ((regs [(2, near)]).plainLoad (0x1020 + 8 * i) 8 (10 + i)).bad = false) ∧
    ((regs [(2, near)]).plainLoad 0x1020 8 10).val < 2 ^ 51 ∧
    2 ^ 51 ≤ ((withPkg (regs [(2, near)]) (fun p => { p with mem := p.mem.write (bytesAt 0x1020 (2 ^ 51) 8) })).plainLoad 0x1020 8 10).val ∧
    Ready base { d := wrReg 1 } ⟨0, 0, 0⟩ ∧ Ready base { s := .imm 7, d := base.selD (.imm 7) 2 1 } ⟨0, 7, 0⟩ ∧
    Ready base { s := .imm 3, d := base.selD (.imm 3) 2 1 } ⟨0, 3, 0⟩ ∧
    base.here.coreHolder (clusterCore (clusterOf base.cur.core) 3) = base.holder ∧ base.here.incomplete (clusterOf 0) = [] ∧
    Ready base {} ⟨0, 0, 0⟩ ∧ base.here.pendingOf base.owner = [] ∧
    (let s := withCore base (fun k => { k with finished := [{ cassia (.accz 0) .done with wrote := [0x1000, 0x1008] }] })
     s.here.pendingOf s.owner = [] ∧ (∀ o ∈ s.hereCore.finished, o.owner = s.owner ∧ o.report = none ∧ ∀ w ∈ o.wrote, w % 8 = 0) ∧
     s.hereCore.view.wf = true ∧ risingFrom 0 s.hereCore.unstable = true) ∧
    (let o : CassiaOp := { CassiaOp.new ⟨5, 3, 2⟩ (.accz 0) none with stage := .done, wrote := [0x1000] }
     let s := withMe (withPkg base (fun p => p.onCore 5 (fun k => { k with finished := [o] }))) (fun t => { t with former := [(0, ⟨5, 3, 2⟩), (1, ⟨6, 3, 2⟩)] })
     (s.me.former.filter (fun f => decide (f.1 = s.cur.chip))).map (·.2) = [⟨5, 3, 2⟩] ∧ s.here.pendingOf ⟨5, 3, 2⟩ = [] ∧
     (s.here.core 5).finished = [o] ∧ o.report = none) ∧
    (flying base [.cassia (cassia (.accz 0) .reading)]).here.pendingOf base.owner ≠ [] ∧
    (let o : CassiaOp := { cassia (.accz 0) .done with overflow := some (0, 7), soft := some (0, 8) }
     let s := withCore base (fun k => { k with finished := [o] })
     s.here.pendingOf s.owner = [] ∧ s.hereCore.finished = [o] ∧ o.owner = s.owner ∧ o.overflow = some (0, 7) ∧
     ({ o with overflow := none } : CassiaOp).soft = some (0, 8)) := by
  refine ⟨?_, addr_ok ?_, ?_⟩
  rotate_left 2
  repeat' apply And.intro
  all_goals decide +kernel

theorem witness_MatrixIssue :
    Ready recs { s := rdOp (op 2) } ⟨0, 0, 0⟩ ∧ recs.here.coreHolder (clusterCore (clusterOf 0) 3) = recs.holder ∧
    (∃ a b, Claims.Latches recs (recs.hereCore.layout 0) { r := true } 1 none a ∧
      Claims.Latches recs (recs.hereCore.layout 1) { r := true } 2 none b ∧ isInteger a.fmt = isInteger b.fmt ∧ isInteger a.fmt = false) ∧
    ((recs.hereCore.layout 0).e0 = 4 ∧ (recs.hereCore.layout 0).e2 = 1 ∧ (recs.hereCore.layout 0).e3 = 1 ∧
      (recs.hereCore.layout 1).e0 = (recs.hereCore.layout 0).e1) ∧
    (∃ o, Claims.Latches recs (recs.hereCore.layout 0) { w := true } 1 (some 33) o) ∧
    (∃ o, Claims.Latches recs (recs.hereCore.layout 0) { r := true } 1 (some 33) o) ∧
    (124 + (recs.hereCore.layout 0).e0 ≤ 128 ∧ recs.here.locked (clusterOf 0) 3 = false) ∧
    (let s := withPkg base (fun p => p.setEntry (rid 0 17) { p.entry (rid 0 17) with holder := 2 })
     Ready s {} ⟨0, 0, 0⟩ ∧ s.here.coreHolder (clusterCore (clusterOf 0) 3) ≠ s.holder) ∧
    (let s := ((recs.setReg 3 0x4000))
     Ready s { mem := true, s := rdGroup (op 2) 4 } ⟨0, 0, 0⟩ ∧ s.reg 2 = 0 ∧ (s.reg 3).toNat % 8 = 0 ∧ s.reg 5 = 0 ∧
     (∃ col, s.checkVector (s.reg 3) 34 4 3 = .ok col) ∧
     (∃ o, Claims.Latches s (s.hereCore.layout 0) { w := true } 1 none o ∧ o.fmt ≤ 7)) := by
  obtain ⟨a, ha, fa⟩ := latched recs (recs.hereCore.layout 0) { r := true } 1 none 0x1000 0 0 0 (by decide +kernel)
  obtain ⟨b, hb, fb⟩ := latched recs (recs.hereCore.layout 1) { r := true } 2 none 0x2000 0 0 0 (by decide +kernel)
  obtain ⟨c, hc, -⟩ := latched recs (recs.hereCore.layout 0) { w := true } 1 (some 33) 0x1000 0 0 33 (by decide +kernel)
  obtain ⟨d, hd, -⟩ := latched recs (recs.hereCore.layout 0) { r := true } 1 (some 33) 0x1000 0 0 33 (by decide +kernel)
  obtain ⟨e, he, fe⟩ := latched (recs.setReg 3 0x4000) ((recs.setReg 3 0x4000).hereCore.layout 0) { w := true } 1 none 0x1000 0 0 0
    (by decide +kernel)
  obtain ⟨col, hcol, -⟩ := ok_of (r := (recs.setReg 3 0x4000).checkVector ((recs.setReg 3 0x4000).reg 3) 34 4 3) (fun _ => true)
    (by decide +kernel)
  refine ⟨?_, ?_, ⟨a, b, ha, hb, ?_, ?_⟩, ?_, ⟨c, hc⟩, ⟨d, hd⟩, ?_, ?_, ?_, ?_, ?_, ?_, ⟨col, hcol⟩, e, he, ?_⟩
  · unfold Claims.Ready; decide +kernel
  · decide +kernel
  · rw [fa, fb]
  · simp [fa, isInteger]
  · decide +kernel
  · decide +kernel
  · unfold Claims.Ready; decide +kernel
  · unfold Claims.Ready; decide +kernel
  · decide +kernel
  · decide +kernel
  · decide +kernel
  · simp [fe]

/-- R236: a tile of a core of another holder, named by K or by DRAIN's g3. -/
theorem witness_TileHolder :
    let s := (withPkg recs (fun p => p.setEntry (rid 0 17) { p.entry (rid 0 17) with holder := 2 })).setReg 5 3
    Ready s { s := rdOp (op 2) } ⟨0, 0, 0⟩ ∧ s.here.coreHolder (clusterCore (clusterOf 0) 3) ≠ s.holder ∧
    Ready s { mem := true, s := rdGroup (op 2) 4 } ⟨0, 0, 0⟩ ∧ (s.reg 5).toNat % 4 = 3 ∧
    (let r := s.hereCore.layout 0
     r.extentBad = false ∧ r.e2 = 1 ∧ r.e3 = 1 ∧ 3 / 2 ^ 8 % 128 + r.e0 ≤ 128 ∧ 3 / 2 ^ 16 % 128 + r.e1 ≤ 128) ∧
    after (exec (.mmaOvr 3 0 1 (op 2) 0) s) = some (s.takeTrap .notHolder 0 17) := by unfold Claims.Ready; decide +kernel

theorem witness_VectorIssue :
    Ready recs {} ⟨0, 0, 0⟩ ∧ Ready recs { t := .pop 12 } ⟨0, 0, 0⟩ ∧ Ready recs { s := .imm 1 } ⟨0, 1, 0⟩ ∧
    (∃ od os ot, od.fmt ≠ 11 ∧ od.fmt ≠ 12 ∧ Claims.Latches recs (recs.hereCore.layout 0) { r := true, w := true } 1 none od ∧
      Claims.Latches recs (recs.hereCore.layout 1) { r := true } 2 none os ∧ Claims.Latches recs (recs.hereCore.layout 1) { r := true } 3 none ot) ∧
    (∃ od os, od.fmt ≠ 11 ∧ od.fmt ≠ 12 ∧ Claims.Latches recs (recs.hereCore.layout 0) { w := true } 1 (some 34) od ∧
      Claims.Latches recs (recs.hereCore.layout 1) { r := true } 2 (some 34) os) ∧
    (∃ od os, od.fmt ≠ 11 ∧ od.fmt ≠ 12 ∧ Claims.Latches recs (recs.hereCore.layout 2) { w := true } 1 none od ∧
      Claims.Latches recs (recs.hereCore.layout 1) { r := true } 2 none os) ∧
    (recs.hereCore.layout 0).sameExtents (recs.hereCore.layout 1) = true ∧
    ((recs.hereCore.layout 2).e0 = 1 ∧ (recs.hereCore.layout 2).e1 = (recs.hereCore.layout 1).e1) := by
  obtain ⟨a, ha, fa⟩ := latched recs (recs.hereCore.layout 0) { r := true, w := true } 1 none 0x1000 0 0 0 (by decide +kernel)
  obtain ⟨b, hb, -⟩ := latched recs (recs.hereCore.layout 1) { r := true } 2 none 0x2000 0 0 0 (by decide +kernel)
  obtain ⟨c, hc, -⟩ := latched recs (recs.hereCore.layout 1) { r := true } 3 none 0x2000 0 0 0 (by decide +kernel)
  obtain ⟨d, hd, fd⟩ := latched recs (recs.hereCore.layout 0) { w := true } 1 (some 34) 0x1000 0 0 34 (by decide +kernel)
  obtain ⟨e, he, -⟩ := latched recs (recs.hereCore.layout 1) { r := true } 2 (some 34) 0x2000 0 0 34 (by decide +kernel)
  obtain ⟨g, hg, fg⟩ := latched recs (recs.hereCore.layout 2) { w := true } 1 none 0x3000 0 0 0 (by decide +kernel)
  refine ⟨?_, ?_, ?_, ⟨a, b, c, ?_, ?_, ha, hb, hc⟩, ⟨d, e, ?_, ?_, hd, he⟩, ⟨g, b, ?_, ?_, hg, hb⟩, ?_, ?_⟩
  · unfold Claims.Ready; decide +kernel
  · unfold Claims.Ready; decide +kernel
  · unfold Claims.Ready; decide +kernel
  · simp [fa]
  · simp [fa]
  · simp [fd]
  · simp [fd]
  · simp [fg]
  · simp [fg]
  · decide +kernel
  · decide +kernel

/-- A vector operation that has some rows delivered and lines of them still to read. -/
def reads (rows lines : List Nat) : CassiaOp :=
  let d : Operand := { opd with pages := [(1, 0x2000)] }
  { cassia (.vec .add false [d, opd, opd, opd, opd] 0 0 0) .reading with got := rows, toRead := lines }

theorem witness_Cassia :
    (let p := (withCore base (fun k => { k with dispatch := [cassia (.accz 0) .queued] })).pkg 0
     p.phase = .running ∧ (p.cluster 0).power = .active ∧ p.eligibleHead (clusterCore 0 ((p.cluster 0).scan % 4)) = some (cassia (.accz 0) .queued) ∧
     p.started 0 = [] ∧ (p.tileOf 0 0).compat = false) ∧
    (∀ other ∈ [0, 1], ∀ fn ∈ [CassiaFn.accrd 0 opd 0, .mma .ovr 0 opd opd 0],
      let o : CassiaOp := { CassiaOp.new ⟨17, 0, 0⟩ fn none with stage := .queued }
      let p := (flying (withPkg base (fun p => p.onCore 17 (fun k => { k with dispatch := [o] })))
        [.cassia (cassia (if other = 0 then .accrd 1 opd 0 else .mma .ovr 1 opd opd 0) .reading)]).pkg 0
      (∀ j, j < 3 → p.eligibleHead (clusterCore 0 (((p.cluster 0).scan + j) % 4)) = none) ∧ clusterCore 0 (((p.cluster 0).scan + 3) % 4) = 17 ∧
      p.eligibleHead 17 = some o ∧ (p.started 0).map (fun x => x.2.fn.pipe) = [some (1 - other)] ∧
      o.fn.pipe = if fn = .accrd 0 opd 0 then some 1 else some 0) ∧
    (let p := (flying base [.cassia (cassia (.accrd 0 opd 0) .reading)]).pkg 0
     p.job 1 = some (.cassia (cassia (.accrd 0 opd 0) .reading)) ∧ (cassia (.accrd 0 opd 0) .reading).cap.wf = true ∧
     (cassia (.accrd 0 opd 0) .reading).need = [⟨16 :: [17], false⟩] ∧ (p.cluster 0).banks = [] ∧ ([] : List Nat).Nodup ∧
     ((p.onCluster 0 (fun k => { k with fetched := [1] })).cluster 0).fetched.contains 1 = true) ∧
    ((cassia (.accrd 0 opd 0) .reading).toRead = [] ∧ (reads [16] [0x1040]).toRead ≠ [] ∧ lineOf 0x1040 = 0x1040 ∧ (reads [16] [0x1040]).cap.wf = true) ∧
    (flying base [.cassia (cassia (.accrd 0 opd 0) .writing)]).here.job 1 = some (.cassia (cassia (.accrd 0 opd 0) .writing)) ∧
    (let p := (flying base [.cassia (reads [16] [0x1040])]).pkg 0
     p.job 1 = some (.cassia (reads [16] [0x1040])) ∧ 2 ≤ (reads [16] [0x1040]).toWrite.length ∧ (reads [16] [0x1040]).ready 0x2000 = true ∧
     (reads [16] [0x1000]).ready 0x2000 = false ∧ (reads [] []).ready 0x2000 = false) ∧
    (let p := (flying base [.cassia (cassia (.accswap 3) .reading)]).pkg 0
     p.job 1 = some (.cassia (cassia (.accswap 3) .reading)) ∧ ∀ x ∈ p.started (clusterOf 0), x.1 = 1 ∨ x.2.fn.tile ≠ some 3) := by
  repeat' apply And.intro
  all_goals decide +kernel

/-- That operand in another format; a Cassia operation that is to write it, from lines without and with an error. -/
def opf (f : Nat) : Operand := { opd with fmt := f }
def writes (fn : CassiaFn) (line : Nat) (bad : List Nat) : CassiaOp :=
  { cassia fn .writing with toWrite := [line], cap := { Memory.empty with bad := bad } }

/-- The bits of one element stand apart, and one element disturbs none. -/
theorem apart_one (f : Nat) (h : ∀ a < elemBits f, ∀ b < elemBits f, a ≠ b → Claims.place (opf f) ((opf f).at_ 0) a ≠ Claims.place (opf f) ((opf f).at_ 0) b) :
    Claims.Apart (opf f) [0] := by
  intro i hi j hj a b ha hb hab
  simp only [List.mem_singleton] at hi hj
  subst hi; subst hj
  exact h a ha b hb (fun e => hab (by rw [e]))

theorem undisturbed_one (f : Nat) (o : Operand) (r : Nat) : Claims.Undisturbed (opf f) o r := by
  intro i j x a hij hj
  have h : (opf f).count = 1 := rfl
  omega

/-- Operations of each kind that write one element, in the formats of each clause, from good lines and from a bad one. -/
theorem witness_EngineResults :
    (∀ bad ∈ [[], [0x1000]], ∀ line ∈ [0, 0x1000], ∀ fn ∈ [CassiaFn.mma .ovr 0 (opf 0) (opf 0) 0, .mma .sat 0 (opf 8) (opf 8) 0, .accrd 0 (opf 33) 0, .accwr 0 (opf 33) 0,
        .drain true (opf 0) none (opf 34) 0 0 1 0, .drain false (opf 8) (some (opf 33)) (opf 34) 0 0 1 0, .vec .fma false [opf 0, opf 1, opf 2] 0 1 0,
        .vec .sel true [opf 34, opf 34, opf 34] 0 1 0, .vec .cvt false [opf 8, opf 0, opf 0] 0 1 0, .vec .fill true [opf 34, opf 34, opf 34] 0 1 0,
        .red .sum false (opf 0) (opf 1) 1 0, .red .max true (opf 34) (opf 34) 1 0],
      let o := writes fn line bad
      let p := (flying base [.cassia o]).pkg 0
      p.phase = .running ∧ p.job 1 = some (.cassia o) ∧ o.stage = .writing ∧ o.toWrite = line :: [] ∧ p.mem.wf = true ∧ o.cap.wf = true ∧
      o.cap.bad = bad) ∧
    (let u := base.here.tileOf 0 0
     u.bankPoison = false ∧ u.wbad = [] ∧ u.vbad = [] ∧ ({ u with wpoison := true, vpoison := true } : Tile).bankPoison = true) ∧
    (∀ f ∈ [0, 8, 33, 34], Claims.Apart (opf f) (List.range (opf f).count)) ∧
    (∀ f g r, Claims.Undisturbed (opf f) (opf g) r) ∧
    (∀ b ∈ (opf 0).bytesOf ((opf 0).at_ 0), lineOf ((opf 0).addr b) = 0x1000) := by
  refine ⟨by decide +kernel, by decide +kernel, ?_, fun f g r => undisturbed_one f (opf g) r, by decide +kernel⟩
  intro f hf
  simp only [List.mem_cons, List.not_mem_nil, or_false] at hf
  rcases hf with rfl | rfl | rfl | rfl <;> exact apart_one _ (by decide +kernel)
/-- A copy from L1 to L0, and a piece of it. -/
def copy : Copy := { Copy.new ⟨0, 0, 0⟩ 1 0 0 false opd opd 1 0 none with pieces := 2, untaken := 1 }
def piece (st : Stage) (reads : List Nat) (l : Nat) : Piece := ⟨1, blockClusterClove 0, none, st, reads, Memory.empty, [l], false⟩

/-- What COPY asks of a latched operand: its bank field right, its span good, its format. -/
def goodOpd (r : Layout) (f : Nat) (d : Operand × Bool) : Bool := !d.2 && !r.spanBad d.1.fmt d.1.off && decide (d.1.fmt = f)

theorem witness_Copies :
    Ready recs { mem := true, t := rdGroup (op 2) 2 } ⟨0, 0, 0⟩ ∧
    (let s := recs
     let D := s.hereCore.layout 0
     let S := s.hereCore.layout 1
     D.extentBad = false ∧ S.sameExtents D = true ∧
     (∃ d, s.cloveOperand D { w := true } (some 36) 200 = .ok d ∧ goodOpd D 36 d = true) ∧
     (∃ o, s.cloveOperand S { r := true } (some 36) 220 = .ok o ∧ goodOpd S 36 o = true) ∧
     (∃ d, s.cloveOperand D { w := true } none 200 = .ok d ∧ goodOpd D 0 d = true) ∧
     (∃ o, s.cloveOperand S { r := true } none 220 = .ok o ∧ goodOpd S 0 o = true)) ∧
    (Ready (recs.setReg 4 0x100) { mem := true, t := rdGroup (op 2) 3 } ⟨0, 0, 0⟩ ∧ ((0x100 : Word).toNat / 2 ^ 4 % 16 = 0 ∧ (0x100 : Word).toNat / 2 ^ 8 % 16 = 1)) ∧
    (∃ a, Claims.Latches recs (recs.hereCore.layout 0) { r := true } 240 none a ∧ a.fmt = 0) ∧
    (∃ b, Claims.Latches recs (recs.hereCore.layout 1) { r := true } 241 none b ∧ b.fmt = 0) ∧
    (let p := (flying base [.copy copy, .piece (piece .queued [] 0x1000)]).pkg 0
     let x := piece .queued [] 0x1000
     risingFrom 0 p.flights = true ∧ p.job 2 = some (.piece x) ∧ p.job 1 = some (.copy copy) ∧ x.save = none ∧ x.refused = false ∧
     (p.cluster (x.streamer - 2000)).power = .active ∧ copy.packet = none ∧ p.serves x.streamer copy.holder (p.pieceWaiters x.streamer) = true ∧
     ∀ y ∈ (p.pieceLines copy x.streamer).1 ++ (p.pieceLines copy x.streamer).2, p.holds copy.holder y 1 = true ∧ p.place y = .scratch 0 0) ∧
    (let c := { copy with holder := 2 }
     let p := (flying base [.copy c, .piece { piece .queued [] 0x1000 with refused := true }]).pkg 0
     let lines := (p.pieceLines c (piece .queued [] 0).streamer).1 ++ (p.pieceLines c (piece .queued [] 0).streamer).2
     p.serves (piece .queued [] 0).streamer 2 (p.pieceWaiters (piece .queued [] 0).streamer) = true ∧ lines.any (fun y => !p.holds 2 y 1) = true ∧
     2 ≤ c.pieces ∧ c.status = 0) ∧
    (let x := piece .reading [0x1000] 0x1000
     let p := (flying base [.copy copy, .piece x]).pkg 0
     p.job 2 = some (.piece x) ∧ x.toRead = 0x1000 :: [] ∧ p.serves x.streamer copy.holder (p.pieceWaiters x.streamer) = true ∧ x.cap.wf = true ∧
     0x1000 % 64 = 0) ∧
    (let x := piece .reading [] 0x1000
     let p := (flying base [.copy copy, .piece x]).pkg 0
     p.job 2 = some (.piece x) ∧ (∀ y ∈ x.toWrite, p.awakeAt y = true ∧ p.lineReady x copy y = true) ∧ copy.dst.fmt = copy.src.fmt ∧
     isScaled copy.dst.fmt = false ∧ p.mem.wf = true ∧ p.pieceElems copy x.streamer = [0] ∧ x.cap.bad = [] ∧ 1 ≤ copy.rm ∧ copy.rm ≤ 5 ∧
     copy.ovf ≤ 3 ∧ ({ copy with src := { opd with fmt := 2 } } : Copy).src.fmt ≠ copy.dst.fmt ∧
     (∀ b ∈ opd.bytesOf (opd.at_ 0), lineOf (opd.addr b) = 0x1000)) := by
  obtain ⟨a, ha, fa⟩ := latched recs (recs.hereCore.layout 0) { r := true } 240 none 0x1000 0 0 0 (by decide +kernel)
  obtain ⟨b, hb, fb⟩ := latched recs (recs.hereCore.layout 1) { r := true } 241 none 0x2000 0 0 0 (by decide +kernel)
  refine ⟨?_, ⟨?_, ?_, ok_of _ ?_, ok_of _ ?_, ok_of _ ?_, ok_of _ ?_⟩, ?_, ⟨a, ha, fa⟩, ⟨b, hb, fb⟩, ?_, ?_, ?_⟩ <;>
  (repeat' apply And.intro) <;> decide +kernel

/-- A pre-emption of cores 0 and 1, for the transfer of core 1; and one of core 0 that waits behind it. -/
def preempt (started saving : Bool) (budget : Nat) : Preempt := ⟨0, [0, 1], 1, budget, 0, started, [], saving, [], [3]⟩
def behind : Preempt := ⟨0, [0], 1, 9, 0, false, [], false, [], []⟩
def leaver : Transfer := ⟨rid 0 1, 1, 2, 0, 0, 9, false, false, none, 0⟩

/-- That pre-emption beside a message, the transfer and the other one; every thread of the cores stands still, core 0 has no handler 0 and core 1 has one;
the save area of core 0 is set, that of core 1 not. -/
def preempted (q : Preempt) : State :=
  flying (withMe (withPkg base (fun p => p.onCore 1 (fun k => { k with handlers := [(0, 0x8000000000000040)] })))
    (fun t => { t with life := .trapped }) |> fun s => withCore s (fun k => { k with saveArea := 0x300001010000 }))
    [.preempt q, .msg (msg 0), .transfer leaver, .preempt behind]

theorem witness_PreEmption :
    Ready base { mem := true, d := wrReg 1 } ⟨0, 0, 0⟩ ∧
    (Ready (regs [(1, 0x300001010000)]) { mem := true, d := rdReg 1 } ⟨0x300001010000, 0, 0⟩ ∧
     (let w : Word := 0x300001010000 &&& 0xFFFFF00FFFFFFFFF
      w.getLsbD 44 = true ∧ (areaParts w).length ≠ 0 ∧ 0x10000000000 ≤ w.toNat % 2 ^ 36 * 65536 ∧
      base.here.holds base.holder (w.toNat % 2 ^ 36 * 65536) (65536 * (areaParts w).length) = true)) ∧
    (let w : Word := 0x300000000001
     w.getLsbD 44 = true ∧ (areaParts w).length ≠ 0 ∧ w.toNat % 2 ^ 36 * 65536 < 0x10000000000) ∧
    Ready base {} ⟨0, 0, 0⟩ ∧ base.here.preempting 0 = none ∧
    (let q := preempt true false 9
     let s := withMe (withPkg (preempted q) (fun p => p.onCore 1 (fun k => { k with packed := true }))) (fun t => { t with life := .ready, preempt := true })
     s.here.preempting 0 = some 1 ∧ s.me.preempt = true ∧ s.here.cassiaIdle 0 = true ∧ Ready s {} ⟨0, 0, 0⟩ ∧ s.here.job 1 = some (.preempt q) ∧
     risingFrom 0 s.here.flights = true ∧ (∀ e ∈ s.here.flights, e.1 < s.here.nextId) ∧ (s.here.core 0).saveArea.getLsbD 44 = true ∧
     (∀ c ∈ q.cores, c = 0 ∨ (s.here.core c).packed = true) ∧ (areaParts (s.here.core 0).saveArea)[0]? = some 8) ∧
    (let m : Msg := { Msg.plain 0 5 (header 3 0 0 0 7) [] with preempt := some 9 }
     let p := (flying (withPkg base (fun p => p.onCore 5 (fun k => { k with handlers := [(0, 0x8000000000000040)] }))) [.msg m]).pkg 0
     p.flights = [(1, .msg m)] ∧ m.bounce = false ∧ m.toThread = none ∧ m.launch = none ∧ m.tagged = false ∧
     (tget (p.core 5).handlers 0 0).getLsbD 63 = true ∧ (p.core 5).slotFree 63 = true ∧ (p.core 5).latch = none ∧ (p.die 0).cells = []) ∧
    (∀ budget ∈ [0, 9],
      let q := preempt false false budget
      let p := (preempted q).pkg 0
      p.phase = .running ∧ p.job 1 = some (.preempt q) ∧ risingFrom 0 p.flights = true ∧ (∀ e ∈ p.flights, e.1 < p.nextId) ∧
      (p.cluster q.cluster).power = .active ∧ q.budget = budget ∧ p.job 3 = some (.transfer leaver) ∧ 3 ∈ q.transfers ∧
      (p.flights.all (fun e => match e.2 with | .preempt r => !r.started && !r.saving | _ => true)) = true ∧
      (∀ c ∈ q.cores, (p.core c).threads.all (fun e => decide (e.1 ≠ 63 → e.2.life ≠ .ready ∧ e.2.life ≠ .parked)) = true) ∧
      (tget (p.core 0).handlers 0 0).getLsbD 63 = false ∧ (tget (p.core 1).handlers 0 0).getLsbD 63 = true) ∧
    (∀ saving ∈ [true, false],
      let q := preempt true saving 9
      let p := (preempted q).pkg 0
      p.job 1 = some (.preempt q) ∧ p.job 4 = some (.preempt behind) ∧ behind.cluster = q.cluster ∧ behind.started = false ∧
      (p.flights.all (fun e => match e.2 with | .preempt r => !(r.started || r.saving) || decide (e.1 = 1) | .piece _ => false | _ => true)) = true ∧
      (p.core 0).saveArea.getLsbD 44 = true ∧ (p.core 0).saveArea.toNat / 2 ^ 54 = 0 ∧ 0 ∈ q.cores ∧ (p.core 1).saveArea.getLsbD 44 = false ∧
      p.noticeCore q.former (q.cores ++ p.leaving q.former) = some 2) ∧
    (let p := ((withCore (preempted (preempt true true 9)) (fun k => { k with saveArea := 0x140300001010000 })).pkg 0)
     (p.core 0).saveArea.toNat / 2 ^ 54 = 5 ∧ 5 ∉ (preempt true true 9).cores) := by
  repeat' apply And.intro
  all_goals decide +kernel

/-- Pieces of a save copy: of bank 0 of core 1, with lines to read, and of its visible tile bank, with lines to write, to a place that its holder holds and to
one that it does not hold. -/
theorem witness_SaveCopy :
    (let x : Piece := ⟨1, blockClusterClove 0, some (1, 0, 0x10000010000), .reading, [0x80000], Memory.empty, [], false⟩
     let p := (flying base [.preempt (preempt true true 9), .piece x]).pkg 0
     risingFrom 0 p.flights = true ∧ p.job 2 = some (.piece x) ∧ (2 : Nat) ≠ x.copy ∧ x.toRead = 0x80000 :: [] ∧ x.cap.wf = true ∧ 0x80000 % 64 = 0) ∧
    (∀ part ∈ [0, 8], ∀ holder ∈ [1, 2],
      let x : Piece := ⟨1, blockClusterClove 0, some (1, part, 0x10000010000), .writing, [], Memory.empty, [0x10000010040], false⟩
      let p := (flying (withPkg base (fun p => p.setEntry (rid 0 1) { p.entry (rid 0 1) with holder := holder })) [.preempt (preempt true true 9), .piece x]).pkg 0
      p.job 2 = some (.piece x) ∧ x.toWrite = 0x10000010040 :: [] ∧ p.awakeAt 0x10000010040 = true ∧ p.mem.wf = true ∧
      p.holds (p.coreHolder 1) 0x10000010040 64 = decide (holder = 1) ∧ p.job x.copy = some (.preempt (preempt true true 9))) := by decide +kernel

/-- Barrier register 0 of core 0 set to a 1 by 1 rectangle and a count of 2. -/
def barred (f : Bar → Bar) : State :=
  withCore base (fun k => { k with bars := [(0, f ⟨0, false, 2, 0, false, [], false, [], [], [], [], [], []⟩)] })

theorem witness_BarriersAndCommits :
    Ready base { d := wrReg 1 } ⟨0, 0, 0⟩ ∧ ((base.here.bar 0 3).rect < 2 ^ 16 ∧ (base.here.bar 0 3).count = 0) ∧
    (Ready (regs [(1, 2 ^ 34)]) { d := rdReg 1 } ⟨2 ^ 34, 0, 0⟩ ∧
     ¬ (rectX1 0 < rectX0 0 ∨ rectY1 0 < rectY0 0 ∨ 64 < (2 ^ 34 : Word).toNat / 2 ^ 33 % 128 ∨ 0 ∉ rectCores 0 0) ∧
     ∀ k ∈ rectCores 0 0, base.here.coreHolder k = base.holder) ∧
    (rectX1 1 < rectX0 1 ∧ (2 ^ 63 ≠ (0 : Nat))) ∧
    (rectCores 0 0x100).find? (fun k => decide ((withPkg base (fun p => p.setEntry (rid 0 1) { p.entry (rid 0 1) with holder := 2 })).here.coreHolder k ≠ 1)) = some 1 ∧
    (Ready (barred id) {} ⟨0, 0, 0⟩ ∧ ((barred id).here.bar 0 0).count ≠ 0 ∧ ((barred id).here.bar 0 0).closed = false) ∧
    (∀ e ∈ base.here.flights, ∀ q, e.2 ≠ .phaseH q) ∧
    (let p := (withPkg base (fun p => p.onCore 1 (fun k =>
        { k with bars := [(0, ⟨2, false, 2, 0x100, true, [], false, [], [], [], [], [], []⟩)] }))).pkg 0
     let b := p.bar 1 0
     b.closed = true ∧ b.count ≠ 0 ∧ coreX 1 = rectX1 b.rect ∧ rectX0 b.rect < coreX 1 ∧ b.rect ∉ b.rowSent) ∧
    (let p := (barred (fun b => { b with arrived := 2, closed := true })).pkg 0
     p.mayRelease 0 0 = true) ∧
    (let k : Commit := ⟨[0], false, [], none, none⟩
     (flying base [.commit k]).here.job 1 = some (.commit k) ∧ k.started = false) ∧
    (let k : Commit := ⟨[0], true, [0], none, none⟩
     let p := (flying (withCore base (fun k => { k with outbox := [⟨0x10000001000, [(8, 7)], []⟩] })) [.commit k]).pkg 0
     p.job 1 = some (.commit k) ∧ (p.core 0).spilled = [] ∧ (p.core 0).outbox = ⟨0x10000001000, [(8, 7)], []⟩ :: [] ∧
     p.awakeAt 0x10000001000 = true ∧ p.discards 0 ⟨0x10000001000, [(8, 7)], []⟩ = false ∧ p.mem.wf = true ∧ risingFrom 0 [(8, (7 : Byte))] = true) ∧
    (let k : Commit := ⟨[0], true, [0], none, none⟩
     let p := (flying base [.commit k]).pkg 0
     p.job 1 = some (.commit k) ∧ ∀ c ∈ k.todo, (p.core c).spilled = [] ∧ (p.core c).outbox = []) := by
  repeat' apply And.intro
  rotate_right 1
  all_goals (try decide +kernel)
  all_goals (intro e he; have : base.here.flights = [] := by decide +kernel)
  all_goals (rw [this] at he; cases he)

/-- R303: the row signal of a core in the middle of a row, the column signals of the last row and of one before it, and cores that wait for one. -/
def swept (c rect : Nat) (f : Bar → Bar) : Package :=
  (withPkg base (fun p => p.onCore c (fun k => { k with bars := [(0, f ⟨2, false, 2, rect, true, [], false, [], [], [], [], [], []⟩)] }))).pkg 0

theorem witness_Sweep :
    (let b := (swept 1 0x200 (fun b => { b with rowIn := [0x200] })).bar 1 0
     b.rect = 0x200 ∧ coreX 1 ≠ rectX1 b.rect ∧ b.rect ∈ b.rowIn ∧ rectX0 b.rect < coreX 1 ∧ b.closed = true ∧ b.count ≠ 0 ∧ b.rect ∉ b.rowSent) ∧
    (let b := (swept 16 0x1000 id).bar 16 0
     b.rect = 0x1000 ∧ coreX 16 = rectX1 b.rect ∧ coreX 16 = rectX0 b.rect ∧ rectY0 b.rect < coreY 16 ∧ coreY 16 = rectY1 b.rect ∧ b.rect ∉ b.colSent) ∧
    (let b := (swept 16 0x2000 (fun b => { b with colIn := [0x2000] })).bar 16 0
     coreX 16 = rectX1 b.rect ∧ rectY0 b.rect < coreY 16 ∧ coreY 16 ≠ rectY1 b.rect ∧ b.rect ∈ b.colIn) ∧
    ((swept 1 0x200 (fun b => { b with closed := false })).bar 1 0).closed = false ∧
    (let b := (swept 1 0x200 id).bar 1 0
     coreX 1 ≠ rectX1 b.rect ∧ b.rect ∉ b.rowIn) ∧
    (let b := (swept 16 0x2000 id).bar 16 0
     coreX 16 = rectX0 b.rect ∧ coreY 16 ≠ rectY1 b.rect ∧ b.rect ∉ b.colIn) := by decide +kernel

/-- A request of slot 0 of core 0 to join cell 5 or to completion cell 0. -/
def cellReq (a : CellAct) (ref : Word) : CellReq := ⟨⟨0, 0, 0⟩, a, ref, 7, 1, 2⟩

theorem witness_ForksJoinsAndCells :
    Ready base { s := rdOp (op 2) } ⟨0, 0, 0⟩ ∧ base.me.pend = none ∧ Ready base { s := rdOp (op 2), d := wrReg 1 } ⟨0, 0, 0⟩ ∧
    Ready base { s := rdOp (op 2), d := rdReg 1 } ⟨0, 0, 0⟩ ∧
    Ready (regs [(4, 2 ^ 60)]) { t := rdOp (op 4), s := rdGroup (op 2) 2, d := wrReg 1 } ⟨0, 0, 2 ^ 60⟩ ∧ (base.here.die 0).cells = [] ∧
    Ready (regs [(4, 3 * 2 ^ 60), (2, 1)]) { t := rdOp (op 4), s := rdGroup (op 2) 2, d := wrReg 1 } ⟨0, 1, 3 * 2 ^ 60⟩ ∧
    (let s := regs [(3, 10), (4, 3)]
     Ready s { t := .pop 12, s := rdGroup (op 2) 4, d := wrReg 1 } ⟨0, 0, 0⟩ ∧ (s.here.entry 0x60000000).holder = s.holder ∧
     (s.reg 4).toNat ≠ 0 ∧ (0 : Word).toInt < (s.reg 3).toInt) ∧
    base.here.candidates 0 base.holder 8 ≠ [] ∧
    (withPkg base (fun p => p.setEntry 0x60000000 { p.entry 0x60000000 with holder := 2 })).holder = 1 ∧
    ((withPkg base (fun p => p.setEntry 0x60000000 { p.entry 0x60000000 with holder := 2 })).here.entry 0x60000000).holder = 2 ∧
    (let p := (flying (withPkg base (fun p => p.onDie 0 (fun d => { d with joins := [(5, 2)] }))) [.cellOp (cellReq .join 5)]).pkg 0
     p.job 1 = some (.cellOp (cellReq .join 5)) ∧ p.ownerLive ⟨0, 0, 0⟩ = true ∧ (p.entry (0x60000000 + 5)).holder = p.coreHolder 0 ∧
     2 ≤ (p.joinCell 5).toNat % 2 ^ 32) ∧
    (flying base [.cellOp (cellReq .join 5)]).here.joinCell 5 = 0 ∧ (0x100005 : Word).getLsbD 20 = true ∧
    (let p := (flying (withPkg base (fun p => p.setCell 0 { Cell.fresh with used := true, holder := 1, live := 1 })) [.cellOp (cellReq .cancel 0)]).pkg 0
     p.job 1 = some (.cellOp (cellReq .cancel 0)) ∧ p.cellLive 0 = true ∧ (p.cellAt 0).holder = p.coreHolder 0 ∧
     (∀ k ∈ p.cores, ∀ x ∈ k.2.threads, x.2.life ≠ .trapped)) := by
  repeat' apply And.intro
  all_goals decide +kernel

/-- The base with completion cell 0 live, of a holder and a level. -/
def celled (holder level live : Nat) : State :=
  withPkg base (fun p => p.setCell 0 { Cell.fresh with used := true, holder := holder, level := level, live := live })

/-- CELL.new without a parent, and with one that does not and one that does qualify; RFORK with such parents, with an empty range, without a core, and with
one; and the cells that CELL.rd and CELL.add read and change. -/
theorem witness_Cells :
    Ready (regs [(4, 2 ^ 60), (2, 2 ^ 20)]) { t := rdOp (op 4), s := rdGroup (op 2) 2, d := wrReg 1 } ⟨0, 2 ^ 20, 2 ^ 60⟩ ∧
    Ready (regs [(2, 2 ^ 20)]) { t := .pop 12, s := rdGroup (op 2) 2, d := wrReg 1 } ⟨0, 2 ^ 20, 0⟩ ∧
    (base.here.cellLive 5 = false ∧ (celled 2 2 1).here.cellLive 0 = true ∧ ((celled 2 2 1).here.cellAt 0).holder ≠ 1) ∧
    (let s := withPkg base (fun p => p.setCell 7 { Cell.fresh with used := true, holder := 1, level := 2, live := 1 })
     s.here.mayParent s.holder 7 1 = true ∧ s.here.mayParent s.holder 7 0 = true ∧ s.here.mayParent s.holder 7 2 = false) ∧
    (let s := (regs [(3, 10), (5, 3), (6, word (7 * 2 ^ 44))])
     Ready s { t := rdOp (op 6), s := rdGroup (op 2) 4, d := wrReg 1 } ⟨0, 0, word (7 * 2 ^ 44)⟩ ∧ s.here.cellLive 7 = false ∧
     (s.reg 4).toNat = 0) ∧
    (Ready (regs [(2, 10), (4, 3)]) { t := .pop 12, s := rdGroup (op 2) 4, d := wrReg 1 } ⟨0, 10, 0⟩ ∧
      ((regs [(2, 10), (4, 3)]).reg 3).toInt ≤ (10 : Word).toInt) ∧
    (let s := withPkg (other 1 1952 .retired) (fun p => (p.setEntry (rid 0 0) { p.entry (rid 0 0) with holder := 2 }).setEntry 0x60000000
        { p.entry 0x60000000 with holder := 2 })
     (s.here.entry 0x60000000).holder = s.holder ∧ s.here.candidates 0 s.holder 128 = [] ∧
     Ready s { t := .pop 12, s := rdGroup (op 2) 4, d := wrReg 1 } ⟨0, 0, 0⟩) ∧
    ((base.here.candidates 0 base.holder 8)[0]? = some 0 ∧ (base.here.core 0).pickSlot = some 1 ∧ (base.here.core 0).fitWindow 8 = some 64) ∧
    (∀ q ∈ [cellReq .rd 0, cellReq .rd 0x1000, cellReq .rd 0x200000, cellReq .add 0, { cellReq .add 0 with amount := -1 }, cellReq .rd 0x100005,
        cellReq .add 0x100005],
      let p := (flying (celled 1 3 1) [.cellOp q]).pkg 0
      p.job 1 = some (.cellOp q) ∧ p.ownerLive q.owner = true ∧ p.cellLive 0 = true ∧ (p.cellAt 0).gen = 0 ∧ (p.cellAt 0).holder = p.coreHolder 0 ∧
      (p.cellAt 0).level = 3 ∧ (p.cellAt 0).live < 2 ^ 32 ∧ (p.cellAt 0).parent < 2 ^ 20 ∧ q.reg < (p.thread 0 0).len) := by
  repeat' apply And.intro
  all_goals decide +kernel

/-- Cell 7 of level 1 stands under cell 0, and slot 3 of core 0 under cell 7; slot 0 cancels cell 0. -/
def under (life : Life) (w : Wait) : State :=
  flying (withPkg (withCore (celled 1 2 1) (fun k => k.setThread 3 { Thread.freshIn 3 with life := life, wait := w, len := 8, base := 64, cell := some 7 }))
    (fun p => p.setCell 7 { Cell.fresh with used := true, holder := 1, level := 1, live := 1, parent := 0 })) [.cellOp (cellReq .cancel 0)]

theorem witness_Cancel :
    ∀ x ∈ [(Life.ready, Wait.none), (.parked, .source 11), (.parked, .fence 1 2), (.trapped, .none)],
      let p := (under x.1 x.2).pkg 0
      p.job 1 = some (.cellOp (cellReq .cancel 0)) ∧ p.ownerLive ⟨0, 0, 0⟩ = true ∧ p.cellLive 0 = true ∧ (p.cellAt 0).holder = p.coreHolder 0 ∧
      Claims.Under p 0 3 7 ∧ 7 ∈ p.cellIds ∧ (tget? p.cores 0).isSome = true ∧ (tget? (p.core 0).threads 3).isSome = true ∧
      (p.thread 0 3).cell = some 7 ∧ (p.thread 0 3).life = x.1 ∧ (p.thread 0 3).wait = x.2 ∧
      (x.1 ≠ .trapped → ∀ k ∈ p.cores, ∀ y ∈ k.2.threads, y.2.life ≠ .trapped) := by
  intro x hx
  simp only [List.mem_cons, List.not_mem_nil, or_false] at hx
  rcases hx with rfl | rfl | rfl | rfl <;> refine ⟨?_, ?_, ?_, ?_, .inl (.inl (.inr ⟨?_, ?_, ?_⟩)), ?_, ?_, ?_, ?_, ?_, ?_, ?_⟩
  all_goals first | exact (rfl : _ = _) | decide +kernel
/-- A grid of one tile of 4 by 4 FP32 cells with halos of width 1 in two periodic dimensions (R315 to R317). -/
def desc : List Word := [2 ^ 58, 0x100040004, 0x100010001, 0x100040004, 0x1111, 0, 0, 0]

/-- The tile bound in slot 0 of die 0 at 0x1000 of core 0, step 0 published, face registers at a step. -/
def tile (f : BitVec 32) : Bound := ⟨0, 0, 0x1000, 1, 0, (span 0 1 6).map (fun i => (i, f)), []⟩
def gridded (b : List Bound) : State := withPkg base (fun p => p.onGrid 0 0 (fun g => { g with desc := some desc, bound := b }))

/-- A delivery across face 0 of that tile. -/
def slab (st : SlabStage) (self : Bool) : Slab :=
  ⟨0, 0, 0, 0, 0, 1, self, false, st, [0x1000], Memory.empty, [0x1000], true, 0, 0, (0, 0), false, [], [], false⟩

theorem witness_GridsAndHalos :
    Desc.fault desc = none ∧
    (let s := (withPkg base (fun p => { p with mem := p.mem.write ((span 0 1 8).flatMap (fun i => bytesAt (0x1000 + 8 * i) ((desc[i]?).getD 0).toNat 8)) })).setReg 2 near
     Ready s { mem := true, s := rdOp (op 2), d := rwReg 1 } ⟨0, near, 0⟩ ∧ (near + 0).toNat % 8 = 0 ∧ Claims.slotHeld s 0 ∧ desc.length = 8 ∧
     (∀ i, i < 8 → ∃ pa, s.plainAddr (near + 0 + word (8 * i)) 8 { r := true } (300 + i) = .ok pa ∧
       (s.plainLoad pa 8 (10 + i)).bad = false ∧ word (s.plainLoad pa 8 (10 + i)).val = (desc[i]?).getD 0) ∧
     (s.here.grid 0 0).desc = none ∧ (gridded []).here.grid 0 0 ≠ Grid.fresh) ∧
    (let s := (gridded []).setReg 2 near
     Ready s { mem := true, t := .pop 12, s := rdOp (op 2), d := rwReg 1 } ⟨0, near, 0⟩ ∧ Claims.slotHeld s 0 ∧ near.toNat % 64 = 0 ∧
     s.xlate near.toNat { r := true, w := true } 1 = .ok 0x1000 ∧ s.here.place 0x1000 = .scratch 0 (0x1000 / 0x10000 % 8) ∧
     (s.here.grid 0 0).desc = some desc ∧ s.here.inPrivateSpan 0 0x1000 (Desc.size desc) = true ∧ (s.here.grid 0 0).tileOn 0 = none ∧
     (0 : Word).toNat % 2 ^ 32 < Desc.tiles desc ∧ Desc.tiles desc ≤ (1 : Word).toNat % 2 ^ 32) ∧
    (let s := gridded [tile 1]
     Ready s { s := rdOp (op 2), d := rdReg 1 } ⟨0, 0, 0⟩ ∧ Claims.slotHeld s 0 ∧ (s.here.grid 0 0).tileOn 0 = some (tile 1) ∧
     (s.here.grid 0 0).desc = some desc ∧ (∀ f, f < 2 * Desc.dims desc → atOrLater ((tile 1).face f) 1 = true) ∧
     Ready s { t := .pop 12, s := rdOp (op 2), d := rdReg 1 } ⟨0, 0, 0⟩ ∧ atOrLater ((tile 1).face 0) 2 = false ∧ 0 < Desc.halo desc 0 ∧
     Desc.halo desc 0 ≠ 0 ∧ 2 * Desc.dims desc ≤ (4 : Word).toNat % 8 ∧
     Ready s { t := .pop 12, s := rdOp (op 2), d := wrReg 1 } ⟨0, 0, 0⟩ ∧ (tile 1).published + 1 = 1 ∧ (0 : BitVec 32) ≠ (tile 1).published + 1 ∧
     s.here.flights = []) ∧
    (let s := (gridded [tile 1]).setReg 2 near
     Ready s { mem := true, t := .pop 12, s := rdOp (op 2), d := wrReg 1 } ⟨0, near, 0⟩ ∧ s.checkAddr (near + 4) (sizeBytes .w) { r := true } 1 = .ok 0x1004 ∧
     s.here.frameAt 0 0x1004 = some (0, tile 1, desc) ∧ (∀ f, f < 6 → Desc.classify desc 4 = some f → atOrLater ((tile 1).face f) 0 = true)) ∧
    ¬ Claims.slotHeld (withPkg base (fun p => p.setEntry 0x50000000 { p.entry 0x50000000 with holder := 2 })) 0 ∧
    (let s := flying (gridded [tile 1]) [.slab (slab .writing false)]
     let p := s.pkg 0
     p.job 1 = some (.slab (slab .writing false)) ∧ (p.grid 0 0).tileOn 0 = some (tile 1) ∧ (p.grid 0 0).desc = some desc ∧
     p.slabBefore 1 (slab .writing false) = false ∧ p.slotHolder (coreDie 0) 0 = p.slotHolder 0 0 ∧ atOrLater (tile 1).published (1 - 1) = true ∧
     p.awake 0 = true ∧ s.aniseAdmits 0 (slab .writing false) = true) ∧
    (let s := flying (gridded [tile 1]) [.slab (slab .writing true)]
     (s.pkg 0).job 1 = some (.slab (slab .writing true)) ∧ s.aniseAdmits 0 (slab .writing true) = true) ∧
    (let s := flying (gridded [tile 1]) [.slab (slab .setting true), .slab (slab .writing false), .slab { slab .reading false with core := 1 }]
     s.here.flights.all (fun e => match e.2 with
       | .slab x => decide (x.core = 0 → x.stage ≠ .placing ∧ x.stage ≠ .reading ∧ (x.self = true → x.stage = .writing → Desc.rule desc x.face = 1))
       | _ => true) = true) ∧
    (∀ stale ∈ [false, true],
      let ds := if stale then desc.set 0 (2 ^ 58 + 2 ^ 61) else desc
      let s := (withPkg (gridded [tile 1]) (fun p => p.onGrid 0 0 (fun g => { g with desc := some ds }))).setReg 2 near
      Desc.fault ds = none ∧ Desc.stale ds = stale ∧ s.here.frameAt 0 0x1018 = some (0, tile 1, ds) ∧ Desc.classify ds 0x18 = some 0 ∧
      atOrLater ((tile 1).face 0) 2 = false ∧ Ready (s.setReg 9 2) { mem := true, t := rdOp (op 9), s := rdOp (op 2), d := wrReg 1 } ⟨0, near, 2⟩) ∧
    (let p := (flying (gridded [{ tile 1 with core := 1 }]) [.slab { slab .writing false with core := 1 }]).pkg 0
     (p.grid 0 0).tileOn 1 = some { tile 1 with core := 1 } ∧ (p.grid (coreDie 0) 0).tileOn 0 = none ∧ (p.grid 0 0).err = false) := by
  repeat' apply And.intro
  all_goals (try unfold Claims.slotHeld)
  all_goals (try unfold Claims.Ready)
  all_goals (try decide +kernel)
  · intro i hi
    refine ⟨0x1000 + 8 * i, addr_ok ?_, ?_⟩
    · revert i; decide +kernel
    · revert i; decide +kernel
  · exact addr_ok (by decide +kernel)

/-- A grid slot of another holder, named where the other operands are ready and where T is a port that is not bound; faces that hold an earlier step; a slot
without a tile, and one without a grid; and a self-fill behind no other. -/
theorem witness_GridSlots :
    (let s := withPkg base (fun p => p.setEntry 0x50000000 { p.entry 0x50000000 with holder := 2 })
     ¬ Claims.slotHeld s 0 ∧ Ready s { mem := true, t := .pop 12, s := rdOp (op 2), d := rwReg 1 } ⟨0, 0, 0⟩ ∧ Ready s { s := rdOp (op 2), d := rdReg 1 } ⟨0, 0, 0⟩ ∧
     Ready s { t := .pop 12, s := rdOp (op 2), d := wrReg 1 } ⟨0, 0, 0⟩ ∧ Ready s { s := .imm 0, d := wrReg 1 } ⟨0, 0, 0⟩ ∧ Ready s { s := rdOp (op 2) } ⟨0, 0, 0⟩ ∧
     gate s { t := .pop 0, s := rdOp (op 2), d := rdReg 1 } = .trap .portUnbound 0 ∧ Claims.OperandTrap .portUnbound ∧ Holds s (rdReg 1) 0 = true ∧
     after (exec (.hwaitF 1 (op 2) (.stream 0)) s) = some (s.takeTrap .notHolder 0 0x50000000)) ∧
    (let s := (gridded [tile 1]).setReg 2 5
     Ready s { s := rdOp (op 2), d := rdReg 1 } ⟨0, 5, 0⟩ ∧ Ready s { t := .pop 12, s := rdOp (op 2), d := rdReg 1 } ⟨0, 5, 0⟩ ∧ Claims.slotHeld s 0 ∧
     0 < 2 * Desc.dims desc ∧ 0 < Desc.halo desc 0 ∧ atOrLater ((tile 1).face 0) 5 = false) ∧
    (Claims.slotHeld (gridded []) 0 ∧ ((gridded []).here.grid 0 0).tileOn 0 = none ∧ (base.here.grid 0 0).desc = none ∧
     (6 ≤ (7 : Word).toNat % 8 ∧ ((gridded []).here.grid 0 0).desc.isSome = true)) ∧
    ((flying (gridded [tile 1]) [.slab (slab .setting true)]).pkg 0).fillBefore 1 (slab .setting true) = false ∧
    ((flying (gridded [tile 1]) [.slab (slab .setting true), .slab (slab .setting true)]).pkg 0).fillBefore 2 (slab .setting true) = true := by
  repeat' apply And.intro
  all_goals (try unfold Claims.slotHeld)
  all_goals (try unfold Claims.OperandTrap)
  all_goals decide +kernel

/-- That grid with a fill rule on its first two faces (R322). -/
def ruled (r : Nat) : List Word := desc.set 4 (word (0x1111 + r * (2 ^ 24 + 2 ^ 27)))

/-- A line of step 1's plane holds cells that a delivery writes; under each rule a halo cell has the interior cell that stands for it. -/
theorem witness_Deliveries :
    ((Desc.edgeCells desc 0).zip (Desc.haloCells desc (opposite 0))).any (fun e => decide (lineOf (0x1000 + Desc.plane desc + e.2) = 0x10C0)) = true ∧
    (let x := { slab .writing false with toWrite := [0x10C0] }
     let s := flying (gridded [tile 1]) [.slab x]
     x.begun = true ∧ (s.pkg 0).slabBefore 1 x = false ∧ s.aniseAdmits 0 x = true ∧ (s.pkg 0).mem.wf = true) ∧
    (∀ st ∈ [SlabStage.placing, .reading, .setting], ((flying (gridded [tile 1]) [.slab (slab st true)]).pkg 0).job 1 = some (.slab (slab st true))) ∧
    (∀ r ∈ [1, 2, 3, 4], Desc.fault (ruled r) = none ∧ Desc.fmtOk (ruled r) = true ∧ Desc.rule (ruled r) 0 = r ∧ Desc.rule (ruled r) 1 = r ∧
      (0, 1, 0) ∈ Desc.slabBox (ruled r) 0 (Desc.haloStart (ruled r) 0) (Desc.halo (ruled r) 0) ∧
      (5, 1, 0) ∈ Desc.slabBox (ruled r) 1 (Desc.haloStart (ruled r) 1) (Desc.halo (ruled r) 1)) := by
  repeat' apply And.intro
  all_goals decide +kernel

/-- A delivery that has been written and sets the receiving face; a step that starts deliveries across the faces of a periodic grid, and self-fills on
the boundary of another. -/
theorem witness_FacesSet :
    (let x := { slab .setting false with toWrite := [] }
     let s := flying (gridded [tile 1]) [.slab x]
     (s.pkg 0).job 1 = some (.slab x) ∧ x.dstChip = 0 ∧ x.notice = false ∧ (s.pkg 0).slotHolder (coreDie x.dstCore) 0 = (s.pkg 0).slotHolder 0 0 ∧
     ((s.pkg 0).grid (coreDie x.dstCore) 0).tileOn x.dstCore = some (tile 1) ∧ ((s.pkg 0).grid (coreDie x.dstCore) 0).desc = some desc ∧
     (s.pkg 0).mem.wf = true ∧ s.here.flights.all (fun e => match e.2 with | .fe _ => false | _ => true) = true) ∧
    (∀ f < 4, Desc.boundary desc 0 f = false ∧ 0 < Desc.halo desc (opposite f) ∧ Desc.exchanges desc 0 1 = true) ∧
    (∀ f < 2, Desc.boundary (ruled 1) 0 f = true ∧ 0 < Desc.halo (ruled 1) f) := by decide +kernel

theorem mirrored_cells : ∀ r ∈ [1, 2, 3, 4], Claims.Mirrored (ruled r) 0 (0, 1, 0) (1, 1, 0) ∧ Claims.Mirrored (ruled r) 1 (5, 1, 0) (4, 1, 0) := by
  intro r hr
  simp only [List.mem_cons, List.not_mem_nil, or_false] at hr
  rcases hr with rfl | rfl | rfl | rfl <;> refine ⟨⟨?_, ?_⟩, ⟨?_, ?_⟩⟩ <;> decide +kernel

theorem witness_Budgets :
    (let s := regs [(1, 0x00010A0000200400)]
     Ready s { s := .imm 0, d := rdReg 1 } ⟨0x00010A0000200400, 0, 0⟩ ∧ (s.here.entry 0x90000000).holder = s.holder ∧
     (s.here.die 0).budgetMatch 0x00010A0000200400 = none) ∧
    (let s := withPkg (regs [(1, 0x00010A0000200400)]) (fun p => p.onDie 0 (fun d => { d with budget := [(3, 0x00010A0000200400)] }))
     (s.here.die 0).budgetMatch 0x00010A0000200400 = some 3 ∧ budgetBad 0x00010A0000200400 = false ∧
     (s.here.die 0).guarSum ((0x00010A0000200400 : Word).toNat / 2 ^ 46 % 4) 3 + (0x00010A0000200400 : Word).toNat % 2048 ≤ 1024 ∧
     risingFrom 0 (s.here.die 0).budget = true) ∧
    Ready base { s := .imm 31, d := wrReg 1 } ⟨0, 31, 0⟩ ∧
    (let s := withPkg base (fun p => p.setEntry 0x90000000 { p.entry 0x90000000 with holder := 2 })
     Ready s { s := .imm 31, d := wrReg 1 } ⟨0, 31, 0⟩ ∧ (s.here.entry 0x90000000).holder ≠ s.holder) ∧
    (let e (h : Nat) : Word := word (h * 2 ^ 48 + 0x0A0000200001)
     let s := withPkg base (fun p => p.onDie 0 (fun d => { d with budget := [(3, e 2), (4, e 3)] }))
     let full := withPkg base (fun p => p.onDie 0 (fun d => { d with budget := (span 0 1 32).map (fun i => (i, e (i + 2))) }))
     (tget (base.here.die 0).budget 0 0).toNat / 2 ^ 48 = 0 ∧ (base.here.die 0).guarSum 0 0 + 1024 ≤ 1024 ∧ budgetBad 0 = true ∧
     (s.here.die 0).budgetMatch 0x00010A0000200400 = none ∧
     (∀ i, i < 32 → 1024 < (s.here.die 0).guarSum ((0x00010A0000200400 : Word).toNat / 2 ^ 46 % 4) i + (0x00010A0000200400 : Word).toNat % 2048) ∧
     (full.here.die 0).budgetMatch 0x00010A0000200400 = none ∧ ∀ i, i < 32 → (tget (full.here.die 0).budget i 0).toNat / 2 ^ 48 ≠ 0) ∧
    (let s := withPkg base (fun p => p.setEntry 0x90000000 { p.entry 0x90000000 with holder := 2 })
     Ready s { s := .imm 0, d := rdReg 1 } ⟨0, 0, 0⟩ ∧ (s.here.entry (0x90000000 + 0)).holder ≠ s.holder) ∧
    base.here.phase = .running ∧ risingFrom 0 base.here.usage = true ∧ risingFrom 0 base.here.inForce = true ∧
    (let p := (withPkg base (fun p => { p.onDie (blockDie 1024) (fun d => { d with budget := [(3, 0x00010A0000200400 + word (blockAct 1024 * 2 ^ 46))] }) with
        inForce := [(1024 * 65536 + 1, 0x00010A0000200400), (1024 * 65536 + 2, 0x00010A0000200400)] })).here
     ((p.die (blockDie 1024)).budgetFor 1 (blockAct 1024)).isSome = true ∧ (p.die (blockDie 1024)).budgetFor 2 (blockAct 1024) = none ∧
     p.serves 1024 1 [1, 2] = true ∧ p.belowShare 1024 2 1024 0x00010A0000200400 = true) := by
  repeat' apply And.intro
  all_goals decide +kernel

theorem witness_TradeInstructions :
    base.me.pend = none ∧ Ready base { t := rdOp (op 3), s := rdOp (op 2), d := rwReg 1 } ⟨0, 0, 0⟩ ∧
    Ready base { mem := true, t := rdOp (op 3), s := rdOp (op 2), d := rwReg 1 } ⟨0, 0, 0⟩ ∧ Ready base { s := rdOp (op 2), d := rdReg 1 } ⟨0, 0, 0⟩ ∧
    Ready base { s := rdOp (op 2) } ⟨0, 0, 0⟩ ∧ Ready base { t := rdOp (op 3), s := rdOp (op 2) } ⟨0, 0, 0⟩ ∧
    Ready base { s := rdOp (op 2), d := wrGroup 2 3 } ⟨0, 0, 0⟩ ∧ Ready (regs [(2, far)]) { mem := true, s := rdOp (op 2), d := wrReg 1 } ⟨0, far, 0⟩ ∧
    base.here.covering (far + 8).toNat = some (0x10000000, 0x14000000000) ∧ base.here.covering 0x40000000 = none := by
  repeat' apply And.intro
  all_goals decide +kernel

/-- Tables of holder 1 for a page of 2^30 bytes at 0: a root, two levels under it, a leaf (R357). -/
def tables : State :=
  withPkg base (fun p => { p with
    roots := [(0, far)], holders := tset p.holders 1 ⟨1, 0, none, none, some 0, 0⟩,
    mem := p.mem.write (bytesAt far.toNat (far.toNat + 0x1001) 8 ++ bytesAt (far.toNat + 0x1000) (far.toNat + 0x2001) 8 ++
      bytesAt (far.toNat + 0x2000) 0x1000000003D 8) })

/-- A trade of core 5, by holder 1 from slot 0 of core 0; holder 2 has a record. -/
def trade (k : TradeKind) (d s : Word) : TradeReq := ⟨⟨0, 0, 0⟩, 1, k, d, s, 0, 7, 2⟩
def twoHolders (f : MapEntry → MapEntry) (r : Nat) (k : TradeReq) : State :=
  flying (withPkg base (fun p => ({ p with holders := tset p.holders 2 ⟨1, 1, none, none, none, 0⟩ } : Package).setEntry r (f (p.entry r)))) [.trade k]

theorem witness_TradesAndTransfers :
    (let p := (twoHolders id 5 (trade .give 5 2)).pkg 0
     Claims.AtMap p 1 (trade .give 5 2) ∧ ridExists 5 = true ∧ (p.entry 5).busy = false ∧ (p.entry 5).holder = 1 ∧ (p.entry 5).lender = 0 ∧
     (p.entry 5).pkind = 0 ∧ 2 ≠ (p.entry 5).holder ∧ p.holderRec 2 ≠ none ∧ p.holderRec 3 = none) ∧
    ((twoHolders (fun e => { e with pkind := 1, pend := 2 }) 0x40000005 (trade .give 0x40000005 1)).here.entry 0x40000005).pkind ≠ 0 ∧
    ((twoHolders (fun e => { e with busy := true }) 5 (trade .give 5 2)).here.entry 5).busy = true ∧ ridExists 0xB0000000 = false ∧
    ((twoHolders (fun e => { e with holder := 2 }) 5 (trade .lend 5 2)).here.entry 5).holder ≠ 1 ∧
    ((twoHolders id 5 (trade .accept 5 0)).here.entry 5).pkind = 0 ∧
    (∀ r ∈ [rid 0 5, 0x40000005], let p := (twoHolders (fun e => { e with holder := 2, pend := 1, pkind := 2 }) r (trade .accept (word r) 0)).pkg 0
     Claims.AtMap p 1 (trade .accept (word r) 0) ∧ (p.entry r).pkind ≠ 0 ∧ (p.entry r).pend = 1 ∧ (p.entry r).busy = false ∧ risingFrom 0 p.flights = true) ∧
    (let p := (twoHolders (fun e => { e with lender := 2 }) 0x40000005 (trade .returnLoan 0x40000005 0)).pkg 0
     Claims.AtMap p 1 (trade .returnLoan 0x40000005 0) ∧ (p.entry 0x40000005).holder = 1 ∧ (p.entry 0x40000005).lender ≠ 0) ∧
    (∀ k ∈ [TradeKind.reclaim, .reclaimB, .claim], let p := (twoHolders (fun e => { e with holder := 2, lender := 1 }) 0x40000005 (trade k 0x40000005 0)).pkg 0
     Claims.AtMap p 1 (trade k 0x40000005 0) ∧ (trade k 0x40000005 0).holder ≠ 0 ∧ (p.entry 0x40000005).lender = 1) ∧
    (let p := (twoHolders (fun e => { e with holder := 2, heir := 1 }) 0x40000005 (trade .claim 0x40000005 0)).pkg 0
     Claims.AtMap p 1 (trade .claim 0x40000005 0) ∧ (p.entry 0x40000005).holder ≠ 1 ∧ (p.entry 0x40000005).lender = 0 ∧
     (p.entry 0x40000005).heir = 1 ∧ (p.entry 0x40000005).busy = false) ∧
    ((twoHolders (fun e => { e with holder := 2 }) (rid 0 9) (trade .claim 0x40000005 0)).pkg 0).coreHolder 9 = 2 ∧
    (base.me.cancel = none ∧ (withMe base (fun t => { t with cancel := some 7 })).me.stopsOnTrap = true ∧
      (withMe base (fun t => { t with cancel := some 7, vec := 8 })).me.stopsOnTrap = false) := by
  unfold Claims.AtMap
  decide +kernel

/-- No core is held by a holder that has none. -/
theorem witness_NoCores :
    let p := (twoHolders (fun e => { e with holder := 2, heir := 1 }) 0x40000005 (trade .claim 0x40000005 0)).pkg 0
    ∀ c, c < 1024 → p.coreHolder c ≠ (p.entry 0x40000005).holder := by
  intro p c hc
  have h : ∀ e ∈ p.map, ridKind e.1 ≠ 0 := by decide +kernel
  have e2 : (p.entry 0x40000005).holder = 2 := by decide +kernel
  rw [e2]
  have : tget? p.map c = none := by
    have hm : p.map.all (fun e => decide (1024 ≤ e.1)) = true := by decide +kernel
    generalize p.map = m at hm
    induction m with
    | nil => rfl
    | cons a t ih =>
      obtain ⟨k, v⟩ := a
      simp only [List.all_cons, Bool.and_eq_true, decide_eq_true_eq] at hm
      have : c ≠ k := by omega
      simp [tget?, this, ih hm.2]
  have r : rid 0 c = c := by simp [rid]
  have k : ridKind c ≠ 1 := by simp only [ridKind]; omega
  simp [Package.coreHolder, Package.entry, tget, r, this, k]

/-- Transfers at their last step: of a kind without cores, of a region, of a core, and of a core that MINT passes; and a claim whose grace has passed. -/
theorem witness_TransfersEnd :
    (∀ r ∈ [0x40000005, 0x50000005, 0x70000005, 0x10000000, rid 0 5],
      let x : Transfer := ⟨r, 1, 2, 0, 0, 0, true, true, none, 0⟩
      let p := (flying base [.transfer x]).here
      p.job 1 = some (.transfer x) ∧ x.onward = 0 ∧ p.pieceUnder x.rid = false ∧ (p.core 5).outbox = [] ∧ (p.core 5).spilled = [] ∧
      p.started (clusterOf 5) = [] ∧ ∀ y ∈ p.map, ridKind y.1 = 1 → y.1 ≠ r → y.2.holder ≠ 2) ∧
    (let x : Transfer := ⟨rid 0 5, 1, 2, 0, 3, 0, true, true, some (0, 0x40, 16, 9, 7), 0⟩
     let p := (flying base [.transfer x]).here
     p.job 1 = some (.transfer x) ∧ (∀ u ∈ (p.core 5).threads, u.2.life = .free)) ∧
    (let c : Claim := ⟨0x40000005, 2, 9, ⟨0, 0, 0⟩, 1⟩
     (flying base [.claim c]).here.job 1 = some (.claim c) ∧ base.here.ownerLive c.owner = true) := by
  decide +kernel

theorem witness_MintCell :
    let x : Transfer := ⟨rid 0 5, 1, 2, 0, 3, 0, true, true, some (0, 0x40, 16, 9, 7), 0⟩
    ∃ i, (flying base [.transfer x]).here.freeCell (coreDie 5) ((flying base [.transfer x]).free 4) = some i :=
  some_cell _ _ _ (by decide +kernel)

/-- MINT: of another's core, with no record free, of a core with a live thread, and of an empty one; GIVE.s of a misaligned span, of one that no region
contains, of a whole region and of a part; DENY, HEIR and OWNQ. -/
theorem witness_MapJudgements :
    (let p := (twoHolders (fun e => { e with holder := 2 }) (rid 0 5) (trade .mint 5 0)).pkg 0
     Claims.AtMap p 1 (trade .mint 5 0) ∧ (p.entry 5).busy = false ∧ (p.entry 5).holder ≠ 1) ∧
    (let p := (twoHolders id (rid 0 5) (trade .mint 5 0)).pkg 0
     (p.entry 5).holder = 1 ∧ (p.entry 5).lender = 0 ∧ (p.entry 5).pkind = 0 ∧ p.holders.length < 4096 ∧ (p.core 5).threads = [] ∧
     p.holderRec 3 = none ∧ ∀ j, 2 ≤ j → j < 3 → p.holderRec j ≠ none) ∧
    (((twoHolders id 0 (trade .mint 0 0)).pkg 0).thread 0 0).life ≠ .free ∧
    4096 ≤ ((span 0 1 4096).map (fun h => (h, (⟨1, 0, none, none, none, 0⟩ : HolderRec)))).length ∧
    (let q : TradeReq := { trade .giveS far 2 with t := 12 }
     let p := (twoHolders id 0x10000000 q).pkg 0
     let e := p.entry 0x10000000
     Claims.AtMap p 1 q ∧ far.toNat % 2 ^ 12 = 0 ∧ (0x10000000, e) ∈ p.map ∧
     (∀ x ∈ p.map, x.2.base ≤ far.toNat → far.toNat + 2 ^ 12 ≤ x.2.base + 2 ^ x.2.log2 → x = (0x10000000, e)) ∧ e.holder = 1 ∧ e.busy = false ∧ e.base ≤ far.toNat ∧
     far.toNat + 2 ^ 12 ≤ e.base + 2 ^ e.log2 ∧ 12 < e.log2 ∧ e.lender = 0 ∧ e.pkind = 0 ∧ p.holderRec 2 ≠ none ∧
     e.log2 - 12 ≤ (p.freeRegions (ridIndex 0x10000000 / 4096) (e.log2 - 12)).length) ∧
    ((∀ z ∈ [5, 53], ¬ (6 ≤ z ∧ z ≤ 52)) ∧ (far + 1).toNat % 2 ^ 12 ≠ 0) ∧
    (let p := (twoHolders (fun e => { e with holder := 2 }) 0x10000000 { trade .lendS far 2 with t := 12 }).pkg 0
     ∀ x ∈ p.map, x.2.base ≤ far.toNat → far.toNat + 2 ^ 12 ≤ x.2.base + 2 ^ x.2.log2 → x.2.busy = false ∧ x.2.holder ≠ 1) ∧
    (let c : Claim := ⟨0x40000005, 2, 9, ⟨5, 0, 0⟩, 1⟩
     let s := flying (twoHolders (fun e => { e with busy := true }) 0x40000005 (trade .deny 0x40000005 0)) [.claim c]
     Claims.AtMap (s.pkg 0) 1 (trade .deny 0x40000005 0) ∧ (2, Job.claim c) ∈ (s.pkg 0).flights ∧ ((s.pkg 0).entry 0x40000005).holder = 1 ∧
     ridKind 0x40000005 ≠ 1 ∧ risingFrom 0 (s.pkg 0).flights = true ∧ ¬ (c.owner.core = 0 ∧ c.owner.slot = 0)) ∧
    (let p := (twoHolders id 0x40000005 (trade .heir 0xF0000000 2)).pkg 0
     Claims.AtMap p 1 (trade .heir 0xF0000000 2) ∧ p.holderRec 1 ≠ none ∧ p.named 1 = true ∧ ridExists 0x40000005 = true ∧
     (p.entry 0x40000005).holder = 1 ∧ (p.entry 0x40000005).lender = 0 ∧ ridKind 0x40000005 ≠ 1) ∧
    (let p := (twoHolders (fun e => { e with holder := 2, heir := 0 }) 0x40000005 (trade .ownq 0x40000005 0)).pkg 0
     Claims.AtMap p 1 (trade .ownq 0x40000005 0) ∧ ridExists 0x40000005 = true ∧ (p.entry 0x40000005).holder ≠ 1 ∧ (p.entry 0x40000005).pend ≠ 1 ∧
     (p.entry 0x40000005).lender ≠ 1 ∧ (p.entry 0x40000005).heir ≠ 1 ∧ (p.entry 5).holder = 1 ∧ ridExists 5 = true ∧ ridExists 0xB0000000 = false) := by
  unfold Claims.AtMap
  repeat' apply And.intro
  all_goals (try decide +kernel)

theorem witness_TranslationAndLimits :
    (tget? base.here.cores base.cur.core).isSome = true ∧ Ready base { mem := true, s := .imm 5, d := rdReg 1 } ⟨0, 5, 0⟩ ∧
    (base.here.entry (0x70000000 + 5)).holder = base.holder ∧
    ((withPkg base (fun p => p.setEntry 0x70000005 { p.entry 0x70000005 with holder := 2 })).here.entry (0x70000000 + 5)).holder ≠ 1 ∧
    (0xFFF : Word).toNat % 4096 ≠ 0 ∧ (far - 0x1000).toNat % 4096 = 0 ∧ base.here.place (far - 0x1000).toNat = .hbm ∧
    (base.here.holderRec base.holder).isSome = true ∧ Ready base {} ⟨0, 0, 0⟩ ∧ Ready base { mem := true, s := rdOp (op 2) } ⟨0, 0, 0⟩ ∧
    Ready base { s := rdOp (op 2) } ⟨0, 0, 0⟩ ∧ (flying base [.walk [0] 0x1000]).here.job 1 = some (.walk [0] 0x1000) ∧ (base.here.core 0).walked = [] ∧
    tables.here.walkTables (tables.here.coreHolder 0) 0x1000 (tables.free 5) = .page ⟨0, 2 ^ 30, 0x10000000000, true, true, true, none⟩ ∧
    ((flying base [.fill 0 0x1000 0x1000]).here.job 1 = some (.fill 0 0x1000 0x1000) ∧ base.here.gated 0 = false ∧
      base.here.inPrivate 0 0x1000 = true) := by
  repeat' apply And.intro
  all_goals decide +kernel
/-! ## Capabilities, the fabric, the host and power -/

/-- Word 1 of a capability that permits everything: a chip, the log2 of its size, holder 1. -/
def rights (chip log2 : Nat) : Word := word (chip * 2 ^ 44 + log2 * 2 ^ 38 + 0x3F * 2 ^ 32 + 2 ^ 16)

/-- Registers 2 and 3 hold a tagged capability for HBM of a chip. -/
def holding (chip : Nat) : State := withCore (regs [(2, far), (3, rights chip 40)]) (fun k => k.setPairTag base.me 2 true)

/-- A torus of two chips, both running, with packets. -/
def two (s : State) (ks : List Packet) : State :=
  { s with extents := [2, 1, 1, 1], chips := [(0, s.here), (1, base.here)], packets := (span 1 1 ks.length).zip ks, nextPacket := 100 }

theorem witness_Capabilities :
    (let s := regs [(2, far), (4, rights 0 40)]
     Ready s { mem := true, t := rdOp (op 4), s := rdOp (op 2), d := wrGroup 6 2 } ⟨0, far, rights 0 40⟩ ∧
     s.xlate far.toNat {} 1 = .ok far.toNat ∧ s.here.grantOf far.toNat = some (s.here.entry 0x10000000) ∧
     (s.here.entry 0x10000000).gen < 2 ^ 16 ∧ s.holder < 2 ^ 16 ∧ s.cur.chip < 2 ^ 20 ∧
     6 ≤ (rights 0 40).toNat / 2 ^ 38 % 64 ∧ (rights 0 40).toNat / 2 ^ 38 % 64 ≤ 57) ∧
    (let s := regs [(2, far), (4, rights 0 5)]
     Ready s { mem := true, t := rdOp (op 4), s := rdOp (op 2), d := wrGroup 6 2 } ⟨0, far, rights 0 5⟩ ∧ (rights 0 5).toNat / 2 ^ 38 % 64 = 5) ∧
    (base.xlate 0x40000000000 {} 1 = .ok 0x40000000000 ∧ base.here.grantOf 0x40000000000 = none) ∧
    (Ready (holding 0) { t := rdOp (op 4), s := rdGroup (op 2) 2, d := wrGroup 6 2 } ⟨0, far, 0⟩ ∧
      Ready (holding 0) { s := rdGroup (op 2) 2, d := wrReg 6 } ⟨0, far, 0⟩) := by
  repeat' apply And.intro
  all_goals decide +kernel

theorem witness_RemoteAccesses :
    (let s := holding 1
     Ready s { mem := true, s := rdGroup (op 2) 2, d := rdReg 6 } ⟨0, far, 0⟩ ∧ Claims.Permits (s.cap 2) 36 (far + 8) 8 ∧
     Ready s { mem := true, t := rdOp (op 7), s := rdGroup (op 2) 2, d := rdReg 6 } ⟨0, far, 0⟩ ∧ Claims.Permits (s.cap 2) 36 (far + 16) 16 ∧
     Ready s { mem := true, s := rdGroup (op 2) 2, d := rwGroup 6 2 } ⟨0, far, 0⟩ ∧ Claims.Permits (s.cap 2) 35 (far + 8) 8 ∧
     Claims.Permits (s.cap 2) 35 (far + 4) 4 ∧ Ready s { mem := true, t := rdOp (op 8), s := rdGroup (op 2) 2, d := rwGroup 6 2 } ⟨0, far, 0⟩) ∧
    (let s := regs [(2, far), (3, rights 1 40)]
     Ready s { mem := true, s := rdGroup (op 2) 2, d := rdReg 6 } ⟨0, far, 0⟩ ∧ (far + 8).toNat % sizeBytes .d = 0 ∧
     ¬ Claims.Permits (s.cap 2) 36 (far + 8) 8 ∧
     Ready s { mem := true, t := rdOp (op 7), s := rdGroup (op 2) 2, d := rdReg 6 } ⟨0, far, 0⟩ ∧ (far + 16).toNat % 16 = 0 ∧
     ¬ Claims.Permits (s.cap 2) 36 (far + 16) 16 ∧ Ready s { mem := true, s := rdGroup (op 2) 2, d := rwGroup 6 2 } ⟨0, far, 0⟩ ∧
     Ready s { mem := true, t := rdOp (op 8), s := rdGroup (op 2) 2, d := rwGroup 6 2 } ⟨0, far, 0⟩ ∧
     ¬ Claims.Permits (s.cap 2) 35 (far + 8) 8 ∧ (far + 4).toNat % 4 = 0 ∧ ¬ Claims.Permits (s.cap 2) 35 (far + 4) 4 ∧
     Ready s { mem := true, s := rdGroup (op 2) 2, d := wrReg 6 } ⟨0, far, 0⟩ ∧ ¬ Claims.Permits (s.cap 2) 37 (far + 8) 8 ∧
     Ready s { mem := true, t := wrReg 7, s := rdGroup (op 2) 2, d := wrReg 6 } ⟨0, far, 0⟩ ∧ ¬ Claims.Permits (s.cap 2) 37 (far + 16) 16) ∧
    (let s := holding 1
     (far + 2).toNat % 4 ≠ 0 ∧ (far + 4).toNat % 8 ≠ 0 ∧ (far + 8).toNat % 16 ≠ 0 ∧ Ready s { mem := true, s := rdGroup (op 2) 2, d := wrReg 6 } ⟨0, far, 0⟩ ∧
     Ready s { mem := true, t := wrReg 7, s := rdGroup (op 2) 2, d := wrReg 6 } ⟨0, far, 0⟩) ∧
    (let s := two (holding 1) []
     capChip (s.cap 2).w1 = 1 ∧ (1 : Nat) ≠ s.cur.chip ∧ (s.cap 2).w1.getLsbD 34 = true ∧ Claims.Permits (s.cap 2) 37 (far + 8) 8 ∧
     Claims.Permits (s.cap 2) 37 (far + 16) 16 ∧ s.cur.slot ≠ 63 ∧ s.me.pair = none ∧ 32 < s.me.len ∧
     Ready s { mem := true, s := rdGroup (op 2) 2, d := wrReg 6 } ⟨0, far, 0⟩) ∧
    (let s := withMe (two (holding 1) []) (fun t => { t with pair := some 0 })
     s.me.pair ≠ none ∧ Ready s { mem := true, s := rdGroup (op 2) 2, d := wrReg 6 } ⟨0, far, 0⟩) ∧
    (let s := withMe (two (holding 1) []) (fun t => { t with len := 32 })
     Ready s { mem := true, s := rdGroup (op 2) 2, d := wrReg 6 } ⟨0, far, 0⟩ ∧ s.cur.slot ≠ 63 ∧ s.me.pair = none ∧ s.me.len ≤ 32 ∧
     s.owes s.cur.chip s.owner = false ∧ s.onTorus 1 = true ∧ s.route false s.cur.chip 1 = some 0 ∧ s.ringRoom s.cur.chip 0 2 = true ∧
     s.unitServes s.cur.chip 0 s.holder = true) ∧
    (let s := regs [(2, far), (3, rights 1 40 - word (2 ^ 34))]
     capChip (s.cap 2).w1 ≠ s.cur.chip ∧ (s.cap 2).w1.getLsbD 34 = false) ∧
    (let s := withCore (regs [(2, far), (3, rights 0 40 + 1)]) (fun k => k.setPairTag base.me 2 true)
     capChip (s.cap 2).w1 = s.cur.chip ∧ s.here.gated s.cur.core = false ∧ Claims.Permits (s.cap 2) 37 (far + 8) 8 ∧
     s.here.target (s.cap 2).w1 (far + 8).toNat 8 (s.free 9) { r := true } = none ∧
     s.here.target (s.cap 2).w1 (far + 16).toNat 16 (s.free 9) { r := true } = none) ∧
    (let s := holding 0
     capChip (s.cap 2).w1 = s.cur.chip ∧ s.here.gated s.cur.core = false ∧
     Ready s { mem := true, s := rdGroup (op 2) 2, d := wrReg 6 } ⟨0, far, 0⟩ ∧ Claims.Permits (s.cap 2) 37 (far + 8) 8 ∧
     s.here.target (s.cap 2).w1 (far + 8).toNat 8 (s.free 9) { r := true } = some (far + 8).toNat ∧
     Ready s { mem := true, t := wrReg 7, s := rdGroup (op 2) 2, d := wrReg 6 } ⟨0, far, 0⟩ ∧ Claims.Permits (s.cap 2) 37 far 16 ∧
     s.here.target (s.cap 2).w1 far.toNat 16 (s.free 9) { r := true } = some far.toNat) := by
  repeat' apply And.intro
  all_goals (try unfold Claims.Permits)
  all_goals decide +kernel
/-- A packet of holder 1 and slot 0 of core 0 from one chip to another. -/
def pkt (src dst : Nat) (l : Load) : Packet := { Packet.of src dst 1 l with addr := far, cap1 := rights dst 40 }

/-- A thread of 32 registers whose home is core 0 of a chip. -/
def guest (chip : Nat) : Thread := { Thread.fresh with life := .ready, len := 32, home := some ⟨chip, 0, 1⟩ }

/-- Multicast group 5 with members: handler 3 of core 9 of chip 0, and of core 10 of chip 1. -/
def member : Word := word (9 * 2 ^ 34 + 3 * 2 ^ 28 + 1)
def member1 : Word := word (2 ^ 44 + 10 * 2 ^ 34 + 3 * 2 ^ 28 + 1)
def grouped (ms : List Word) : State :=
  withPkg base (fun p => { p with groups := tset p.groups 5 (0 :: 0 :: ms ++ List.replicate (14 - ms.length) 0) })

theorem witness_FabricControl :
    (let s := two (holding 1) []
     Ready s { mem := true, t := rdOp (op 7), s := rdGroup (op 2) 2, d := wrReg 6 } ⟨0, far, 0⟩ ∧ Claims.Permits (s.cap 2) 36 (s.cap 2).w0 8 ∧
     s.covering 1 = false ∧ (s.me.cover 1).failed = none ∧ s.onTorus 1 = true ∧
     s.mayRequest 1 = true) ∧
    (let s := two (holding 1) [pkt 0 1 (.store [1] false)]
     Ready s { mem := true, t := rdOp (op 7), s := rdGroup (op 2) 2, d := wrReg 6 } ⟨0, far, 0⟩ ∧ Claims.Permits (s.cap 2) 36 (s.cap 2).w0 8 ∧
     s.covering 1 = true) ∧
    (let s := two (holding 1) [{ pkt 1 0 (.store [1] false) with owner := ⟨7, 3, 2⟩ }]
     s.covering 0 = false ∧ (withMe s (fun t => { t with former := [(1, ⟨7, 3, 2⟩)] })).covering 0 = true) ∧
    ((withMe (two (holding 1) []) (fun t => t.setCover 1 ⟨[], some 5⟩)).me.cover 1).failed = some 5 ∧
    (Ready base {} ⟨0, 0, 0⟩ ∧ base.me.home = none) ∧
    (let s := withMe (two base []) (fun t => { t with home := some ⟨1, 0, 1⟩, len := 32 })
     Ready s {} ⟨0, 0, 0⟩ ∧ s.me.home = some ⟨1, 0, 1⟩ ∧ (1 : Nat) ≠ s.cur.chip ∧ s.cur.slot ≠ 63 ∧ s.me.pair = none ∧ s.me.len ≤ 32 ∧
     s.owes s.cur.chip s.owner = false ∧ s.onTorus 1 = true ∧ s.route false s.cur.chip 1 = some 0 ∧ s.ringRoom s.cur.chip 0 2 = true ∧
     s.unitServes s.cur.chip 0 s.holder = true) ∧
    (let s := withMe (two base []) (fun t => { t with home := some ⟨1, 0, 1⟩ })
     Ready s {} ⟨0, 0, 0⟩ ∧ s.me.home = some ⟨1, 0, 1⟩ ∧ s.me.pair = none ∧ 32 < s.me.len) ∧
    (let s := withMe (two base []) (fun t => { t with home := some ⟨1, 0, 1⟩, pair := some 0 })
     Ready s {} ⟨0, 0, 0⟩ ∧ s.me.home = some ⟨1, 0, 1⟩ ∧ s.me.pair ≠ none) ∧
    (let s := withPkg base (fun p => p.setEntry 0x40000005 { p.entry 0x40000005 with holder := 2 })
     Ready s { s := rdGroup (op 2) 2, d := rdReg 1 } ⟨0, 0, 0⟩ ∧ (s.here.entry (0x40000000 + 5)).holder ≠ s.holder ∧
     Ready s { mem := true, s := rdOp (op 2), d := rwReg 1 } ⟨0, 0, 0⟩) ∧
    (let s := grouped [member]
     Ready s { s := rdGroup (op 2) 2, d := rdReg 1 } ⟨0, 0, 0⟩ ∧ members (s.here.group 0) = [] ∧ members (s.here.group 5) = [(1, member)] ∧
     s.msgRefused 1 = false ∧ member.toNat / 2 ^ 44 = s.cur.chip ∧ (s.here.entry (0x40000000 + 5)).holder = s.holder) ∧
    (let s := two (grouped [member, member1]) []
     Ready s { s := rdGroup (op 2) 2, d := rdReg 1 } ⟨0, 0, 0⟩ ∧ members (s.here.group 5) = [(1, member), (2, member1)] ∧
     (match s.mcastTo 5 (s.cap 2) with | .ok _ => true | .error _ => false) = true ∧ member1.toNat / 2 ^ 44 ≠ s.cur.chip ∧ s.onTorus 1 = true) ∧
    (let s := withPkg (two (grouped [member, member1]) []) (fun p => { p with src := [(8, ⟨64, false, 1, List.replicate 64 ⟨0, 1, 0⟩⟩)] })
     (match s.mcastTo 5 (s.cap 2) with | .error (some 1) => true | _ => false) = true) ∧
    (let s := flying (grouped [member]) (List.replicate 16 (.msg { msg 0 with inject := true }))
     (match s.mcastTo 5 (s.cap 2) with | .error none => true | _ => false) = true) ∧
    (let s := regs [(2, near)]
     Ready s { mem := true, s := rdOp (op 2), d := rwReg 1 } ⟨0, near, 0⟩ ∧ (s.here.entry (0x40000000 + 0)).holder = s.holder ∧ near.toNat % 8 = 0 ∧
     ∀ i, i < 16 → ∃ pa, s.plainAddr (near + word (8 * i)) 8 { r := true } (300 + i) = .ok pa ∧
       (s.plainLoad pa 8 (10 + i)).bad = false ∧ word (s.plainLoad pa 8 (10 + i)).val = ((List.replicate 16 (0 : Word))[i]?).getD 0) ∧
    (Ready base { s := rdGroup (op 2) 3, d := rdReg 1 } ⟨0, 0, 0⟩ ∧ (base.here.entry (0x80000000 + 0)).holder = base.holder) ∧
    ((withPkg base (fun p => p.setEntry 0x80000000 { p.entry 0x80000000 with holder := 2 })).here.entry (0x80000000 + 0)).holder ≠ 1 := by
  repeat' apply And.intro
  all_goals first
    | decide +kernel
    | (intro i hi
       refine ⟨0x1000 + 8 * i, addr_ok ?_, ?_⟩
       · revert i; decide +kernel
       · revert i; decide +kernel)

/-- R328, R444: a thread whose holder's ceiling at the port toward its home, or toward its load's chip, is nothing; and one that a load is still on its way to. -/
theorem witness_MustWait :
    (let s := withPkg (withMe (two (holding 1) []) (fun t => { t with home := some ⟨1, 0, 1⟩, len := 32 })) (fun p =>
        { p with inForce := [(blockFabric 0 * 65536 + 1, 0)] })
     Ready s {} ⟨0, 0, 0⟩ ∧ Ready s { mem := true, s := rdGroup (op 2) 2, d := wrReg 6 } ⟨0, far, 0⟩ ∧ s.cur.slot ≠ 63 ∧ s.me.pair = none ∧ s.me.len ≤ 32 ∧
     s.owes s.cur.chip s.owner = false ∧ s.onTorus 1 = true ∧ s.route false s.cur.chip 1 = some 0 ∧ s.unitServes s.cur.chip 0 s.holder = false) ∧
    (let s := flying (withMe (two (holding 1) []) (fun t => { t with home := some ⟨1, 0, 1⟩, len := 32 })) [.result ⟨0, 0, 0⟩ (.regs [⟨1, 2, false, false⟩])]
     Ready s {} ⟨0, 0, 0⟩ ∧ s.owes s.cur.chip s.owner = true) ∧
    (let s := committing (holding 0)
     capChip (s.cap 2).w1 = s.cur.chip ∧ s.here.gated s.cur.core = true ∧ Claims.Permits (s.cap 2) 37 (far + 8) 8 ∧ Claims.Permits (s.cap 2) 37 far 16 ∧
     Ready s { mem := true, s := rdGroup (op 2) 2, d := wrReg 6 } ⟨0, far, 0⟩ ∧ Ready s { mem := true, t := wrReg 7, s := rdGroup (op 2) 2, d := wrReg 6 } ⟨0, far, 0⟩) := by
  repeat' apply And.intro
  all_goals decide +kernel

/-- A request copy that has arrived at chip 1, the first of its stream. -/
def came (l : Load) : Packet := { pkt 0 1 l with original := some 9, here := 1, opens := true, stream := 9, launched := true }

/-- Packets that may go on, by the link's state; links down and up; streams with and without what is outstanding. -/
theorem witness_FabricTransport :
    (let k := { pkt 0 1 (.store [1] false) with original := some 2, launched := true }
     let s := two base [k]
     tget? s.packets 1 = some k ∧ (s.pkg k.here).routes = true ∧ (k.load.class_ ≠ 0 ∨ k.original ≠ none) ∧ k.here ≠ k.dst ∧
     s.route (decide (k.load.class_ = 1)) k.here k.dst = some 0 ∧ k.load.class_ ≠ 2 ∧ 0 ∉ (s.pkg k.here).linksDown ∧ s.mayHop k 0 = true ∧
     (∀ e ∈ s.packets, e.2 = k) ∧
     k.load.class_ = 0 ∧ k.original = some 2 ∧ 0 ∈ ((withPkg s (fun p => { p with linksDown := [0] })).pkg k.here).linksDown) ∧
    (let k := pkt 0 1 (.store [1] false)
     let s := two base [k]
     tget? s.packets 1 = some k ∧ k.load.class_ = 0 ∧ k.original = none ∧ k.launched = false ∧ k.dst ≠ k.src ∧ k.here = k.src ∧
     k.unit ∉ (s.pkg k.src).linksDown ∧ s.mayHop { k with via := none } k.unit = true ∧ (∀ e ∈ s.packets, e.2 = k) ∧ (1 : Nat) ≠ s.nextPacket) ∧
    (let k := { pkt 0 1 (.migrate (guest 0) [] 5 false (3, 0)) with launched := true }
     let s := withPkg (two base [k]) (fun p => p.setThread 3 0 { Thread.fresh with life := .migrating, gen := 0 })
     tget? s.packets 1 = some k ∧ (s.pkg k.here).routes = true ∧ k.load.class_ = 2 ∧ k.here ≠ k.dst ∧
     s.route (decide (k.load.class_ = 1)) k.here k.dst = some 0 ∧ 0 ∉ (s.pkg k.here).linksDown ∧ s.mayHop k 0 = true ∧ (∀ e ∈ s.packets, e.2 = k) ∧
     k.via = none ∧ s.leaving { k with load := .migrate (guest 0) [] (handleOf 0 3 0) false (3, 0) } = true ∧
     0 ∈ ((withPkg s (fun p => { p with linksDown := [0] })).pkg k.here).linksDown) ∧
    (let s := withPkg (two base []) (fun p => { p with replays := [(0, 16)] })
     0 ∉ (s.pkg 0).linksDown ∧ tget (s.pkg 0).replays 0 0 = 16 ∧ (s.pkg 0).routes = true) ∧
    (let s := withPkg (two base []) (fun p => { p with linksDown := [0] })
     0 ∈ (s.pkg 0).linksDown ∧ srisingFrom 0 (s.pkg 0).linksDown = true ∧ srisingFrom 0 (s.pkg (s.neighbour 0 0)).linksDown = true) ∧
    (∀ tries ∈ [0, 7],
      let k := { pkt 0 1 (.store [1] false) with launched := true }
      let s := withPkg (two base [k]) (fun p => { p with src := [(8, ⟨1, false, 1, [⟨0, 1, tries⟩]⟩)] })
      (s.pkg 0).phase = .running ∧ ((s.pkg 0).srcStream 1 0).out.find? (fun o => decide (o.seq = 0)) = some ⟨0, 1, tries⟩ ∧
      tget? s.packets 1 = some k ∧ k.launched = true ∧ risingFrom 0 s.packets = true) ∧
    (let s := withPkg (two base []) (fun p => { p with src := [(8, ⟨1, false, 1, []⟩)] })
     ((s.pkg 0).srcStream 1 0).fresh = false ∧ ((s.pkg 0).srcStream 1 0).out = [] ∧ s.streamBusy 0 0 1 = false) ∧
    (let s := withPkg (two base []) (fun p => { p with tgt := [(8, ⟨1, 0, []⟩)] })
     ((s.pkg 1).srcStream 0 0).fresh = true ∧ (tget? (s.pkg 0).tgt (streamKey 1 0)).isSome = true ∧ s.streamBusy 1 0 0 = false ∧
     risingFrom 0 (s.pkg 0).tgt = true) := by
  repeat' apply And.intro
  all_goals decide +kernel

/-- Requests of every kind that are next in their stream at their target, one refused there, one that has been performed, and one that has been
refused. -/
theorem witness_FabricArrivals :
    (∀ l ∈ [Load.store [1, 2] false, .amo .add true 1 0, .posted .add 1, .fence 1 [], .mcast (Msg.plain 0 5 0 []), .portValue ⟨⟨0, 0, 0⟩, 0, 0, 0, 0, 7⟩,
        .portBind ⟨⟨0, 0, 0⟩, 1, 0, 0, 0, 0, false⟩, .portNews ⟨⟨0, 0, 0⟩, 0, 0, 0, false⟩, .notice 0 0 0 1 5],
      let s := two base [came l]
      tget? s.packets 1 = some (came l) ∧ (came l).original = some 9 ∧ (came l).here = (came l).dst ∧ (s.pkg 1).phase = .running ∧
      s.standing (came l) = .perform) ∧
    (let k := came (.store [1, 2] false)
     let s := two base [k]
     s.targetOf k 2 { w := true } = some far.toNat ∧ s.targetOf k 4 { r := true, w := true } = some far.toNat ∧
     s.targetOf k 8 { r := true, w := true } = some far.toNat ∧ s.targetOf k 8 { w := true } = some far.toNat ∧
     s.targetOf { k with cap1 := k.cap1 + 1 } 2 { w := true } = none ∧ s.targetOf { k with cap1 := k.cap1 + 1 } 8 { r := true, w := true } = none ∧
     s.targetOf { k with cap1 := k.cap1 + 1 } 8 { w := true } = none ∧
     (s.pkg 1).awakeAt far.toNat = true ∧ (s.pkg 1).mem.wf = true ∧ (s.pkg 1).flights = [] ∧ (s.pkg 1).awake 0 = true) ∧
    (let s := { two base [came (.notice 0 0 0 1 5)] with chips := [(0, base.here), (1, (gridded [tile 1]).here)] }
     s.standing (came (.notice 0 0 0 1 5)) = .perform ∧ ((s.pkg 1).grid 0 0).tileOn 0 = some (tile 1)) ∧
    (let bound : Thread := base.me.setPort 0 { (base.me.port 0) with st := .bound, peerChip := 0, peer := handleOf 0 0 0 }
     let q := (base.here.onCore 0 (fun k => k.setThread 0 bound))
     let s := { two base [came (.portValue ⟨⟨0, 0, 0⟩, 0, 0, base.me.gen, 0, 7⟩)] with chips := [(0, base.here), (1, q)] }
     ((s.pkg 1).thread 0 0).live = true ∧ ((s.pkg 1).thread 0 0).gen = base.me.gen ∧ (((s.pkg 1).thread 0 0).port 0).st = .bound ∧
     (((s.pkg 1).thread 0 0).port 0).peerChip = 0 ∧ (((s.pkg 1).thread 0 0).port 0).peer = handleOf 0 0 0) ∧
    (∀ refused ∈ [[], [0]], ∀ l ∈ [Load.store [1] false, .amo .add true 1 0, .posted .add 1, .fence 1 [], .mcast (Msg.plain 0 5 0 []),
        .portValue ⟨⟨0, 0, 0⟩, 0, 0, 0, 0, 7⟩, .portBind ⟨⟨0, 0, 0⟩, 1, 0, 0, 0, 0, false⟩, .portNews ⟨⟨0, 0, 0⟩, 0, 0, 0, false⟩,
        .notice 0 0 0 1 5],
      let s := { two base [came l] with chips := [(0, base.here), (1, { base.here with tgt := [(0, ⟨9, 1, refused⟩)] })] }
      s.standing (came l) = .duplicate ∧ ((s.pkg 1).tgtStream (came l).src (came l).unit).refused = refused ∧
      (s.pkg 1).recall (came l).src (came l).unit (came l).seq = none) ∧
    (base.here.remember ⟨0, 0, 0, 5, false, 0⟩).recall 0 0 0 = some ⟨0, 0, 0, 5, false, 0⟩ := by
  repeat' apply And.intro
  all_goals decide +kernel

/-- Pool 0 over the whole die mesh, which admits holder 1. -/
def pooled : State := withPkg base (fun p => { p with pools := [(0, (0, 1, 0))] })

theorem witness_FabricAnswersAndThreads :
    (let h := { pkt 0 1 (.amo .add true 1 0) with launched := true }
     let k := { pkt 1 0 (.reply 5 false 0) with here := 0, original := some 1 }
     let s := two base [h, k]
     tget? s.packets 2 = some k ∧ (s.pkg k.dst).phase = .running ∧ k.here = k.dst ∧ k.original = some 1 ∧ tget? s.packets 1 = some h ∧
     h.slab = none ∧ h.load = .amo .add true 1 0 ∧ risingFrom 0 s.packets = true) ∧
    (let k := { pkt 1 0 (.ack 6) with here := 0, original := some 1 }
     let s := two base [pkt 0 1 (.store [1] false), k]
     tget? s.packets 2 = some k ∧ k.here = k.dst ∧ tget? s.packets 1 = some (pkt 0 1 (.store [1] false))) ∧
    (∀ l ∈ [Load.ack 0, .ack 6, .reply 0 false 5],
      let h := { pkt 0 1 (.fence 9 []) with launched := true, owner := ⟨0, 0, 0⟩, reg := 3 }
      let k := { pkt 1 0 l with here := 0, original := some 1 }
      let s := withMe (two base [h, k]) (fun t => { t with life := .parked, reason := some .fence, wait := .fence 1 2 })
      tget? s.packets 2 = some k ∧ k.here = k.dst ∧ tget? s.packets 1 = some h ∧ h.slab = none ∧ s.performed h = false ∧
      ((s.pkg h.src).thread 0 0).wait = .fence 1 2 ∧ (s.pkg h.src).ownerLive h.owner = true ∧ h.reg < ((s.pkg h.src).thread 0 0).len) ∧
    (let k := { pkt 1 0 (.migrate (guest 0) (List.replicate 32 RegCell.fresh) 5 true (3, 0)) with here := 0 }
     let s := two base [k]
     tget? s.packets 1 = some k ∧ k.arrived = true ∧ (guest 0).home = some ⟨0, 0, 1⟩ ∧ (s.pkg k.dst).coreHolder 0 = 1 ∧
     (s.pkg k.dst).mayHost (guest 0).len 0 = true ∧ (s.pkg k.dst).awake 0 = true ∧ ((s.pkg k.dst).core 0).pickSlot = some 1 ∧
     ((s.pkg k.dst).core 0).fitWindow (guest 0).len = some 64 ∧ (List.replicate 32 RegCell.fresh).length = (guest 0).len) ∧
    (let k := { pkt 1 0 (.migrate (guest 1) (List.replicate 32 RegCell.fresh) 5 false (3, 0)) with here := 0 }
     let s := two pooled [k]
     tget? s.packets 1 = some k ∧ k.arrived = true ∧ s.admissible k (guest 1) false = some 0 ∧ (s.pkg k.dst).poolCores 0 = [0] ∧
     (s.pkg k.dst).mayHost (guest 1).len 0 = true) ∧
    (let k := { pkt 1 0 (.migrate (guest 1) [] 5 false (3, 0)) with here := 0 }
     let s := two base [k]
     tget? s.packets 1 = some k ∧ k.arrived = true ∧ s.admissible k (guest 1) false = none) ∧
    (let k := { pkt 0 0 (.migrate (guest 0) [] 5 false (3, 0)) with launched := true }
     let s := two base [k]
     tget? s.packets 1 = some k ∧ k.here = k.src ∧ k.dst = k.src ∧ ((s.pkg k.src).thread 3 0).life ≠ .migrating ∧
     (s.pkg k.src).coreHolder 3 = k.holder ∧ (s.pkg k.src).mayHost (guest 0).len 3 = true ∧ (s.pkg k.src).awake 3 = true ∧
     firstIn 0 63 ((s.pkg k.src).core 3).slotFree = some 0 ∧ ((s.pkg k.src).core 3).fitWindow (guest 0).len = some 0) := by
  repeat' apply And.intro
  all_goals decide +kernel
/-- Ring 3, bound to function 0 of holder 1, with its control block at HBM and an open sample. -/
def ringed : State :=
  withPkg base (fun p => ({ p with mem := p.mem.write [(far.toNat, 1)] } : Package).setRing 3
    ⟨0, far.toNat, some ⟨far.toNat + 0x1000, 4, 0, 1, 5⟩, 2, false, false, true⟩)

/-- A packet of ring 3 taken, with its first bytes. -/
def taken (bytes : List Byte) : HostPacket :=
  ⟨3, 1, bytes ++ List.replicate (64 - bytes.length) 0, 0, none, false, 0, none, false, none⟩

/-- Ring 3 with a control block of eight words at HBM, whose third is given; a doorbell has come. -/
def sampled (w2 : Nat) (b : Option RingBlock) : State :=
  withPkg base (fun p => ({ p with mem := p.mem.write (bytesAt (far.toNat + 8) (far.toNat + 0x1000) 8 ++ bytesAt (far.toNat + 16) w2 8 ++
    bytesAt (far.toNat + 24) 5 8 ++ bytesAt (far.toNat + 40) 1 8) } : Package).setRing 3 ⟨0, far.toNat, b, 2, false, false, true⟩)

theorem witness_HostWrites :
    (base.pkg 0).hostUp = true ∧ (base.pkg 0).mayWriteRing 0 3 = true ∧
    ((withPkg base (fun p => p.setEntry 0x20000003 { p.entry 0x20000003 with holder := 2 })).pkg 0).mayWriteRing 0 3 = false ∧
    ((ringed.pkg 0).hostUp = true ∧ (ringed.pkg 0).mayWriteRing 0 3 = true ∧ ((ringed.pkg 0).ring 3).cbptr ≠ 0 ∧
      ((ringed.pkg 0).mem.word ((ringed.pkg 0).ring 3).cbptr).getLsbD 0 = true ∧ ((ringed.pkg 0).ring 3).sampling = true) ∧
    (∀ b ∈ [none, some ⟨far.toNat + 0x1000, 4, 0, 1, 5⟩],
      let p := (sampled (4 + 2 ^ 16) b).pkg 0
      let a := (p.ring 3).cbptr
      p.mayWriteRing 0 3 = true ∧ (p.ring 3).sampling = true ∧ (p.ring 3).block = b ∧ a = far.toNat ∧ (p.mem.word a).getLsbD 0 = false ∧ p.mem.wf = true ∧
      (p.mem.word (a + 16)).toNat / 2 ^ 16 % 2 ^ 16 = p.ringHolder 3 ∧ (p.mem.word (a + 16)).toNat % 64 = 4 ∧ (p.mem.word (a + 16)).toNat / 2 ^ 32 = 0 ∧
      (p.mem.word (a + 16)).toNat / 2 ^ 12 % 16 = 0 ∧ (p.mem.word (a + 16)).toNat / 2 ^ 6 % 4 = 0 ∧ (p.mem.word (a + 8)).toNat % 64 = 0 ∧
      p.mem.word (a + 48) = 0 ∧ p.mem.word (a + 56) = 0 ∧ p.holds 1 a 64 = true ∧ p.holds 1 (p.mem.word (a + 8)).toNat (64 * 2 ^ 4) = true) ∧
    (((sampled (17 + 2 ^ 16) none).pkg 0).mem.word (far.toNat + 16)).toNat % 64 = 17 ∧
    ((base.pkg 0).mayWriteRing 0 3 = true ∧ far.toNat / 64 ≠ 0) ∧
    (16 : Word).toNat ≤ 524288 ∧ ((State.reset.pkg 0).phase = .waiting ∧ (State.reset.pkg 0).hostUp = true) ∧
    (∀ i, i < 2 → (base.pkg 0).hostMayReach (far.toNat + i) = true) ∧ (base.pkg 0).mem.wf = true := by
  repeat' apply And.intro
  all_goals decide +kernel

theorem witness_HostPackets :
    (base.pkg 0).phase = .running ∧
    (let p := ringed.pkg 0
     (p.ring 3).block = some ⟨far.toNat + 0x1000, 4, 0, 1, 5⟩ ∧ (p.ring 3).halted = false ∧ 1 = p.ringHolder 3 ∧ (p.ring 3).rdidx ≠ 5 ∧
     p.ringHeld 3 [] = false ∧ p.rings.map (·.1) = [3] ∧ (p.ring 4).block = none) ∧
    (let q := withPkg ringed (fun p => { p with mem := p.mem.write (bytesAt (far.toNat + 0x1000 + 64 * 2 + 8) 5 8) })
     let k : HostPacket := ⟨3, 1, ((q.pkg 0).mem.bytes (far.toNat + 0x1000 + 64 * ((q.pkg 0).ring 3).rdidx) 64).map (·.2), 0, none, false, 0, none, false, none⟩
     k.num 8 8 = 5 ∧ (q.pkg 0).packetWord k 5 (q.free 9) { r := true, w := true } = none) ∧
    (∀ k ∈ [taken [0], taken [1, 0, 0, 0, 0, 0, 0, 0, 0, 0, 0, 0, 0, 0, 0, 0, 9, 0, 2], taken [2], taken [4], { taken [4] with depth := 4 }, taken [5]],
      ((flying base [.packet k]).pkg 0).job 1 = some (.packet k) ∧ k.outcome = none ∧ k.taken = false) ∧
    (taken [0]).kind = 0 ∧ (taken [2]).kind = 2 ∧ ((taken [2]).num 16 8 = 0 ∧ (taken [2]).num 24 8 = 0 ∧ (taken [2]).num 32 8 = 0) ∧
    (let k := taken [2, 0, 0, 0, 0, 0, 0, 0, 0, 0, 0, 0, 0, 0, 0, 0, 0, 0x10, 0, 0, 0, 1]
     let p := (withPkg base (fun p => { p with mem := p.mem.write (Machine.bytesAt far.toNat (2 ^ 64 - 1) 8) })).pkg 0
     k.num 16 8 = far.toNat ∧ p.packetWord k far.toNat (base.free 9) { r := true } = some far.toNat ∧ (p.mem.word far.toNat).toInt < 0) ∧
    (let k := taken [3, 0, 0, 0, 0, 0, 0, 0, 0, 0, 0, 0, 0, 0, 0, 0, 0, 0x10, 0, 0, 0, 1]
     k.kind = 3 ∧ (base.pkg 0).packetWord k (k.num 16 8) (base.free 9) { r := true, w := true } = some far.toNat ∧
     (base.pkg 0).awakeAt far.toNat = true ∧ k.num 32 1 = 0 ∧ (base.pkg 0).mem.isBad (wordOf far.toNat) = false ∧ (base.pkg 0).mem.wf = true) ∧
    (let k := taken (3 :: List.replicate 16 0 ++ [0x10, 0, 0, 0, 1] ++ List.replicate 10 0 ++ [1])
     k.kind = 3 ∧ k.num 32 1 = 1 ∧ (base.pkg 0).packetWord k (k.num 16 8) (base.free 9) { w := true } = some far.toNat) ∧
    (let k := taken [1, 0, 0, 0, 0, 0, 0, 0, 0, 0, 0, 0, 0, 0, 0, 0, 9, 0, 2]
     k.kind = 1 ∧ k.num 20 4 = 0 ∧ k.num 18 1 ≠ 0 ∧ ((flying base [.packet k]).pkg 0).serves 1024 k.holder ((flying base [.packet k]).pkg 0).launchWaiters = true) ∧
    (let k := taken [1, 0, 0, 0, 0, 0, 0, 0, 0, 0, 0, 0, 0, 0, 0, 0, 9]
     k.kind = 1 ∧ k.num 18 1 = 0 ∧ k.num 48 8 = 0 ∧ k.num 56 8 = 0 ∧
     ((flying base [.packet k]).pkg 0).serves 1024 k.holder ((flying base [.packet k]).pkg 0).launchWaiters = true) ∧
    ((taken [5]).kind = 5 ∧ (taken [5]).num 32 8 = 0) ∧ ((taken [4]).kind = 4 ∧ (taken [4]).depth ≠ 4 ∧ (taken [4]).num 24 4 ≤ (taken [4]).next) ∧
    (let k := { taken [2] with outcome := some false }
     ((flying ringed [.packet k]).pkg 0).job 1 = some (.packet k) ∧ risingFrom 0 ((flying ringed [.packet k]).pkg 0).flights = true ∧ k.num 8 8 = 0) ∧
    (∀ ok ∈ [true, false], ∀ w ∈ [Power.active, .retain],
      let k := { taken (2 :: List.replicate 8 0 ++ [0x10]) with outcome := some ok }
      let p := (flying (withPkg ringed (fun p => p.onCluster 0 (fun c => { c with power := w }))) [.packet k]).pkg 0
      p.job 1 = some (.packet k) ∧ k.num 8 8 = 0x1000 ∧ p.packetWord k 0x1000 (base.free 9) { r := true, w := true } = some 0x1000 ∧
      p.awakeAt 0x1000 = decide (w = .active) ∧ p.mem.wf = true ∧ p.mem.isBad (wordOf 0x1000) = false ∧ k.kind = 2) ∧
    ((ringed.pkg 0).mem.wf = true ∧ (∀ e ∈ (ringed.pkg 0).rings, e.2.cbptr % 64 = 0 ∧ 0x10000000000 ≤ e.2.cbptr ∧ e.2.cbptr < 0x18000000000) ∧
      (ringed.pkg 0).rings ≠ [] ∧ ∀ c, c < 256 → ((ringed.pkg 0).cluster c).power = .active) ∧
    ((withPkg base (fun p => { p with linkUp := false })).pkg 0).linkUp = false := by
  repeat' apply And.intro
  all_goals decide +kernel

/-- A COPY packet of 100 bytes from HBM to 0x2000, and an INDIRECT of two packets at HBM. -/
def copying : HostPacket :=
  taken ([5] ++ List.replicate 15 0 ++ [0, 0x10, 0, 0, 0, 1, 0, 0] ++ [0, 0x20, 0, 0, 0, 0, 0, 0] ++ [100])
def indirect (n : Nat) : HostPacket :=
  { taken ([4] ++ List.replicate 15 0 ++ [0, 0x10, 0, 0, 0, 1, 0, 0] ++ [2]) with next := n }

/-- A COPY that is translated, one that would write an EXPORTED bank, and one that is not translated; the last piece of a copy that is OK, and of one that is not;
an INDIRECT at each place of its array, and one that is not translated. -/
theorem witness_CopyAndIndirect :
    (let k := copying
     let p := (flying base [.packet k]).pkg 0
     p.job 1 = some (.packet k) ∧ k.kind = 5 ∧ k.taken = false ∧ k.num 32 8 = 100 ∧ (∀ e ∈ p.flights, e.1 < p.nextId) ∧
     p.packetAddr k 0x2000 (base.free 9) { w := true } = some 0x2000 ∧ p.place 0x2000 = .scratch 0 0 ∧ (p.core 0).exported.contains 0 = false ∧
     (k.num 24 8 % 4096 + 100 + 4095) / 4096 = 1 ∧ (k.num 16 8 % 4096 + 100 + 4095) / 4096 = 1 ∧
     p.packetAddr k far.toNat (base.free 9) { r := true } = some far.toNat ∧
     ((withCore base (fun c => { c with exported := [0] })).here.core 0).exported.contains 0 = true ∧
     (let far_ := taken ([5] ++ List.replicate 15 0 ++ [0, 0, 0, 0, 0, 0, 0, 2] ++ List.replicate 8 0 ++ [100])
      far_.num 32 8 = 100 ∧ p.packetAddr far_ (far_.num 16 8 / 4096 * 4096) (base.free 9) { r := true } = none)) ∧
    (∀ st ∈ [0, 9],
      let k := { copying with taken := true }
      let o : Operand := ⟨0, 0x2000, 0, 36, 0, 64, 1, 1, 1, 1, 0, 0, 0, [(0, 0x2000)]⟩
      let c : Copy := { Copy.new ⟨1024, 0, 0⟩ 1 silent 0 true o o 1 0 (some 1) with pieces := 1, status := st }
      let x : Piece := ⟨2, 0, none, .reading, [], Memory.empty, [0x2000], false⟩
      let p := (flying base [.packet k, .copy c, .piece x]).pkg 0
      p.job 1 = some (.packet k) ∧ p.job 2 = some (.copy c) ∧ p.job 3 = some (.piece x) ∧ p.awakeAt 0x2000 = true ∧ p.lineReady x c 0x2000 = true ∧
      c.spec.getLsbD 63 = true ∧ risingFrom 0 p.flights = true) ∧
    (∀ n ∈ [0, 1],
      let k := indirect n
      let p := (flying base [.packet k]).pkg 0
      p.job 1 = some (.packet k) ∧ k.kind = 4 ∧ k.depth = 0 ∧ (p.ring k.ring).halted = false ∧ k.num 24 4 = 2 ∧ k.next = n ∧
      p.ringHeld k.ring (p.enclosing 5 1) = false ∧ k.num 16 8 = far.toNat ∧ (∀ e ∈ p.flights, e.1 < p.nextId) ∧
      (∀ i, i < 64 → p.packetAddr k (k.num 16 8 + 64 * k.next + i) (base.free 9) { r := true } = some (far.toNat + 64 * n + i)) ∧
      (let far_ := taken ([4] ++ List.replicate 15 0 ++ [0, 0, 0, 0, 0, 0, 0, 2] ++ [2])
       p.packetAddr far_ (far_.num 16 8) (base.free 9) { r := true } = none)) := by
  repeat' apply And.intro
  all_goals decide +kernel

/-- Function 1 and ring 3 of holder 2, which holds core 5 outright, group 6 as a loan of holder 3, and has lent group 7 to holder 3; a packet of its
ring is under way. -/
def leaving (heir : Nat) : State :=
  flying (withPkg ringed (fun p => ((((({ p with holders := tset p.holders 2 ⟨3, 0, none, none, none, 0⟩ } : Package).setEntry 0x30000001
    { p.entry 0x30000001 with holder := 2 }).setEntry 0x20000003 { p.entry 0x20000003 with holder := 2 }).setEntry 5
    { p.entry 5 with holder := 2, heir := heir }).setEntry 0x40000006 { p.entry 0x40000006 with holder := 2, lender := 3 }).setEntry 0x40000007
    { p.entry 0x40000007 with holder := 3, lender := 2 })) [.packet (taken [0])]

theorem witness_FunctionLevelReset :
    (∀ heir ∈ [0, 4],
      let p := (leaving heir).pkg 0
      p.phase = .running ∧ p.linkUp = true ∧ risingFrom 0 p.flights = true ∧ (∀ e ∈ p.flights, e.1 < p.nextId) ∧ (p.entry (0x30000000 + 1)).holder = 2 ∧
      p.ringHolder 3 = 2 ∧ (p.ring 3).block = some ⟨far.toNat + 0x1000, 4, 0, 1, 5⟩ ∧
      (tget? p.map 5).isSome = true ∧ ridKind 5 ≠ 1 ∧ (p.entry 5).busy = false ∧ (p.entry 5).holder = 2 ∧ (p.entry 5).lender = 0 ∧ (p.entry 5).heir = heir ∧
      p.holderRec 2 = some ⟨3, 0, none, none, none, 0⟩ ∧
      (tget? p.map 0x40000006).isSome = true ∧ (p.entry 0x40000006).holder = 2 ∧ (p.entry 0x40000006).lender = 3 ∧ (p.entry 0x40000006).busy = false ∧
      (tget? p.map 0x40000007).isSome = true ∧ (p.entry 0x40000007).lender = 2 ∧ (p.entry 0x40000007).busy = false) ∧
    ((ringed.pkg 0).entry (0x30000000 + 1)).holder = 1 ∧ (ringed.pkg 0).ringHolder 3 = 1 ∧ ((ringed.pkg 0).ring 3).fn = 0 := by
  repeat' apply And.intro
  all_goals decide +kernel

/-- The base in another phase, or with cluster 5 in some power state. -/
def phased (f : Phase) : State := withPkg base (fun p => { p with phase := f })
def powered (w : Power) (e : Bool) : State := withPkg base (fun p => p.onCluster 5 (fun _ => { Cluster.fresh with power := w, exiting := e }))

theorem witness_PowerSteps :
    (∀ l ∈ [(100, Power.gated), (4000, .retain), (60000, .off)],
      let p := (withPkg base (fun p => { p with ltr := some l.1, holders := tset p.holders 1 ⟨1, 0, none, some (l.1, true), none, 0⟩ })).pkg 0
      p.phase = .running ∧ (p.cluster 5).power = .active ∧ p.idle 5 = true ∧ p.deepest 5 = some l.2 ∧ p.mem.wf = true ∧ clusterOf 10 = 5) ∧
    (((powered .off false).pkg 0).cluster 5).power ≠ .active ∧ (((powered .off false).pkg 0).cluster 5).exiting = false ∧
    (((powered .off true).pkg 0).cluster 5).exiting = true ∧
    (((phased .unpowered).pkg 0).phase = .unpowered ∧ (phased .unpowered).onTorus 0 = true ∧ ((phased .unpowered).pkg 0).tier0 = 0 ∧
      ((phased .unpowered).pkg 0).tier1 = 0) ∧
    (∃ i, ((phased .booting).pkg 0).phase = .booting ∧ ((phased .booting).pkg 0).linkUp = true ∧
      ((phased .booting).pkg 0).freeCell 0 ((phased .booting).free 4) = some i) ∧
    ((phased .frozen).pkg 0).phase = .frozen ∧ ((phased .frozen).pkg 0).mem.wf = true ∧ ((phased .dumped).pkg 0).phase = .dumped ∧
    (∀ n ∈ [(0 : Nat), 15], let p := (withPkg base (fun p => { p with replays := [(3, n)] })).pkg 0
      3 ∉ p.linksDown ∧ tget p.replays 3 0 < 16 ∧ risingFrom 0 p.replays = true ∧ (tget p.errors (3 / 4 * 4 + 2) 0).toNat < 2 ^ 64 - 1) := by
  have h : ∃ i, ((phased .booting).pkg 0).freeCell 0 ((phased .booting).free 4) = some i := some_cell _ _ _ (by decide +kernel)
  obtain ⟨i, hi⟩ := h
  refine ⟨?_, ?_, ?_, ?_, ?_, ⟨i, ?_, ?_, hi⟩, ?_⟩ <;> decide +kernel

/-- Words placed at address 0 of core 0, whose cycle is the next move. -/
def placed (ws : List Half) : State := { withPkg State.reset (fun p => p.placed (ws.flatMap halfBytes)) with plan := [.cycle 0 0] }

theorem witness_StepRunsDecoded :
    (let s := placed [0x0448]
     let k := (s.pkg 0).core 0
     s.plan = .cycle 0 0 :: [] ∧ s.nextMove = .cycle 0 0 ∧ (s.pkg 0).phase = .running ∧ ((s.pkg 0).cluster (clusterOf 0)).power = .active ∧
     k.selectSlot = some 0 ∧ (k.thread 0).cancel = none ∧ (k.thread 0).lost = none ∧ (k.thread 0).pend.bind (s.pkg 0).job = none ∧
     (decode [0x0448]).toOption = some (.add 1 (src 2), 1)) ∧
    Claims.Fetched (((placed [0x0448]).pkg 0).core 0) ((((placed [0x0448]).pkg 0).core 0).thread 0).pc [0x0448] ∧
    (({ base with plan := [.event (.linkReplay 0 3)] } : State).nextMove = .event (.linkReplay 0 3) ∧ (Instr.linkReplay 0 3).isStep = true) ∧
    (∀ e ∈ base.chips, e.2.owed = [] ∧ e.2.flights = []) ∧
    (∀ r ∈ [Job.fe ⟨⟨0, 0, 0⟩, .ldf, 0x1000, 3, 0, 1, true⟩, .trade ⟨⟨0, 0, 0⟩, 1, .give, 0, 1, 0, 0, 1⟩],
      let s := withMe (flying (placed [0x0448]) [r]) (fun t => { t with pend := some 1 })
      let k := (s.pkg 0).core 0
      s.nextMove = .cycle 0 0 ∧ k.selectSlot = some 0 ∧ (k.thread 0).cancel = none ∧ (k.thread 0).lost = none ∧
      (k.thread 0).pend.bind (s.pkg 0).job = some r) := by
  refine ⟨?_, ?_, ?_, ?_, ?_⟩
  · repeat' apply And.intro
    all_goals decide +kernel
  · refine ⟨by decide, by decide, fun j h hj => ?_⟩
    match j, hj with
    | 0, hj =>
      cases hj
      refine ⟨by decide, by decide, ⟨0, halfBytes 0x0448 ++ List.replicate 62 0⟩, ?_, ?_⟩ <;> decide +kernel
    | n + 1, hj => simp at hj
  · decide +kernel
  · decide +kernel
  · decide +kernel

/-- The turn of a thread under a cancelled cell, and of one whose resource was taken, with a vector and without. -/
theorem witness_CancelledTurn :
    ∀ f ∈ [fun t : Thread => { t with cancel := some 7 }, fun t => { t with lost := some 9 }, fun t => { t with lost := some 9, vec := 8 }],
      let s := withMe (placed [0x0448]) f
      let k := (s.pkg 0).core 0
      s.nextMove = .cycle 0 0 ∧ (s.pkg 0).phase = .running ∧ ((s.pkg 0).cluster (clusterOf 0)).power = .active ∧ k.selectSlot = some 0 ∧
      (s.pkg 0).claiming (k.thread 0) = false ∧ ((k.thread 0).cancel = some 7 ∨ ((k.thread 0).cancel = none ∧ (k.thread 0).lost = some 9)) := by
  intro f hf
  fin_cases hf <;> decide +kernel

theorem witness_RoundTrip : (Instr.ldz .d 3 (op 4) 8).wf = true := by decide

theorem witness_MemoryStaysCanonical : Claims.Canonical base := by
  have h : ∀ e ∈ base.chips, e.2.mem.wf = true := by decide +kernel
  exact h

theorem witness_RegisterFrame :
    (∀ n ∈ [needDS 1 (src 2), needWS 1 (src 2), needDST 1 (src 2) (tgt 3), { d := rwReg 1 }, { d := wrReg 1 }, needMem (wrReg 1) (op 2)],
      Ready base n ⟨0, 0, 0⟩) ∧ Claims.policy base ⟨2, 0⟩ ≠ 3 := by
  unfold Claims.Ready; decide +kernel

theorem witness_MemoryFrame :
    (Instr.add 1 (src 2)).isStep = false ∧ ¬ Claims.StoresAtIssue (.add 1 (src 2)) ∧
    (after (exec (.add 1 (src 2)) (regs [(1, 2), (2, 3)]))).map (fun t => t.reg 1) = some 5 := by
  refine ⟨by decide +kernel, ?_, by decide +kernel⟩
  simp [Claims.StoresAtIssue]

theorem witness_SoftErrors :
    (let s := { base with plan := [.upset 0 (.word far.toNat)] }
     s.nextMove = .upset 0 (.word far.toNat) ∧ (s.pkg 0).phase = .running ∧ (s.pkg 0).place (wordOf far.toNat) = .hbm) ∧
    (tget (base.pkg 0).errors (0 * 4) 0).toNat < 2 ^ 64 - 1 ∧
    ((withCore base (fun k => { k with outbox := [⟨far.toNat, [(8, 7)], [1]⟩] })).here.core 0).outboxBad (far.toNat + 8) = true ∧
    (let s := withCore base (fun k => { k with regs := [(2, ⟨5, true, true, false⟩)] })
     s.here.phase = .running ∧ s.me.life = .ready ∧ 2 < s.me.len ∧ (s.hereCore.cell (s.me.base + 1)).full = true ∧
     (s.hereCore.cell (s.me.base + 2)).full = true ∧ (s.hereCore.cell (s.me.base + 2)).bad = true) ∧
    (∀ u ∈ [Upset.reg 5 7, .bank 5 true 7, .bank 5 false 7, .corrected 0],
      ({ base with plan := [.upset 0 u] } : State).nextMove = .upset 0 u) := by
  repeat' apply And.intro
  all_goals decide +kernel

end Sys2Proof.Tests
end

section
/-! SUPPORT. The canonical form of memory (R5, R209): how the operations of a state, of a chain and of a machine step carry it.

Most operations leave the memory of every package alone, and then the form holds after them exactly when it holds before: those
lemmas are equivalences, for `simp`. An operation that writes memory has an implication instead. -/

namespace Sys2Proof.Machine

/-! ## Packages with one memory -/

/-- Two packages have the same memory. The hypothesis, under this name, of the laws about a change that leaves memory alone. -/
def Package.SameMem (q p : Package) : Prop := q.mem = p.mem

@[simp] theorem Package.sameMem_iff (q p : Package) : q.SameMem p ↔ q.mem = p.mem := by rw [Package.SameMem]

/-- A fold of operations that each leave memory alone leaves it alone. -/
@[simp] theorem Package.foldl_mem {β : Type} (f : Package → β → Package) (hf : ∀ p b, (f p b).SameMem p) (l : List β) (p : Package) :
    (l.foldl f p).mem = p.mem := by
  induction l generalizing p with
  | nil => rfl
  | cons b l ih => exact (ih (f p b)).trans (hf p b)

/-! ## Packages of a state -/

theorem State.wf_pkg {s : State} (h : Claims.Canonical s) (chip : Nat) : (s.pkg chip).mem.wf = true := by
  have listed : ∀ (l : Tab Package) (n : Nat) (p : Package), tget? l n = some p → (n, p) ∈ l := by
    intro l n p
    induction l with
    | nil => simp [tget?]
    | cons e l ih =>
      obtain ⟨k, q⟩ := e
      simp only [tget?]
      split
      · rintro ⟨⟩; subst_vars; simp
      · intro h; exact List.mem_cons_of_mem _ (ih h)
  cases e : tget? s.chips chip with
  | none => simp [State.pkg, tget, e, Package.absent, Package.wf_fresh]
  | some p => simpa [State.pkg, tget, e] using h _ (listed _ _ _ e)

theorem State.wf_here {s : State} (h : Claims.Canonical s) : s.here.mem.wf = true := State.wf_pkg h _

theorem State.canonical_setPkg {s : State} {chip : Nat} {p : Package} (h : Claims.Canonical s) (hp : p.mem.wf = true) :
    Claims.Canonical (s.setPkg chip p) := by
  intro e he
  rcases mem_tset he with rfl | he
  · exact hp
  · exact h e he

theorem State.canonical_onPkg {s : State} {chip : Nat} {f : Package → Package} (h : Claims.Canonical s)
    (hf : ∀ p : Package, p.mem.wf = true → (f p).mem.wf = true) : Claims.Canonical (s.onPkg chip f) :=
  State.canonical_setPkg h (hf _ (State.wf_pkg h chip))

theorem State.canonical_onHere {s : State} {f : Package → Package} (h : Claims.Canonical s)
    (hf : ∀ p : Package, p.mem.wf = true → (f p).mem.wf = true) : Claims.Canonical (s.onHere f) :=
  State.canonical_onPkg h hf

/-- What a table lists beside the entry that a write replaces, it lists after the write. -/
theorem mem_tset_of_mem {α : Type} {t : Tab α} {n : Nat} {v : α} {e : Nat × α} (h : e ∈ t) :
    e ∈ tset t n v ∨ tget? t n = some e.2 := by
  induction t with
  | nil => cases h
  | cons x t ih =>
    obtain ⟨k, w⟩ := x
    simp only [tset, tget?]
    split
    · exact .inl (List.mem_cons_of_mem _ h)
    · split
      · rcases List.mem_cons.1 h with rfl | h
        · exact .inr rfl
        · exact .inl (List.mem_cons_of_mem _ h)
      · rcases List.mem_cons.1 h with rfl | h
        · exact .inl List.mem_cons_self
        · exact (ih h).imp_left (List.mem_cons_of_mem _)

theorem self_mem_tset {α : Type} (t : Tab α) (n : Nat) (v : α) : (n, v) ∈ tset t n v := by
  induction t with
  | nil => simp [tset]
  | cons x t ih =>
    obtain ⟨k, w⟩ := x
    simp only [tset]
    split
    · simp
    · split
      · simp
      · exact List.mem_cons_of_mem _ ih

theorem State.canonical_setPkg_iff (s : State) (chip : Nat) (p : Package) (hp : p.mem = (s.pkg chip).mem) :
    Claims.Canonical (s.setPkg chip p) ↔ Claims.Canonical s := by
  refine ⟨fun h e he => ?_, fun h => State.canonical_setPkg h (hp ▸ State.wf_pkg h chip)⟩
  rcases mem_tset_of_mem (n := chip) (v := p) he with he | he
  · exact h e he
  · have := h _ (self_mem_tset s.chips chip p)
    simpa [hp, State.pkg, tget, he] using this

/-- A change of a package that leaves its memory alone. -/
@[simp] theorem State.canonical_onPkg_iff (s : State) (chip : Nat) (f : Package → Package) (hf : (f (s.pkg chip)).SameMem (s.pkg chip)) :
    Claims.Canonical (s.onPkg chip f) ↔ Claims.Canonical s := State.canonical_setPkg_iff _ _ _ hf

@[simp] theorem State.canonical_onHere_iff (s : State) (f : Package → Package) (hf : (f s.here).SameMem s.here) :
    Claims.Canonical (s.onHere f) ↔ Claims.Canonical s := State.canonical_setPkg_iff _ _ _ hf

@[simp] theorem State.canonical_onHereCore (s : State) (f : Core → Core) :
    Claims.Canonical (s.onHereCore f) ↔ Claims.Canonical s := State.canonical_setPkg_iff _ _ _ rfl

@[simp] theorem State.canonical_onMe (s : State) (f : Thread → Thread) :
    Claims.Canonical (s.onMe f) ↔ Claims.Canonical s := State.canonical_setPkg_iff _ _ _ rfl

@[simp] theorem State.canonical_packets (s : State) (l : Tab Packet) : Claims.Canonical { s with packets := l } ↔ Claims.Canonical s := .rfl
@[simp] theorem State.canonical_cur (s : State) (c : Cur) : Claims.Canonical { s with cur := c } ↔ Claims.Canonical s := .rfl
@[simp] theorem State.canonical_begin (s : State) : Claims.Canonical s.begin ↔ Claims.Canonical s := .rfl
@[simp] theorem State.canonical_addPacket (s : State) (l : Tab Packet) (n : Nat) :
    Claims.Canonical { s with packets := l, nextPacket := n } ↔ Claims.Canonical s := .rfl

@[simp] theorem State.canonical_foldl_iff {β : Type} (f : State → β → State) (hf : ∀ s b, Claims.Canonical (f s b) ↔ Claims.Canonical s)
    (l : List β) (s : State) : Claims.Canonical (l.foldl f s) ↔ Claims.Canonical s := by
  induction l generalizing s with
  | nil => rfl
  | cons b l ih => exact (ih (f s b)).trans (hf s b)

end Sys2Proof.Machine
end
section
/-! SUPPORT. What the operations of a package leave alone: every one of these leaves its memory as it was (R209).
Those that hold by computation are proved `by rfl`, not as `rfl`: `simp` then proves with them the side condition of a law about a fold. -/

namespace Sys2Proof.Machine

/-! ## Operations whose laws stand in an earlier file -/

@[simp] theorem Package.unsettle_mem (p : Package) (spare ws : List Nat) : (p.unsettle spare ws).mem = p.mem := Package.mem_unsettle p spare ws
@[simp] theorem Package.acquire_mem (p : Package) (c : Nat) (ws : List Nat) : (p.acquire c ws).mem = p.mem := rfl
@[simp] theorem Package.takeTrap_mem (p : Package) (core slot : Nat) (c : Cause) (d : Nat) (x : Word) :
    (p.takeTrap core slot c d x).mem = p.mem := Package.mem_takeTrap p core slot c d x

/-! ## Cores, threads, cells, ports and traps -/

@[simp] theorem Package.onCore_mem (p : Package) (c : Nat) (f : Core → Core) : (p.onCore c f).mem = p.mem := by rfl
@[simp] theorem Package.onAllCores_mem (p : Package) (f : Core → Core) : (p.onAllCores f).mem = p.mem := by rfl
@[simp] theorem Package.onThread_mem (p : Package) (c slot : Nat) (f : Thread → Thread) : (p.onThread c slot f).mem = p.mem := by rfl
@[simp] theorem Package.onCluster_mem (p : Package) (k : Nat) (f : Cluster → Cluster) : (p.onCluster k f).mem = p.mem := by rfl
@[simp] theorem Package.onDie_mem (p : Package) (d : Nat) (f : Die → Die) : (p.onDie d f).mem = p.mem := by rfl
@[simp] theorem Package.dropRows_mem (p : Package) (ws : List Nat) : (p.dropRows ws).mem = p.mem := by rfl
@[simp] theorem Package.send_mem (p : Package) (m : Msg) : (p.send m).mem = p.mem := by rfl

@[simp] theorem Package.notice_mem (p : Package) (h : Nat) (status : Nat) (pay : List Word) : (p.notice h status pay).mem = p.mem := by
  unfold Package.notice; split <;> simp

@[simp] theorem Package.setCell_mem (p : Package) (id : Nat) (c : Cell) : (p.setCell id c).mem = p.mem := by rfl

@[simp] theorem Package.cellFinish_mem (p : Package) (id : Nat) : (p.cellFinish id).mem = p.mem := by
  simp [Package.cellFinish, apply_ite Package.mem]

@[simp] theorem Package.cellDrop_mem (p : Package) (fuel id : Nat) : (p.cellDrop fuel id).mem = p.mem := by
  induction fuel generalizing p id with
  | zero => rfl
  | succ fuel ih => simp [Package.cellDrop, apply_ite Package.mem, ih]

@[simp] theorem Package.leaveCell_mem (p : Package) (id : Nat) (paired : Bool) : (p.leaveCell id paired).mem = p.mem := by
  unfold Package.leaveCell; split <;> simp

@[simp] theorem Package.cellRaise_mem (p : Package) (id n : Nat) : (p.cellRaise id n).mem = p.mem := by
  simp [Package.cellRaise, apply_ite Package.mem]

@[simp] theorem Package.breakPort_mem (p : Package) (handle port : Nat) : (p.breakPort handle port).mem = p.mem := by
  simp [Package.breakPort, apply_ite Package.mem]

@[simp] theorem Package.owe_mem (p : Package) (o : Owed) : (p.owe o).mem = p.mem := by rfl

@[simp] theorem Package.unbind_mem (p : Package) (chip core slot port : Nat) : (p.unbind chip core slot port).mem = p.mem := by
  unfold Package.unbind; dsimp only; split <;> (try split) <;> simp

@[simp] theorem Package.forgetOps_mem (p : Package) (o : Owner) : (p.forgetOps o).mem = p.mem := by rfl

@[simp] theorem Package.retire_mem (p : Package) (chip core slot : Nat) : (p.retire chip core slot).mem = p.mem := by
  unfold Package.retire; dsimp only; split <;> simp

@[simp] theorem Package.retireCancelled_mem (p : Package) (chip core slot cell : Nat) :
    (p.retireCancelled chip core slot cell).mem = p.mem := by
  simp [Package.retireCancelled]

@[simp] theorem Package.count_mem (p : Package) (die k : Nat) : (p.count die k).mem = p.mem := by rfl
@[simp] theorem Package.orphan_mem (p : Package) (o : Owner) : (p.orphan o).mem = p.mem := by rfl

@[simp] theorem Package.retireStopped_mem (p : Package) (chip core slot : Nat) : (p.retireStopped chip core slot).mem = p.mem := by
  unfold Package.retireStopped; split <;> simp

@[simp] theorem Package.leaveOps_mem (p : Package) (o : Owner) : (p.leaveOps o).mem = p.mem := by rfl

@[simp] theorem Package.trapReply_mem (p : Package) (chip core slot : Nat) (cause : Cause) (value : Word) :
    (p.trapReply chip core slot cause value).mem = p.mem := by
  unfold Package.trapReply; dsimp only; split <;> (try split) <;> simp

/-! ## Budgets and source units (R326 to R328, R412, R444) -/

@[simp] theorem Package.charge_mem (p : Package) (block holder n : Nat) : (p.charge block holder n).mem = p.mem := by rfl
@[simp] theorem Package.newPeriod_mem (p : Package) (block holder : Nat) : (p.newPeriod block holder).mem = p.mem := by rfl

/-! ## Operands and the gate (R31, R97) -/

@[simp] theorem Package.takeMbox_mem (p : Package) (c : Nat) : (p.takeMbox c).mem = p.mem := by
  unfold Package.takeMbox; split <;> simp

/-! ## Flags (R23, R47 to R49) -/

@[simp] theorem Package.raise_mem (p : Package) (o : Owner) (f : Nat) : (p.raise o f).mem = p.mem := by
  simp [Package.raise, apply_ite Package.mem]

/-! ## Translation and the instruction fetch (R224, R356 to R359) -/

@[simp] theorem Package.takeFailure_mem (p : Package) (c va : Nat) : (p.takeFailure c va).mem = p.mem := by rfl

@[simp] theorem Package.startWalk_mem (p : Package) (c va : Nat) : (p.startWalk c va).mem = p.mem := by
  unfold Package.startWalk; dsimp only; split <;> split <;> simp

@[simp] theorem Package.walkEnds_mem (p : Package) (c : Nat) (h va : Nat) (w : Walked × Tab Nat) (pick : Nat) :
    (p.walkEnds c h va w pick).mem = p.mem := by
  unfold Package.walkEnds; split <;> simp

@[simp] theorem Package.finishWalk_mem (p : Package) (cs : List Nat) (va pick old evict : Nat) :
    (p.finishWalk cs va pick old evict).mem = p.mem := by
  simp [Package.finishWalk]

@[simp] theorem Package.fillLine_mem (p : Package) (c va pa free1 free2 : Nat) : (p.fillLine c va pa free1 free2).mem = p.mem := by rfl

/-! ## Full/empty words and atomics (R157, R172 to R179) -/

@[simp] theorem Package.acquireFlag_mem (p : Package) (c w : Nat) : (p.acquireFlag c w).mem = p.mem := by rfl

@[simp] theorem Package.finishChain_mem (p : Package) (o : Owner) (len : Nat) (fs : List Fill) :
    (p.finishChain o len fs).mem = p.mem := by
  simp [Package.finishChain, apply_ite Package.mem]

/-! ## The save copy of a pre-emption (R259, R260) -/

@[simp] theorem Package.startSave_mem (p : Package) (id : Nat) : (p.startSave id).mem = p.mem := by
  unfold Package.startSave
  split
  · split
    · exact Package.foldl_mem _ (fun q _ => Package.addJob_mem q _) _ _
    · rfl
  · rfl

@[simp] theorem Package.countPacked_mem (p : Package) (id c : Nat) : (p.countPacked id c).mem = p.mem := by simp [Package.countPacked]

/-! ## Messages (R140 to R151, R180 to R184) -/

@[simp] theorem Package.deposit_mem (p : Package) (m : Msg) : (p.deposit m).mem = p.mem := by
  unfold Package.deposit; dsimp only; split <;> simp

@[simp] theorem Package.settle_mem (p : Package) (packet : Nat) (ok : Bool) : (p.settle packet ok).mem = p.mem := by
  unfold Package.settle; split <;> simp

@[simp] theorem Package.take_mem (p : Package) (id : Nat) (m : Msg) : (p.take id m).mem = p.mem := by rfl

/-! ## Ports and register deposits (R158 to R162, R185 to R189) -/

@[simp] theorem Package.bindTo_mem (p : Package) (o : Owner) (port chip peer : Nat) : (p.bindTo o port chip peer).mem = p.mem := by rfl

@[simp] theorem Package.refuseBind_mem (p : Package) (chip : Nat) (b : BindReq) : (p.refuseBind chip b).mem = p.mem := by
  simp [Package.refuseBind, apply_ite Package.mem]

@[simp] theorem Package.hearNews_mem (p : Package) (fromChip : Nat) (n : PortNews) : (p.hearNews fromChip n).mem = p.mem := by
  simp [Package.hearNews, apply_ite Package.mem]

@[simp] theorem Package.acceptValue_mem (p : Package) (fromChip : Nat) (v : PortValue) : (p.acceptValue fromChip v).mem = p.mem := by
  simp [Package.acceptValue, apply_ite Package.mem]

/-! ## Threads and access/execute pairs (R190 to R201) -/

@[simp] theorem Package.stop_mem (p : Package) (chip c slot : Nat) : (p.stop chip c slot).mem = p.mem := by
  unfold Package.stop; dsimp only; split <;> (try split) <;> simp

/-! ## Cassia (R240 to R253, R263 to R284) -/

@[simp] theorem Package.onTile_mem (p : Package) (k t : Nat) (f : Tile → Tile) : (p.onTile k t f).mem = p.mem := by rfl

@[simp] theorem Package.completeOp_mem (p : Package) (id : Nat) (o : CassiaOp) : (p.completeOp id o).mem = p.mem := by
  simp [Package.completeOp, apply_ite Package.mem]

@[simp] theorem Package.startOp_mem (p : Package) (c : Nat) (o : CassiaOp) (seed : Nat) : (p.startOp c o seed).mem = p.mem := by
  unfold Package.startOp; dsimp only; split <;> simp

@[simp] theorem Package.opFetch_mem (p : Package) (id : Nat) (o : CassiaOp) (joins turn : Nat) :
    (p.opFetch id o joins turn).mem = p.mem := by
  rfl

@[simp] theorem Package.opLine_mem (p : Package) (id : Nat) (o : CassiaOp) (y : Nat) : (p.opLine id o y).mem = p.mem := by rfl

/-! ## Clove (R254 to R257, R285 to R288) -/

@[simp] theorem Package.startCopy_mem (p : Package) (c : Copy) : (p.startCopy c).mem = p.mem :=
  Package.foldl_mem _ (fun q _ => Package.addJob_mem q _) _ _

@[simp] theorem Package.finishCopy_mem (p : Package) (id streamer : Nat) (c : Copy) : (p.finishCopy id streamer c).mem = p.mem := by
  unfold Package.finishCopy; split <;> (try split) <;> simp

@[simp] theorem Package.endPiece_mem (p : Package) (id : Nat) (x : Piece) (status : Nat) : (p.endPiece id x status).mem = p.mem := by
  unfold Package.endPiece; dsimp only; split <;> (try split) <;> simp

/-! ## Pre-emption (R260 to R262, R291, R292) -/

@[simp] theorem Package.lastWord_mem (p : Package) (q : Preempt) (c status base saved : Nat) :
    (p.lastWord q c status base saved).mem = p.mem := by
  unfold Package.lastWord; split <;> simp

@[simp] theorem Package.retireAll_mem (p : Package) (chip c : Nat) : (p.retireAll chip c).mem = p.mem :=
  Package.foldl_mem _ (fun p e => by split <;> simp) _ _

@[simp] theorem Package.coreEmptied_mem (p : Package) (tid : Nat) : (p.coreEmptied tid).mem = p.mem := by
  unfold Package.coreEmptied; split <;> simp

@[simp] theorem Package.closePreempt_mem (p : Package) (id : Nat) (q : Preempt) : (p.closePreempt id q).mem = p.mem := by
  simp [Package.closePreempt]

@[simp] theorem Package.takeHard_mem (p : Package) (chip id : Nat) (q : Preempt) : (p.takeHard chip id q).mem = p.mem := by
  simp [Package.takeHard]

@[simp] theorem Package.stopThreads_mem (p : Package) (chip c : Nat) : (p.stopThreads chip c).mem = p.mem :=
  Package.foldl_mem _ (fun p e => by split <;> simp) _ _

@[simp] theorem Package.askCore_mem (p : Package) (id : Nat) (q : Preempt) (c : Nat) : (p.askCore id q c).mem = p.mem := by
  simp [Package.askCore, apply_ite Package.mem]

@[simp] theorem Package.stopRound_mem (p : Package) (chip id : Nat) (q : Preempt) : (p.stopRound chip id q).mem = p.mem := by
  simp [Package.stopRound]

/-! ## Barriers and phases (R301 to R305, R313, R314, R331, R332, R340) -/

@[simp] theorem Package.setBar_mem (p : Package) (c n : Nat) (b : Bar) : (p.setBar c n b).mem = p.mem := by rfl

@[simp] theorem Package.openCommit_mem (p : Package) (c n : Nat) : (p.openCommit c n).mem = p.mem := by
  simp [Package.openCommit, apply_ite Package.mem]

@[simp] theorem Package.arriveAt_mem (p : Package) (c n : Nat) (phase : Bool) : (p.arriveAt c n phase).mem = p.mem := by
  simp [Package.arriveAt]

@[simp] theorem Package.closePhases_mem (p : Package) : (p.closePhases).mem = p.mem := by
  simp [Package.closePhases, apply_ite Package.mem]

@[simp] theorem Package.countWaiting_mem (p : Package) (c slot n : Nat) : (p.countWaiting c slot n).mem = p.mem := by
  unfold Package.countWaiting; dsimp only; (repeat' split) <;> simp

@[simp] theorem Package.toggle_mem (p : Package) (c n r : Nat) : (p.toggle c n r).mem = p.mem := by simp [Package.toggle]

@[simp] theorem Package.pass_mem (p : Package) (c n r : Nat) : (p.pass c n r).mem = p.mem := by
  simp [Package.pass, apply_ite Package.mem]

@[simp] theorem Package.announce_mem (p : Package) (c n r : Nat) : (p.announce c n r).mem = p.mem := by simp [Package.announce]

/-! ## Range forks, join cells and completion cells (R306 to R312, R333 to R339) -/

@[simp] theorem Package.setJoin_mem (p : Package) (id : Nat) (w : Word) : (p.setJoin id w).mem = p.mem := by rfl

@[simp] theorem Package.recruit_mem (p : Package) (core len : Nat) (entry : BitVec 56) (regs : List (Nat × Word)) (cell : Nat) :
    (p.recruit core len entry regs cell).mem = p.mem := by
  unfold Package.recruit; dsimp only; split <;> simp

@[simp] theorem Package.addCell_mem (p : Package) (h id : Nat) (d : Int) : (p.addCell h id d).mem = p.mem := by
  simp [Package.addCell, apply_ite Package.mem]

@[simp] theorem Package.cancelThread_mem (p : Package) (chip c slot by_ : Nat) : (p.cancelThread chip c slot by_).mem = p.mem := by
  unfold Package.cancelThread; dsimp only; split <;> (try split) <;> simp

@[simp] theorem Package.cancelCell_mem (p : Package) (chip h id : Nat) : (p.cancelCell chip h id).mem = p.mem := by
  unfold Package.cancelCell
  dsimp only
  split
  · rfl
  · rw [Package.foldl_mem _ (fun p k => ?_), Package.foldl_mem _ (fun p i => by simp)]
    refine Package.foldl_mem _ (fun p e => ?_) _ _
    split
    · split <;> simp
    · rfl

@[simp] theorem Package.performCell_mem (p : Package) (chip : Nat) (c : CellReq) : (p.performCell chip c).mem = p.mem := by
  unfold Package.performCell; dsimp only; (repeat' split) <;> simp

/-! ## Grids (R316 to R323, R341 to R346) and budgets (R348) -/

@[simp] theorem Package.onGrid_mem (p : Package) (die slot : Nat) (f : Grid → Grid) : (p.onGrid die slot f).mem = p.mem := by rfl

@[simp] theorem Package.onBound_mem (p : Package) (die slot core : Nat) (f : Bound → Bound) :
    (p.onBound die slot core f).mem = p.mem := by
  rfl

/-! ## Anise (R318, R320 to R325, R343, R347) -/

@[simp] theorem Package.recordFailure_mem (p : Package) (x : Slab) (status : Nat) : (p.recordFailure x status).mem = p.mem := by
  simp [Package.recordFailure, apply_ite Package.mem]

@[simp] theorem Package.abandon_mem (p : Package) (id : Nat) (x : Slab) (status : Nat) : (p.abandon id x status).mem = p.mem := by
  simp [Package.abandon]

@[simp] theorem Package.serveFace_mem (p : Package) (chip die slot : Nat) (b : Bound) (d : Desc) (t : BitVec 32) (f : Nat) :
    (p.serveFace chip die slot b d t f).mem = p.mem := by
  simp [Package.serveFace, apply_ite Package.mem]

@[simp] theorem Package.aniseCharge_mem (p : Package) (x : Slab) (n : Nat) : (p.aniseCharge x n).mem = p.mem := by rfl

/-! ## The ownership map (R363 to R366, R384 to R399) -/

@[simp] theorem Package.dropWalks_mem (p : Package) (h : Nat) : (p.dropWalks h).mem = p.mem := by rfl

@[simp] theorem Package.purge_mem (p : Package) (h : Nat) (bad : TlbEntry → Bool) (table : Nat → Bool) :
    (p.purge h bad table).mem = p.mem := by
  rfl

@[simp] theorem Package.enforceLimits_mem (p : Package) (mine : Nat → Bool) : (p.enforceLimits mine).mem = p.mem := by rfl

@[simp] theorem Package.merge_mem (p : Package) (fuel r : Nat) : (p.merge fuel r).mem = p.mem := by
  induction fuel generalizing p r with
  | zero => rfl
  | succ fuel ih =>
    simp only [Package.merge]
    split
    · rfl
    · exact ih _ _

@[simp] theorem Package.mergeRegion_mem (p : Package) (r : Nat) : (p.mergeRegion r).mem = p.mem := by simp [Package.mergeRegion]
@[simp] theorem Package.prune_mem (p : Package) : (p.prune).mem = p.mem := by rfl
@[simp] theorem Package.onHolder_mem (p : Package) (h : Nat) (f : HolderRec → HolderRec) : (p.onHolder h f).mem = p.mem := by rfl

@[simp] theorem Package.joinPreempt_mem (p : Package) (id : Nat) (q : Preempt) (c tid : Nat) :
    (p.joinPreempt id q c tid).mem = p.mem := by
  rfl

@[simp] theorem Package.requestPreempt_mem (p : Package) (c former budget why tid : Nat) :
    (p.requestPreempt c former budget why tid).mem = p.mem := by
  unfold Package.requestPreempt; split <;> simp

@[simp] theorem Package.beginTransfer_mem (p : Package) (r holder lender why budget : Nat) (start : Option (Nat × BitVec 56 × Nat × Word × Word)) :
    (p.beginTransfer r holder lender why budget start).mem = p.mem := by
  unfold Package.beginTransfer; dsimp only; (repeat' split) <;> simp

@[simp] theorem Package.giveBack_mem (p : Package) (r why budget : Nat) : (p.giveBack r why budget).mem = p.mem := by
  simp [Package.giveBack]

@[simp] theorem Package.nameDefaultHeir_mem (p : Package) (q : TradeReq) : (p.nameDefaultHeir q).mem = p.mem := by rfl

@[simp] theorem Package.lose_mem (p : Package) (o : Owner) (r : Nat) : (p.lose o r).mem = p.mem := by
  simp [Package.lose, apply_ite Package.mem]

@[simp] theorem Package.loseWaiters_mem (p : Package) (why : Reason) (r : Nat) : (p.loseWaiters why r).mem = p.mem := by
  simp [Package.loseWaiters]

@[simp] theorem Package.refusePieces_mem (p : Package) (lo hi : Nat) : (p.refusePieces lo hi).mem = p.mem := by rfl

@[simp] theorem Package.leaveMemory_mem (p : Package) (former r : Nat) : (p.leaveMemory former r).mem = p.mem := by
  unfold Package.leaveMemory; split <;> simp

@[simp] theorem Package.leaveGrid_mem (p : Package) (r : Nat) : (p.leaveGrid r).mem = p.mem := by simp [Package.leaveGrid]

@[simp] theorem Package.redirect_mem (p : Package) (former c : Nat) (hdr : Word) (pay : List Word) :
    (p.redirect former c hdr pay).mem = p.mem := by
  unfold Package.redirect; split <;> (try split) <;> simp

@[simp] theorem Package.emptyLatch_mem (p : Package) (former c : Nat) : (p.emptyLatch former c).mem = p.mem := by
  unfold Package.emptyLatch; (repeat' split) <;> simp

@[simp] theorem Package.passCore_mem (p : Package) (former c : Nat) : (p.passCore former c).mem = p.mem := by simp [Package.passCore]
@[simp] theorem Package.writeEntry_mem (p : Package) (t : Transfer) : (p.writeEntry t).mem = p.mem := by rfl
@[simp] theorem Package.leaveRoot_mem (p : Package) (former r : Nat) : (p.leaveRoot former r).mem = p.mem := by rfl

@[simp] theorem Package.followedBy_mem (p : Package) (tid n : Nat) : (p.followedBy tid n).mem = p.mem := by
  unfold Package.followedBy; split <;> simp

@[simp] theorem Package.passOn_mem (p : Package) (r more : Nat) : (p.passOn r more).mem = p.mem := by
  simp [Package.passOn, apply_ite Package.mem]

/-! ## The host interface (R369 to R377) -/

@[simp] theorem Package.setRing_mem (p : Package) (r : Nat) (x : Ring) : (p.setRing r x).mem = p.mem := by rfl

@[simp] theorem Package.runPacket_mem (p : Package) (r holder depth : Nat) (parent : Option Nat) (bytes : List Byte) (pick : Nat) :
    (p.runPacket r holder depth parent bytes pick).mem = p.mem := by
  rfl

@[simp] theorem Package.packetDone_mem (p : Package) (id : Nat) (k : HostPacket) (ok : Bool) : (p.packetDone id k ok).mem = p.mem := by
  rfl

@[simp] theorem Package.noteAbort_mem (p : Package) (k : HostPacket) (ok : Bool) : (p.noteAbort k ok).mem = p.mem := by
  simp [Package.noteAbort, apply_ite Package.mem]

@[simp] theorem Package.abortPieces_mem (p : Package) : p.abortPieces.mem = p.mem :=
  Package.foldl_mem _ (fun p id => by split <;> simp) _ _

@[simp] theorem Package.reclaimAll_mem (p : Package) (h : Nat) : (p.reclaimAll h).mem = p.mem := by simp [Package.reclaimAll]
@[simp] theorem Package.passThrough_mem (p : Package) (h : Nat) : (p.passThrough h).mem = p.mem := by rfl

@[simp] theorem Package.mergeUnless_mem (p : Package) (h r : Nat) : (p.mergeUnless h r).mem = p.mem := by
  simp [Package.mergeUnless, apply_ite Package.mem]

@[simp] theorem Package.cancelOffers_mem (p : Package) (h : Nat) : (p.cancelOffers h).mem = p.mem :=
  Package.foldl_mem _ (fun p r => by simp) _ _

@[simp] theorem Package.dropClaims_mem (p : Package) (h : Nat) : (p.dropClaims h).mem = p.mem := by
  refine Package.foldl_mem _ (fun p e => ?_) _ _
  split
  · split <;> simp
  · rfl

/-! ## Fabric instructions (R408 to R410, R426 to R439) -/

@[simp] theorem Package.replyAtomic_mem (p : Package) (k : Packet) (val : Word) (bad : Bool) (status : Nat) :
    (p.replyAtomic k val bad status).mem = p.mem := by
  rfl

@[simp] theorem Package.breakMine_mem (p : Package) (o : Owner) (port : Nat) : (p.breakMine o port).mem = p.mem := by
  simp [Package.breakMine, apply_ite Package.mem]

@[simp] theorem Package.settleSlab_mem (p : Package) (j id : Nat) (k : Packet) (status : Nat) :
    (p.settleSlab j id k status).mem = p.mem := by
  unfold Package.settleSlab; (repeat' split) <;> simp

@[simp] theorem Package.settleFence_mem (p : Package) (id : Nat) (k : Packet) (status : Nat) :
    (p.settleFence id k status).mem = p.mem := by
  unfold Package.settleFence; dsimp only; split <;> (try split) <;> simp

@[simp] theorem Package.settleRequest_mem (p : Package) (id : Nat) (k : Packet) (val : Word) (bad : Bool) (status : Nat) :
    (p.settleRequest id k val bad status).mem = p.mem := by
  unfold Package.settleRequest; (repeat' split) <;> simp

/-! ## The fabric's own steps (R405 to R425) -/

@[simp] theorem Package.vacate_mem (p : Package) (chip core slot : Nat) : (p.vacate chip core slot).mem = p.mem := by
  simp [Package.vacate]

@[simp] theorem Package.remember_mem (p : Package) (r : CachedReply) : (p.remember r).mem = p.mem := by rfl

@[simp] theorem Package.restore_mem (p : Package) (chip c slot base : Nat) (t : Thread) (regs : List RegCell) :
    (p.restore chip c slot base t regs).mem = p.mem := by
  rfl

end Sys2Proof.Machine
end

section
/-! SUPPORT. The operations of a package that write memory keep its canonical form (R5, R209), and those that answer a package
only sometimes, or with a value beside it, leave memory alone. -/

namespace Sys2Proof.Machine

/-! ## Memory cleared (R378) -/

theorem risingFrom_filter {α : Type} (g : Nat × α → Bool) {b : Nat} {t : Tab α} (r : risingFrom b t = true) :
    risingFrom b (t.filter g) = true := by
  induction t generalizing b with
  | nil => rfl
  | cons e t ih =>
    obtain ⟨k, w⟩ := e
    simp only [risingFrom, Bool.and_eq_true, decide_eq_true_eq] at r
    rw [List.filter_cons]
    split
    · simp [risingFrom, r, ih r.2]
    · exact risingFrom_mono (by omega) (ih r.2)

theorem srisingFrom_filter (g : Nat → Bool) {b : Nat} {l : List Nat} (r : srisingFrom b l = true) :
    srisingFrom b (l.filter g) = true := by
  induction l generalizing b with
  | nil => rfl
  | cons k t ih =>
    simp only [srisingFrom, Bool.and_eq_true, decide_eq_true_eq] at r
    rw [List.filter_cons]
    split
    · simp [srisingFrom, r, ih r.2]
    · exact srisingFrom_mono (by omega) (ih r.2)

theorem Memory.wf_clear {m : Memory} (lo n : Nat) (h : m.wf = true) : (m.clear lo n).wf = true := by
  rw [Memory.wf_iff] at h ⊢
  obtain ⟨hcells, hbytes, hempties, htags, hbad⟩ := h
  exact ⟨risingFrom_filter _ hcells, fun c hc => hbytes c (List.mem_of_mem_filter hc), srisingFrom_filter _ hempties,
    srisingFrom_filter _ htags, srisingFrom_filter _ hbad⟩

/-! ## Writes -/

@[simp] theorem Package.writeM_mem (p : Package) (spare : List Nat) (ws : List (Nat × Byte)) :
    (p.writeM spare ws).mem = p.mem.write ws := Package.mem_writeM p spare ws

@[simp] theorem Package.hostWord_mem (p : Package) (a v : Nat) : (p.hostWord a v).mem = p.mem.write (Machine.bytesAt a v 8) :=
  Package.mem_writeM p [] _

/-- A fold of operations of a package that each keep the form keeps it. -/
theorem Package.wf_foldl {β : Type} {f : Package → β → Package} (hf : ∀ p b, p.mem.wf = true → (f p b).mem.wf = true) (l : List β)
    {p : Package} (h : p.mem.wf = true) : (l.foldl f p).mem.wf = true := by
  induction l generalizing p with
  | nil => exact h
  | cons b l ih => exact ih (hf p b h)

theorem Package.wf_cutLog {p : Package} (c : Nat) (as : List Nat) (h : p.mem.wf = true) : (p.cutLog c as).mem.wf = true := by
  unfold Package.cutLog
  split
  · exact h
  · exact Package.wf_writeQuiet _ h

theorem Package.wf_syncWrite {p : Package} (c : Nat) (ws : List (Nat × Byte)) (h : p.mem.wf = true) :
    (p.syncWrite c ws).mem.wf = true := Package.wf_writeM _ _ (Package.wf_cutLog c _ h)

/-- A full/empty bit set, and the rows dropped that hold its word. -/
theorem Package.wf_setFull {p : Package} (w : Nat) (b : Bool) (ws : List Nat) (h : p.mem.wf = true) :
    (({ p with mem := p.mem.setFull w b } : Package).dropRows ws).mem.wf = true := Memory.wf_setFull w b h

theorem Package.wf_zeroScratch {p : Package} (c : Nat) (h : p.mem.wf = true) : (p.zeroScratch c).mem.wf = true := by
  rw [Package.zeroScratch, Package.unsettle_mem]
  exact Memory.wf_clear _ _ h

/-! ## Full/empty words and atomics (R172 to R179) -/

theorem Package.wf_performFe {p : Package} (o : HomeFe) (h : p.mem.wf = true) : (p.performFe o).1.mem.wf = true := by
  unfold Package.performFe
  dsimp only
  split
  · exact h
  · rw [Package.acquireFlag_mem]
    split
    · exact h
    · exact Package.wf_setFull _ _ _ h
  · exact Package.wf_setFull _ _ _ (Package.wf_syncWrite _ _ h)
  · exact Package.wf_setFull _ _ _ (Package.wf_syncWrite _ _ h)
  · exact Package.wf_setFull _ _ _ h
  · exact h

theorem Package.wf_scan {p : Package} (w fuel after : Nat) (h : p.mem.wf = true) : (p.scan w fuel after).mem.wf = true := by
  induction fuel generalizing p after with
  | zero => exact h
  | succ fuel ih =>
    simp only [Package.scan]
    split
    · next id o _ => exact ih _ (by simpa using Package.wf_performFe (p := p.dropJob id) o h)
    · split
      · exact h
      · exact ih _ h

theorem Package.wf_scanWord {p : Package} (w : Nat) (h : p.mem.wf = true) : (p.scanWord w).mem.wf = true := Package.wf_scan _ _ _ h

theorem Package.wf_arriveFe {p : Package} (id : Nat) (o : HomeFe) (h : p.mem.wf = true) : (p.arriveFe id o).mem.wf = true := by
  have done : (((p.dropJob id).performFe o).1.finishChain o.owner o.len ((p.dropJob id).performFe o).2).mem.wf = true := by
    simpa using Package.wf_performFe (p := p.dropJob id) o h
  unfold Package.arriveFe
  dsimp only
  split
  · exact Package.wf_scanWord _ (by simpa using h)
  · split
    · exact done
    · exact Package.wf_scanWord _ done

theorem Package.wf_acquireOwn {p : Package} (own : Option Nat) (ws : List Nat) (h : p.mem.wf = true) :
    (match own with | some c => p.acquire c ws | none => p).mem.wf = true := by
  cases own <;> exact h

theorem Package.wf_writeOwn {p : Package} (own : Option Nat) (ws : List (Nat × Byte)) (h : p.mem.wf = true) :
    (match own with | some c => p.syncWrite c ws | none => p.writeM [] ws).mem.wf = true := by
  cases own with
  | some c => exact Package.wf_syncWrite _ _ h
  | none => exact Package.wf_writeM _ _ h

theorem Package.wf_atomic {p : Package} (own : Option Nat) (op : AmoOp) (double : Bool) (addr : Nat) (operand swap : Word)
    (h : p.mem.wf = true) : (p.atomic own op double addr operand swap).1.mem.wf = true := by
  unfold Package.atomic
  extract_lets n old writes new ws q
  have hq : q.mem.wf = true := by
    dsimp only [q]
    split
    · exact Package.wf_writeOwn own ws h
    · exact h
  split
  · exact Package.wf_acquireOwn own _ h
  · exact Package.wf_acquireOwn own _ hq

/-! ## Lines of engines, saves and commits (R217, R218, R259) -/

theorem Package.wf_writeImage {p : Package} (o : CassiaOp) (g : Image) (line : Nat) (h : p.mem.wf = true) :
    (p.writeImage o g line).1.mem.wf = true := Package.wf_writeLine _ _ h

theorem Package.wf_opWrite {p : Package} (o : CassiaOp) (x : Nat) (h : p.mem.wf = true) : (p.opWrite o x).1.mem.wf = true := by
  unfold Package.opWrite
  dsimp only
  split
  · exact h
  · exact h
  · exact Package.wf_writeImage _ _ _ (by simpa using h)
  · exact Package.wf_writeImage _ _ _ (by simpa using h)
  · exact Package.wf_writeImage _ _ _ h
  · exact Package.wf_writeImage _ _ _ h
  · exact h

theorem Package.wf_pieceLine {p : Package} (id : Nat) (x : Piece) (c : Copy) (y seed : Nat) (h : p.mem.wf = true) :
    (p.pieceLine id x c y seed).mem.wf = true := by
  unfold Package.pieceLine
  dsimp only
  split <;> simpa using Package.wf_writeLine _ _ h

/-- A line written, and the full/empty bits of its words set. -/
theorem Package.wf_writeLineFull {p : Package} (l : LineWrite) (ws : List Nat) (full : Nat → Bool) (h : p.mem.wf = true) :
    (ws.foldl (fun m w => m.setFull w (full w)) (p.writeLine [] l).mem).wf = true :=
  Memory.wf_foldl _ (fun _ _ hm => Memory.wf_setFull _ _ hm) _ (Package.wf_writeLine _ _ h)

theorem Package.wf_saveWrite {p : Package} (id : Nat) (x : Piece) (core part target y : Nat) (h : p.mem.wf = true) :
    (p.saveWrite id x core part target y).mem.wf = true := by
  unfold Package.saveWrite
  extract_lets left q
  have hq : q.mem.wf = true := by simpa [q, apply_ite Package.mem] using h
  clear_value q
  split
  · split
    · exact Package.wf_writeLineFull _ _ _ hq
    · exact Package.wf_writeLineFull _ _ _ hq
  · exact hq

theorem Package.wf_applyEntry {p : Package} (scope : List Nat) (c : Nat) (l : OutLine) (h : p.mem.wf = true) :
    (p.applyEntry scope c l).mem.wf = true := by
  unfold Package.applyEntry
  split
  · exact h
  · exact Package.wf_writeLine _ _ h

theorem Package.wf_slabWrite {p : Package} (id : Nat) (x : Slab) (sender receiver : Bound × Desc) (pick seed : Nat)
    (h : p.mem.wf = true) : (p.slabWrite id x sender receiver pick seed).mem.wf = true := by
  unfold Package.slabWrite
  dsimp only
  split
  · exact h
  · exact Package.wf_writeLine _ _ h

/-! ## Step area words and flag words (R319 to R321) -/

theorem Package.wf_writeStep {p : Package} (a : Nat) (v : BitVec 32) (h : p.mem.wf = true) : (p.writeStep a v).mem.wf = true :=
  Package.wf_scanWord _ (Memory.wf_setFull _ _ (Package.wf_writeM _ _ h))

theorem Package.wf_setFace {p : Package} (die slot core g : Nat) (t : BitVec 32) (h : p.mem.wf = true) :
    (p.setFace die slot core g t).mem.wf = true := by
  unfold Package.setFace
  split
  · exact Package.wf_writeStep _ _ h
  · exact h

theorem Package.wf_writeFlag {p : Package} (a : Nat) (v : Word) (words : List Nat) (h : p.mem.wf = true) :
    (p.writeFlag a v words).mem.wf = true := by
  have full : ((p.writeM [] (Machine.bytesAt a v.toNat 8)).mem.setFull a true).wf = true := Memory.wf_setFull _ _ (Package.wf_writeM _ _ h)
  refine Package.wf_scanWord _ ?_
  split <;> exact full

/-! ## Rings and their packets (R371 to R377) -/

theorem Package.wf_hostWord {p : Package} (a v : Nat) (h : p.mem.wf = true) : (p.hostWord a v).mem.wf = true :=
  Package.wf_writeM _ _ h

theorem Package.wf_signal {p : Package} (k : HostPacket) (ok spare : Bool) (pick : Nat) (h : p.mem.wf = true) :
    (p.signal k ok spare pick).mem.wf = true := by
  unfold Package.signal
  split
  · exact h
  · extract_lets inHost
    split
    · exact h
    · exact Package.wf_atomic _ _ _ _ _ _ h

theorem Package.wf_endPacket {p : Package} (k : HostPacket) (ok spare : Bool) (pick : Nat) (h : p.mem.wf = true) :
    (p.endPacket k ok spare pick).mem.wf = true := by
  rw [Package.endPacket, Package.noteAbort_mem]
  exact Package.wf_signal _ _ _ _ h

theorem Package.wf_abortPacket {p : Package} (k : HostPacket) (spare : Bool) (pick : Nat) (h : p.mem.wf = true) :
    (p.abortPacket k spare pick).mem.wf = true := by
  unfold Package.abortPacket
  split
  · exact Package.wf_endPacket _ _ _ _ h
  · simpa using h

theorem Package.wf_abortPackets {p : Package} (mine : Nat → Bool) (spare : Bool) (pick : Nat) (h : p.mem.wf = true) :
    (p.abortPackets mine spare pick).mem.wf = true :=
  Package.wf_foldl (fun _ _ hp => Package.wf_abortPacket _ _ _ hp) _ h

theorem Package.wf_drainPacket {p : Package} (r holder : Nat) (bytes : List Byte) (pick : Nat) (h : p.mem.wf = true) :
    (p.drainPacket r holder bytes pick).mem.wf = true := by
  rw [Package.drainPacket]
  exact Package.wf_abortPacket _ _ _ (by simpa using h)

theorem Package.wf_drainQueue {p : Package} (r pick : Nat) (h : p.mem.wf = true) : (p.drainQueue r pick).mem.wf = true := by
  unfold Package.drainQueue
  dsimp only
  split
  · exact h
  · rw [Package.hostWord_mem, Package.setRing_mem]
    exact Memory.wf_write _ (Package.wf_foldl (fun _ _ hp => Package.wf_drainPacket _ _ _ _ hp) _ h)

theorem Package.wf_drainRings {p : Package} (mine : Nat → Bool) (pick : Nat) (h : p.mem.wf = true) :
    (p.drainRings mine pick).mem.wf = true :=
  Package.wf_foldl (fun _ _ hp => Package.wf_drainQueue _ _ hp) _ (Package.wf_abortPackets _ _ _ h)

theorem Package.wf_sample {p : Package} (r : Nat) (h : p.mem.wf = true) : (p.sample r).mem.wf = true := by
  unfold Package.sample
  dsimp only
  split
  · exact h
  · split
    · exact h
    · split
      · exact Package.wf_hostWord _ _ h
      · refine Package.wf_hostWord _ _ ?_
        split <;> exact h

/-! ## Power (R378) -/

theorem Package.wf_enterPower {p : Package} (cluster tick : Nat) (w : Power) (h : p.mem.wf = true) :
    (p.enterPower cluster tick w).mem.wf = true := by
  unfold Package.enterPower
  extract_lets cores q
  split
  · next r =>
    have hr : r.mem.wf = true := Package.wf_foldl (fun _ c hp => Package.wf_zeroScratch c hp) _ (by simpa [q] using h)
    clear_value r
    simpa using hr
  · simpa [q] using h
  · exact h

/-! ## Soft errors (R34, R169, R253, R380) -/

theorem Package.wf_upset {p : Package} (u : Upset) (h : p.mem.wf = true) : (p.upset u).mem.wf = true := by
  cases u with
  | word a =>
    simp only [Package.upset]
    split
    · exact Memory.wf_setBad _ _ h
    · exact Memory.wf_setBad _ _ h
    · exact Memory.wf_setBad _ _ h
    · exact h
  | outbox c i w => exact h
  | spilled c i w => exact h
  | corrected die => simp only [Package.upset]; split <;> exact h
  | retry die => simp only [Package.upset]; split <;> exact h
  | reg c e => simp only [Package.upset]; split <;> exact h
  | bank c visible e => simp only [Package.upset]; split <;> exact h

/-! ## Packages that are answered sometimes, or beside a value -/

theorem Package.newCell_mem {p : Package} {die start holder level parent live : Nat} {notify : Word} {root : Bool} {r : Package × Nat}
    (h : p.newCell die start holder level parent live notify root = some r) : r.1.mem = p.mem := by
  unfold Package.newCell at h
  split at h
  · cases h
  · cases h; dsimp only; split <;> simp

theorem Package.startHandler_mem {p q : Package} {m : Msg} {slot base len start : Nat}
    (h : p.startHandler m slot base len start = some q) : q.mem = p.mem := by
  unfold Package.startHandler at h
  dsimp only at h
  split at h
  · cases h
  · next r cell e =>
    have made : r.mem = p.mem := Package.newCell_mem e
    cases h
    split
    · simpa using made
    · split <;> simpa using made

theorem Package.opRead_mem {p q : Package} {id : Nat} {o : CassiaOp} {joins turn choice : Nat}
    (h : p.opRead id o joins turn choice = some q) : q.mem = p.mem := by
  unfold Package.opRead at h
  split at h
  · split at h
    · cases h; simp
    · split at h <;> (cases h; simp)
  · cases h

theorem Package.pieceRead_mem {p q : Package} {id : Nat} {x : Piece} {pick : Nat} (h : p.pieceRead id x pick = some q) :
    q.mem = p.mem := by
  unfold Package.pieceRead at h
  dsimp only at h
  split at h
  · split at h
    · cases h; rfl
    · simp only [when, Option.ite_none_right_eq_some, Option.some.injEq] at h
      rw [← h.2]; simp
    · cases h
  · cases h

theorem Package.hop_mem {p q : Package} {c n : Nat} (h : p.hop c n = some q) : q.mem = p.mem := by
  unfold Package.hop at h
  dsimp only at h
  split at h
  · cases h; simp
  · split at h
    · cases h; simp
    · cases h

@[simp] theorem Package.recruitAll_mem (p : Package) (creator len : Nat) (entry : BitVec 56) (lo hi : Int) (c n k join cell : Nat)
    (l : List Nat) (i b : Nat) : (p.recruitAll creator len entry lo hi c n k join cell l i b).mem = p.mem := by
  induction l generalizing p i b with
  | nil => rfl
  | cons core rest ih => rw [Package.recruitAll, ih, Package.recruit_mem]

theorem Package.split_mem {p q : Package} {r b z : Nat} (h : p.split r b z = some q) : q.mem = p.mem := by
  unfold Package.split at h
  dsimp only at h
  split at h
  · cases h
  · cases h; rfl

theorem Package.startMinted_mem {p q : Package} {c holder free : Nat} {st : Nat × BitVec 56 × Nat × Word × Word}
    (h : p.startMinted c holder free st = some q) : q.mem = p.mem := by
  unfold Package.startMinted at h
  split at h
  · cases h
  · next r cell e =>
    cases h
    exact (Package.newCell_mem e :)

theorem Package.finishTransfer_mem {p q : Package} {chip : Nat} {t : Transfer} {free : Nat} (h : p.finishTransfer chip t free = some q) :
    q.mem = p.mem := by
  unfold Package.finishTransfer at h
  dsimp only at h
  split at h
  · split at h
    · rw [Package.startMinted_mem h]; simp
    · cases h; simp
  all_goals cases h; simp

theorem Package.admitOn_mem {p q : Package} {chip c : Nat} {t : Thread} {regs : List RegCell} (h : p.admitOn chip c t regs = some q) :
    q.mem = p.mem := by
  unfold Package.admitOn at h
  split at h
  · cases h; simp
  · cases h

theorem Package.admitGuest_mem {p q : Package} {chip c : Nat} {t : Thread} {regs : List RegCell}
    (h : p.admitGuest chip c t regs = some q) : q.mem = p.mem := by
  unfold Package.admitGuest at h
  split at h
  · cases h; simp
  · cases h

end Sys2Proof.Machine
end

section
/-! SUPPORT. What the operations of a state do to the canonical form of memory, and how a chain carries it. -/

namespace Sys2Proof.Machine

/-- A packet put on its way changes no package. -/
@[simp] theorem State.canonical_launch (s : State) (k : Packet) (here : Nat) (via original : Option Nat) :
    Claims.Canonical (s.launch k here via original) ↔ Claims.Canonical s := .rfl

/-- Every package changed in a way that leaves its memory alone. -/
theorem State.canonical_mapChips {s t : State} (f : Package → Package) (e : t.chips = s.chips.map (fun e => (e.1, f e.2)))
    (hf : ∀ p, (f p).mem = p.mem) : Claims.Canonical t ↔ Claims.Canonical s := by
  unfold Claims.Canonical
  rw [e, List.forall_mem_map]
  simp only [hf]

@[simp] theorem State.canonical_phased (s : State) : Claims.Canonical s.phased ↔ Claims.Canonical s :=
  State.canonical_mapChips Package.closePhases rfl Package.closePhases_mem

/-! ## Cores, threads, cells, ports and traps -/

@[simp] theorem State.canonical_setReg (s : State) (n : Nat) (v : Word) : Claims.Canonical (s.setReg n v) ↔ Claims.Canonical s := by
  simp [State.setReg]

@[simp] theorem State.canonical_emptyReg (s : State) (n : Nat) : Claims.Canonical (s.emptyReg n) ↔ Claims.Canonical s := by
  simp [State.emptyReg]

@[simp] theorem State.canonical_takeTrap (s : State) (cause : Cause) (detail : Nat) (value : Word) :
    Claims.Canonical (s.takeTrap cause detail value) ↔ Claims.Canonical s := by simp [State.takeTrap]

@[simp] theorem State.canonical_goto (s : State) (pc : BitVec 56) : Claims.Canonical (s.goto pc) ↔ Claims.Canonical s := by
  simp [State.goto]

@[simp] theorem State.canonical_advance (s : State) : Claims.Canonical (s.advance) ↔ Claims.Canonical s := by simp [State.advance]

@[simp] theorem State.canonical_park (s : State) (r : Reason) : Claims.Canonical (s.park r) ↔ Claims.Canonical s := by simp [State.park]

@[simp] theorem State.canonical_parkNext (s : State) (r : Reason) (w : Wait) :
    Claims.Canonical (s.parkNext r w) ↔ Claims.Canonical s := by simp [State.parkNext]

@[simp] theorem Res.canonical_next (s : State) : Claims.Canonical (Res.next s).state ↔ Claims.Canonical s :=
  State.canonical_advance s
@[simp] theorem Res.canonical_jump (s : State) (pc : BitVec 56) : Claims.Canonical (Res.jump s pc).state ↔ Claims.Canonical s :=
  State.canonical_goto s pc
@[simp] theorem Res.canonical_replay (s : State) : Claims.Canonical (Res.replay s).state ↔ Claims.Canonical s := .rfl
@[simp] theorem Res.canonical_trap (s : State) (c : Cause) (d : Nat) (v : Word) :
    Claims.Canonical (Res.trap s c d v).state ↔ Claims.Canonical s := State.canonical_takeTrap s c d v
@[simp] theorem Res.canonical_park (s : State) (r : Reason) : Claims.Canonical (Res.park s r).state ↔ Claims.Canonical s :=
  State.canonical_park s r
@[simp] theorem Res.canonical_parkNext (s : State) (r : Reason) (w : Wait) :
    Claims.Canonical (Res.parkNext s r w).state ↔ Claims.Canonical s := State.canonical_parkNext s r w
@[simp] theorem Res.canonical_retire (s : State) : Claims.Canonical (Res.retire s).state ↔ Claims.Canonical s := by
  simp [Res.state]
@[simp] theorem Res.canonical_moved (s : State) : Claims.Canonical (Res.moved s).state ↔ Claims.Canonical s := .rfl

@[simp] theorem State.canonical_parkFor (s : State) (w : Wait) (r : Reason) :
    Claims.Canonical (s.parkFor w r).state ↔ Claims.Canonical s := by simp [State.parkFor]

@[simp] theorem State.canonical_parkOn (s : State) (r : Reason) (resource : Nat) :
    Claims.Canonical (s.parkOn r resource).state ↔ Claims.Canonical s := by simp [State.parkOn]

/-- A change of the state that keeps the form both ways, made before a chain ends. -/
@[simp] theorem Res.canonical_map (f : State → State) (hf : ∀ s, Claims.Canonical (f s) ↔ Claims.Canonical s) (r : Res) :
    Claims.Canonical (r.map f).state ↔ Claims.Canonical r.state := by
  cases r <;> simp [Res.map, hf]

/-! ## Budgets and source units (R326 to R328, R412, R444) -/

@[simp] theorem State.canonical_chargeFabric (s : State) (k : Packet) : Claims.Canonical (s.chargeFabric k) ↔ Claims.Canonical s := by
  unfold State.chargeFabric; split <;> simp

@[simp] theorem State.canonical_inject (s : State) (k : Packet) : Claims.Canonical (s.inject k) ↔ Claims.Canonical s := by
  rw [State.inject, ← State.canonical_chargeFabric s k]
  exact State.canonical_setPkg_iff (s.chargeFabric k) k.src _ rfl

@[simp] theorem State.canonical_pay (s : State) (chip : Nat) (o : Owed) : Claims.Canonical (s.pay chip o) ↔ Claims.Canonical s := by
  cases o with
  | cell away id paired => simp [State.pay]
  | news dst n h => simp only [State.pay]; split <;> simp

@[simp] theorem State.canonical_tell (s : State) (chip : Nat) : Claims.Canonical (s.tell chip) ↔ Claims.Canonical s := by
  unfold State.tell
  split
  · rfl
  · rw [State.canonical_foldl_iff _ (fun s o => State.canonical_pay s chip o)]; simp

@[simp] theorem State.canonical_told (s : State) : Claims.Canonical s.told ↔ Claims.Canonical s :=
  State.canonical_foldl_iff _ (fun s _ => State.canonical_tell s _) _ s

@[simp] theorem State.canonical_parkUnit (s : State) (dst : Nat) : Claims.Canonical (s.parkUnit dst).state ↔ Claims.Canonical s := by
  simp [State.parkUnit]

/-! ## Operands and the gate (R31, R97) -/

@[simp] theorem State.canonical_pop (s : State) (c : Nat) : Claims.Canonical (s.pop c) ↔ Claims.Canonical s := by
  unfold State.pop; (repeat' split) <;> simp

@[simp] theorem State.canonical_push (s : State) (c : Nat) (v : Word) : Claims.Canonical (s.push c v) ↔ Claims.Canonical s := by
  unfold State.push; dsimp only; split <;> (try split) <;> simp

@[simp] theorem State.canonical_consumeReport (s : State) (c : Cause) : Claims.Canonical (s.consumeReport c) ↔ Claims.Canonical s := by
  unfold State.consumeReport; split <;> simp

@[simp] theorem State.canonical_parkGate (s : State) (n : Needs) (r : Reason) :
    Claims.Canonical (s.parkGate n r) ↔ Claims.Canonical s := by simp [State.parkGate]

@[simp] theorem State.canonical_writeDst (s : State) (d : Dst) (v : Word) : Claims.Canonical (s.writeDst d v) ↔ Claims.Canonical s := by
  unfold State.writeDst; split <;> simp

/-! ## Flags (R23, R47 to R49) -/

@[simp] theorem State.canonical_raise (s : State) (f : Nat) : Claims.Canonical (s.raise f) ↔ Claims.Canonical s := by simp [State.raise]

/-! ## Plain accesses (R120, R121, R155, R212, R213) -/

@[simp] theorem State.canonical_result (s : State) (fs : List Fill) : Claims.Canonical (s.result fs) ↔ Claims.Canonical s := by
  simp [State.result]

/-! ## Control transfer, mode and control registers (R112 to R119, R132 to R135) -/

@[simp] theorem State.canonical_branch (s : State) (taken : Bool) (off : Word) :
    Claims.Canonical (s.branch taken off).state ↔ Claims.Canonical s := by
  unfold State.branch; split <;> simp

/-! ## Messages (R140 to R151, R180 to R184) -/

@[simp] theorem State.canonical_sendMsg (s : State) (m : Msg) : Claims.Canonical (s.sendMsg m) ↔ Claims.Canonical s := by
  simp [State.sendMsg]

@[simp] theorem State.canonical_joinWaitm (s : State) : Claims.Canonical (s.joinWaitm) ↔ Claims.Canonical s := by simp [State.joinWaitm]

/-! ## Ports and register deposits (R158 to R162, R185 to R189) -/

@[simp] theorem State.canonical_freed (s : State) (port chip : Nat) : Claims.Canonical (s.freed port chip) ↔ Claims.Canonical s := by
  unfold State.freed; split <;> simp

@[simp] theorem State.canonical_completeBind (s : State) (chip : Nat) (b : BindReq) :
    Claims.Canonical (s.completeBind chip b) ↔ Claims.Canonical s := by simp [State.completeBind]

@[simp] theorem State.canonical_popFor (s : State) (chip : Nat) (o : Owner) (pops : List Nat) :
    Claims.Canonical (s.popFor chip o pops) ↔ Claims.Canonical s := by
  unfold State.popFor; split <;> simp

/-! ## Threads and access/execute pairs (R190 to R201) -/

@[simp] theorem State.canonical_joinLaunch (s : State) : Claims.Canonical (s.joinLaunch) ↔ Claims.Canonical s := by
  unfold State.joinLaunch; split <;> simp

@[simp] theorem State.canonical_discardProducer (s : State) (chip : Nat) (o : Owner) (reg : Nat) :
    Claims.Canonical (s.discardProducer chip o reg) ↔ Claims.Canonical s := State.canonical_setPkg_iff _ _ _ rfl

@[simp] theorem State.canonical_setPresence (s : State) (slot lo : Nat) (v : Word) :
    Claims.Canonical (s.setPresence slot lo v) ↔ Claims.Canonical s := by
  refine State.canonical_foldl_iff _ (fun s i => ?_) _ s
  rw [State.canonical_onHereCore]
  split <;> simp

@[simp] theorem State.canonical_writeItem (s : State) (slot sel : Nat) (v : Word) :
    Claims.Canonical (s.writeItem slot sel v) ↔ Claims.Canonical s := by simp [State.writeItem, apply_ite Claims.Canonical]

@[simp] theorem State.canonical_onPair (s : State) (f : Pair → Pair) : Claims.Canonical (s.onPair f) ↔ Claims.Canonical s := by
  unfold State.onPair; split <;> simp

@[simp] theorem State.canonical_accessLeaves (s : State) (i : Nat) (q : Pair) :
    Claims.Canonical (s.accessLeaves i q) ↔ Claims.Canonical s := by
  unfold State.accessLeaves; split <;> simp

/-! ## Scalar floating point (R124 to R131) -/

@[simp] theorem State.canonical_setFloat (s : State) (d : Reg) (r : FRes) : Claims.Canonical (s.setFloat d r) ↔ Claims.Canonical s := by
  simp [State.setFloat]

/-! ## Cassia (R240 to R253, R263 to R284) -/

@[simp] theorem State.canonical_enqueue (s : State) (op : CassiaOp) : Claims.Canonical (s.enqueue op) ↔ Claims.Canonical s := by
  simp [State.enqueue]

@[simp] theorem State.canonical_dispatch (s : State) (fn : CassiaFn) : Claims.Canonical (s.dispatch fn).state ↔ Claims.Canonical s := by
  unfold State.dispatch; split <;> simp

/-! ## Barriers and phases (R301 to R305, R313, R314, R331, R332, R340) -/

@[simp] theorem State.canonical_setBarrier (s : State) (n : Nat) (v : Word) :
    Claims.Canonical (s.setBarrier n v).state ↔ Claims.Canonical s := by
  unfold State.setBarrier; dsimp only; split <;> simp

/-! ## Range forks, join cells and completion cells (R306 to R312, R333 to R339) -/

@[simp] theorem State.canonical_cellRequest (s : State) (act : CellAct) (ref : Word) (reg : Nat) (amount : Word) :
    Claims.Canonical (s.cellRequest act ref reg amount).state ↔ Claims.Canonical s := by
  unfold State.cellRequest; split <;> simp

@[simp] theorem State.canonical_cancelAway (s : State) (chip : Nat) (cells : List Nat) (by_ : Nat) :
    Claims.Canonical (s.cancelAway chip cells by_) ↔ Claims.Canonical s := by
  refine State.canonical_foldl_iff _ (fun s e => ?_) _ s
  split
  · rfl
  · refine State.canonical_foldl_iff _ (fun s k => State.canonical_foldl_iff _ (fun s t => ?_) _ s) _ s
    split <;> simp

/-! ## Grids (R316 to R323, R341 to R346) and budgets (R348) -/

@[simp] theorem State.canonical_haloLoad (s : State) (d pa n : Nat) (ws : List Nat) :
    Claims.Canonical (s.haloLoad d pa n ws) ↔ Claims.Canonical s := by simp [State.haloLoad]

@[simp] theorem State.canonical_parkHalo (s : State) (slot : Nat) (fs : List Nat) (step : BitVec 32) :
    Claims.Canonical (s.parkHalo slot fs step).state ↔ Claims.Canonical s := by simp [State.parkHalo]

@[simp] theorem State.canonical_waitFaces (s : State) (n : Nat) (b : Bound) (d : Desc) (fs : List Nat) (step : BitVec 32) :
    Claims.Canonical (s.waitFaces n b d fs step).state ↔ Claims.Canonical s := by
  unfold State.waitFaces; split <;> simp

/-! ## Anise (R318, R320 to R325, R343, R347) -/

@[simp] theorem State.canonical_sendSlab (s : State) (chip id : Nat) (x : Slab) (k : Packet) :
    Claims.Canonical (s.sendSlab chip id x k) ↔ Claims.Canonical s := by simp [State.sendSlab]

/-! ## The ownership map (R363 to R366, R384 to R399) -/

@[simp] theorem State.canonical_tradeRequest (s : State) (kind : TradeKind) (d src t : Word) (reg : Nat) :
    Claims.Canonical (s.tradeRequest kind d src t reg).state ↔ Claims.Canonical s := by
  unfold State.tradeRequest; split <;> simp

/-! ## Fabric instructions (R408 to R410, R426 to R439) -/

@[simp] theorem State.canonical_onCover (s : State) (src : Nat) (o : Owner) (dst : Nat) (f : Cover → Cover) :
    Claims.Canonical (s.onCover src o dst f) ↔ Claims.Canonical s := by
  unfold State.onCover
  dsimp only
  split
  · simp
  · exact State.canonical_mapChips (fun p => p.onFormer src o _) rfl (fun _ => rfl)

@[simp] theorem State.canonical_settleRequest (s : State) (id : Nat) (k : Packet) (val : Word) (bad : Bool) (status : Nat) :
    Claims.Canonical (s.settleRequest id k val bad status) ↔ Claims.Canonical s := by
  unfold State.settleRequest; split <;> simp

@[simp] theorem State.canonical_loseCopies (s : State) (id : Nat) (k : Packet) (status : Nat) :
    Claims.Canonical (s.loseCopies id k status) ↔ Claims.Canonical s := by
  unfold State.loseCopies; split <;> (try split) <;> simp

@[simp] theorem State.canonical_settle (s : State) (id : Nat) (k : Packet) (val : Word) (bad : Bool) (status : Nat) :
    Claims.Canonical (s.settle id k val bad status) ↔ Claims.Canonical s := by simp [State.settle]

@[simp] theorem State.canonical_sendRequest (s : State) (k : Packet) : Claims.Canonical (s.sendRequest k) ↔ Claims.Canonical s := by
  unfold State.sendRequest; split <;> simp

@[simp] theorem State.canonical_depart (s : State) (dst : Nat) (addr cap1 : Word) (homing : Bool) :
    Claims.Canonical (s.depart dst addr cap1 homing).state ↔ Claims.Canonical s := by
  unfold State.depart; dsimp only; (repeat' split) <;> simp

/-! ## The fabric's own steps (R405 to R425) -/

@[simp] theorem State.canonical_answer (s : State) (here : Nat) (id : Nat) (k : Packet) (load : Load) :
    Claims.Canonical (s.answer here id k load) ↔ Claims.Canonical s := by simp [State.answer]

@[simp] theorem State.canonical_turnBack (s : State) (id : Nat) (k : Packet) :
    Claims.Canonical (s.turnBack id k) ↔ Claims.Canonical s := by simp [State.turnBack]

@[simp] theorem State.canonical_leaveSlot (s : State) (k : Packet) : Claims.Canonical (s.leaveSlot k) ↔ Claims.Canonical s := by
  unfold State.leaveSlot; split <;> (try split) <;> simp

@[simp] theorem State.canonical_blocked (s : State) (id : Nat) (k : Packet) : Claims.Canonical (s.blocked id k) ↔ Claims.Canonical s := by
  unfold State.blocked; split <;> simp

@[simp] theorem State.canonical_crossed (s : State) (k : Packet) (u : Nat) : Claims.Canonical (s.crossed k u) ↔ Claims.Canonical s := by
  simp [State.crossed]

@[simp] theorem State.canonical_clearWindow (s : State) (src unit dst stream : Nat) :
    Claims.Canonical (s.clearWindow src unit dst stream) ↔ Claims.Canonical s := by simp [State.clearWindow]

@[simp] theorem State.canonical_passSeq (s : State) (k : Packet) (reply : Load) :
    Claims.Canonical (s.passSeq k reply) ↔ Claims.Canonical s := by
  unfold State.passSeq; split <;> simp

@[simp] theorem State.canonical_coverWords (s : State) (k : Packet) (ws : List Nat) :
    Claims.Canonical (s.coverWords k ws) ↔ Claims.Canonical s := by
  unfold State.coverWords
  split
  · refine State.canonical_onPkg_iff _ _ _ ?_
    rw [Package.sameMem_iff]
    split <;> simp
  · split <;> simp

/-! ## The wake of a thread and the end of a step (R28, R310, R313, R424) -/

@[simp] theorem State.canonical_wake (s : State) (chip core slot : Nat) :
    Claims.Canonical (s.wake chip core slot) ↔ Claims.Canonical s := by
  unfold State.wake; dsimp only; split <;> simp

@[simp] theorem State.canonical_ended (s : State) : Claims.Canonical (s.ended) ↔ Claims.Canonical s := by simp [State.ended]

end Sys2Proof.Machine
end

section
/-! SUPPORT. Chains and their checks: what an address, a check and a body leave in canonical form, the chain leaves so (R31, R97, R121, R244). -/

namespace Sys2Proof.Machine

/-! ## Outcomes -/

/-- A next state that an outcome answers has its memory in canonical form. -/
def AnswersCanonical (o : Host.Outcome State Fault Refusal) : Prop := ∀ t, o = .next t → Claims.Canonical t

@[simp] theorem answersCanonical_next (s : State) : AnswersCanonical (.next s) ↔ Claims.Canonical s :=
  ⟨fun h => h s rfl, fun h t e => by cases e; exact h⟩

@[simp] theorem answersCanonical_fault (f : Fault) : AnswersCanonical (.fault f) := fun _ e => nomatch e

@[simp] theorem answersCanonical_refused (r : Refusal) : AnswersCanonical (.refused r) := fun _ e => nomatch e

/-! ## Chains (R31, R97) -/

theorem chain_canonical {s : State} {n : Needs} {body : Vals → State → Res} (h : Claims.Canonical s)
    (hb : ∀ v, Claims.Canonical (body v s).state) : AnswersCanonical (chain s n body) := by
  unfold chain
  split
  · rw [answersCanonical_next]
    split
    · simpa using h
    · simpa using h
    · next v _ => dsimp only; split <;> simpa using hb v
  · exact answersCanonical_fault _

theorem chainNext_canonical {s : State} {n : Needs} {body : Vals → State → State} (h : Claims.Canonical s)
    (hb : ∀ v, Claims.Canonical (body v s)) : AnswersCanonical (chainNext s n body) :=
  chain_canonical h fun v => by simpa using hb v

theorem chainSlot_canonical {s : State} {n : Needs} {slot : Opr} {body : Vals → State → Res} (h : Claims.Canonical s)
    (hb : ∀ v, Claims.Canonical (body v s).state) : AnswersCanonical (chainSlot s n slot body) := by
  unfold chainSlot
  split
  · dsimp only
    split
    · exact chain_canonical h fun v => by simpa using h
    · exact chain_canonical h hb
  · exact chain_canonical h hb

/-! ## Addresses (R121, R172, R355) -/

/-- The state that a check of an address stops in has its memory in canonical form. -/
def Addr.Canonical : Addr → Prop
  | .ok _ => True
  | .trap _ _ s => Claims.Canonical s
  | .replay s => Claims.Canonical s

@[simp] theorem Addr.canonical_ok (pa : Nat) : (Addr.ok pa).Canonical := trivial
@[simp] theorem Addr.canonical_trap (c : Cause) (d : Nat) (s : State) : (Addr.trap c d s).Canonical ↔ Claims.Canonical s := .rfl
@[simp] theorem Addr.canonical_replay (s : State) : (Addr.replay s).Canonical ↔ Claims.Canonical s := .rfl

theorem Addr.canonical_bind {r : Addr} {a : Word} {body : Nat → Res} (hr : r.Canonical)
    (hb : ∀ pa, Claims.Canonical (body pa).state) : Claims.Canonical (r.bind a body).state := by
  cases r with
  | ok pa => exact hb pa
  | trap c d s => exact (Res.canonical_trap s c d a).2 hr
  | replay s => exact hr

theorem State.canonical_placeCheck {s : State} (pa : Nat) (need : Perm) (h : Claims.Canonical s) : (s.placeCheck pa need).Canonical := by
  unfold State.placeCheck
  split <;> (try split) <;> simp [h]

theorem State.canonical_checkAddr {s : State} (a : Word) (n : Nat) (need : Perm) (use : Nat) (h : Claims.Canonical s) :
    (s.checkAddr a n need use).Canonical := by
  unfold State.checkAddr
  split
  · exact h
  · split
    · simp [h]
    · simp [h]
    · exact State.canonical_placeCheck _ _ h

theorem State.canonical_plainAddr {s : State} (a : Word) (n : Nat) (need : Perm) (use : Nat) (h : Claims.Canonical s) :
    (s.plainAddr a n need use).Canonical := by
  unfold State.plainAddr
  split
  · exact h
  · exact State.canonical_checkAddr _ _ _ _ h

theorem State.canonical_homeCheck {s : State} (pa : Nat) (h : Claims.Canonical s) : (s.homeCheck pa).Canonical := by
  unfold State.homeCheck
  split <;> (try split) <;> simp [h]

theorem State.canonical_homeAddr {s : State} (a : Word) (n : Nat) (need : Perm) (h : Claims.Canonical s) :
    (s.homeAddr a n need).Canonical := by
  unfold State.homeAddr
  split
  · exact h
  · split
    · simp [h]
    · simp [h]
    · exact State.canonical_homeCheck _ h

/-! ## Checks that end a chain or give a value -/

/-- The end that a check comes to, where it ends the chain, has its memory in canonical form. -/
def Check.Keeps {α : Type} (c : Check α) : Prop := ∀ r, c = .error r → Claims.Canonical r.state

@[simp] theorem Check.keeps_ok {α : Type} (a : α) : Check.Keeps (.ok a) := fun _ e => nomatch e
@[simp] theorem Check.keeps_pure {α : Type} (a : α) : Check.Keeps (pure a) := fun _ e => nomatch e

@[simp] theorem Check.keeps_error {α : Type} (r : Res) : Check.Keeps (α := α) (.error r) ↔ Claims.Canonical r.state :=
  ⟨fun h => h r rfl, fun h _ e => by cases e; exact h⟩

theorem Check.keeps_bind {α β : Type} {x : Check α} {f : α → Check β} (hx : x.Keeps) (hf : ∀ a, Check.Keeps (f a)) :
    Check.Keeps (x >>= f) := by
  cases x with
  | ok a => exact hf a
  | error r => exact (Check.keeps_error r).2 (hx r rfl)

@[simp] theorem Check.run_pure (r : Res) : Check.run (pure r) = r := rfl
@[simp] theorem Check.run_error (r : Res) : Check.run (.error r) = r := rfl

/-- A check that ends the chain, or goes on. -/
theorem Check.run_bind {α : Type} {x : Check α} {f : α → Check Res} (hx : x.Keeps) (hf : ∀ a, Claims.Canonical (Check.run (f a)).state) :
    Claims.Canonical (Check.run (x >>= f)).state := by
  cases x with
  | ok a => exact hf a
  | error r => exact hx r rfl

@[simp] theorem State.keeps_stopWhen {s : State} (bad : Bool) (c : Cause) (detail : Nat) (v : Word) (h : Claims.Canonical s) :
    (s.stopWhen bad c detail v).Keeps := by
  unfold State.stopWhen; split <;> simp [h]

@[simp] theorem State.keeps_checkTile {s : State} (t : Nat) (h : Claims.Canonical s) : (s.checkTile t).Keeps :=
  State.keeps_stopWhen _ _ _ _ h
@[simp] theorem State.keeps_checkShape {s : State} (r : Layout) (bad : Bool) (h : Claims.Canonical s) : (s.checkShape r bad).Keeps :=
  State.keeps_stopWhen _ _ _ _ h
@[simp] theorem State.keeps_checkTarget {s : State} (fmt : Nat) (bad : Bool) (h : Claims.Canonical s) : (s.checkTarget fmt bad).Keeps :=
  State.keeps_stopWhen _ _ _ _ h
@[simp] theorem State.keeps_checkClasses {s : State} (mode : MmaMode) (a b : Operand) (h : Claims.Canonical s) :
    (s.checkClasses mode a b).Keeps := State.keeps_stopWhen _ _ _ _ h
@[simp] theorem State.keeps_checkConversion {s : State} (d o : Operand) (h : Claims.Canonical s) : (s.checkConversion d o).Keeps :=
  State.keeps_stopWhen _ _ _ _ h
@[simp] theorem State.keeps_checkSlot {s : State} (n : Nat) (h : Claims.Canonical s) : (s.checkSlot n).Keeps :=
  State.keeps_stopWhen _ _ _ _ h
@[simp] theorem State.keeps_checkTable {s : State} (die : Nat) (h : Claims.Canonical s) : (s.checkTable die).Keeps :=
  State.keeps_stopWhen _ _ _ _ h
@[simp] theorem State.keeps_checkGroup {s : State} (g : Nat) (h : Claims.Canonical s) : (s.checkGroup g).Keeps :=
  State.keeps_stopWhen _ _ _ _ h

@[simp] theorem State.keeps_checkXlateAs {s : State} (detail : XlateFail → Nat) (va : Word) (need : Perm) (use : Nat)
    (h : Claims.Canonical s) : (s.checkXlateAs detail va need use).Keeps := by
  unfold State.checkXlateAs; split <;> simp [h]

@[simp] theorem State.keeps_checkXlate {s : State} (va : Word) (need : Perm) (use : Nat) (h : Claims.Canonical s) :
    (s.checkXlate va need use).Keeps := State.keeps_checkXlateAs _ _ _ _ h

@[simp] theorem State.keeps_checkBase {s : State} (va : Word) (need : Perm) (use : Nat) (h : Claims.Canonical s) :
    (s.checkBase va need use).Keeps := by
  refine Check.keeps_bind (State.keeps_checkXlateAs _ _ _ _ h) fun pa => ?_
  split
  · split <;> simp [h]
  · simp [h]

@[simp] theorem State.keeps_checkSpan {s : State} (r : Layout) (pa : Nat) (view : Option Nat) (h : Claims.Canonical s) :
    (s.checkSpan r pa view).Keeps :=
  Check.keeps_bind (State.keeps_stopWhen _ _ _ _ h) fun _ => Check.keeps_pure _

@[simp] theorem State.keeps_checkVector {s : State} (va : Word) (fmt n use : Nat) (h : Claims.Canonical s) :
    (s.checkVector va fmt n use).Keeps :=
  Check.keeps_bind (State.keeps_checkBase _ _ _ h) fun _ => Check.keeps_bind (State.keeps_stopWhen _ _ _ _ h) fun _ => Check.keeps_pure _

@[simp] theorem State.keeps_clovePlace {s : State} (base va : Word) (pa : Nat) (writes : Bool) (h : Claims.Canonical s) :
    (s.clovePlace base va pa writes).Keeps := by
  unfold State.clovePlace; split <;> simp [h]

theorem State.keeps_clovePages {s : State} (base unit : Word) (need : Perm) (use : Nat) (l : List (Nat × Nat)) (acc : Tab Nat)
    (h : Claims.Canonical s) : (s.clovePages base unit need use l acc).Keeps := by
  induction l generalizing acc with
  | nil => exact Check.keeps_ok _
  | cons e l ih =>
    exact Check.keeps_bind (State.keeps_checkXlate _ _ _ h) fun _ =>
      Check.keeps_bind (State.keeps_clovePlace _ _ _ _ h) fun _ => ih _

@[simp] theorem State.keeps_cloveOperand {s : State} (r : Layout) (need : Perm) (view : Option Nat) (use : Nat) (h : Claims.Canonical s) :
    (s.cloveOperand r need view use).Keeps :=
  Check.keeps_bind (State.keeps_checkXlate _ _ _ h) fun _ =>
    Check.keeps_bind (State.keeps_clovePages _ _ _ _ _ _ h) fun _ => Check.keeps_pure _

@[simp] theorem State.keeps_myTile {s : State} (n : Nat) (h : Claims.Canonical s) : (s.myTile n).Keeps := by
  refine Check.keeps_bind (State.keeps_checkSlot _ h) fun _ => ?_
  dsimp only
  split <;> simp [h]

@[simp] theorem State.keeps_checkCap {s : State} (c : Cap) (a : Word) (n perm : Nat) (h : Claims.Canonical s) :
    (s.checkCap c a n perm).Keeps :=
  Check.keeps_bind (State.keeps_stopWhen _ _ _ _ h) fun _ => State.keeps_stopWhen _ _ _ _ h

/-! ## Machine steps -/

/-- What a step that may not be enabled gives, where it gives something, is as `P` says. -/
def Yields {α : Type} (P : α → Prop) (o : Option α) : Prop := ∀ a, o = some a → P a

@[simp] theorem yields_none {α : Type} (P : α → Prop) : Yields P none := fun _ e => nomatch e

@[simp] theorem yields_some {α : Type} (P : α → Prop) (a : α) : Yields P (some a) ↔ P a :=
  ⟨fun h => h a rfl, fun h _ e => by cases e; exact h⟩

@[simp] theorem yields_when {α : Type} (P : α → Prop) (b : Bool) (a : α) : Yields P (when b a) ↔ (b = true → P a) := by
  cases b <;> simp [when]

theorem yields_bind {α β : Type} {P : β → Prop} {o : Option α} {f : α → Option β} (hf : ∀ a, o = some a → Yields P (f a)) :
    Yields P (o.bind f) := by
  cases o with
  | none => exact yields_none P
  | some a => exact hf a rfl

theorem yields_map {α β : Type} {P : β → Prop} {o : Option α} {f : α → β} (hf : ∀ a, o = some a → P (f a)) : Yields P (o.map f) := by
  cases o with
  | none => exact yields_none P
  | some a => exact (yields_some P _).2 (hf a rfl)

/-- A step that gives a package with its memory in canonical form. -/
abbrev YieldsWf (o : Option Package) : Prop := Yields (fun p => p.mem.wf = true) o

/-- A step that leaves the memory of the package as it was. -/
theorem yieldsWf_of_mem {o : Option Package} {m : Memory} (h : m.wf = true) (e : ∀ q, o = some q → q.mem = m) : YieldsWf o :=
  fun q hq => (congrArg Memory.wf (e q hq)).trans h

theorem jobStep_canonical {chip id : Nat} {s : State} {f : Package → Job → Option Package} (h : Claims.Canonical s)
    (hf : ∀ p j, p.mem.wf = true → YieldsWf (f p j)) : AnswersCanonical (jobStep chip id s f) := by
  unfold jobStep
  split
  · split
    · next q e =>
      obtain ⟨j, -, hq⟩ := Option.bind_eq_some_iff.1 e
      exact (answersCanonical_next _).2 (State.canonical_setPkg h (hf _ j (State.wf_pkg h chip) q hq))
    · exact answersCanonical_fault _
  · exact answersCanonical_fault _

theorem pkgStep_canonical {chip : Nat} {s : State} {f : Package → Option Package} (h : Claims.Canonical s)
    (hf : ∀ p, p.mem.wf = true → YieldsWf (f p)) : AnswersCanonical (pkgStep chip s f) := by
  unfold pkgStep
  split
  · split
    · next q e => exact (answersCanonical_next _).2 (State.canonical_setPkg h (hf _ (State.wf_pkg h chip) q e))
    · exact answersCanonical_fault _
  · exact answersCanonical_fault _

theorem sysStep_canonical {s : State} {f : State → Option State} (hf : Yields Claims.Canonical (f s)) :
    AnswersCanonical (sysStep s f) := by
  unfold sysStep
  split
  · next t e => exact (answersCanonical_next _).2 (hf t e)
  · exact answersCanonical_fault _

end Sys2Proof.Machine
end

section
/-! SUPPORT. What the bodies of chains leave in canonical form: stores, full/empty operations, creations, barriers, and words read. -/

namespace Sys2Proof.Machine

/-! ## A package put in the place of the issuing one -/

theorem State.canonical_replaceHere {s : State} {p : Package} (h : Claims.Canonical s) (hp : p.mem.wf = true) :
    Claims.Canonical (s.onHere (fun _ => p)) := State.canonical_setPkg h hp

/-! ## Stores (R155, R212) -/

/-- The package that a store leaves has its memory in canonical form. -/
def Stored.Wf : Stored → Prop
  | .ok p => p.mem.wf = true
  | .full _ => True

theorem Package.wf_outboxStore {p : Package} (c line : Nat) (ws : List (Nat × Byte)) (h : p.mem.wf = true) :
    (p.outboxStore c line ws).Wf := by
  unfold Package.outboxStore
  dsimp only
  split
  · exact h
  · split
    · exact h
    · split
      · exact h
      · split
        · trivial
        · exact Package.wf_writeQuiet _ h

theorem Package.wf_plainStore {p : Package} (c a : Nat) (ws : List (Nat × Byte)) (h : p.mem.wf = true) : (p.plainStore c a ws).Wf := by
  unfold Package.plainStore
  split
  · exact Package.wf_writeQuiet _ h
  · exact Package.wf_outboxStore _ _ _ h

theorem State.canonical_storeThen {s : State} (pa : Nat) (v : Word) (n : Nat) {done : State → Res} (h : Claims.Canonical s)
    (hd : ∀ t, Claims.Canonical t → Claims.Canonical (done t).state) : Claims.Canonical (s.storeThen pa v n done).state := by
  have stored := Package.wf_plainStore s.cur.core pa (bytesAt pa v.toNat n) (State.wf_here h)
  unfold State.storeThen
  split
  · next p e =>
    rw [e] at stored
    exact hd _ (State.canonical_replaceHere h stored)
  · simpa using h

/-! ## Full/empty operations (R172, R175) -/

/-- What a thread awaits at a home ends its chain in the state that it is in. -/
theorem State.canonical_awaitHome {s : State} {id : Nat} {r : Res} (h : Claims.Canonical s) (e : s.awaitHome id = some r) :
    Claims.Canonical r.state := by
  unfold State.awaitHome at e
  split at e
  · cases e; split <;> simpa using h
  · cases e

theorem State.canonical_issueFe {s : State} (op : FeOp) (need : Perm) (a : Word) (reg : Nat) (val : Word) (h : Claims.Canonical s) :
    Claims.Canonical (s.issueFe op need a reg val).state := by
  unfold State.issueFe
  split
  · next r e =>
    obtain ⟨id, -, e⟩ := Option.bind_eq_some_iff.1 e
    exact State.canonical_awaitHome h e
  · refine Addr.canonical_bind (State.canonical_homeAddr _ _ _ h) fun pa => ?_
    have sent : ∀ j id, Claims.Canonical ((s.onHere (fun p => p.addJob j)).onMe (fun t => { t with pend := id })) := by
      intro j id; simpa using h
    dsimp only
    split
    · have arrived := fun o id => State.canonical_onHere (sent (.fe o) (some id)) (fun p hp => Package.wf_arriveFe id o hp)
      split <;> simpa using arrived _ _
    · split <;> simpa using h

/-! ## Creations (R191 to R193, R310) -/

/-- The package that a creation leaves has the memory of the one before. -/
theorem Package.spawnOn_mem {p q : Package} {c die creator : Nat} {entry : BitVec 56} {cfg : Word} {parent start : Nat} {w : Word}
    (h : p.spawnOn c die creator entry cfg parent start = .done q w) : q.mem = p.mem := by
  unfold Package.spawnOn at h
  dsimp only at h
  split at h
  · cases h; rfl
  · split at h
    · cases h; rfl
    · split at h
      · cases h
      · next r cell e =>
        cases h
        exact (Package.newCell_mem e :)

theorem State.canonical_forkPair (s : State) (acc exe : BitVec 56) (cfg : Word) :
    Claims.Canonical (s.forkPair acc exe cfg).1 ↔ Claims.Canonical s := by
  unfold State.forkPair
  dsimp only
  split
  · split
    · rfl
    · split
      · rfl
      · split
        · rfl
        · simp
  · rfl

/-! ## Barriers (R332, R340) and words read (R341, R438) -/

theorem State.canonical_arrive {s : State} (n kind d : Nat) {done : Bar → State → Res} (h : Claims.Canonical s)
    (hd : ∀ b t, Claims.Canonical t → Claims.Canonical (done b t).state) : Claims.Canonical (s.arrive n kind d done).state := by
  unfold State.arrive
  dsimp only
  split
  · simpa using h
  · split
    · simpa using h
    · exact hd _ _ (by simpa using h)

theorem firstSome_eq_some {α β : Type} {l : List α} {f : α → Option β} {b : β} (h : firstSome l f = some b) : ∃ a ∈ l, f a = some b := by
  induction l with
  | nil => cases h
  | cons a l ih =>
    simp only [firstSome] at h
    split at h
    · next e => cases h; exact ⟨a, List.mem_cons_self, e⟩
    · obtain ⟨x, hx, e⟩ := ih h
      exact ⟨x, List.mem_cons_of_mem _ hx, e⟩

theorem State.canonical_wordsFail {s : State} {xs : List (Word × Nat)} {late : Bool} {r : Res} (h : Claims.Canonical s)
    (e : s.wordsFail xs late = some r) : Claims.Canonical r.state := by
  obtain ⟨x, -, e⟩ := firstSome_eq_some e
  have checked := State.canonical_checkAddr x.1 8 { r := true } (300 + x.2) h
  split at e
  · cases e
  · next c d t ok =>
    rw [ok] at checked
    split at e
    · cases e; simpa using checked
    · cases e
  · next t ok =>
    rw [ok] at checked
    split at e
    · cases e
    · cases e; exact checked

theorem State.canonical_readWords {s : State} (a : Word) (n : Nat) {body : List Word → Res} (h : Claims.Canonical s)
    (hb : ∀ ws, Claims.Canonical (body ws).state) : Claims.Canonical (s.readWords a n body).state := by
  unfold State.readWords
  dsimp only
  split
  · exact h
  · split
    · next e => exact State.canonical_wordsFail h e
    · next e => exact State.canonical_wordsFail h e
    · split
      · simpa using h
      · exact hb _

/-! ## Vector operations (R278 to R284) -/

theorem State.canonical_vecIssue {s : State} (fn : VFn) (double : Bool) (rnd : Rnd) (ld : Rec) (ls lt : Option Rec) (dv sv : Option Nat)
    (scalar : Word) (h : Claims.Canonical s) : Claims.Canonical (s.vecIssue fn double rnd ld ls lt dv sv scalar).state := by
  refine Check.run_bind (State.keeps_checkShape _ _ h) fun _ => ?_
  refine Check.run_bind (by split <;> simp [h]) fun _ => ?_
  refine Check.run_bind (by split <;> simp [h]) fun _ => ?_
  refine Check.run_bind (State.keeps_checkBase _ _ _ h) fun pd => ?_
  refine Check.run_bind (by split <;> simp [h]) fun ps => ?_
  refine Check.run_bind (by split <;> simp [h]) fun pt => ?_
  refine Check.run_bind (State.keeps_checkSpan _ _ _ h) fun od => ?_
  refine Check.run_bind (by split <;> simp [h]) fun os => ?_
  refine Check.run_bind (by split <;> simp [h]) fun ot => ?_
  refine Check.run_bind (State.keeps_checkTarget _ _ h) fun _ => ?_
  exact (State.canonical_dispatch _ _).2 h

/-! ## Loads, stores and multicasts of the fabric (R432, R434, R437) -/

theorem State.canonical_store {s : State} (c : Cap) (a : Word) (bytes : List (Nat × Byte)) (tag : Bool) (h : Claims.Canonical s) :
    Claims.Canonical (Check.run (s.store c a bytes tag)).state := by
  refine Check.run_bind (State.keeps_checkCap _ _ _ _ h) fun _ => ?_
  rw [Check.run_pure]
  split <;> simpa using h

theorem State.canonical_capLoad {s : State} (c : Cap) (a : Word) (n : Nat) {done : Nat → State → Res} (h : Claims.Canonical s)
    (hd : ∀ pa, Claims.Canonical (done pa s).state) : Claims.Canonical (Check.run (s.capLoad c a n done)).state := by
  refine Check.run_bind (State.keeps_checkCap _ _ _ _ h) fun _ => ?_
  rw [Check.run_pure]
  split
  · split <;> simpa using h
  · split
    · exact h
    · split
      · simpa using h
      · exact hd _

theorem State.canonical_mcastSend {s t : State} {g gen : Nat} {c : Cap} {served : List Nat} {l : List (Nat × Word)} (h : Claims.Canonical s)
    (e : s.mcastSend g gen c served l = .ok t) : Claims.Canonical t := by
  induction l generalizing s served with
  | nil => cases e; exact h
  | cons m l ih =>
    simp only [State.mcastSend] at e
    split at e
    · split at e
      · cases e
      · exact ih (by simpa using h) e
    · split at e
      · cases e
      · exact ih (by simpa using h) e

theorem State.canonical_mcastTo {s t : State} {g : Nat} {c : Cap} (h : Claims.Canonical s) (e : s.mcastTo g c = .ok t) :
    Claims.Canonical t := State.canonical_mcastSend h e

end Sys2Proof.Machine
end

section
/-! SUPPORT. The instructions of threads: the chain of each leaves memory in canonical form (R121 to R439). A chain that checks its operands
passes its checks one by one (`Check.run_bind`), and what it does after them is looked at then. -/

namespace Sys2Proof.Machine

/-! ## Integers and moves (R104 to R111) -/

theorem binary_canonical (f : Word → Word → Word) (d : Reg) (src : Src) {s : State} (h : Claims.Canonical s) :
    AnswersCanonical (binary f d src s) :=
  chainNext_canonical h fun _ => by simp [h]

theorem unary_canonical (f : Word → Word) (d : Reg) (src : Src) {s : State} (h : Claims.Canonical s) :
    AnswersCanonical (unary f d src s) :=
  chainNext_canonical h fun _ => by simp [h]

theorem withImm_canonical (f : Word → Word) (d : Reg) {s : State} (h : Claims.Canonical s) :
    AnswersCanonical (withImm f d s) :=
  chainNext_canonical h fun _ => by simp [h]

theorem execMov_canonical (d : Dst) (src : Src) {s : State} (h : Claims.Canonical s) :
    AnswersCanonical (execMov d src s) :=
  chainNext_canonical h fun _ => by simp [h]

theorem execLi_canonical (d : Dst) (imm : Word) {s : State} (h : Claims.Canonical s) :
    AnswersCanonical (execLi d imm s) :=
  chainNext_canonical h fun _ => by simp [h]

theorem execLea_canonical (d : Reg) (b : RegOp) (disp : Word) {s : State} (h : Claims.Canonical s) :
    AnswersCanonical (execLea d b disp s) :=
  chainNext_canonical h fun _ => by simp [h]

theorem execSel_canonical (d : Reg) (src : Src) (t : Tgt) {s : State} (h : Claims.Canonical s) :
    AnswersCanonical (execSel d src t s) := by
  unfold execSel
  refine chainNext_canonical h fun v => ?_
  split <;> simp [h]

theorem execBfi_canonical (d : Reg) (src : Src) (t : Tgt) {s : State} (h : Claims.Canonical s) :
    AnswersCanonical (execBfi d src t s) :=
  chainNext_canonical h fun _ => by simp [h]

/-! ## Plain accesses (R120, R121, R155, R212, R213) -/

theorem loadOp_canonical (signed : Bool) (sz : Size) (d : Reg) (b : RegOp) (disp : Word) {s : State} (h : Claims.Canonical s) :
    AnswersCanonical (loadOp signed sz d b disp s) := by
  unfold loadOp
  dsimp only
  refine chain_canonical h fun v => Addr.canonical_bind (State.canonical_plainAddr _ _ _ _ h) fun pa => ?_
  simpa using h

theorem execSt_canonical (sz : Size) (d : Reg) (b : RegOp) (disp : Word) {s : State} (h : Claims.Canonical s) :
    AnswersCanonical (execSt sz d b disp s) := by
  unfold execSt
  dsimp only
  refine chain_canonical h fun v => Addr.canonical_bind (State.canonical_plainAddr _ _ _ _ h) fun pa => ?_
  exact State.canonical_storeThen _ _ _ h fun t ht => by simpa using ht

theorem execJtab_canonical (idx : Reg) (b : RegOp) (bound : RegOp) {s : State} (h : Claims.Canonical s) :
    AnswersCanonical (execJtab idx b bound s) := by
  unfold execJtab
  refine chain_canonical h fun v => ?_
  split
  · simpa using h
  · refine Addr.canonical_bind (State.canonical_plainAddr _ _ _ _ h) fun pa => ?_
    dsimp only
    split <;> simpa using h

/-! ## Control transfer, mode and control registers (R112 to R119, R132 to R135) -/

theorem branchOn_canonical (f : Word → Bool) (d : Reg) (off : Word) {s : State} (h : Claims.Canonical s) :
    AnswersCanonical (branchOn f d off s) :=
  chain_canonical h fun _ => by simp [h]

theorem branchCmp_canonical (f : Word → Word → Bool) (d : Reg) (src : Src) (off : Word) {s : State} (h : Claims.Canonical s) :
    AnswersCanonical (branchCmp f d src off s) :=
  chain_canonical h fun _ => by simp [h]

theorem execJ_canonical (off : Word) {s : State} (h : Claims.Canonical s) :
    AnswersCanonical (execJ off s) :=
  chain_canonical h fun _ => by simp [h]

theorem execCall_canonical (off : Word) {s : State} (h : Claims.Canonical s) :
    AnswersCanonical (execCall off s) :=
  chain_canonical h fun _ => by simp [h]

theorem execJr_canonical (src : RegOp) {s : State} (h : Claims.Canonical s) :
    AnswersCanonical (execJr src s) :=
  chain_canonical h fun _ => by simp [h]

theorem execRet_canonical {s : State} (h : Claims.Canonical s) :
    AnswersCanonical (execRet s) :=
  chain_canonical h fun _ => by simp [h]

theorem execYield_canonical {s : State} (h : Claims.Canonical s) :
    AnswersCanonical (execYield s) :=
  chainNext_canonical h fun _ => by simp [h]

theorem execRetire_canonical {s : State} (h : Claims.Canonical s) :
    AnswersCanonical (execRetire s) :=
  chain_canonical h fun _ => by simp [h]

theorem execNop_canonical {s : State} (h : Claims.Canonical s) :
    AnswersCanonical (execNop s) :=
  chainNext_canonical h fun _ => by simp [h]

theorem execTrap_canonical (code : Word) {s : State} (h : Claims.Canonical s) :
    AnswersCanonical (execTrap code s) :=
  chain_canonical h fun _ => by simp [h]

theorem execBkpt_canonical (code : Word) {s : State} (h : Claims.Canonical s) :
    AnswersCanonical (execBkpt code s) :=
  chain_canonical h fun _ => by simp [h]

theorem execIllegalChain_canonical (_why : Illegal) {s : State} (h : Claims.Canonical s) :
    AnswersCanonical (execIllegalChain _why s) :=
  chain_canonical h fun _ => by simp [h]

theorem execSetrm_canonical (imm : Word) {s : State} (h : Claims.Canonical s) :
    AnswersCanonical (execSetrm imm s) := by
  unfold execSetrm
  refine chain_canonical h fun v => ?_
  split <;> simp [h]

theorem execRdflg_canonical (d : Reg) {s : State} (h : Claims.Canonical s) :
    AnswersCanonical (execRdflg d s) :=
  chainNext_canonical h fun _ => by simp [h]

theorem execClrflg_canonical (imm : Word) {s : State} (h : Claims.Canonical s) :
    AnswersCanonical (execClrflg imm s) :=
  chainNext_canonical h fun _ => by simp [h]

theorem execSread_canonical (d : Reg) (n : BitVec 3) {s : State} (h : Claims.Canonical s) :
    AnswersCanonical (execSread d n s) :=
  chainNext_canonical h fun _ => by simp [h]

theorem execSwrite_canonical (d : Reg) (n : BitVec 3) {s : State} (h : Claims.Canonical s) :
    AnswersCanonical (execSwrite d n s) :=
  chainNext_canonical h fun _ => by simp [h]

theorem execSreadClusterFlags_canonical (d : Reg) {s : State} (h : Claims.Canonical s) :
    AnswersCanonical (execSreadClusterFlags d s) := by
  unfold execSreadClusterFlags
  refine chain_canonical h fun v => ?_
  dsimp only
  split <;> simp [h]

/-! ## Full/empty words and atomics (R157, R172 to R179) -/

theorem feRead_canonical (op : FeOp) (need : Perm) (d : Reg) (b : RegOp) (disp : Word) {s : State} (h : Claims.Canonical s) :
    AnswersCanonical (feRead op need d b disp s) :=
  chain_canonical h fun _ => State.canonical_issueFe _ _ _ _ _ h

theorem feWrite_canonical (op : FeOp) (d : Reg) (b : RegOp) (disp : Word) {s : State} (h : Claims.Canonical s) :
    AnswersCanonical (feWrite op d b disp s) :=
  chain_canonical h fun _ => State.canonical_issueFe _ _ _ _ _ h

theorem execSeteMemory_canonical (b : RegOp) (disp : Word) {s : State} (h : Claims.Canonical s) :
    AnswersCanonical (execSeteMemory b disp s) :=
  chain_canonical h fun _ => State.canonical_issueFe _ _ _ _ _ h

theorem execSeteRegister_canonical (d : Reg) {s : State} (h : Claims.Canonical s) :
    AnswersCanonical (execSeteRegister d s) :=
  chainNext_canonical h fun _ => by simp [h]

theorem atomicOp_canonical (op : AmoOp) (double : Bool) (d : Reg) (b : RegOp) (disp : Word) (t : Opr)
    {s : State} (h : Claims.Canonical s) :
    AnswersCanonical (atomicOp op double d b disp t s) := by
  refine chain_canonical h fun v => Addr.canonical_bind (State.canonical_homeAddr _ _ _ h) fun pa => ?_
  simpa using h

/-! ## Messages (R140 to R151, R180 to R184) -/

theorem sendOp_canonical (toThread : Bool) (d : Reg) (handler : BitVec 6) (payload : Option RegOp) (count : BitVec 3)
    {s : State} (h : Claims.Canonical s) :
    AnswersCanonical (sendOp toThread d handler payload count s) := by
  unfold sendOp
  dsimp only
  refine chain_canonical h fun v => ?_
  split <;> simpa using h

theorem execWaitm_canonical {s : State} (h : Claims.Canonical s) :
    AnswersCanonical (execWaitm s) := by
  unfold execWaitm
  refine chain_canonical h fun v => ?_
  split <;> simp [h]

theorem execTakem_canonical (d : Reg) {s : State} (h : Claims.Canonical s) :
    AnswersCanonical (execTakem d s) := by
  unfold execTakem
  refine chain_canonical h fun v => ?_
  dsimp only
  (repeat' split) <;> simp [h]

theorem execHtab_canonical (d : Reg) (src : Src) {s : State} (h : Claims.Canonical s) :
    AnswersCanonical (execHtab d src s) :=
  chainNext_canonical h fun _ => by simp [h]

theorem execMcfgReadConfig_canonical (d : Reg) {s : State} (h : Claims.Canonical s) :
    AnswersCanonical (execMcfgReadConfig d s) :=
  chainNext_canonical h fun _ => by simp [h]

theorem execMcfgWriteConfig_canonical (d : Reg) {s : State} (h : Claims.Canonical s) :
    AnswersCanonical (execMcfgWriteConfig d s) :=
  chainNext_canonical h fun _ => by simp [h]

theorem execMcfgReadDropCounter_canonical (d : Reg) {s : State} (h : Claims.Canonical s) :
    AnswersCanonical (execMcfgReadDropCounter d s) :=
  chainNext_canonical h fun _ => by simp [h]

theorem execMcfgReadAccept_canonical (d : Reg) (n : BitVec 4) {s : State} (h : Claims.Canonical s) :
    AnswersCanonical (execMcfgReadAccept d n s) :=
  chainNext_canonical h fun _ => by simp [h]

theorem execMcfgWriteAccept_canonical (d : Reg) (n : BitVec 4) {s : State} (h : Claims.Canonical s) :
    AnswersCanonical (execMcfgWriteAccept d n s) :=
  chainNext_canonical h fun _ => by simp [h]

/-! ## Ports and register deposits (R158 to R162, R185 to R189) -/

theorem execPbind_canonical (port : Port) (src : Src) {s : State} (h : Claims.Canonical s) :
    AnswersCanonical (execPbind port src s) := by
  unfold execPbind
  refine chain_canonical h fun v => ?_
  dsimp only
  (repeat' split) <;> simp [h]

theorem execPunbind_canonical (port : Port) {s : State} (h : Claims.Canonical s) :
    AnswersCanonical (execPunbind port s) :=
  chainNext_canonical h fun _ => by simp [h]

theorem execPstat_canonical (d : Reg) (port : Port) (t : Option RegOp) {s : State} (h : Claims.Canonical s) :
    AnswersCanonical (execPstat d port t s) :=
  chainNext_canonical h fun _ => by simpa using h

theorem execPush_canonical (d : Reg) (src : Src) {s : State} (h : Claims.Canonical s) :
    AnswersCanonical (execPush d src s) := by
  unfold execPush
  refine chain_canonical h fun v => ?_
  dsimp only
  (repeat' split) <;> simp [h]

theorem execDepr_canonical (d : Reg) (src : Src) (idx : BitVec 5) {s : State} (h : Claims.Canonical s) :
    AnswersCanonical (execDepr d src idx s) := by
  unfold execDepr
  refine chain_canonical h fun v => ?_
  split <;> simp [h]

/-! ## Threads and access/execute pairs (R190 to R201) -/

theorem execSpawnL_canonical (d : Reg) (src : RegOp) (t : Tgt) {s : State} (h : Claims.Canonical s) :
    AnswersCanonical (execSpawnL d src t s) := by
  unfold execSpawnL
  refine chain_canonical h fun v => ?_
  split
  · exact h
  · next p w e =>
    have made := Package.spawnOn_mem e
    simpa using State.canonical_replaceHere h (made ▸ State.wf_here h)

theorem execSpawnC_canonical (d : Reg) (src : RegOp) (t : Tgt) {s : State} (h : Claims.Canonical s) :
    AnswersCanonical (execSpawnC d src t s) := by
  unfold execSpawnC
  refine chain_canonical h fun v => ?_
  split <;> simp [h]

theorem execForkae_canonical (d : Reg) (src : RegOp) (t : Tgt) {s : State} (h : Claims.Canonical s) :
    AnswersCanonical (execForkae d src t s) := by
  refine chainNext_canonical h fun v => ?_
  simpa [State.canonical_forkPair] using h

theorem execTstat_canonical (d : Reg) (src : RegOp) {s : State} (h : Claims.Canonical s) :
    AnswersCanonical (execTstat d src s) := by
  unfold execTstat
  refine chainNext_canonical h fun v => ?_
  dsimp only
  split <;> simp [h]

theorem execTreg_canonical (d : Reg) (src : RegOp) (t : Tgt) {s : State} (h : Claims.Canonical s) :
    AnswersCanonical (execTreg d src t s) :=
  chainNext_canonical h fun _ => by simp [h]

theorem execTwreg_canonical (d : Reg) (src : RegOp) (t : RegOp) {s : State} (h : Claims.Canonical s) :
    AnswersCanonical (execTwreg d src t s) := by
  unfold execTwreg
  refine chainNext_canonical h fun v => ?_
  split
  · exact h
  · split <;> simp [h]

theorem execTstop_canonical (src : RegOp) {s : State} (h : Claims.Canonical s) :
    AnswersCanonical (execTstop src s) := by
  unfold execTstop
  refine chain_canonical h fun v => ?_
  dsimp only
  (repeat' split) <;> simp [h]

theorem execTresume_canonical (src : RegOp) {s : State} (h : Claims.Canonical s) :
    AnswersCanonical (execTresume src s) := by
  unfold execTresume
  refine chainNext_canonical h fun v => ?_
  split <;> simp [h]

theorem execQld_canonical (sz : Size) (q : Bool) (b : RegOp) (disp : Word) {s : State} (h : Claims.Canonical s) :
    AnswersCanonical (execQld sz q b disp s) := by
  unfold execQld
  dsimp only
  refine chain_canonical h fun v => ?_
  split
  · split
    · simpa using h
    · refine Addr.canonical_bind (State.canonical_plainAddr _ _ _ _ h) fun pa => ?_
      simpa using h
  · simpa using h

theorem execQst_canonical (sz : Size) (q : Bool) (b : RegOp) (disp : Word) {s : State} (h : Claims.Canonical s) :
    AnswersCanonical (execQst sz q b disp s) := by
  unfold execQst
  dsimp only
  refine chain_canonical h fun v => ?_
  split
  · split
    · simpa using h
    · refine Addr.canonical_bind (State.canonical_plainAddr _ _ _ _ h) fun pa => ?_
      exact State.canonical_storeThen _ _ _ h fun t ht => by simpa using ht
  · simpa using h

theorem execRdv_canonical (d : Reg) (src : Src) {s : State} (h : Claims.Canonical s) :
    AnswersCanonical (execRdv d src s) := by
  unfold execRdv
  dsimp only
  refine chain_canonical h fun v => ?_
  split
  · split
    · split
      · simpa using h
      · split <;> simpa using h
    · split <;> simpa using h
  · simpa using h

/-! ## Banks, the log region and code visibility (R153, R154, R202 to R206) -/

theorem bfmtOp_canonical (d : Reg) (src : Src) {s : State} (h : Claims.Canonical s) :
    AnswersCanonical (bfmtOp d src s) := by
  unfold bfmtOp
  refine chain_canonical h fun v => ?_
  dsimp only
  (repeat' split) <;> simp [h]

theorem bmodeOp_canonical (d : Reg) (src : Src) {s : State} (h : Claims.Canonical s) :
    AnswersCanonical (bmodeOp d src s) := by
  unfold bmodeOp
  refine chainNext_canonical h fun v => ?_
  split <;> simp [h]

theorem execLogset_canonical (d : Reg) (src : RegOp) {s : State} (h : Claims.Canonical s) :
    AnswersCanonical (execLogset d src s) := by
  unfold execLogset
  refine chain_canonical h fun v => ?_
  dsimp only
  (repeat' split) <;> simp [h]

theorem execCpub_canonical (d : Reg) (src : RegOp) (t : RegOp) {s : State} (h : Claims.Canonical s) :
    AnswersCanonical (execCpub d src t s) := by
  unfold execCpub
  refine chainNext_canonical h fun v => ?_
  split <;> simp [h]

theorem execIfence_canonical {s : State} (h : Claims.Canonical s) :
    AnswersCanonical (execIfence s) :=
  chainNext_canonical h fun _ => by simp [h]

/-! ## Scalar floating point (R124 to R131) -/

theorem float2_canonical (f : Fmt) (op : Nat → Num → Num → FRes) (r : Rnd) (d : Reg) (src : Src)
    {s : State} (h : Claims.Canonical s) :
    AnswersCanonical (float2 f op r d src s) :=
  chainNext_canonical h fun _ => by simp [h]

theorem floatBits_canonical (f : Fmt) (op : Nat → Nat → FRes) (d : Reg) (src : Src) {s : State} (h : Claims.Canonical s) :
    AnswersCanonical (floatBits f op d src s) :=
  chainNext_canonical h fun _ => by simp [h]

theorem float3_canonical (f : Fmt) (negProd negAdd : Bool) (r : Rnd) (d : Reg) (src : Src) (t : Tgt)
    {s : State} (h : Claims.Canonical s) :
    AnswersCanonical (float3 f negProd negAdd r d src t s) :=
  chainNext_canonical h fun _ => by simp [h]

theorem sqrtOp_canonical (f : Fmt) (r : Rnd) (d : Reg) (src : Src) {s : State} (h : Claims.Canonical s) :
    AnswersCanonical (sqrtOp f r d src s) :=
  chainNext_canonical h fun _ => by simp [h]

theorem classOp_canonical (f : Fmt) (d : Reg) (src : Src) {s : State} (h : Claims.Canonical s) :
    AnswersCanonical (classOp f d src s) :=
  chainNext_canonical h fun _ => by simp [h]

theorem signOp_canonical (f : Fmt) (g : Bool → Bool → Bool) (d : Reg) (src : Src) {s : State} (h : Claims.Canonical s) :
    AnswersCanonical (signOp f g d src s) :=
  floatBits_canonical _ _ _ _ h

theorem convertFloat_canonical (from_ to_ : Fmt) (r : Rnd) (d : Reg) (src : Src) {s : State} (h : Claims.Canonical s) :
    AnswersCanonical (convertFloat from_ to_ r d src s) := by
  unfold convertFloat
  refine chain_canonical h fun v => ?_
  dsimp only
  split <;> simp [h]

theorem fromInt_canonical (signed_ : Bool) (to_ : Fmt) (r : Rnd) (d : Reg) (src : Src) {s : State} (h : Claims.Canonical s) :
    AnswersCanonical (fromInt signed_ to_ r d src s) :=
  chainNext_canonical h fun _ => by simp [h]

theorem toInt_canonical (from_ : Fmt) (lo hi : Int) (r : Rnd) (d : Reg) (src : Src) {s : State} (h : Claims.Canonical s) :
    AnswersCanonical (toInt from_ lo hi r d src s) := by
  unfold toInt
  refine chain_canonical h fun v => ?_
  dsimp only
  split <;> simp [h]

/-! ## Cassia (R240 to R253, R263 to R284) -/

theorem mmaOp_canonical (mode : MmaMode) (tile : TileNo) (la lb : Rec) (c : RegOp) (disp : Word)
    {s : State} (h : Claims.Canonical s) :
    AnswersCanonical (mmaOp mode tile la lb c disp s) := by
  refine chain_canonical h fun v => ?_
  iterate 8 refine Check.run_bind (by simp [h]) fun _ => ?_
  simp [h]

theorem execAccz_canonical (tile : TileNo) {s : State} (h : Claims.Canonical s) :
    AnswersCanonical (execAccz tile s) := by
  refine chain_canonical h fun v => ?_
  refine Check.run_bind (by simp [h]) fun _ => ?_
  simp [h]

theorem execAccswap_canonical (tile : TileNo) {s : State} (h : Claims.Canonical s) :
    AnswersCanonical (execAccswap tile s) := by
  refine chain_canonical h fun v => ?_
  refine Check.run_bind (by simp [h]) fun _ => ?_
  simp [h]

theorem accMove_canonical (reads : Bool) (tile : TileNo) (rec : Rec) (w : RegOp) (disp : Word)
    {s : State} (h : Claims.Canonical s) :
    AnswersCanonical (accMove reads tile rec w disp s) := by
  refine chain_canonical h fun v => ?_
  iterate 4 refine Check.run_bind (by simp [h]) fun _ => ?_
  rw [Check.run_pure]
  split <;> simp [h]

theorem accmodeOp_canonical (d : Reg) (src : Src) {s : State} (h : Claims.Canonical s) :
    AnswersCanonical (accmodeOp d src s) := by
  refine chain_canonical h fun v => ?_
  refine Check.run_bind (by simp [h]) fun _ => ?_
  rw [Check.run_pure]
  (repeat' split) <;> simp [h]

theorem drainOp_canonical (float : Bool) (rnd : Rnd) (rec : Rec) (grp : RegOp) {s : State} (h : Claims.Canonical s) :
    AnswersCanonical (drainOp float rnd rec grp s) := by
  refine chain_canonical h fun v => ?_
  refine Check.run_bind (State.keeps_checkShape _ _ h) fun _ => ?_
  refine Check.run_bind (State.keeps_checkTile _ h) fun _ => ?_
  refine Check.run_bind (State.keeps_stopWhen _ _ _ _ h) fun _ => ?_
  refine Check.run_bind (State.keeps_stopWhen _ _ _ _ h) fun _ => ?_
  refine Check.run_bind (State.keeps_checkBase _ _ _ h) fun pa => ?_
  refine Check.run_bind ?corr fun corr => ?_
  case corr =>
    split
    · exact Check.keeps_ok _
    · exact Check.keeps_bind (State.keeps_checkVector _ _ _ _ h) fun _ => Check.keeps_pure _
  refine Check.run_bind (State.keeps_checkVector _ _ _ _ h) fun col => ?_
  refine Check.run_bind (State.keeps_checkSpan _ _ _ h) fun o => ?_
  refine Check.run_bind (State.keeps_checkTarget _ _ h) fun _ => ?_
  exact (State.canonical_dispatch _ _).2 h

theorem vec2_canonical (fn : VFn) (double : Bool) (r : Rnd) (ld ls : Rec) {s : State} (h : Claims.Canonical s) :
    AnswersCanonical (vec2 fn double r ld ls s) :=
  chain_canonical h fun _ => State.canonical_vecIssue _ _ _ _ _ _ _ _ _ h

theorem vec3_canonical (fn : VFn) (double : Bool) (r : Rnd) (ld ls lt : Rec) {s : State} (h : Claims.Canonical s) :
    AnswersCanonical (vec3 fn double r ld ls lt s) :=
  chain_canonical h fun _ => State.canonical_vecIssue _ _ _ _ _ _ _ _ _ h

theorem redOp_canonical (fn : RedFn) (double : Bool) (rnd : Rnd) (ld ls : Rec) {s : State} (h : Claims.Canonical s) :
    AnswersCanonical (redOp fn double rnd ld ls s) := by
  refine chain_canonical h fun v => ?_
  iterate 7 refine Check.run_bind (by simp [h]) fun _ => ?_
  simp [h]

theorem vscaleOp_canonical (double : Bool) (r : Rnd) (ld ls : Rec) (t : Tgt) {s : State} (h : Claims.Canonical s) :
    AnswersCanonical (vscaleOp double r ld ls t s) :=
  chain_canonical h fun _ => State.canonical_vecIssue _ _ _ _ _ _ _ _ _ h

theorem vfillOp_canonical (double : Bool) (r : Rnd) (ld : Rec) (src : Src) {s : State} (h : Claims.Canonical s) :
    AnswersCanonical (vfillOp double r ld src s) :=
  chain_canonical h fun _ => State.canonical_vecIssue _ _ _ _ _ _ _ _ _ h

theorem execVcvt_canonical (r : Rnd) (ld ls : Rec) (view : BitVec 4) {s : State} (h : Claims.Canonical s) :
    AnswersCanonical (execVcvt r ld ls view s) :=
  chain_canonical h fun _ => State.canonical_vecIssue _ _ _ _ _ _ _ _ _ h

theorem execLayout_canonical (rec : Rec) (b : RegOp) (disp : Word) {s : State} (h : Claims.Canonical s) :
    AnswersCanonical (execLayout rec b disp s) := by
  refine chain_canonical h fun v => Addr.canonical_bind (State.canonical_plainAddr _ _ _ _ h) fun pa => ?_
  dsimp only
  split
  · simpa using h
  · split <;> simpa using h

theorem execRdbcRead_canonical (d : Reg) {s : State} (h : Claims.Canonical s) :
    AnswersCanonical (execRdbcRead d s) :=
  chainNext_canonical h fun _ => by simp [h]

theorem execRdbcReadClear_canonical (d : Reg) {s : State} (h : Claims.Canonical s) :
    AnswersCanonical (execRdbcReadClear d s) :=
  chainNext_canonical h fun _ => by simp [h]

theorem execEsync_canonical {s : State} (h : Claims.Canonical s) :
    AnswersCanonical (execEsync s) := by
  unfold execEsync
  refine chain_canonical h fun v => ?_
  split
  · simp [h]
  · split <;> simp [h]

theorem execEstat_canonical (d : Reg) {s : State} (h : Claims.Canonical s) :
    AnswersCanonical (execEstat d s) :=
  chainNext_canonical h fun _ => by simp [h]

/-! ## Clove (R254 to R257, R285 to R288) -/

theorem copyOp_canonical (bytes : Bool) (rnd : Rnd) (ld ls : Rec) (t : RegOp) {s : State} (h : Claims.Canonical s) :
    AnswersCanonical (copyOp bytes rnd ld ls t s) := by
  refine chain_canonical h fun v => ?_
  iterate 7 refine Check.run_bind (by simp [h]) fun _ => ?_
  rw [Check.run_pure]
  split <;> simp [h]

theorem execCopym_canonical (r : Rnd) (ld ls : Rec) (t : RegOp) {s : State} (h : Claims.Canonical s) :
    AnswersCanonical (execCopym r ld ls t s) := by
  refine chain_canonical h fun v => ?_
  iterate 15 refine Check.run_bind (by simp [h]) fun _ => ?_
  rw [Check.run_pure]
  (repeat' split) <;> simp [h]

/-! ## Pre-emption (R260 to R262, R291, R292) -/

theorem execSaveareaWrite_canonical (d : Reg) {s : State} (h : Claims.Canonical s) :
    AnswersCanonical (execSaveareaWrite d s) := by
  unfold execSaveareaWrite
  refine chain_canonical h fun v => ?_
  dsimp only
  (repeat' split) <;> simp [h]

theorem execSaveareaRead_canonical (d : Reg) {s : State} (h : Claims.Canonical s) :
    AnswersCanonical (execSaveareaRead d s) :=
  chainNext_canonical h fun _ => by simp [h]

theorem execPack_canonical {s : State} (h : Claims.Canonical s) :
    AnswersCanonical (execPack s) := by
  unfold execPack
  refine chain_canonical h fun v => ?_
  split
  · split
    · simp [h]
    · split <;> simp [h]
  · simp [h]

/-! ## Barriers and phases (R301 to R305, R313, R314, R331, R332, R340) -/

theorem execBarsetRead_canonical (d : Reg) (n : BitVec 2) {s : State} (h : Claims.Canonical s) :
    AnswersCanonical (execBarsetRead d n s) :=
  chainNext_canonical h fun _ => by simp [h]

theorem execBarsetWrite_canonical (d : Reg) (n : BitVec 2) {s : State} (h : Claims.Canonical s) :
    AnswersCanonical (execBarsetWrite d n s) :=
  chain_canonical h fun _ => by simp [h]

theorem execBar_canonical (n : BitVec 2) {s : State} (h : Claims.Canonical s) :
    AnswersCanonical (execBar n s) :=
  chain_canonical h fun _ => State.canonical_arrive _ _ _ h fun b t ht => by simpa using ht

theorem execBara_canonical (d : Reg) (n : BitVec 2) {s : State} (h : Claims.Canonical s) :
    AnswersCanonical (execBara d n s) :=
  chain_canonical h fun _ => State.canonical_arrive _ _ _ h fun b t ht => by simpa using ht

theorem execBarw_canonical (d : Reg) (n : BitVec 2) {s : State} (h : Claims.Canonical s) :
    AnswersCanonical (execBarw d n s) := by
  unfold execBarw
  refine chain_canonical h fun v => ?_
  split <;> simp [h]

theorem execPhaseB_canonical (n : BitVec 2) {s : State} (h : Claims.Canonical s) :
    AnswersCanonical (execPhaseB n s) :=
  chain_canonical h fun _ => State.canonical_arrive _ _ _ h fun b t ht => by simpa using ht

theorem execPhaseC_canonical {s : State} (h : Claims.Canonical s) :
    AnswersCanonical (execPhaseC s) :=
  chain_canonical h fun _ => by simp [h]

theorem execPhaseH_canonical {s : State} (h : Claims.Canonical s) :
    AnswersCanonical (execPhaseH s) := by
  unfold execPhaseH
  refine chain_canonical h fun v => ?_
  dsimp only
  split <;> simp [h]

/-! ## Range forks, join cells and completion cells (R306 to R312, R333 to R339) -/

theorem execRfork_canonical (d : Reg) (src : RegOp) (t : Tgt) {s : State} (h : Claims.Canonical s) :
    AnswersCanonical (execRfork d src t s) := by
  unfold execRfork
  refine chain_canonical h fun v => ?_
  dsimp only
  split
  · simpa using h
  · split
    · simpa using h
    · split
      · simpa using h
      · split
        · simpa using h
        · split
          · exact h
          · next p cell e =>
            have made : p.mem = s.here.mem := Package.newCell_mem e
            rw [Res.canonical_next, State.canonical_setReg]
            exact State.canonical_replaceHere h (by simpa [made] using State.wf_here h)

theorem execJoin_canonical (src : RegOp) {s : State} (h : Claims.Canonical s) :
    AnswersCanonical (execJoin src s) :=
  chain_canonical h fun _ => by simp [h]

theorem execCellRd_canonical (d : Reg) (src : RegOp) {s : State} (h : Claims.Canonical s) :
    AnswersCanonical (execCellRd d src s) :=
  chain_canonical h fun _ => by simp [h]

theorem execCellAdd_canonical (d : Reg) (src : RegOp) {s : State} (h : Claims.Canonical s) :
    AnswersCanonical (execCellAdd d src s) :=
  chain_canonical h fun _ => by simp [h]

theorem execCancel_canonical (src : RegOp) {s : State} (h : Claims.Canonical s) :
    AnswersCanonical (execCancel src s) :=
  chain_canonical h fun _ => by simp [h]

theorem execCellNew_canonical (d : Reg) (src : RegOp) (t : Tgt) {s : State} (h : Claims.Canonical s) :
    AnswersCanonical (execCellNew d src t s) := by
  unfold execCellNew
  refine chain_canonical h fun v => ?_
  dsimp only
  split
  · simpa using h
  · split
    · simpa using h
    · split
      · exact h
      · next p cell e =>
        have made : p.mem = s.here.mem := Package.newCell_mem e
        simpa using State.canonical_replaceHere h (made ▸ State.wf_here h)

/-! ## Grids (R316 to R323, R341 to R346) and budgets (R348) -/

theorem execGrid_canonical (d : Reg) (b : RegOp) (disp : Word) {s : State} (h : Claims.Canonical s) :
    AnswersCanonical (execGrid d b disp s) := by
  refine chain_canonical h fun v => ?_
  refine Check.run_bind (State.keeps_stopWhen _ _ _ _ h) fun _ => ?_
  refine Check.run_bind (State.keeps_checkSlot _ h) fun _ => ?_
  rw [Check.run_pure]
  refine State.canonical_readWords _ _ h fun ws => ?_
  split
  · simpa using h
  · split <;> simpa using h

theorem execGbind_canonical (d : Reg) (src : RegOp) (t : Tgt) {s : State} (h : Claims.Canonical s) :
    AnswersCanonical (execGbind d src t s) := by
  refine chainSlot_canonical h fun v => ?_
  refine Check.run_bind (State.keeps_checkSlot _ h) fun _ => ?_
  refine Check.run_bind (State.keeps_stopWhen _ _ _ _ h) fun _ => ?_
  refine Check.run_bind (State.keeps_checkXlateAs _ _ _ _ h) fun pa => ?_
  refine Check.run_bind (State.keeps_stopWhen _ _ _ _ h) fun _ => ?_
  dsimp only
  split
  · simpa using h
  · refine Check.run_bind (State.keeps_stopWhen _ _ _ _ h) fun _ => ?_
    split
    · simpa using h
    · split
      · simpa using h
      · rw [Check.run_pure, Res.canonical_next, State.canonical_setReg]
        exact State.canonical_onHere h fun p hp => Package.wf_foldl (fun _ _ hq => Package.wf_writeStep _ _ hq) _ (by simpa using hp)

theorem execLdh_canonical (sz : Size) (d : Reg) (b : RegOp) (disp : Word) (t : Tgt) {s : State} (h : Claims.Canonical s) :
    AnswersCanonical (execLdh sz d b disp t s) := by
  unfold execLdh
  dsimp only
  refine chain_canonical h fun v => Addr.canonical_bind (State.canonical_checkAddr _ _ _ _ h) fun pa => ?_
  split
  · simpa using h
  · split
    · simpa using h
    · split
      · simpa using h
      · split <;> simpa using h

theorem execHwait_canonical (d : Reg) (src : RegOp) {s : State} (h : Claims.Canonical s) :
    AnswersCanonical (execHwait d src s) := by
  refine chainSlot_canonical h fun v => ?_
  refine Check.run_bind (by simp [h]) fun _ => ?_
  simp [h]

theorem execHwaitF_canonical (d : Reg) (src : RegOp) (t : Tgt) {s : State} (h : Claims.Canonical s) :
    AnswersCanonical (execHwaitF d src t s) := by
  refine chainSlot_canonical h fun v => ?_
  refine Check.run_bind (by simp [h]) fun _ => ?_
  rw [Check.run_pure]
  split <;> simp [h]

theorem execGstatG_canonical (d : Reg) (src : Src) {s : State} (h : Claims.Canonical s) :
    AnswersCanonical (execGstatG d src s) := by
  refine chainSlot_canonical h fun v => ?_
  refine Check.run_bind (by simp [h]) fun _ => ?_
  simp [h]

theorem execGstatF_canonical (d : Reg) (src : RegOp) (t : Tgt) {s : State} (h : Claims.Canonical s) :
    AnswersCanonical (execGstatF d src t s) := by
  refine chainSlot_canonical h fun v => ?_
  refine Check.run_bind (by simp [h]) fun _ => ?_
  simp [h]

theorem execBudgetSet_canonical (d : Reg) (src : Src) {s : State} (h : Claims.Canonical s) :
    AnswersCanonical (execBudgetSet d src s) := by
  refine chain_canonical h fun v => Check.run_bind (State.keeps_checkTable _ h) fun _ => ?_
  dsimp only
  split
  · simpa using h
  · refine Check.run_bind (State.keeps_stopWhen _ _ _ _ h) fun _ => ?_
    simpa using h

theorem execBudgetRd_canonical (d : Reg) (src : Src) {s : State} (h : Claims.Canonical s) :
    AnswersCanonical (execBudgetRd d src s) := by
  refine chain_canonical h fun v => ?_
  refine Check.run_bind (by simp [h]) fun _ => ?_
  simp [h]

theorem execBudgetClr_canonical (d : Reg) (src : Src) {s : State} (h : Claims.Canonical s) :
    AnswersCanonical (execBudgetClr d src s) := by
  refine chain_canonical h fun v => ?_
  refine Check.run_bind (by simp [h]) fun _ => ?_
  simp [h]

/-! ## Anise (R318, R320 to R325, R343, R347) -/

theorem execHstep_canonical (d : Reg) (src : RegOp) {s : State} (h : Claims.Canonical s) :
    AnswersCanonical (execHstep d src s) := by
  refine chainSlot_canonical h fun v => ?_
  iterate 2 refine Check.run_bind (by simp [h]) fun _ => ?_
  rw [Check.run_pure]
  split <;> simp [h]

theorem execGfree_canonical (src : RegOp) {s : State} (h : Claims.Canonical s) :
    AnswersCanonical (execGfree src s) := by
  refine chainSlot_canonical h fun v => ?_
  refine Check.run_bind (by simp [h]) fun _ => ?_
  rw [Check.run_pure]
  split <;> simp [h]

/-! ## The ownership map (R363 to R366, R384 to R399) -/

theorem tradeS_canonical (kind : TradeKind) (src : RegOp) (t : Opr) {s : State} (h : Claims.Canonical s) :
    AnswersCanonical (tradeS kind src t s) :=
  chain_canonical h fun _ => by simp [h]

theorem tradeDS_canonical (kind : TradeKind) (d : Reg) (src : RegOp) {s : State} (h : Claims.Canonical s) :
    AnswersCanonical (tradeDS kind d src s) :=
  chain_canonical h fun _ => by simp [h]

theorem tradeDST_canonical (mem : Bool) (kind : TradeKind) (d : Reg) (src t : RegOp) {s : State} (h : Claims.Canonical s) :
    AnswersCanonical (tradeDST mem kind d src t s) :=
  chain_canonical h fun _ => by simp [h]

theorem execOwnq_canonical (d : Reg) (src : RegOp) {s : State} (h : Claims.Canonical s) :
    AnswersCanonical (execOwnq d src s) :=
  chain_canonical h fun _ => by simp [h]

theorem execOwnqA_canonical (d : Reg) (b : RegOp) (disp : Word) {s : State} (h : Claims.Canonical s) :
    AnswersCanonical (execOwnqA d b disp s) :=
  chainNext_canonical h fun _ => by simp [h]

theorem execRootset_canonical (d : Reg) (src : Src) {s : State} (h : Claims.Canonical s) :
    AnswersCanonical (execRootset d src s) := by
  unfold execRootset
  refine chain_canonical h fun v => ?_
  dsimp only
  (repeat' split) <;> simp [h]

theorem execTlbinv_canonical {s : State} (h : Claims.Canonical s) :
    AnswersCanonical (execTlbinv s) :=
  chainNext_canonical h fun _ => by simp [h]

theorem execTlbinvP_canonical (b : RegOp) (disp : Word) {s : State} (h : Claims.Canonical s) :
    AnswersCanonical (execTlbinvP b disp s) :=
  chainNext_canonical h fun _ => by simp [h]

theorem execLatt_canonical (src : RegOp) {s : State} (h : Claims.Canonical s) :
    AnswersCanonical (execLatt src s) :=
  chainNext_canonical h fun _ => by simp [h]

/-! ## Fabric instructions (R408 to R410, R426 to R439) -/

theorem execCapmk_canonical (d : Reg) (src : RegOp) (t : RegOp) {s : State} (h : Claims.Canonical s) :
    AnswersCanonical (execCapmk d src t s) := by
  refine chain_canonical h fun v => ?_
  refine Check.run_bind (by simp [h]) fun _ => ?_
  simp [h]

theorem execCapnar_canonical (d : Reg) (src : RegOp) (t : RegOp) (imm : BitVec 12) {s : State} (h : Claims.Canonical s) :
    AnswersCanonical (execCapnar d src t imm s) :=
  chainNext_canonical h fun _ => by simp [h]

theorem execCapchk_canonical (d : Reg) (src : RegOp) {s : State} (h : Claims.Canonical s) :
    AnswersCanonical (execCapchk d src s) :=
  chainNext_canonical h fun _ => by simp [h]

theorem execStr_canonical (sz : Size) (d : Reg) (b : RegOp) (disp : Word) {s : State} (h : Claims.Canonical s) :
    AnswersCanonical (execStr sz d b disp s) :=
  chain_canonical h fun _ => State.canonical_store _ _ _ _ h

theorem execStrQ_canonical (d : Reg) (hi : RegOp) (c : RegOp) (disp : Word) {s : State} (h : Claims.Canonical s) :
    AnswersCanonical (execStrQ d hi c disp s) :=
  chain_canonical h fun _ => State.canonical_store _ _ _ _ h

theorem remoteAtomic_canonical (op : AmoOp) (double : Bool) (d : Reg) (b : RegOp) (disp : Word) (t : Opr)
    {s : State} (h : Claims.Canonical s) :
    AnswersCanonical (remoteAtomic op double d b disp t s) := by
  refine chain_canonical h fun v => ?_
  refine Check.run_bind (by simp [h]) fun _ => ?_
  rw [Check.run_pure]
  split <;> simp [h]

theorem postedAtomic_canonical (op : AmoOp) (d : Reg) (b : RegOp) (disp : Word) {s : State} (h : Claims.Canonical s) :
    AnswersCanonical (postedAtomic op d b disp s) := by
  refine chain_canonical h fun v => ?_
  refine Check.run_bind (by simp [h]) fun _ => ?_
  rw [Check.run_pure]
  split <;> simp [h]

theorem execFfence_canonical (d : Reg) (src : RegOp) (t : RegOp) {s : State} (h : Claims.Canonical s) :
    AnswersCanonical (execFfence d src t s) := by
  refine chain_canonical h fun v => ?_
  refine Check.run_bind (by simp [h]) fun _ => ?_
  rw [Check.run_pure]
  (repeat' split) <;> simp [h]

theorem execLdr_canonical (sz : Size) (d : Reg) (b : RegOp) (disp : Word) {s : State} (h : Claims.Canonical s) :
    AnswersCanonical (execLdr sz d b disp s) := by
  unfold execLdr
  dsimp only
  exact chain_canonical h fun v => State.canonical_capLoad _ _ _ h fun pa => by simpa using h

theorem execLdrQ_canonical (d : Reg) (hi : RegOp) (c : RegOp) (disp : Word) {s : State} (h : Claims.Canonical s) :
    AnswersCanonical (execLdrQ d hi c disp s) :=
  chain_canonical h fun _ => State.canonical_capLoad _ _ _ h fun pa => by simpa using h

theorem execHome_canonical {s : State} (h : Claims.Canonical s) :
    AnswersCanonical (execHome s) := by
  unfold execHome
  refine chain_canonical h fun v => ?_
  split
  · split <;> simp [h]
  · simp [h]

theorem execMcast_canonical (d : Reg) (src : RegOp) {s : State} (h : Claims.Canonical s) :
    AnswersCanonical (execMcast d src s) := by
  refine chain_canonical h fun v => Check.run_bind (State.keeps_checkGroup _ h) fun _ => ?_
  rw [Check.run_pure]
  split
  · next t e => exact (Res.canonical_next t).2 (State.canonical_mcastTo h e)
  · simpa using h
  · simpa using h

theorem execMcgrp_canonical (d : Reg) (src : RegOp) {s : State} (h : Claims.Canonical s) :
    AnswersCanonical (execMcgrp d src s) := by
  refine chain_canonical h fun v => Check.run_bind (State.keeps_checkGroup _ h) fun _ => ?_
  refine Check.run_bind (State.keeps_stopWhen _ _ _ _ h) fun _ => ?_
  rw [Check.run_pure]
  exact State.canonical_readWords _ _ h fun ws => by simpa using h

theorem execGuestset_canonical (d : Reg) (src : RegOp) {s : State} (h : Claims.Canonical s) :
    AnswersCanonical (execGuestset d src s) := by
  refine chain_canonical h fun v => ?_
  refine Check.run_bind (by simp [h]) fun _ => ?_
  simp [h]

end Sys2Proof.Machine
end

section
/-! SUPPORT. Steps on items in flight: each keeps the memory of its package in canonical form. -/

namespace Sys2Proof.Machine

/-! ## The judgement of trades (R363, R364, R386) -/

/-- The package that a judgement leaves has memory `m`. -/
def Judged.HasMem (m : Memory) : Judged → Prop
  | .done p _ | .opened p _ => p.mem = m
  | .wait | .trap .. => True

@[simp] theorem Judged.hasMem_done (m : Memory) (p : Package) (fs : List Fill) : (Judged.done p fs).HasMem m ↔ p.mem = m := .rfl
@[simp] theorem Judged.hasMem_opened (m : Memory) (p : Package) (n : Nat) : (Judged.opened p n).HasMem m ↔ p.mem = m := .rfl
@[simp] theorem Judged.hasMem_wait (m : Memory) : Judged.wait.HasMem m := trivial
@[simp] theorem Judged.hasMem_trap (m : Memory) (c : Cause) (v : Word) : (Judged.trap c v).HasMem m := trivial

theorem Package.offer_hasMem (p : Package) (r h dest : Nat) (lend : Bool) : (p.offer r h dest lend).HasMem p.mem := by
  unfold Package.offer
  dsimp only
  (repeat' split) <;> simp

theorem Package.offerPart_hasMem (p : Package) (q : TradeReq) (lend : Bool) : (p.offerPart q lend).HasMem p.mem := by
  unfold Package.offerPart
  dsimp only
  split
  · simp
  · split
    · simp
    · next r e _ =>
      split
      · simp
      · split
        · simp
        · split
          · split
            · simp
            · next p' e' =>
              have cut : p'.mem = p.mem := by
                split at e'
                · cases e'; rfl
                · exact Package.split_mem e'
              have offered := Package.offer_hasMem p' r q.holder (lowBits q.s 16) lend
              rw [cut] at offered
              split
              · next e'' => rwa [e''] at offered
              · exact offered
          · exact Package.offer_hasMem _ _ _ _ _

theorem Package.mint_hasMem (p : Package) (q : TradeReq) : (p.mint q).HasMem p.mem := by
  unfold Package.mint
  dsimp only
  (repeat' split) <;> simp

theorem Package.openClaim_hasMem (p : Package) (r claimant grace : Nat) : (p.openClaim r claimant grace).HasMem p.mem := by
  unfold Package.openClaim
  dsimp only
  split <;> simp

theorem Package.nameHeir_hasMem (p : Package) (q : TradeReq) : (p.nameHeir q).HasMem p.mem := by
  unfold Package.nameHeir
  dsimp only
  split <;> simp

theorem Package.judgeEntry_hasMem (p : Package) (q : TradeReq) (r : Nat) : (p.judgeEntry q r).HasMem p.mem := by
  unfold Package.judgeEntry
  dsimp only
  split <;> simp [apply_ite (Judged.HasMem p.mem), Package.offer_hasMem, Package.openClaim_hasMem, Package.nameHeir_hasMem]

theorem Package.judgeDeny_hasMem (p : Package) (q : TradeReq) : (p.judgeDeny q).HasMem p.mem := by
  unfold Package.judgeDeny
  dsimp only
  (repeat' split) <;> simp

theorem Package.judgeTrade_hasMem (p : Package) (q : TradeReq) : (p.judgeTrade q).HasMem p.mem := by
  unfold Package.judgeTrade
  split
  · simp
  · exact Package.judgeDeny_hasMem p q
  · split
    · simp
    · exact Package.mint_hasMem p q
  · exact Package.offerPart_hasMem p q false
  · exact Package.offerPart_hasMem p q true
  · dsimp only
    split
    · simp
    · split
      · simp
      · split
        · simp
        · exact Package.judgeEntry_hasMem p q _

/-! ## Arrivals at cores and their replies (R18, R22, R100, R160, R162, R192, R194, R224) -/

theorem execLongLatencyResultArrival_canonical (chip id : Nat) {s : State} (h : Claims.Canonical s) :
    AnswersCanonical (execLongLatencyResultArrival chip id s) :=
  jobStep_canonical h fun p j hp => by split <;> simp [hp]

theorem execTranslationWalkComplete_canonical (chip id : Nat) {s : State} (h : Claims.Canonical s) :
    AnswersCanonical (execTranslationWalkComplete chip id s) :=
  jobStep_canonical h fun p j hp => by split <;> simp [hp]

theorem execIcacheFill_canonical (chip id : Nat) {s : State} (h : Claims.Canonical s) :
    AnswersCanonical (execIcacheFill chip id s) :=
  jobStep_canonical h fun p j hp => by split <;> simp [hp]

theorem execDepositArrival_canonical (chip id : Nat) {s : State} (h : Claims.Canonical s) :
    AnswersCanonical (execDepositArrival chip id s) :=
  jobStep_canonical h fun p j hp => by
    split
    · dsimp only; (repeat' split) <;> simp [hp]
    · simp

theorem execPortValueArrival_canonical (chip id : Nat) {s : State} (h : Claims.Canonical s) :
    AnswersCanonical (execPortValueArrival chip id s) :=
  jobStep_canonical h fun p j hp => by split <;> simp [hp]

theorem execSpawnRemoteCreate_canonical (chip id : Nat) {s : State} (h : Claims.Canonical s) :
    AnswersCanonical (execSpawnRemoteCreate chip id s) :=
  jobStep_canonical h fun p j hp => by
    split
    · dsimp only
      split
      · simp
      · split
        · simp [hp]
        · split
          · simp
          · next q w e =>
            have made : q.mem = p.mem := (Package.spawnOn_mem e).trans (by simp)
            simp [made, hp]
    · simp

theorem execTstatRemoteReply_canonical (chip id : Nat) {s : State} (h : Claims.Canonical s) :
    AnswersCanonical (execTstatRemoteReply chip id s) :=
  jobStep_canonical h fun p j hp => by split <;> simp [hp]

/-! ## Homes (R174, R178) -/

theorem execHomeFeOperation_canonical (chip id : Nat) {s : State} (h : Claims.Canonical s) :
    AnswersCanonical (execHomeFeOperation chip id s) :=
  jobStep_canonical h fun p j hp => by split <;> simp [hp, Package.wf_arriveFe]

theorem execHomeAtomic_canonical (chip id : Nat) {s : State} (h : Claims.Canonical s) :
    AnswersCanonical (execHomeAtomic chip id s) :=
  jobStep_canonical h fun p j hp => by split <;> simp [hp, Package.wf_atomic]

/-! ## Cassia and Clove (R218, R251, R255, R257) -/

theorem execEngineLineRead_canonical (chip id : Nat) {s : State} (h : Claims.Canonical s) :
    AnswersCanonical (execEngineLineRead chip id s) :=
  jobStep_canonical h fun p j hp => by
    split
    · exact yieldsWf_of_mem hp fun _ e => Package.opRead_mem e
    · exact yieldsWf_of_mem hp fun _ e => Package.pieceRead_mem e
    · simp

theorem execEngineLineWrite_canonical (chip id : Nat) {s : State} (h : Claims.Canonical s) :
    AnswersCanonical (execEngineLineWrite chip id s) :=
  jobStep_canonical h fun p j hp => by
    have wrote := fun o x => Package.wf_opWrite (p := p) o x hp
    split
    · split
      · dsimp only; split <;> simp [wrote]
      · split <;> simp [wrote]
      · simp
    · simp

theorem execAccswapExchange_canonical (chip id : Nat) {s : State} (h : Claims.Canonical s) :
    AnswersCanonical (execAccswapExchange chip id s) :=
  jobStep_canonical h fun p j hp => by
    split
    · split <;> simp [hp]
    · simp

theorem execClovePieceArrival_canonical (chip id : Nat) {s : State} (h : Claims.Canonical s) :
    AnswersCanonical (execClovePieceArrival chip id s) :=
  jobStep_canonical h fun p j hp => by
    split
    · split
      · simp [apply_ite Package.mem, hp]
      · simp
    · simp

theorem execClovePieceWrite_canonical (chip id : Nat) {s : State} (h : Claims.Canonical s) :
    AnswersCanonical (execClovePieceWrite chip id s) :=
  jobStep_canonical h fun p j hp => by
    split
    · split
      · dsimp only
        split
        · simp
        · split <;> simp [hp, Package.wf_saveWrite, Package.wf_pieceLine]
      · simp
    · simp

/-! ## Commits (R217) -/

theorem execCommitEntryApply_canonical (chip id : Nat) {s : State} (h : Claims.Canonical s) :
    AnswersCanonical (execCommitEntryApply chip id s) :=
  jobStep_canonical h fun p j hp => by
    split
    · split
      · refine yields_bind fun _ _ => ?_
        simp [hp, Package.wf_applyEntry]
      · simp
    · simp

theorem execCommitRefresh_canonical (chip id : Nat) {s : State} (h : Claims.Canonical s) :
    AnswersCanonical (execCommitRefresh chip id s) :=
  jobStep_canonical h fun p j hp => by
    split
    · refine (yields_when _ _ _).2 fun _ => ?_
      dsimp only
      (repeat' split) <;> simp [hp]
    · simp

theorem execPhaseCommitStart_canonical (chip id : Nat) {s : State} (h : Claims.Canonical s) :
    AnswersCanonical (execPhaseCommitStart chip id s) :=
  jobStep_canonical h fun p j hp => by split <;> simp [hp]

/-! ## Anise (R318 to R325) -/

theorem execAnisePlacementRead_canonical (chip id : Nat) {s : State} (h : Claims.Canonical s) :
    AnswersCanonical (execAnisePlacementRead chip id s) :=
  jobStep_canonical h fun p j hp => by
    split
    · dsimp only
      (repeat' split) <;> simp [hp]
    · simp

theorem execAniseSlabRead_canonical (chip id : Nat) {s : State} (h : Claims.Canonical s) :
    AnswersCanonical (execAniseSlabRead chip id s) :=
  jobStep_canonical h fun p j hp => by
    split
    · split <;> simp [hp]
    · simp

theorem execAniseSelfFill_canonical (chip id : Nat) {s : State} (h : Claims.Canonical s) :
    AnswersCanonical (execAniseSelfFill chip id s) :=
  jobStep_canonical h fun p j hp => by
    split
    · split
      · split <;> simp [hp, Package.wf_writeLine]
      · simp
    · simp

theorem execAniseDeliveryAbandon_canonical (chip id : Nat) {s : State} (h : Claims.Canonical s) :
    AnswersCanonical (execAniseDeliveryAbandon chip id s) :=
  jobStep_canonical h fun p j hp => by
    split
    · (repeat' split) <;> simp [hp]
    · simp

/-! ## Pre-emption, trades and host packets (R260, R365, R366, R386) -/

theorem execPreemptRequest_canonical (chip id : Nat) {s : State} (h : Claims.Canonical s) :
    AnswersCanonical (execPreemptRequest chip id s) :=
  jobStep_canonical h fun p j hp => by
    split
    · (repeat' split) <;> simp [hp, apply_ite Package.mem]
    · simp

theorem execMapTradeArrival_canonical (chip id : Nat) {s : State} (h : Claims.Canonical s) :
    AnswersCanonical (execMapTradeArrival chip id s) :=
  jobStep_canonical h fun p j hp => by
    split
    · next q =>
      split
      · have judged := Package.judgeTrade_hasMem (p.dropJob id) q
        split
        · simp
        · simp [hp]
        · next e =>
          rw [e, Judged.hasMem_done] at judged
          simp [judged, hp]
        · next e =>
          rw [e, Judged.hasMem_opened] at judged
          simp [judged, hp]
      · simp
    · simp

theorem execMapTransferComplete_canonical (chip id : Nat) {s : State} (h : Claims.Canonical s) :
    AnswersCanonical (execMapTransferComplete chip id s) :=
  jobStep_canonical h fun p j hp => by
    split
    · split
      · simp [hp]
      · split
        · simp [hp]
        · split
          · refine yields_map fun q e => ?_
            have done : q.mem = p.mem := (Package.finishTransfer_mem e).trans (by simp)
            simp [apply_ite Package.mem, done, hp]
          · simp
    · simp

theorem execClaimExpiry_canonical (chip id : Nat) {s : State} (h : Claims.Canonical s) :
    AnswersCanonical (execClaimExpiry chip id s) :=
  jobStep_canonical h fun p j hp => by split <;> simp [hp]

theorem execPacketComplete_canonical (chip id : Nat) {s : State} (h : Claims.Canonical s) :
    AnswersCanonical (execPacketComplete chip id s) :=
  jobStep_canonical h fun p j hp => by
    split
    · refine yields_bind fun _ _ => (yields_when _ _ _).2 fun _ => ?_
      exact Package.wf_endPacket _ _ _ _ (by simpa using hp)
    · simp

end Sys2Proof.Machine
end

section
/-! SUPPORT. Steps of a package and of its host: each keeps the memory of the package in canonical form. -/

namespace Sys2Proof.Machine

theorem yields_firstSome {α β : Type} {P : β → Prop} {l : List α} {f : α → Option β} (hf : ∀ a ∈ l, Yields P (f a)) :
    Yields P (firstSome l f) := fun b e =>
  let ⟨a, ha, he⟩ := firstSome_eq_some e
  hf a ha b he

/-! ## Engines, barriers, budgets and pre-emption (R241, R260, R261, R305, R328) -/

theorem execCassiaOpStart_canonical (chip cluster : Nat) {s : State} (h : Claims.Canonical s) :
    AnswersCanonical (execCassiaOpStart chip cluster s) :=
  pkgStep_canonical h fun p hp => yields_bind fun _ _ => by simp [hp]

theorem execBarrierSignalHop_canonical (chip core reg : Nat) {s : State} (h : Claims.Canonical s) :
    AnswersCanonical (execBarrierSignalHop chip core reg s) :=
  pkgStep_canonical h fun _ hp => yieldsWf_of_mem hp fun _ e => Package.hop_mem e

theorem execBarrierRelease_canonical (chip core reg : Nat) {s : State} (h : Claims.Canonical s) :
    AnswersCanonical (execBarrierRelease chip core reg s) :=
  pkgStep_canonical h fun p hp => by split <;> simp [hp]

theorem execBudgetPeriodStart_canonical (chip die : Nat) (block : Nat) {s : State} (h : Claims.Canonical s) :
    AnswersCanonical (execBudgetPeriodStart chip die block s) :=
  pkgStep_canonical h fun p hp => by simp [hp]

theorem execPreemptDone_canonical (chip cluster : Nat) {s : State} (h : Claims.Canonical s) :
    AnswersCanonical (execPreemptDone chip cluster s) :=
  pkgStep_canonical h fun p hp => yields_firstSome fun e _ => by
    split
    · split <;> simp [hp]
    · simp

theorem execPreemptBudgetExpiry_canonical (chip cluster : Nat) {s : State} (h : Claims.Canonical s) :
    AnswersCanonical (execPreemptBudgetExpiry chip cluster s) :=
  pkgStep_canonical h fun p hp => yields_firstSome fun e _ => by
    split
    · split <;> simp [hp]
    · simp

/-! ## The power of clusters, and link retries (R378, R381, R415) -/

theorem execClusterPowerEntry_canonical (chip cluster : Nat) {s : State} (h : Claims.Canonical s) :
    AnswersCanonical (execClusterPowerEntry chip cluster s) :=
  pkgStep_canonical h fun p hp => by
    split
    · exact yields_map fun w _ => Package.wf_enterPower _ _ w hp
    · simp

theorem execClusterPowerExitStart_canonical (chip cluster : Nat) {s : State} (h : Claims.Canonical s) :
    AnswersCanonical (execClusterPowerExitStart chip cluster s) :=
  pkgStep_canonical h fun p hp => by simp [hp]

theorem execClusterPowerExitComplete_canonical (chip cluster : Nat) {s : State} (h : Claims.Canonical s) :
    AnswersCanonical (execClusterPowerExitComplete chip cluster s) :=
  pkgStep_canonical h fun p hp => by simp [hp]

theorem execLinkReplay_canonical (chip port : Nat) {s : State} (h : Claims.Canonical s) :
    AnswersCanonical (execLinkReplay chip port s) :=
  pkgStep_canonical h fun p hp => (yields_when _ _ _).2 fun _ => by
    dsimp only
    split <;> simpa using hp

/-! ## Packets and function-level reset (R372 to R375, R377) -/

theorem execPacketTake_canonical (chip ring : Nat) {s : State} (h : Claims.Canonical s) :
    AnswersCanonical (execPacketTake chip ring s) :=
  pkgStep_canonical h fun p hp => by
    dsimp only
    split
    · exact (yields_when _ _ _).2 fun _ => by simp [hp, Memory.wf_write]
    · simp

theorem execFunctionLevelReset_canonical (chip fn : Nat) {s : State} (h : Claims.Canonical s) :
    AnswersCanonical (execFunctionLevelReset chip fn s) :=
  pkgStep_canonical h fun p hp => by
    have drained := fun mine pick => Package.wf_drainRings (p := p) mine pick hp
    dsimp only
    split
    · simp
    · split <;> simp [drained]

theorem packetStep_canonical {kind chip id : Nat} {s : State} {f : Package → HostPacket → Option Package} (h : Claims.Canonical s)
    (hf : ∀ p k, p.mem.wf = true → YieldsWf (f p k)) : AnswersCanonical (packetStep kind chip id s f) :=
  jobStep_canonical h fun p j hp => by
    split
    · split
      · exact hf p _ hp
      · simp
    · simp

theorem execPacketNop_canonical (chip : Nat) (id : Nat) {s : State} (h : Claims.Canonical s) :
    AnswersCanonical (execPacketNop chip id s) :=
  packetStep_canonical h fun p k hp => by simp [hp]

theorem execPacketLaunch_canonical (chip : Nat) (id : Nat) {s : State} (h : Claims.Canonical s) :
    AnswersCanonical (execPacketLaunch chip id s) :=
  packetStep_canonical h fun p k hp => by
    dsimp only
    split
    · simp
    · split
      · simp [hp]
      · split <;> simp [hp]

theorem execPacketBarrier_canonical (chip : Nat) (id : Nat) {s : State} (h : Claims.Canonical s) :
    AnswersCanonical (execPacketBarrier chip id s) :=
  packetStep_canonical h fun p k hp => by
    dsimp only
    split <;> simp [hp]

theorem execPacketSignal_canonical (chip : Nat) (id : Nat) {s : State} (h : Claims.Canonical s) :
    AnswersCanonical (execPacketSignal chip id s) :=
  packetStep_canonical h fun p k hp => by
    dsimp only
    split
    · simp [hp]
    · refine (yields_when _ _ _).2 fun _ => ?_
      split <;> simp [hp, Package.wf_atomic, Memory.wf_write]

theorem execPacketIndirect_canonical (chip : Nat) (id : Nat) {s : State} (h : Claims.Canonical s) :
    AnswersCanonical (execPacketIndirect chip id s) :=
  packetStep_canonical h fun p k hp => by
    dsimp only
    split
    · simp [apply_ite Package.mem, apply_ite Memory.wf, hp, Memory.wf_write]
    · split
      · simp
      · split
        · simp [hp]
        · split
          · simp
          · split
            · simp [hp]
            · simp [apply_ite Package.mem, hp]

theorem execPacketCopy_canonical (chip : Nat) (id : Nat) {s : State} (h : Claims.Canonical s) :
    AnswersCanonical (execPacketCopy chip id s) :=
  packetStep_canonical h fun p k hp => by
    dsimp only
    (repeat' split) <;> simp [hp]

/-! ## Registers, the host's accesses and the loss of power (R214, R223, R369 to R371, R376, R379) -/

theorem hostStep_canonical {chip : Nat} {s : State} {f : Package → Package} (h : Claims.Canonical s)
    (hf : ∀ p : Package, p.mem.wf = true → (f p).mem.wf = true) : AnswersCanonical (hostStep chip s f) := by
  unfold hostStep
  split
  · exact (answersCanonical_next _).2 (State.canonical_onPkg h hf)
  · exact answersCanonical_fault _

theorem execCbptrWrite_canonical (chip fn ring : Nat) (v : Word) {s : State} (h : Claims.Canonical s) :
    AnswersCanonical (execCbptrWrite chip fn ring v s) :=
  hostStep_canonical h fun p hp => by
    dsimp only
    split
    · split
      · simpa using hp
      · exact Package.wf_sample _ (by simpa using hp)
    · exact hp

theorem execDoorbellWrite_canonical (chip fn ring : Nat) {s : State} (h : Claims.Canonical s) :
    AnswersCanonical (execDoorbellWrite chip fn ring s) :=
  hostStep_canonical h fun p hp => by
    split
    · exact Package.wf_sample _ hp
    · exact hp

theorem execBootgoWrite_canonical (chip : Nat) {s : State} (h : Claims.Canonical s) :
    AnswersCanonical (execBootgoWrite chip s) :=
  hostStep_canonical h fun p hp => by split <;> exact hp

theorem execHostRegisterWrite_canonical (chip fn offset : Nat) (v : Word) {s : State} (h : Claims.Canonical s) :
    AnswersCanonical (execHostRegisterWrite chip fn offset v s) :=
  hostStep_canonical h fun p hp => by (repeat' split) <;> exact hp

theorem execHostLtrUpdate_canonical (chip ns : Nat) {s : State} (h : Claims.Canonical s) :
    AnswersCanonical (execHostLtrUpdate chip ns s) :=
  hostStep_canonical h fun _ hp => hp

theorem execRingSampleRetry_canonical (chip ring : Nat) {s : State} (h : Claims.Canonical s) :
    AnswersCanonical (execRingSampleRetry chip ring s) := by
  unfold execRingSampleRetry
  split
  · exact (answersCanonical_next _).2 (State.canonical_onPkg h fun _ hp => Package.wf_sample _ hp)
  · exact answersCanonical_fault _

theorem execHostLinkReset_canonical (chip : Nat) {s : State} (h : Claims.Canonical s) :
    AnswersCanonical (execHostLinkReset chip s) := by
  unfold execHostLinkReset
  split
  · exact answersCanonical_fault _
  · refine (answersCanonical_next _).2 (State.canonical_onPkg h fun p hp => ?_)
    dsimp only
    rw [Package.abortPieces_mem]
    exact Package.wf_foldl (fun _ _ hq => Package.wf_hostWord _ _ hq) _ (Package.wf_abortPackets _ _ _ hp)

theorem execHostLinkUp_canonical (chip : Nat) {s : State} (h : Claims.Canonical s) :
    AnswersCanonical (execHostLinkUp chip s) := by
  unfold execHostLinkUp
  split
  · exact (answersCanonical_next _).2 (State.canonical_onPkg h fun _ hp => hp)
  · exact answersCanonical_fault _

theorem execHostCxlRead_canonical (chip addr n : Nat) {s : State} (h : Claims.Canonical s) :
    AnswersCanonical (execHostCxlRead chip addr n s) := by
  unfold execHostCxlRead
  split <;> simp [h]

theorem execHostCxlWrite_canonical (chip addr : Nat) (bytes : List Byte) {s : State} (h : Claims.Canonical s) :
    AnswersCanonical (execHostCxlWrite chip addr bytes s) := by
  unfold execHostCxlWrite
  dsimp only
  split
  · exact (answersCanonical_next _).2 (State.canonical_onPkg h fun _ hp => Package.wf_writeM _ _ hp)
  · exact answersCanonical_fault _

theorem execPowerLoss_canonical (chip : Nat) {s : State} (h : Claims.Canonical s) :
    AnswersCanonical (execPowerLoss chip s) := by
  unfold execPowerLoss
  split
  · exact answersCanonical_fault _
  · dsimp only
    rw [answersCanonical_next, State.canonical_packets]
    exact State.canonical_onPkg h fun _ _ => Package.wf_fresh

/-! ## Requests for ports (R185, R424) -/

theorem execPortBindRequest_canonical (chip : Nat) (id : Nat) {s : State} (h : Claims.Canonical s) :
    AnswersCanonical (execPortBindRequest chip id s) := by
  have wf := State.wf_pkg h chip
  unfold execPortBindRequest
  dsimp only
  split
  · split
    · exact answersCanonical_fault _
    · split
      · exact (answersCanonical_next _).2 (State.canonical_setPkg h (by simpa using wf))
      · split
        · exact (answersCanonical_next _).2 (State.canonical_setPkg h (by simpa using wf))
        · split
          · simpa using h
          · split
            · exact answersCanonical_fault _
            · exact (answersCanonical_next _).2 (State.canonical_setPkg h (by simpa using wf))
  · exact answersCanonical_fault _

end Sys2Proof.Machine
end

section
/-! SUPPORT. Steps that concern several packages: each keeps the memory of every package in canonical form. -/

namespace Sys2Proof.Machine

/-- A package put in its place with the memory that it had. -/
@[simp] theorem State.canonical_setPkg_same (s : State) (chip : Nat) (p : Package) (hp : p.SameMem (s.pkg chip)) :
    Claims.Canonical (s.setPkg chip p) ↔ Claims.Canonical s := State.canonical_setPkg_iff _ _ _ hp

/-- A step of a package, put in its place, that leaves its memory alone. -/
theorem State.yields_setPkg {s : State} {chip : Nat} {o : Option Package} (h : Claims.Canonical s)
    (e : ∀ q, o = some q → q.mem = (s.pkg chip).mem) : Yields Claims.Canonical (o.map (s.setPkg chip)) :=
  yields_map fun q hq => (State.canonical_setPkg_iff s chip q (e q hq)).2 h

/-! ## Messages (R146, R147, R260) -/

theorem State.refuse_canonical {s : State} (chip id : Nat) (m : Msg) (h : Claims.Canonical s) :
    Yields Claims.Canonical (s.refuse chip id m) := by
  unfold State.refuse
  dsimp only
  (repeat' split) <;> simp [h]

theorem State.deliver_canonical {s : State} (chip id : Nat) (m : Msg) (h : Claims.Canonical s) :
    Yields Claims.Canonical (s.deliver chip id m) := by
  unfold State.deliver
  dsimp only
  split
  · exact State.refuse_canonical _ _ _ h
  · split <;> simp [h]
  · exact State.yields_setPkg h fun q e => (Package.startHandler_mem e).trans (by simp)
  · simp [h]
  · simp

theorem execMessageArrival_canonical (chip : Nat) (id : Nat) {s : State} (h : Claims.Canonical s) :
    AnswersCanonical (execMessageArrival chip id s) :=
  sysStep_canonical <| by
    dsimp only
    split
    · next m _ =>
      have delivered := State.deliver_canonical chip id m h
      split
      · split
        · next e => exact (yields_some _ _).2 (delivered _ e)
        · simp [h]
      · simp
    · simp

theorem execMessageDeliveryRetry_canonical (chip : Nat) (id : Nat) {s : State} (h : Claims.Canonical s) :
    AnswersCanonical (execMessageDeliveryRetry chip id s) :=
  sysStep_canonical <| by
    dsimp only
    split
    · next m _ =>
      have delivered := State.deliver_canonical chip id m h
      split
      · split
        · next e => exact (yields_some _ _).2 (delivered _ e)
        · simp [h]
      · simp
    · simp

theorem execPreemptHandlerStart_canonical (chip core : Nat) {s : State} (h : Claims.Canonical s) :
    AnswersCanonical (execPreemptHandlerStart chip core s) :=
  sysStep_canonical <| by
    split
    · refine yields_firstSome fun e _ => ?_
      split
      · split
        · exact State.deliver_canonical _ _ _ h
        · simp
      · simp
    · simp

/-! ## Deposits, slots and cells (R29, R162, R308, R335) -/

theorem execDepositWrite_canonical (chip : Nat) (id : Nat) {s : State} (h : Claims.Canonical s) :
    AnswersCanonical (execDepositWrite chip id s) :=
  sysStep_canonical <| by
    dsimp only
    split
    · split <;> simp [h]
    · simp

theorem execDepositReply_canonical (chip : Nat) (id : Nat) {s : State} (h : Claims.Canonical s) :
    AnswersCanonical (execDepositReply chip id s) :=
  sysStep_canonical <| by
    split
    · split <;> simp [h]
    · simp

theorem execSlotRelease_canonical (chip core slot : Nat) {s : State} (h : Claims.Canonical s) :
    AnswersCanonical (execSlotRelease chip core slot s) :=
  sysStep_canonical <| by
    dsimp only
    split <;> simp [h]

theorem execCellOperation_canonical (chip : Nat) (id : Nat) {s : State} (h : Claims.Canonical s) :
    AnswersCanonical (execCellOperation chip id s) :=
  sysStep_canonical <| by
    dsimp only
    split
    · split <;> simp [h]
    · simp

/-! ## Slabs (R320 to R325) -/

theorem State.offerSlab_canonical {s : State} (chip id : Nat) (x sent : Slab) (k : Packet) (h : Claims.Canonical s) :
    Yields Claims.Canonical (s.offerSlab chip id x sent k) := by
  unfold State.offerSlab
  split <;> simp [h]

theorem State.sendNotice_canonical {s : State} (chip id : Nat) (x : Slab) (h : Claims.Canonical s) :
    Yields Claims.Canonical (s.sendNotice chip id x) := by
  unfold State.sendNotice
  dsimp only
  split
  · simp [h]
  · exact State.offerSlab_canonical _ _ _ _ _ h

theorem State.slabStore_canonical {s : State} (chip id : Nat) (x : Slab) (b : Bound) (d : Desc) (pick : Nat) (h : Claims.Canonical s) :
    Yields Claims.Canonical (s.slabStore chip id x b d pick) := by
  unfold State.slabStore
  dsimp only
  split
  · simp [h]
  · split
    · simp [h]
    · split
      · simp [h]
      · exact State.offerSlab_canonical _ _ _ _ _ h

theorem State.closeSlab_canonical {s : State} (chip id : Nat) (x : Slab) (d : Desc) (h : Claims.Canonical s) :
    Yields Claims.Canonical (s.closeSlab chip id x d) := by
  unfold State.closeSlab
  dsimp only
  split
  · simp
  · split
    · simp [h]
    · exact State.offerSlab_canonical _ _ _ _ _ h

theorem execAniseSlabWrite_canonical (chip : Nat) (id : Nat) {s : State} (h : Claims.Canonical s) :
    AnswersCanonical (execAniseSlabWrite chip id s) :=
  sysStep_canonical <| by
    have wf := State.wf_pkg h chip
    dsimp only
    split
    · split
      · simp
      · split
        · split
          · exact State.sendNotice_canonical _ _ _ h
          · simp
        · split
          · simp
          · split
            · simp
            · split
              · split
                · exact (yields_when _ _ _).2 fun _ => State.canonical_setPkg h (Package.wf_slabWrite _ _ _ _ _ _ wf)
                · simp
              · split
                · exact State.slabStore_canonical _ _ _ _ _ _ h
                · simp
    · simp

theorem execAniseFaceStepSet_canonical (chip : Nat) (id : Nat) {s : State} (h : Claims.Canonical s) :
    AnswersCanonical (execAniseFaceStepSet chip id s) :=
  sysStep_canonical <| by
    have wf : ((s.pkg chip).dropJob id).mem.wf = true := by simpa using State.wf_pkg h chip
    dsimp only
    split
    · split
      · simp
      · split
        · simp
        · split
          · exact (yields_when _ _ _).2 fun _ => State.canonical_setPkg h (Package.wf_setFace _ _ _ _ _ wf)
          · split
            · refine yields_map fun r _ => State.canonical_setPkg h ?_
              split
              · exact Package.wf_setFace _ _ _ _ _ wf
              · exact wf
            · exact State.closeSlab_canonical _ _ _ _ h
    · simp

/-! ## Power, boot, fatal errors and the dump (R379, R382, R383) -/

@[simp] theorem bootPackage_mem (tier0 tier1 : Nat) : (bootPackage tier0 tier1).mem = Package.fresh.mem := rfl

theorem execPowerUp_canonical (chip : Nat) {s : State} (h : Claims.Canonical s) : AnswersCanonical (execPowerUp chip s) :=
  sysStep_canonical <| by
    split
    · refine (yields_some _ _).2 (State.canonical_onPkg h fun p _ => ?_)
      rw [bootPackage_mem]
      exact Package.wf_fresh
    · simp

theorem execBootStart_canonical (chip : Nat) {s : State} (h : Claims.Canonical s) : AnswersCanonical (execBootStart chip s) :=
  sysStep_canonical <| by
    dsimp only
    split
    · refine yields_map fun r e => State.canonical_setPkg h ?_
      have made := Package.newCell_mem e
      simpa [made] using Memory.wf_write _ (State.wf_pkg h chip)
    · simp

theorem execFatalError_canonical (chip die : Nat) (cause : Byte) {s : State} (h : Claims.Canonical s) :
    AnswersCanonical (execFatalError chip die cause s) :=
  sysStep_canonical <| by
    dsimp only
    split <;> simp [h]

theorem Package.wf_writes {p : Package} (ws : Nat → List (Nat × Byte)) (l : List Nat) (h : p.mem.wf = true) :
    (l.foldl (fun q d => q.writeM [] (ws d)) p).mem.wf = true :=
  Package.wf_foldl (fun _ _ hq => Package.wf_writeM _ _ hq) l h

theorem execDumpComplete_canonical (chip : Nat) {s : State} (h : Claims.Canonical s) : AnswersCanonical (execDumpComplete chip s) :=
  sysStep_canonical <| by
    dsimp only
    split
    · refine (yields_some _ _).2 (State.canonical_setPkg h ?_)
      exact Package.wf_writes (s.pkg chip).dumpBytes (span 0 1 4) (State.wf_pkg h chip)
    · simp

theorem execFundamentalReset_canonical (chip : Nat) {s : State} (h : Claims.Canonical s) :
    AnswersCanonical (execFundamentalReset chip s) :=
  sysStep_canonical <| by
    dsimp only
    split
    · exact (yields_some _ _).2 ((State.canonical_packets (s.setPkg chip _) _).2 (State.canonical_setPkg h (State.wf_pkg h chip)))
    · simp

/-! ## Links, hops and streams (R405, R407, R415, R416, R425) -/

theorem execLinkDown_canonical (chip port : Nat) {s : State} (h : Claims.Canonical s) : AnswersCanonical (execLinkDown chip port s) :=
  sysStep_canonical <| by split <;> simp [h]

theorem execFabricLinkTrain_canonical (chip port : Nat) {s : State} (h : Claims.Canonical s) :
    AnswersCanonical (execFabricLinkTrain chip port s) :=
  sysStep_canonical <| by split <;> simp [h]

theorem State.leaveUnit_canonical {s : State} (id : Nat) (k : Packet) (h : Claims.Canonical s) :
    Yields Claims.Canonical (s.leaveUnit id k) := by
  unfold State.leaveUnit
  dsimp only
  (repeat' split) <;> simp [h]

theorem State.goOn_canonical {s : State} (id : Nat) (k : Packet) (h : Claims.Canonical s) :
    Yields Claims.Canonical (s.goOn id k) := by
  unfold State.goOn
  split
  · simp
  · split
    · simp [h]
    · simp [h, apply_ite Claims.Canonical]

theorem execFabricPacketHop_canonical (id : Nat) {s : State} (h : Claims.Canonical s) : AnswersCanonical (execFabricPacketHop id s) :=
  sysStep_canonical <| by
    split
    · simp
    · split
      · simp
      · split
        · exact State.leaveUnit_canonical _ _ h
        · split
          · simp
          · exact State.goOn_canonical _ _ h

theorem execRetransmitTimeout_canonical (chip port dst seq : Nat) {s : State} (h : Claims.Canonical s) :
    AnswersCanonical (execRetransmitTimeout chip port dst seq s) :=
  sysStep_canonical <| by
    dsimp only
    split
    · simp
    · split
      · simp
      · split
        · simp
        · split
          · simp [h]
          · exact (yields_some _ _).2 ((State.canonical_packets (s.onPkg chip _) _).2 (State.canonical_onPkg h fun _ hp => hp))

theorem execStreamRestart_canonical (chip port dst : Nat) {s : State} (h : Claims.Canonical s) :
    AnswersCanonical (execStreamRestart chip port dst s) :=
  sysStep_canonical <| by
    dsimp only
    split <;> simp [h]

theorem execStreamStateExpiry_canonical (chip src unit : Nat) {s : State} (h : Claims.Canonical s) :
    AnswersCanonical (execStreamStateExpiry chip src unit s) :=
  sysStep_canonical <| by
    dsimp only
    split <;> simp [h]

/-! ## Migration (R419 to R421) -/

theorem State.takeIn_mem {s : State} {k : Packet} {t : Thread} {regs : List RegCell} {homing : Bool} {pool : Nat} {q : Package}
    (e : s.takeIn k t regs homing pool = some q) : q.mem = (s.pkg k.dst).mem := by
  obtain ⟨c, -, admitted⟩ := Option.bind_eq_some_iff.1 e
  exact Package.admitGuest_mem admitted

theorem execMigrateArrival_canonical (id : Nat) {s : State} (h : Claims.Canonical s) : AnswersCanonical (execMigrateArrival id s) :=
  sysStep_canonical <| by
    split
    · split
      · split
        · simp
        · refine yields_bind fun pool _ => yields_map fun q e => ?_
          exact (State.canonical_setPkg_iff s _ q (State.takeIn_mem e)).2 h
      · simp
    · simp

theorem State.comeBack_canonical {s : State} (id : Nat) (k : Packet) (t : Thread) (regs : List RegCell) (h : Nat) (homing : Bool)
    (core : Nat) (hs : Claims.Canonical s) : Yields Claims.Canonical (s.comeBack id k t regs h homing core) := by
  unfold State.comeBack
  dsimp only
  split
  · split <;> simp [hs]
  · split
    · simp
    · split
      · simp
      · refine yields_map fun q e => (State.canonical_setPkg_iff _ _ _ ?_).2 hs
        rw [Package.trapReply_mem]
        exact Package.admitOn_mem e

theorem execMigrateReturn_canonical (id : Nat) {s : State} (h : Claims.Canonical s) : AnswersCanonical (execMigrateReturn id s) :=
  sysStep_canonical <| by
    split
    · split
      · split
        · split
          · simp
          · split
            · simp [h]
            · exact State.comeBack_canonical _ _ _ _ _ _ _ h
        · split <;> simp [h]
      · simp
    · simp

/-! ## Requests at their targets, and answers (R411 to R417, R423, R424) -/

/-- A request that reaches its unit keeps the form when what it performs does, and what a duplicate does. -/
theorem arrival_canonical {id : Nat} {s : State} {mine : Load → Bool} {ready : State → Packet → Bool}
    {perform : State → Packet → Option (State × Load)} {again : State → Packet → State × Load} (h : Claims.Canonical s)
    (hp : ∀ s k, Claims.Canonical s → Yields (fun r => Claims.Canonical r.1) (perform s k))
    (ha : ∀ s k, Claims.Canonical s → Claims.Canonical (again s k).1) : AnswersCanonical (arrival id s mine ready perform again) :=
  sysStep_canonical <| by
    split
    · simp
    · split
      · simp
      · split
        · simp
        · dsimp only
          split
          · split
            · refine yields_map fun r e => ?_
              simpa using hp _ _ ((State.canonical_packets s _).2 h) r e
            · simp
          · simpa using ha _ _ ((State.canonical_packets s _).2 h)
          · split <;> simp [h]
          · simp [h]

theorem ackAgain_canonical (s : State) (k : Packet) (h : Claims.Canonical s) : Claims.Canonical (ackAgain s k).1 := h

theorem replyAgain_canonical (s : State) (k : Packet) (h : Claims.Canonical s) : Claims.Canonical (replyAgain s k).1 := by
  unfold replyAgain
  split <;> simp [h]

theorem execFabricStoreArrival_canonical (id : Nat) {s : State} (h : Claims.Canonical s) :
    AnswersCanonical (execFabricStoreArrival id s) :=
  arrival_canonical h (fun s k hs => by
    split
    · split
      · simp [hs]
      · rw [yields_some, State.canonical_coverWords]
        refine State.canonical_onPkg hs fun p hp => ?_
        dsimp only
        rw [Package.unsettle_mem]
        dsimp only
        split
        · exact Memory.wf_setTag _ _ (Memory.wf_write _ hp)
        · exact Memory.wf_write _ hp
    · simp) ackAgain_canonical

theorem execFabricAmoArrival_canonical (id : Nat) {s : State} (h : Claims.Canonical s) :
    AnswersCanonical (execFabricAmoArrival id s) :=
  arrival_canonical h (fun s k hs => by
    split
    · next op double operand swap _ =>
      have swapped : ∀ pa, Claims.Canonical (s.setPkg k.dst ((s.pkg k.dst).atomic none op double pa operand swap).1) := fun pa =>
        State.canonical_setPkg hs (Package.wf_atomic _ _ _ _ _ _ (State.wf_pkg hs k.dst))
      split
      next t r e =>
      have answered : Claims.Canonical t := by
        split at e
        · cases e; exact hs
        · cases e; exact swapped _
      simpa using answered
    · simp) replyAgain_canonical

theorem execFabricPostedArrival_canonical (id : Nat) {s : State} (h : Claims.Canonical s) :
    AnswersCanonical (execFabricPostedArrival id s) :=
  arrival_canonical h (fun s k hs => by
    split
    · split
      · simp [hs]
      · exact (yields_some _ _).2 (State.canonical_onPkg hs fun _ hp => Package.wf_atomic _ _ _ _ _ _ hp)
    · simp) ackAgain_canonical

theorem execFabricFenceArrival_canonical (id : Nat) {s : State} (h : Claims.Canonical s) :
    AnswersCanonical (execFabricFenceArrival id s) :=
  arrival_canonical h (fun s k hs => by
    split
    · split
      · simp [hs]
      · exact (yields_some _ _).2 (State.canonical_onPkg hs fun _ hp => Package.wf_writeFlag _ _ _ hp)
    · simp) ackAgain_canonical

theorem execFabricMcastArrival_canonical (id : Nat) {s : State} (h : Claims.Canonical s) :
    AnswersCanonical (execFabricMcastArrival id s) :=
  arrival_canonical h (fun s k hs => by split <;> simp [hs]) ackAgain_canonical

theorem execFabricPortArrival_canonical (id : Nat) {s : State} (h : Claims.Canonical s) :
    AnswersCanonical (execFabricPortArrival id s) :=
  arrival_canonical h (fun s k hs => by split <;> simp [hs, apply_ite Claims.Canonical]) ackAgain_canonical

theorem execFabricNoticeArrival_canonical (id : Nat) {s : State} (h : Claims.Canonical s) :
    AnswersCanonical (execFabricNoticeArrival id s) :=
  arrival_canonical h (fun s k hs => by split <;> simp [hs]) ackAgain_canonical

theorem answered_canonical {id : Nat} {s : State} {val : Load → Option (Word × Bool × Nat)} (h : Claims.Canonical s) :
    AnswersCanonical (answered id s val) :=
  sysStep_canonical <| by
    dsimp only
    (repeat' split) <;> simp [h]

theorem execFabricReplyArrival_canonical (id : Nat) {s : State} (h : Claims.Canonical s) :
    AnswersCanonical (execFabricReplyArrival id s) := answered_canonical h

theorem execFabricAckArrival_canonical (id : Nat) {s : State} (h : Claims.Canonical s) :
    AnswersCanonical (execFabricAckArrival id s) := answered_canonical h

end Sys2Proof.Machine
end

section
/-! SUPPORT. The machine: every instruction, every turn of a core and every move keeps memory in canonical form (R210). -/

namespace Sys2Proof.Machine

/-! ## Instructions -/

theorem exec_canonical (i : Instr) {s : State} (h : Claims.Canonical s) : AnswersCanonical (exec i s) := by
  cases i with unfold exec
  | add | addW | sub | subW | mul | mulW | mulh | div | divu | rem | remu | and | or | xor | shl | shlW | shr | sar | min |
  max | minu | maxu | ceq | cne | clt | cltu | cle | cleu | bfx | crcB | crcH | crcW | crcD =>
    exact binary_canonical _ _ _ h
  | mov => exact execMov_canonical _ _ h
  | addi | lih | shli | shri => exact withImm_canonical _ _ h
  | li => exact execLi_canonical _ _ h
  | lea => exact execLea_canonical _ _ _ h
  | sel => exact execSel_canonical _ _ _ h
  | bez | bnz | bltz | bgez => exact branchOn_canonical _ _ _ h
  | beq | bne | blt | bge | bltu | bgeu => exact branchCmp_canonical _ _ _ _ h
  | j => exact execJ_canonical _ h
  | call => exact execCall_canonical _ h
  | jr => exact execJr_canonical _ h
  | ret => exact execRet_canonical h
  | jtab => exact execJtab_canonical _ _ _ h
  | yield => exact execYield_canonical h
  | retire => exact execRetire_canonical h
  | nop => exact execNop_canonical h
  | trap => exact execTrap_canonical _ h
  | bkpt => exact execBkpt_canonical _ h
  | ldz | lds => exact loadOp_canonical _ _ _ _ _ h
  | st => exact execSt_canonical _ _ _ _ h
  | illegalChain => exact execIllegalChain_canonical _ h
  | bfi => exact execBfi_canonical _ _ _ h
  | ctz | bswap => exact unary_canonical _ _ _ h
  | faddD | faddS | fsubD | fsubS | fmulD | fmulS | fdivD | fdivS => exact float2_canonical _ _ _ _ _ h
  | fsqrtD | fsqrtS => exact sqrtOp_canonical _ _ _ _ h
  | fmaD | fmaS | fmsD | fmsS | fnmaD | fnmaS | fnmsD | fnmsS => exact float3_canonical _ _ _ _ _ _ _ h
  | fminD | fminS | fmaxD | fmaxS | feqD | feqS | fltD | fltS | fleD | fleS => exact floatBits_canonical _ _ _ _ h
  | fclassD | fclassS => exact classOp_canonical _ _ _ h
  | fsgnD | fsgnS | fsgnnD | fsgnnS | fsgnxD | fsgnxS => exact signOp_canonical _ _ _ _ h
  | fcvtSD | fcvtDS => exact convertFloat_canonical _ _ _ _ _ h
  | fcvtDL | fcvtDLu | fcvtSL | fcvtSLu => exact fromInt_canonical _ _ _ _ _ h
  | fcvtLD | fcvtLuD | fcvtLS | fcvtLuS => exact toInt_canonical _ _ _ _ _ _ h
  | setrm => exact execSetrm_canonical _ h
  | rdflg => exact execRdflg_canonical _ h
  | clrflg => exact execClrflg_canonical _ h
  | sread => exact execSread_canonical _ _ h
  | sreadClusterFlags => exact execSreadClusterFlags_canonical _ h
  | swrite => exact execSwrite_canonical _ _ h
  | ldf | ldfe | feqry => exact feRead_canonical _ _ _ _ _ h
  | stef | stf => exact feWrite_canonical _ _ _ _ h
  | seteMemory => exact execSeteMemory_canonical _ _ h
  | seteRegister => exact execSeteRegister_canonical _ h
  | amoAddD | amoAndD | amoOrD | amoXorD | amoMinD | amoMaxD | amoMinuD | amoMaxuD | amoSwapD | amoAddW | amoAndW | amoOrW |
  amoXorW | amoMinW | amoMaxW | amoMinuW | amoMaxuW | amoSwapW | acasD | acasW =>
    exact atomicOp_canonical _ _ _ _ _ _ h
  | forkae => exact execForkae_canonical _ _ _ h
  | rdv => exact execRdv_canonical _ _ h
  | qld => exact execQld_canonical _ _ _ _ h
  | qst => exact execQst_canonical _ _ _ _ h
  | sendT | sendC => exact sendOp_canonical _ _ _ _ _ h
  | waitm => exact execWaitm_canonical h
  | takem => exact execTakem_canonical _ h
  | htab => exact execHtab_canonical _ _ h
  | mcfgReadConfig => exact execMcfgReadConfig_canonical _ h
  | mcfgWriteConfig => exact execMcfgWriteConfig_canonical _ h
  | mcfgReadDropCounter => exact execMcfgReadDropCounter_canonical _ h
  | mcfgReadAccept => exact execMcfgReadAccept_canonical _ _ h
  | mcfgWriteAccept => exact execMcfgWriteAccept_canonical _ _ h
  | pbind => exact execPbind_canonical _ _ h
  | punbind => exact execPunbind_canonical _ h
  | pstat => exact execPstat_canonical _ _ _ h
  | push => exact execPush_canonical _ _ h
  | depr => exact execDepr_canonical _ _ _ h
  | spawnL => exact execSpawnL_canonical _ _ _ h
  | spawnC => exact execSpawnC_canonical _ _ _ h
  | tstat => exact execTstat_canonical _ _ h
  | treg => exact execTreg_canonical _ _ _ h
  | twreg => exact execTwreg_canonical _ _ _ h
  | tstop => exact execTstop_canonical _ h
  | tresume => exact execTresume_canonical _ h
  | bfmtRead | bfmtWrite => exact bfmtOp_canonical _ _ h
  | bmodeRead | bmodeWrite => exact bmodeOp_canonical _ _ h
  | logset => exact execLogset_canonical _ _ h
  | cpub => exact execCpub_canonical _ _ _ h
  | ifence => exact execIfence_canonical h
  | layout => exact execLayout_canonical _ _ _ h
  | rdbcRead => exact execRdbcRead_canonical _ h
  | rdbcReadClear => exact execRdbcReadClear_canonical _ h
  | mmaOvr | mmaAcc | mmaDecay | mmaSat => exact mmaOp_canonical _ _ _ _ _ _ h
  | accz => exact execAccz_canonical _ h
  | accswap => exact execAccswap_canonical _ h
  | accrd | accwr => exact accMove_canonical _ _ _ _ _ h
  | accmodeRead | accmodeWrite => exact accmodeOp_canonical _ _ h
  | drainI | drainF => exact drainOp_canonical _ _ _ _ h
  | vaddS | vaddD | vsubS | vsubD | vmulS | vmulD | vminS | vminD | vmaxS | vmaxD | vexpS | vexpD | vrcpS | vrcpD | vrsqS |
  vrsqD =>
    exact vec2_canonical _ _ _ _ _ h
  | vfmaS | vfmaD | vfmsS | vfmsD | vcmpEqS | vcmpLtS | vcmpLeS | vcmpEqD | vcmpLtD | vcmpLeD | vselS | vselD =>
    exact vec3_canonical _ _ _ _ _ _ h
  | vredSumS | vredMaxS | vredMinS | vredSumD | vredMaxD | vredMinD => exact redOp_canonical _ _ _ _ _ h
  | vscaleS | vscaleD => exact vscaleOp_canonical _ _ _ _ _ h
  | vcvt => exact execVcvt_canonical _ _ _ _ h
  | vfillS | vfillD => exact vfillOp_canonical _ _ _ _ h
  | copyB | copyL => exact copyOp_canonical _ _ _ _ _ h
  | copym => exact execCopym_canonical _ _ _ _ h
  | esync => exact execEsync_canonical h
  | estat => exact execEstat_canonical _ h
  | saveareaWrite => exact execSaveareaWrite_canonical _ h
  | saveareaRead => exact execSaveareaRead_canonical _ h
  | pack => exact execPack_canonical h
  | barsetRead => exact execBarsetRead_canonical _ _ h
  | barsetWrite => exact execBarsetWrite_canonical _ _ h
  | bar => exact execBar_canonical _ h
  | bara => exact execBara_canonical _ _ h
  | barw => exact execBarw_canonical _ _ h
  | rfork => exact execRfork_canonical _ _ _ h
  | join => exact execJoin_canonical _ h
  | cellNew => exact execCellNew_canonical _ _ _ h
  | cellRd => exact execCellRd_canonical _ _ h
  | cellAdd => exact execCellAdd_canonical _ _ h
  | cancel => exact execCancel_canonical _ h
  | phaseB => exact execPhaseB_canonical _ h
  | phaseC => exact execPhaseC_canonical h
  | phaseH => exact execPhaseH_canonical h
  | grid => exact execGrid_canonical _ _ _ h
  | gbind => exact execGbind_canonical _ _ _ h
  | hstep => exact execHstep_canonical _ _ h
  | ldh => exact execLdh_canonical _ _ _ _ _ h
  | hwait => exact execHwait_canonical _ _ h
  | hwaitF => exact execHwaitF_canonical _ _ _ h
  | gstatG => exact execGstatG_canonical _ _ h
  | gstatF => exact execGstatF_canonical _ _ _ h
  | gfree => exact execGfree_canonical _ h
  | budgetSet => exact execBudgetSet_canonical _ _ h
  | budgetRd => exact execBudgetRd_canonical _ _ h
  | budgetClr => exact execBudgetClr_canonical _ _ h
  | mint | giveS | lendS => exact tradeDST_canonical _ _ _ _ _ h
  | give | lend | heirResource | heirRecord => exact tradeDS_canonical _ _ _ h
  | accept | reclaim | reclaimB | returnLoan | claim | deny => exact tradeS_canonical _ _ _ h
  | ownq => exact execOwnq_canonical _ _ h
  | ownqA => exact execOwnqA_canonical _ _ _ h
  | rootset => exact execRootset_canonical _ _ h
  | tlbinv => exact execTlbinv_canonical h
  | tlbinvP => exact execTlbinvP_canonical _ _ h
  | latt => exact execLatt_canonical _ h
  | capmk => exact execCapmk_canonical _ _ _ h
  | capnar => exact execCapnar_canonical _ _ _ _ h
  | capchk => exact execCapchk_canonical _ _ h
  | ldr => exact execLdr_canonical _ _ _ _ h
  | ldrQ => exact execLdrQ_canonical _ _ _ _ h
  | home => exact execHome_canonical h
  | str => exact execStr_canonical _ _ _ _ h
  | strQ => exact execStrQ_canonical _ _ _ _ h
  | ramoAddD | ramoAndD | ramoOrD | ramoXorD | ramoMinD | ramoMaxD | ramoMinuD | ramoMaxuD | ramoSwapD | ramoAddW | ramoAndW |
  ramoOrW | ramoXorW | ramoMinW | ramoMaxW | ramoMinuW | ramoMaxuW | ramoSwapW | rcasD | rcasW =>
    exact remoteAtomic_canonical _ _ _ _ _ _ h
  | ramoAddN | ramoAndN | ramoOrN | ramoXorN | ramoMinN | ramoMaxN | ramoMinuN | ramoMaxuN | ramoSwapN =>
    exact postedAtomic_canonical _ _ _ _ h
  | ffence => exact execFfence_canonical _ _ _ h
  | mcast => exact execMcast_canonical _ _ h
  | mcgrp => exact execMcgrp_canonical _ _ h
  | guestset => exact execGuestset_canonical _ _ h
  | longLatencyResultArrival => exact execLongLatencyResultArrival_canonical _ _ h
  | translationWalkComplete => exact execTranslationWalkComplete_canonical _ _ h
  | icacheFill => exact execIcacheFill_canonical _ _ h
  | messageArrival => exact execMessageArrival_canonical _ _ h
  | messageDeliveryRetry => exact execMessageDeliveryRetry_canonical _ _ h
  | depositArrival => exact execDepositArrival_canonical _ _ h
  | depositWrite => exact execDepositWrite_canonical _ _ h
  | depositReply => exact execDepositReply_canonical _ _ h
  | portBindRequest => exact execPortBindRequest_canonical _ _ h
  | portValueArrival => exact execPortValueArrival_canonical _ _ h
  | spawnRemoteCreate => exact execSpawnRemoteCreate_canonical _ _ h
  | tstatRemoteReply => exact execTstatRemoteReply_canonical _ _ h
  | homeFeOperation => exact execHomeFeOperation_canonical _ _ h
  | homeAtomic => exact execHomeAtomic_canonical _ _ h
  | slotRelease => exact execSlotRelease_canonical _ _ _ h
  | cassiaOpStart => exact execCassiaOpStart_canonical _ _ h
  | engineLineRead => exact execEngineLineRead_canonical _ _ h
  | engineLineWrite => exact execEngineLineWrite_canonical _ _ h
  | accswapExchange => exact execAccswapExchange_canonical _ _ h
  | clovePieceArrival => exact execClovePieceArrival_canonical _ _ h
  | clovePieceWrite => exact execClovePieceWrite_canonical _ _ h
  | commitEntryApply => exact execCommitEntryApply_canonical _ _ h
  | commitRefresh => exact execCommitRefresh_canonical _ _ h
  | phaseCommitStart => exact execPhaseCommitStart_canonical _ _ h
  | barrierSignalHop => exact execBarrierSignalHop_canonical _ _ _ h
  | barrierRelease => exact execBarrierRelease_canonical _ _ _ h
  | cellOperation => exact execCellOperation_canonical _ _ h
  | anisePlacementRead => exact execAnisePlacementRead_canonical _ _ h
  | aniseSlabRead => exact execAniseSlabRead_canonical _ _ h
  | aniseSlabWrite => exact execAniseSlabWrite_canonical _ _ h
  | aniseSelfFill => exact execAniseSelfFill_canonical _ _ h
  | aniseFaceStepSet => exact execAniseFaceStepSet_canonical _ _ h
  | aniseDeliveryAbandon => exact execAniseDeliveryAbandon_canonical _ _ h
  | budgetPeriodStart => exact execBudgetPeriodStart_canonical _ _ _ h
  | preemptRequest => exact execPreemptRequest_canonical _ _ h
  | preemptHandlerStart => exact execPreemptHandlerStart_canonical _ _ h
  | preemptDone => exact execPreemptDone_canonical _ _ h
  | preemptBudgetExpiry => exact execPreemptBudgetExpiry_canonical _ _ h
  | mapTradeArrival => exact execMapTradeArrival_canonical _ _ h
  | mapTransferComplete => exact execMapTransferComplete_canonical _ _ h
  | claimExpiry => exact execClaimExpiry_canonical _ _ h
  | cbptrWrite => exact execCbptrWrite_canonical _ _ _ _ h
  | doorbellWrite => exact execDoorbellWrite_canonical _ _ _ h
  | bootgoWrite => exact execBootgoWrite_canonical _ h
  | hostRegisterWrite => exact execHostRegisterWrite_canonical _ _ _ _ h
  | ringSampleRetry => exact execRingSampleRetry_canonical _ _ h
  | packetTake => exact execPacketTake_canonical _ _ h
  | packetNop => exact execPacketNop_canonical _ _ h
  | packetLaunch => exact execPacketLaunch_canonical _ _ h
  | packetBarrier => exact execPacketBarrier_canonical _ _ h
  | packetSignal => exact execPacketSignal_canonical _ _ h
  | packetIndirect => exact execPacketIndirect_canonical _ _ h
  | packetCopy => exact execPacketCopy_canonical _ _ h
  | packetComplete => exact execPacketComplete_canonical _ _ h
  | hostLinkReset => exact execHostLinkReset_canonical _ h
  | hostLinkUp => exact execHostLinkUp_canonical _ h
  | functionLevelReset => exact execFunctionLevelReset_canonical _ _ h
  | hostCxlWrite => exact execHostCxlWrite_canonical _ _ _ h
  | hostCxlRead => exact execHostCxlRead_canonical _ _ _ h
  | hostLtrUpdate => exact execHostLtrUpdate_canonical _ _ h
  | clusterPowerEntry => exact execClusterPowerEntry_canonical _ _ h
  | clusterPowerExitStart => exact execClusterPowerExitStart_canonical _ _ h
  | clusterPowerExitComplete => exact execClusterPowerExitComplete_canonical _ _ h
  | powerUp => exact execPowerUp_canonical _ h
  | bootStart => exact execBootStart_canonical _ h
  | powerLoss => exact execPowerLoss_canonical _ h
  | fatalError => exact execFatalError_canonical _ _ _ h
  | dumpComplete => exact execDumpComplete_canonical _ h
  | linkReplay => exact execLinkReplay_canonical _ _ h
  | linkDown => exact execLinkDown_canonical _ _ h
  | fabricPacketHop => exact execFabricPacketHop_canonical _ h
  | retransmitTimeout => exact execRetransmitTimeout_canonical _ _ _ _ h
  | streamRestart => exact execStreamRestart_canonical _ _ _ h
  | streamStateExpiry => exact execStreamStateExpiry_canonical _ _ _ h
  | fabricStoreArrival => exact execFabricStoreArrival_canonical _ h
  | fabricAmoArrival => exact execFabricAmoArrival_canonical _ h
  | fabricPostedArrival => exact execFabricPostedArrival_canonical _ h
  | fabricFenceArrival => exact execFabricFenceArrival_canonical _ h
  | fabricMcastArrival => exact execFabricMcastArrival_canonical _ h
  | fabricPortArrival => exact execFabricPortArrival_canonical _ h
  | fabricNoticeArrival => exact execFabricNoticeArrival_canonical _ h
  | fabricReplyArrival => exact execFabricReplyArrival_canonical _ h
  | fabricAckArrival => exact execFabricAckArrival_canonical _ h
  | migrateArrival => exact execMigrateArrival_canonical _ h
  | migrateReturn => exact execMigrateReturn_canonical _ h
  | fundamentalReset => exact execFundamentalReset_canonical _ h
  | fabricLinkTrain => exact execFabricLinkTrain_canonical _ _ h

/-! ## Turns of cores (R68, R100, R137) -/

/-- The state that a fetch waits in has its memory in canonical form. -/
def Fetch.Canonical : Fetch → Prop
  | .wait s => Claims.Canonical s
  | .word _ | .fault .. => True

theorem State.fetchWord_canonical {s : State} (va use : Nat) (h : Claims.Canonical s) : (s.fetchWord va use).Canonical := by
  unfold State.fetchWord
  dsimp only
  split
  · trivial
  · split
    · trivial
    · simpa [Fetch.Canonical] using h
    · simpa [Fetch.Canonical, apply_ite Claims.Canonical] using h

theorem State.fetchWords_canonical {s : State} (pc : BitVec 56) (room k : Nat) (acc : List Half) (h : Claims.Canonical s) :
    (s.fetchWords pc room k acc).1.Canonical := by
  induction room generalizing k acc with
  | zero => trivial
  | succ room ih =>
    have fetched := State.fetchWord_canonical ((pc.toNat + k) % 2 ^ 56 * 2) k h
    unfold State.fetchWords
    split
    · split
      · exact ih _ _
      · trivial
    · exact fetched

/-- The state that a turn leaves, or issues its chain in, has its memory in canonical form. -/
def Turn.Canonical : Turn → Prop
  | .none s | .issue s _ => Claims.Canonical s

@[simp] theorem Turn.canonical_none (s : State) : (Turn.none s).Canonical ↔ Claims.Canonical s := .rfl
@[simp] theorem Turn.canonical_issue (s : State) (i : Instr) : (Turn.issue s i).Canonical ↔ Claims.Canonical s := .rfl

@[simp] theorem State.canonical_heldTurn (s : State) (j : Job) : Claims.Canonical (s.heldTurn j) ↔ Claims.Canonical s := by
  unfold State.heldTurn
  split
  · split <;> simp
  · rfl

theorem State.issueSlot_canonical {s : State} (chip core slot : Nat) (h : Claims.Canonical s) : (s.issueSlot chip core slot).Canonical := by
  have taken : Claims.Canonical
      { (s.onPkg chip (fun p => p.onCore core (fun k => k.turnTaken slot))) with cur := ⟨chip, core, slot, []⟩ } :=
    (State.canonical_cur (s.onPkg chip _) _).2 (by simpa using h)
  unfold State.issueSlot
  extract_lets base t me
  change Claims.Canonical t at taken
  split
  · exact taken
  · split
    · simpa using taken
    · split
      · simpa using taken
      · split
        · simpa using taken
        · have fetched := State.fetchWords_canonical me.pc 5 0 [] taken
          split
          · next e =>
            rw [e] at fetched
            rw [Turn.canonical_none]
            split
            · exact taken
            · exact fetched
          · simpa using taken
          · dsimp only
            split <;> exact taken

theorem State.coreCycle_canonical {s : State} (chip core : Nat) (h : Claims.Canonical s) : (s.coreCycle chip core).Canonical := by
  unfold State.coreCycle
  dsimp only
  split
  · split
    · exact State.issueSlot_canonical _ _ _ h
    · simpa using h
  · exact h

/-! ## Moves (R210) -/

theorem State.event_canonical (i : Instr) {s : State} (h : Claims.Canonical s) : AnswersCanonical (State.event i s) := by
  have done := exec_canonical i h
  unfold State.event
  split
  · exact (answersCanonical_next s).2 h
  · exact done

theorem State.upset_canonical {s : State} (chip : Nat) (u : Upset) (h : Claims.Canonical s) : Claims.Canonical (s.upset chip u) := by
  unfold State.upset
  split
  · exact State.canonical_onPkg h fun _ hp => Package.wf_upset u hp
  · exact h

theorem settled_canonical {o : Host.Outcome State Fault Refusal} (h : AnswersCanonical o) : AnswersCanonical (settled o) := by
  unfold settled
  split
  · simpa using h
  · exact h

theorem State.take_canonical (m : Move) {s : State} (h : Claims.Canonical s) : AnswersCanonical (s.take m) := by
  refine settled_canonical ?_
  cases m with
  | cycle chip core =>
    have turn := State.coreCycle_canonical chip core h
    dsimp only
    split
    · next e => rw [e] at turn; exact (answersCanonical_next _).2 turn
    · next e => rw [e] at turn; exact exec_canonical _ turn
  | wake chip core slot => simpa using h
  | event i =>
    dsimp only
    split
    · exact State.event_canonical i h
    · simpa using h
  | upset chip u => exact (answersCanonical_next _).2 (State.upset_canonical chip u h)

theorem step_canonical {s : State} (h : Claims.Canonical s) : AnswersCanonical (step s) :=
  State.take_canonical _ ((State.canonical_begin s).2 h)

/-- Settles O57: each move keeps the form, for each instruction and each step does. -/
theorem memoryStaysCanonical : Obligations.MemoryStaysCanonical := fun _ t h e => step_canonical h t e

end Sys2Proof.Machine
end
section
/-! SUPPORT. The gate that every chain passes (R31, R97): when it opens, and in what order its checks come. -/

namespace Sys2Proof.Machine

open Sys2Proof.Claims

/-! ## One operand -/

/-- A register operand that holds a value (R17 to R20): it begins where it must, lies in the window, is full and, where it is read, sound. -/
theorem holds_reg (s : State) (n count : Nat) (even trap : Bool) (use : Use) (x : Word) :
    Holds s (.reg n count even use trap) x = true ↔
      (even = true → n % 2 = 0) ∧ n + count ≤ s.me.len ∧ (∀ i ∈ span n 1 count, (s.hereCore.reg s.me i).full = true) ∧
      (∀ i ∈ use.readOf n count, (s.hereCore.reg s.me i).bad = false) ∧ x = s.reg n := by
  cases even <;> cases use <;> simp [Holds, Use.readOf, Core.reg, State.reg, and_assoc]

/-- A register operand is ready exactly when it is full and, where it is read, not poisoned. -/
theorem Opr.ready_reg (s : State) (n count : Nat) (even trap : Bool) (use : Use) (x : Word) :
    (Opr.reg n count even use trap).ready s = .val x ↔
      (∀ i ∈ span n 1 count, (s.hereCore.reg s.me i).full = true) ∧
      (∀ i ∈ use.readOf n count, (s.hereCore.reg s.me i).bad = false) ∧ x = s.reg n := by
  simp only [Opr.ready]
  split
  · next h =>
    obtain ⟨i, hi, empty⟩ := List.any_eq_true.1 h
    simp only [reduceCtorEq, false_iff, not_and]
    intro full
    simp [full i hi] at empty
  · next h =>
    have full : ∀ i ∈ span n 1 count, (s.hereCore.reg s.me i).full = true := by simpa using h
    split
    · next i hi =>
      simp only [reduceCtorEq, false_iff, not_and]
      intro _ sound
      simpa [sound i (List.mem_of_find?_eq_some hi)] using List.find?_some hi
    · next hn =>
      have sound : ∀ i ∈ use.readOf n count, (s.hereCore.reg s.me i).bad = false := by simpa using hn
      rw [Ready.val.injEq]
      exact ⟨fun e => ⟨full, sound, e.symm⟩, fun e => e.2.2.symm⟩

/-- An operand holds a value exactly when no check finds fault with it and it is ready with that value. -/
theorem holds_iff (s : State) (o : Opr) (x : Word) : Holds s o x = true ↔
    o.roleBad s = false ∧ o.alignBad = [] ∧ o.windowBad s.me.len = [] ∧ o.ready s = .val x := by
  cases o with
  | none => simp [Holds, Opr.roleBad, Opr.alignBad, Opr.windowBad, Opr.ready, eq_comm (a := x)]
  | imm v => simp [Holds, Opr.roleBad, Opr.alignBad, Opr.windowBad, Opr.ready, eq_comm (a := x)]
  | pop c => simp [Holds, Opr.alignBad, Opr.windowBad, Opr.ready]
  | push c => simp [Holds, Opr.alignBad, Opr.windowBad, Opr.ready]
  | named n count even =>
    cases even <;>
      simp [Holds, Opr.roleBad, Opr.alignBad, Opr.windowBad, Opr.ready, eq_comm (a := x), and_comm, and_assoc]
  | reg n count even use trap =>
    rw [holds_reg, Opr.ready_reg]
    cases even <;> simp [Opr.roleBad, Opr.alignBad, Opr.windowBad]

/-- A ready operand has no empty register. -/
theorem Opr.emptyBad_of_ready {s : State} {o : Opr} {x : Word} (h : o.ready s = .val x) : o.emptyBad s = [] := by
  cases o with
  | reg n count even use trap =>
    have full := ((Opr.ready_reg s n count even trap use x).1 h).1
    simp only [Opr.emptyBad]
    split
    · simpa using full
    · rfl
  | none | pop | push | imm | named => rfl

/-! ## The whole gate -/

/-- What the gate finds once the checks have passed, of the readiness of T, S and D (R97). -/
def afterChecks (t s d : Ready) : Gate :=
  match firstSome [t, s, d] Ready.park? with
  | some x => .park x
  | none =>
    match firstSome [t, s, d] Ready.trap? with
    | some (c, v) => .trap c v
    | none => .ok ⟨d.value, s.value, t.value⟩

theorem afterChecks_ok_iff (t s d : Ready) (v : Vals) :
    afterChecks t s d = .ok v ↔ d = .val v.d ∧ s = .val v.s ∧ t = .val v.t := by
  cases v
  cases t <;> cases s <;> cases d <;> simp [afterChecks, firstSome, Ready.park?, Ready.trap?, Ready.value]

/-- Where T and D have values, S alone decides. -/
theorem afterChecks_source (a b : Word) (r : Ready) : afterChecks (.val a) r (.val b) =
    match r with
    | .val x => .ok ⟨b, x, a⟩
    | .park x => .park x
    | .trap c v => .trap c v := by
  cases r <;> rfl

/-- The gate: the checks of R31, steps 1 to 5, and then what the operands' readiness gives. -/
theorem gate_eq (s : State) (n : Needs) : gate s n =
    let ops := [n.t, n.s, n.d]
    if n.mem && decide (s.me.role = 2) then .trap .illegal (chainWord0 s)
    else if n.role.bad s || ops.any (fun o => o.roleBad s) then .trap .role (chainWord0 s)
    else if ops.flatMap Opr.alignBad ≠ [] then .trap .alignOperand (firstNumber s (ops.flatMap Opr.alignBad))
    else if ops.flatMap (Opr.windowBad s.me.len) ≠ [] then .trap .window (firstNumber s (ops.flatMap (Opr.windowBad s.me.len)))
    else if ops.flatMap (Opr.emptyBad s) ≠ [] then .trap .empty (firstNumber s (ops.flatMap (Opr.emptyBad s)))
    else afterChecks (n.t.ready s) (n.s.ready s) (n.d.ready s) := rfl

theorem ite_trap_eq_ok (c : Prop) [Decidable c] (x : Cause) (w : Word) (g : Gate) (v : Vals) :
    (if c then Gate.trap x w else g) = .ok v ↔ ¬ c ∧ g = .ok v := by
  split <;> simp [*]

/-- The gate opens with the values of operands that all hold them, to a thread whose role admits the chain. -/
theorem gate_ok_iff (s : State) (n : Needs) (v : Vals) : gate s n = .ok v ↔
    (n.mem = true → s.me.role ≠ 2) ∧ n.role.bad s = false ∧
    Holds s n.d v.d = true ∧ Holds s n.s v.s = true ∧ Holds s n.t v.t = true := by
  simp only [gate_eq, ite_trap_eq_ok, afterChecks_ok_iff, holds_iff, ne_eq, not_not]
  constructor
  · rintro ⟨mem, role, align, window, -, d, x, t⟩
    simp only [Bool.and_eq_true, decide_eq_true_eq, not_and, Bool.not_eq_true, Bool.or_eq_false_iff, List.any_cons, List.any_nil,
      Bool.or_false, List.flatMap_cons, List.flatMap_nil, List.append_eq_nil_iff, and_true] at mem role align window
    obtain ⟨rule, roleT, roleS, roleD⟩ := role
    obtain ⟨alignT, alignS, alignD⟩ := align
    obtain ⟨windowT, windowS, windowD⟩ := window
    exact ⟨mem, rule, ⟨roleD, alignD, windowD, d⟩, ⟨roleS, alignS, windowS, x⟩, roleT, alignT, windowT, t⟩
  · rintro ⟨mem, rule, ⟨roleD, alignD, windowD, d⟩, ⟨roleS, alignS, windowS, x⟩, roleT, alignT, windowT, t⟩
    refine ⟨by simpa using mem, ?_, ?_, ?_, ?_, d, x, t⟩
    · simp [rule, roleT, roleS, roleD]
    · simp [alignT, alignS, alignD]
    · simp [windowT, windowS, windowD]
    · simp [Opr.emptyBad_of_ready t, Opr.emptyBad_of_ready x, Opr.emptyBad_of_ready d]

/-- A chain is ready with some values exactly when its thread may issue and the gate opens with them. -/
theorem ready_iff (s : State) (n : Needs) (v : Vals) : Claims.Ready s n v ↔ s.issuing = true ∧ gate s n = .ok v := by
  simp only [Claims.Ready, gate_ok_iff, State.issuing, Bool.and_eq_true, decide_eq_true_eq, and_assoc]

theorem issuing_of_ready {s : State} {n : Needs} {v : Vals} (h : Claims.Ready s n v) : s.issuing = true := ((ready_iff s n v).1 h).1
theorem gate_of_ready {s : State} {n : Needs} {v : Vals} (h : Claims.Ready s n v) : gate s n = .ok v := ((ready_iff s n v).1 h).2

@[simp] theorem firstNumber_single (s : State) (n : Nat) : firstNumber s [n] = word n := by
  simp [firstNumber, pickFrom, Nat.mod_one]

/-- A group that is read parks on an empty register, traps on a poisoned one, and else has the value of its first. -/
theorem Opr.ready_read (s : State) (n count : Nat) (even trap : Bool) : (Opr.reg n count even .read trap).ready s =
    if emptyRegs s n count ≠ [] then .park .reg
    else match (span n 1 count).find? (fun i => (s.hereCore.reg s.me i).bad) with
      | some i => .trap .softError (word i)
      | Option.none => .val (s.reg n) := by
  have any : (span n 1 count).any (fun i => !(s.hereCore.reg s.me i).full) = true ↔ emptyRegs s n count ≠ [] := by
    simp [emptyRegs]
  simp only [Opr.ready, any, Use.readOf] <;> rfl

/-- The checks of a chain whose one operand is a register or a group to be read, in their order. -/
theorem gate_read (s : State) (n count : Nat) (even trap : Bool) :
    gate s { s := .reg n count even .read trap } =
      if even = true ∧ n % 2 = 1 then .trap .alignOperand (word n)
      else if s.me.len < n + count then .trap .window (word n)
      else if trap = true ∧ emptyRegs s n count ≠ [] then .trap .empty (firstNumber s (emptyRegs s n count))
      else if emptyRegs s n count ≠ [] then .park .reg
      else match (span n 1 count).find? (fun i => (s.hereCore.reg s.me i).bad) with
        | some i => .trap .softError (word i)
        | none => .ok ⟨0, s.reg n, 0⟩ := by
  have align : [Opr.none, .reg n count even .read trap, .none].flatMap Opr.alignBad = if even = true ∧ n % 2 = 1 then [n] else [] := by
    simp [Opr.alignBad]
  have window : [Opr.none, .reg n count even .read trap, .none].flatMap (Opr.windowBad s.me.len) =
      if s.me.len < n + count then [n] else [] := by simp [Opr.windowBad]
  have empty : [Opr.none, .reg n count even .read trap, .none].flatMap (Opr.emptyBad s) = if trap = true then emptyRegs s n count else [] := by
    simp [Opr.emptyBad, Use.reads, emptyRegs]
  have ready : afterChecks (Opr.none.ready s) ((Opr.reg n count even .read trap).ready s) (Opr.none.ready s) =
      if emptyRegs s n count ≠ [] then .park .reg
      else match (span n 1 count).find? (fun i => (s.hereCore.reg s.me i).bad) with
        | some i => .trap .softError (word i)
        | none => .ok ⟨0, s.reg n, 0⟩ := by
    rw [Opr.ready_read, Opr.ready, afterChecks_source]
    by_cases full : emptyRegs s n count = []
    · cases h : (span n 1 count).find? (fun i => (s.hereCore.reg s.me i).bad) <;> simp [full]
    · simp [full]
  rw [gate_eq]
  dsimp only
  rw [align, window, empty, ready]
  simp only [RoleRule.bad, Opr.roleBad, List.any_cons, List.any_nil, Bool.or_self, Bool.false_and, Bool.false_eq_true, if_false]
  by_cases odd : even = true ∧ n % 2 = 1
  · simp [odd]
  by_cases outside : s.me.len < n + count
  · simp [odd, outside]
  cases trap <;> simp [odd, outside]

end Sys2Proof.Machine

namespace Sys2Proof

/-- Settles O1: the gate opens as `gate_ok_iff` says, and the checks of one operand come in the order of `gate_read`. -/
theorem gate : Obligations.Gate :=
  ⟨Machine.ready_iff, fun s n count even trap _ => Machine.gate_read s n count even trap⟩

end Sys2Proof
end
section
/-! SUPPORT. What the decoder answers is a chain: no row of the opcode map builds a step of the machine (R73 to R79). -/

namespace Sys2Proof

/-- An answer of a row's builder that is, if any, an instruction of a chain. -/
def Chains (o : Option Instr) : Prop := ∀ i, o = some i → i.isStep = false

theorem chains_none : Chains none := fun _ h => by cases h
theorem chains_some {i : Instr} (h : i.isStep = false) : Chains (some i) := fun _ e => by cases e; exact h
theorem chains_bind {α : Type} {o : Option α} {f : α → Option Instr} (h : ∀ a, Chains (f a)) : Chains (o.bind f) := by
  cases o with
  | none => exact chains_none
  | some a => exact h a
theorem chains_ite {c : Prop} [Decidable c] {a b : Option Instr} (ha : Chains a) (hb : Chains b) : Chains (if c then a else b) := by
  split
  · exact ha
  · exact hb

/-! ## Builders -/

/-- A builder of the opcode map that answers chains only. -/
def Builds (b : Raw → Option Instr) : Prop := ∀ r, Chains (b r)

theorem builds_DS {mk : Reg → Src → Instr} (h : ∀ a b, (mk a b).isStep = false) : Builds (buildDS mk) :=
  fun _ => chains_bind fun _ => chains_bind fun _ => chains_some (h _ _)

theorem builds_DstS {mk : Dst → Src → Instr} (h : ∀ a b, (mk a b).isStep = false) : Builds (buildDstS mk) :=
  fun _ => chains_bind fun _ => chains_bind fun _ => chains_some (h _ _)

theorem builds_DI {mk : Reg → Word → Instr} (h : ∀ a b, (mk a b).isStep = false) : Builds (buildDI mk) :=
  fun _ => chains_bind fun _ => chains_some (h _ _)

theorem builds_DstI {mk : Dst → Word → Instr} (h : ∀ a b, (mk a b).isStep = false) : Builds (buildDstI mk) :=
  fun _ => chains_bind fun _ => chains_some (h _ _)

theorem builds_I {mk : Word → Instr} (h : ∀ a, (mk a).isStep = false) : Builds (buildI mk) :=
  fun _ => chains_some (h _)

theorem builds_N {i : Instr} (h : i.isStep = false) : Builds (buildN i) := fun _ => chains_some h

theorem builds_D {mk : Reg → Instr} (h : ∀ a, (mk a).isStep = false) : Builds (buildD mk) :=
  fun _ => chains_bind fun _ => chains_some (h _)

theorem builds_S {mk : RegOp → Instr} (h : ∀ a, (mk a).isStep = false) : Builds (buildS mk) :=
  fun _ => chains_bind fun _ => chains_some (h _)

theorem builds_ST {mk : RegOp → RegOp → Instr} (h : ∀ a b, (mk a b).isStep = false) : Builds (buildST mk) :=
  fun _ => chains_bind fun _ => chains_bind fun _ => chains_some (h _ _)

theorem builds_DRS {mk : Reg → RegOp → Instr} (h : ∀ a b, (mk a b).isStep = false) : Builds (buildDRS mk) :=
  fun _ => chains_bind fun _ => chains_bind fun _ => chains_some (h _ _)

theorem builds_DRST {mk : Reg → RegOp → RegOp → Instr} (h : ∀ a b c, (mk a b c).isStep = false) : Builds (buildDRST mk) :=
  fun _ => chains_bind fun _ => chains_bind fun _ => chains_bind fun _ => chains_some (h _ _ _)

theorem builds_DRSG {mk : Reg → RegOp → Tgt → Instr} (h : ∀ a b c, (mk a b c).isStep = false) : Builds (buildDRSG mk) :=
  fun _ => chains_bind fun _ => chains_bind fun _ => chains_bind fun _ => chains_some (h _ _ _)

theorem builds_DST {mk : Reg → Src → Tgt → Instr} (h : ∀ a b c, (mk a b c).isStep = false) : Builds (buildDST mk) :=
  fun _ => chains_bind fun _ => chains_bind fun _ => chains_bind fun _ => chains_some (h _ _ _)

theorem builds_DSI {mk : Reg → Src → Word → Instr} (h : ∀ a b c, (mk a b c).isStep = false) : Builds (buildDSI mk) :=
  fun _ => chains_bind fun _ => chains_bind fun _ => chains_some (h _ _ _)

theorem builds_RDS {mk : Rnd → Reg → Src → Instr} (h : ∀ a b c, (mk a b c).isStep = false) : Builds (buildRDS mk) :=
  fun _ => chains_bind fun _ => chains_bind fun _ => chains_some (h _ _ _)

theorem builds_RDST {mk : Rnd → Reg → Src → Tgt → Instr} (h : ∀ a b c d, (mk a b c d).isStep = false) :
    Builds (buildRDST mk) :=
  fun _ => chains_bind fun _ => chains_bind fun _ => chains_bind fun _ => chains_some (h _ _ _ _)

theorem builds_Mem {mk : Reg → RegOp → Word → Instr} (h : ∀ a b c, (mk a b c).isStep = false) : Builds (buildMem mk) :=
  fun _ => chains_bind fun _ => chains_bind fun _ => chains_some (h _ _ _)

theorem builds_MemZ {mk : Size → Reg → RegOp → Word → Instr} (h : ∀ a b c d, (mk a b c d).isStep = false) :
    Builds (buildMemZ mk) :=
  fun _ => chains_bind fun _ => chains_bind fun _ => chains_some (h _ _ _ _)

theorem builds_MemT {mk : Reg → RegOp → Word → RegOp → Instr} (h : ∀ a b c d, (mk a b c d).isStep = false) :
    Builds (buildMemT mk) :=
  fun _ => chains_bind fun _ => chains_bind fun _ => chains_bind fun _ => chains_some (h _ _ _ _)

theorem builds_MemZT {mk : Size → Reg → RegOp → Word → Tgt → Instr} (h : ∀ a b c d e, (mk a b c d e).isStep = false) :
    Builds (buildMemZT mk) :=
  fun _ => chains_bind fun _ => chains_bind fun _ => chains_bind fun _ => chains_some (h _ _ _ _ _)

theorem builds_Ldrq {mk : Size → Reg → RegOp → Word → Instr} {mkq : Reg → RegOp → RegOp → Word → Instr}
    (h : ∀ a b c d, (mk a b c d).isStep = false) (hq : ∀ a b c d, (mkq a b c d).isStep = false) :
    Builds (buildLdrq mk mkq) := by
  intro r
  unfold buildLdrq
  split
  · exact builds_MemZ h r
  · exact chains_ite (chains_bind fun _ => chains_bind fun _ => chains_some (hq _ _ _ _)) chains_none
  · exact chains_none

theorem builds_BM {mk : RegOp → Word → Instr} (h : ∀ a b, (mk a b).isStep = false) : Builds (buildBM mk) :=
  fun _ => chains_bind fun _ => chains_some (h _ _)

theorem builds_QM {mk : Size → Bool → RegOp → Word → Instr} (h : ∀ a b c d, (mk a b c d).isStep = false) :
    Builds (buildQM mk) :=
  fun _ => chains_bind fun _ => chains_bind fun _ => chains_some (h _ _ _ _)

theorem builds_DN3 {mk : Reg → BitVec 3 → Instr} (h : ∀ a b, (mk a b).isStep = false) : Builds (buildDN3 mk) :=
  fun _ => chains_bind fun _ => chains_some (h _ _)

theorem builds_Sread : Builds buildSread :=
  fun _ => chains_bind fun _ => chains_ite (chains_ite (chains_some rfl) chains_none) (chains_some rfl)

theorem builds_Setrm : Builds buildSetrm := fun _ => chains_ite chains_none (chains_some rfl)

theorem builds_Send {mk : Reg → BitVec 6 → Option RegOp → BitVec 3 → Instr}
    (h : ∀ a b c d, (mk a b c d).isStep = false) : Builds (buildSend mk) := by
  refine fun _ => chains_bind fun _ => chains_ite chains_none ?_
  split
  · exact chains_ite (chains_some (h _ _ _ _)) chains_none
  · exact chains_ite chains_none (chains_some (h _ _ _ _))
  · exact chains_none

theorem builds_Mcfg : Builds buildMcfg :=
  fun _ => chains_bind fun _ => chains_ite (chains_some rfl) (chains_ite (chains_some rfl) (chains_ite (chains_some rfl)
    (chains_ite (chains_some rfl) (chains_ite (chains_some rfl) chains_none))))

theorem builds_Sel {bit : Nat} {rd wr : Reg → Src → Instr} (hr : ∀ a b, (rd a b).isStep = false)
    (hw : ∀ a b, (wr a b).isStep = false) : Builds (buildSel bit rd wr) := by
  refine fun _ => chains_bind fun _ => chains_bind fun _ => ?_
  split
  · exact chains_ite (chains_some (hr _ _)) (chains_some (hw _ _))
  · exact chains_some (hr _ _)

theorem builds_Two {zero one : Reg → Instr} (h0 : ∀ a, (zero a).isStep = false)
    (h1 : ∀ a, (one a).isStep = false) : Builds (buildTwo zero one) := fun _ => chains_bind fun _ => chains_ite (chains_some (h0 _)) (chains_some (h1 _))

theorem builds_Barset : Builds buildBarset := fun _ => chains_bind fun _ => chains_ite (chains_some rfl) (chains_some rfl)

theorem builds_PS {mk : Port → Src → Instr} (h : ∀ a b, (mk a b).isStep = false) : Builds (buildPS mk) :=
  fun _ => chains_bind fun _ => chains_bind fun _ => chains_some (h _ _)

theorem builds_P {mk : Port → Instr} (h : ∀ a, (mk a).isStep = false) : Builds (buildP mk) :=
  fun _ => chains_bind fun _ => chains_some (h _)

theorem builds_Pstat {mk : Reg → Port → Option RegOp → Instr} (h : ∀ a b c, (mk a b c).isStep = false) :
    Builds (buildPstat mk) := by
  refine fun _ => chains_bind fun _ => ?_
  split
  · exact chains_some (h _ _ _)
  · exact chains_some (h _ _ _)
  · exact chains_none

theorem builds_Depr {mk : Reg → Src → BitVec 5 → Instr} (h : ∀ a b c, (mk a b c).isStep = false) :
    Builds (buildDepr mk) :=
  fun _ => chains_bind fun _ => chains_bind fun _ => chains_some (h _ _ _)

theorem builds_RM {mk : Rec → RegOp → Word → Instr} (h : ∀ a b c, (mk a b c).isStep = false) : Builds (buildRM mk) :=
  fun _ => chains_bind fun _ => chains_bind fun _ => chains_some (h _ _ _)

theorem builds_Mma {mk : TileNo → Rec → Rec → RegOp → Word → Instr} (h : ∀ a b c d e, (mk a b c d e).isStep = false) :
    Builds (buildMma mk) :=
  fun _ => chains_bind fun _ => chains_bind fun _ => chains_bind fun _ => chains_some (h _ _ _ _ _)

theorem builds_Tile {mk : TileNo → Instr} (h : ∀ a, (mk a).isStep = false) : Builds (buildTile mk) :=
  fun _ => chains_bind fun _ => chains_some (h _)

theorem builds_Accm {mk : TileNo → Rec → RegOp → Word → Instr} (h : ∀ a b c d, (mk a b c d).isStep = false) :
    Builds (buildAccm mk) :=
  fun _ => chains_bind fun _ => chains_bind fun _ => chains_some (h _ _ _ _)

theorem builds_Drain {mk : Rnd → Rec → RegOp → Instr} (h : ∀ a b c, (mk a b c).isStep = false) : Builds (buildDrain mk) :=
  fun _ => chains_bind fun _ => chains_bind fun _ => chains_some (h _ _ _)

theorem builds_RLL {mk : Rnd → Rec → Rec → Instr} (h : ∀ a b c, (mk a b c).isStep = false) : Builds (buildRLL mk) :=
  fun _ => chains_bind fun _ => chains_bind fun _ => chains_some (h _ _ _)

theorem builds_LL {mk : Rec → Rec → Instr} (h : ∀ a b, (mk a b).isStep = false) : Builds (buildLL mk) :=
  fun _ => chains_bind fun _ => chains_bind fun _ => chains_some (h _ _)

theorem builds_RLLL {mk : Rnd → Rec → Rec → Rec → Instr} (h : ∀ a b c d, (mk a b c d).isStep = false) :
    Builds (buildRLLL mk) :=
  fun _ => chains_bind fun _ => chains_bind fun _ => chains_bind fun _ => chains_some (h _ _ _ _)

theorem builds_LLL {mk : Rec → Rec → Rec → Instr} (h : ∀ a b c, (mk a b c).isStep = false) : Builds (buildLLL mk) :=
  fun _ => chains_bind fun _ => chains_bind fun _ => chains_bind fun _ => chains_some (h _ _ _)

theorem builds_RLLG {mk : Rnd → Rec → Rec → Tgt → Instr} (h : ∀ a b c d, (mk a b c d).isStep = false) :
    Builds (buildRLLG mk) :=
  fun _ => chains_bind fun _ => chains_bind fun _ => chains_bind fun _ => chains_some (h _ _ _ _)

theorem builds_Vcvt {mk : Rnd → Rec → Rec → BitVec 4 → Instr} (h : ∀ a b c d, (mk a b c d).isStep = false) :
    Builds (buildVcvt mk) :=
  fun _ => chains_bind fun _ => chains_bind fun _ => chains_some (h _ _ _ _)

theorem builds_RLS {mk : Rnd → Rec → Src → Instr} (h : ∀ a b c, (mk a b c).isStep = false) : Builds (buildRLS mk) :=
  fun _ => chains_bind fun _ => chains_bind fun _ => chains_some (h _ _ _)

theorem builds_LS {mk : Rec → Src → Instr} (h : ∀ a b, (mk a b).isStep = false) : Builds (buildLS mk) :=
  fun _ => chains_bind fun _ => chains_bind fun _ => chains_some (h _ _)

theorem builds_RLLT {mk : Rnd → Rec → Rec → RegOp → Instr} (h : ∀ a b c d, (mk a b c d).isStep = false) :
    Builds (buildRLLT mk) :=
  fun _ => chains_bind fun _ => chains_bind fun _ => chains_bind fun _ => chains_some (h _ _ _ _)

theorem builds_LLT {mk : Rec → Rec → RegOp → Instr} (h : ∀ a b c, (mk a b c).isStep = false) : Builds (buildLLT mk) :=
  fun _ => chains_bind fun _ => chains_bind fun _ => chains_bind fun _ => chains_some (h _ _ _)

theorem builds_B {mk : BitVec 2 → Instr} (h : ∀ a, (mk a).isStep = false) : Builds (buildB mk) :=
  fun _ => chains_some (h _)

theorem builds_DB {mk : Reg → BitVec 2 → Instr} (h : ∀ a b, (mk a b).isStep = false) : Builds (buildDB mk) :=
  fun _ => chains_bind fun _ => chains_some (h _ _)

theorem builds_Capnar {mk : Reg → RegOp → RegOp → BitVec 12 → Instr} (h : ∀ a b c d, (mk a b c d).isStep = false) :
    Builds (buildCapnar mk) :=
  fun _ => chains_bind fun _ => chains_bind fun _ => chains_bind fun _ => chains_some (h _ _ _ _)

/-! ## Rows -/

/-- Rows of the opcode map that build chains only. -/
def Rows (l : List (Option Form)) : Prop := ∀ f, some f ∈ l → Builds f.build

theorem rows_nil : Rows [] := fun _ h => by cases h
theorem rows_none (l : List (Option Form)) : Rows (none :: l) ↔ Rows l := by simp [Rows]
theorem rows_some (f : Form) (l : List (Option Form)) : Rows (some f :: l) ↔ Builds f.build ∧ Rows l := by simp [Rows]
theorem rows_append (l m : List (Option Form)) : Rows (l ++ m) ↔ Rows l ∧ Rows m := by
  simp only [Rows, List.mem_append]
  exact ⟨fun h => ⟨fun f hf => h f (.inl hf), fun f hf => h f (.inr hf)⟩, fun ⟨hl, hm⟩ f hf => hf.elim (hl f) (hm f)⟩

theorem rows_page0Rows0 : Rows page0Rows0 := by
  simp only [page0Rows0, rows_none, rows_some]
  exact ⟨builds_DS fun _ _ => rfl, builds_DS fun _ _ => rfl, builds_DS fun _ _ => rfl, builds_DS fun _ _ => rfl, builds_DS fun _ _ => rfl,
    builds_DS fun _ _ => rfl, builds_DS fun _ _ => rfl, builds_DS fun _ _ => rfl, builds_DS fun _ _ => rfl, builds_DS fun _ _ => rfl,
    builds_DS fun _ _ => rfl, rows_nil⟩
theorem rows_page0Rows1 : Rows page0Rows1 := by
  simp only [page0Rows1, rows_some]
  exact ⟨builds_DS fun _ _ => rfl, builds_DS fun _ _ => rfl, builds_DS fun _ _ => rfl, builds_DS fun _ _ => rfl, builds_DS fun _ _ => rfl,
    builds_DS fun _ _ => rfl, builds_DS fun _ _ => rfl, builds_DS fun _ _ => rfl, builds_DS fun _ _ => rfl, builds_DS fun _ _ => rfl,
    builds_DS fun _ _ => rfl, builds_DstS fun _ _ => rfl, rows_nil⟩
theorem rows_page0Rows2 : Rows page0Rows2 := by
  simp only [page0Rows2, rows_some]
  exact ⟨builds_DS fun _ _ => rfl, builds_DS fun _ _ => rfl, builds_DS fun _ _ => rfl, builds_DS fun _ _ => rfl, builds_DS fun _ _ => rfl,
    builds_DS fun _ _ => rfl, builds_DI fun _ _ => rfl, builds_DstI fun _ _ => rfl, builds_DI fun _ _ => rfl, builds_DI fun _ _ => rfl,
    builds_DI fun _ _ => rfl, builds_Mem fun _ _ _ => rfl, rows_nil⟩
theorem rows_page0Rows3 : Rows page0Rows3 := by
  simp only [page0Rows3, rows_some]
  exact ⟨builds_DST fun _ _ _ => rfl, builds_DI fun _ _ => rfl, builds_DI fun _ _ => rfl, builds_DI fun _ _ => rfl,
    builds_DI fun _ _ => rfl, builds_DSI fun _ _ _ => rfl, builds_DSI fun _ _ _ => rfl, builds_DSI fun _ _ _ => rfl,
    builds_DSI fun _ _ _ => rfl, builds_DSI fun _ _ _ => rfl, builds_DSI fun _ _ _ => rfl, builds_I fun _ => rfl, rows_nil⟩
theorem rows_page0Rows4 : Rows page0Rows4 := by
  simp only [page0Rows4, rows_some]
  exact ⟨builds_I fun _ => rfl, builds_S fun _ => rfl, builds_N rfl, builds_DRST fun _ _ _ => rfl, builds_N rfl, builds_N rfl,
    builds_N rfl, builds_I fun _ => rfl, builds_I fun _ => rfl, builds_MemZ fun _ _ _ _ => rfl, builds_MemZ fun _ _ _ _ => rfl,
    builds_MemZ fun _ _ _ _ => rfl, rows_nil⟩

theorem rows_page1Rows0 : Rows page1Rows0 := by
  simp only [page1Rows0, rows_none, rows_some]
  exact ⟨builds_DS fun _ _ => rfl, builds_DST fun _ _ _ => rfl, builds_DS fun _ _ => rfl, builds_DS fun _ _ => rfl,
    builds_DS fun _ _ => rfl, builds_DS fun _ _ => rfl, builds_DS fun _ _ => rfl, builds_DS fun _ _ => rfl, builds_RDS fun _ _ _ => rfl,
    builds_RDS fun _ _ _ => rfl, builds_RDS fun _ _ _ => rfl, rows_nil⟩
theorem rows_page1Rows1 : Rows page1Rows1 := by
  simp only [page1Rows1, rows_some]
  exact ⟨builds_RDS fun _ _ _ => rfl, builds_RDS fun _ _ _ => rfl, builds_RDS fun _ _ _ => rfl, builds_RDS fun _ _ _ => rfl,
    builds_RDS fun _ _ _ => rfl, builds_RDS fun _ _ _ => rfl, builds_RDS fun _ _ _ => rfl, builds_RDST fun _ _ _ _ => rfl,
    builds_RDST fun _ _ _ _ => rfl, builds_RDST fun _ _ _ _ => rfl, builds_RDST fun _ _ _ _ => rfl, builds_RDST fun _ _ _ _ => rfl,
    rows_nil⟩
theorem rows_page1Rows2 : Rows page1Rows2 := by
  simp only [page1Rows2, rows_some]
  exact ⟨builds_RDST fun _ _ _ _ => rfl, builds_RDST fun _ _ _ _ => rfl, builds_RDST fun _ _ _ _ => rfl, builds_DS fun _ _ => rfl,
    builds_DS fun _ _ => rfl, builds_DS fun _ _ => rfl, builds_DS fun _ _ => rfl, builds_DS fun _ _ => rfl, builds_DS fun _ _ => rfl,
    builds_DS fun _ _ => rfl, builds_DS fun _ _ => rfl, builds_DS fun _ _ => rfl, rows_nil⟩
theorem rows_page1Rows3 : Rows page1Rows3 := by
  simp only [page1Rows3, rows_some]
  exact ⟨builds_DS fun _ _ => rfl, builds_DS fun _ _ => rfl, builds_DS fun _ _ => rfl, builds_DS fun _ _ => rfl, builds_DS fun _ _ => rfl,
    builds_DS fun _ _ => rfl, builds_DS fun _ _ => rfl, builds_DS fun _ _ => rfl, builds_DS fun _ _ => rfl, builds_RDS fun _ _ _ => rfl,
    builds_RDS fun _ _ _ => rfl, builds_RDS fun _ _ _ => rfl, rows_nil⟩
theorem rows_page1Rows4 : Rows page1Rows4 := by
  simp only [page1Rows4, rows_some]
  exact ⟨builds_RDS fun _ _ _ => rfl, builds_RDS fun _ _ _ => rfl, builds_RDS fun _ _ _ => rfl, builds_RDS fun _ _ _ => rfl,
    builds_RDS fun _ _ _ => rfl, builds_RDS fun _ _ _ => rfl, builds_RDS fun _ _ _ => rfl, builds_Setrm, builds_D fun _ => rfl,
    builds_I fun _ => rfl, builds_Sread, builds_DN3 fun _ _ => rfl, rows_nil⟩

theorem rows_page2Rows0 : Rows page2Rows0 := by
  simp only [page2Rows0, rows_none, rows_some]
  exact ⟨builds_Mem fun _ _ _ => rfl, builds_Mem fun _ _ _ => rfl, builds_Mem fun _ _ _ => rfl, builds_Mem fun _ _ _ => rfl,
    builds_BM fun _ _ => rfl, builds_Mem fun _ _ _ => rfl, builds_Mem fun _ _ _ => rfl, builds_Mem fun _ _ _ => rfl,
    builds_Mem fun _ _ _ => rfl, builds_Mem fun _ _ _ => rfl, builds_Mem fun _ _ _ => rfl, rows_nil⟩
theorem rows_page2Rows1 : Rows page2Rows1 := by
  simp only [page2Rows1, rows_some]
  exact ⟨builds_Mem fun _ _ _ => rfl, builds_Mem fun _ _ _ => rfl, builds_Mem fun _ _ _ => rfl, builds_Mem fun _ _ _ => rfl,
    builds_Mem fun _ _ _ => rfl, builds_Mem fun _ _ _ => rfl, builds_Mem fun _ _ _ => rfl, builds_Mem fun _ _ _ => rfl,
    builds_Mem fun _ _ _ => rfl, builds_Mem fun _ _ _ => rfl, builds_Mem fun _ _ _ => rfl, builds_Mem fun _ _ _ => rfl, rows_nil⟩
theorem rows_page2Rows2 : Rows page2Rows2 := by
  simp only [page2Rows2, rows_some]
  exact ⟨builds_Mem fun _ _ _ => rfl, builds_MemT fun _ _ _ _ => rfl, builds_MemT fun _ _ _ _ => rfl, builds_DRSG fun _ _ _ => rfl,
    builds_DS fun _ _ => rfl, builds_QM fun _ _ _ _ => rfl, builds_QM fun _ _ _ _ => rfl, builds_Send fun _ _ _ _ => rfl,
    builds_Send fun _ _ _ _ => rfl, builds_N rfl, builds_D fun _ => rfl, builds_DS fun _ _ => rfl, rows_nil⟩
theorem rows_page2Rows3 : Rows page2Rows3 := by
  simp only [page2Rows3, rows_some]
  exact ⟨builds_Mcfg, builds_PS fun _ _ => rfl, builds_P fun _ => rfl, builds_Pstat fun _ _ _ => rfl, builds_DS fun _ _ => rfl,
    builds_Depr fun _ _ _ => rfl, builds_DRSG fun _ _ _ => rfl, builds_DRSG fun _ _ _ => rfl, builds_DRS fun _ _ => rfl,
    builds_DRSG fun _ _ _ => rfl, builds_DRST fun _ _ _ => rfl, builds_S fun _ => rfl, rows_nil⟩
theorem rows_page2Rows4 : Rows page2Rows4 := by
  simp only [page2Rows4, rows_some]
  exact ⟨builds_S fun _ => rfl, builds_Sel (fun _ _ => rfl) (fun _ _ => rfl), builds_Sel (fun _ _ => rfl) (fun _ _ => rfl),
    builds_DRS fun _ _ => rfl, builds_DRST fun _ _ _ => rfl, builds_N rfl, rows_nil⟩

theorem rows_page3Rows0 : Rows page3Rows0 := by
  simp only [page3Rows0, rows_none, rows_some]
  exact ⟨builds_RM fun _ _ _ => rfl, builds_Two (fun _ => rfl) (fun _ => rfl), builds_Mma fun _ _ _ _ _ => rfl,
    builds_Mma fun _ _ _ _ _ => rfl, builds_Mma fun _ _ _ _ _ => rfl, builds_Mma fun _ _ _ _ _ => rfl, builds_Tile fun _ => rfl,
    builds_Tile fun _ => rfl, builds_Accm fun _ _ _ _ => rfl, builds_Accm fun _ _ _ _ => rfl, builds_Sel (fun _ _ => rfl) (fun _ _ => rfl),
    rows_nil⟩
theorem rows_page3Rows1 : Rows page3Rows1 := by
  simp only [page3Rows1, rows_some]
  exact ⟨builds_Drain fun _ _ _ => rfl, builds_Drain fun _ _ _ => rfl, builds_RLL fun _ _ _ => rfl, builds_RLL fun _ _ _ => rfl,
    builds_RLL fun _ _ _ => rfl, builds_RLL fun _ _ _ => rfl, builds_RLL fun _ _ _ => rfl, builds_RLL fun _ _ _ => rfl,
    builds_RLLL fun _ _ _ _ => rfl, builds_RLLL fun _ _ _ _ => rfl, builds_RLLL fun _ _ _ _ => rfl, builds_RLLL fun _ _ _ _ => rfl,
    rows_nil⟩
theorem rows_page3Rows2 : Rows page3Rows2 := by
  simp only [page3Rows2, rows_some]
  exact ⟨builds_RLL fun _ _ _ => rfl, builds_LL fun _ _ => rfl, builds_RLL fun _ _ _ => rfl, builds_LL fun _ _ => rfl,
    builds_RLL fun _ _ _ => rfl, builds_RLL fun _ _ _ => rfl, builds_RLL fun _ _ _ => rfl, builds_RLL fun _ _ _ => rfl,
    builds_RLL fun _ _ _ => rfl, builds_RLL fun _ _ _ => rfl, builds_RLL fun _ _ _ => rfl, builds_RLL fun _ _ _ => rfl, rows_nil⟩
theorem rows_page3Rows3 : Rows page3Rows3 := by
  simp only [page3Rows3, rows_some]
  exact ⟨builds_RLL fun _ _ _ => rfl, builds_RLL fun _ _ _ => rfl, builds_LL fun _ _ => rfl, builds_LL fun _ _ => rfl,
    builds_RLLG fun _ _ _ _ => rfl, builds_RLLG fun _ _ _ _ => rfl, builds_Vcvt fun _ _ _ _ => rfl, builds_RLLL fun _ _ _ _ => rfl,
    builds_RLLL fun _ _ _ _ => rfl, builds_RLLL fun _ _ _ _ => rfl, builds_LLL fun _ _ _ => rfl, builds_LLL fun _ _ _ => rfl, rows_nil⟩
theorem rows_page3Rows4 : Rows page3Rows4 := by
  simp only [page3Rows4, rows_some]
  exact ⟨builds_LLL fun _ _ _ => rfl, builds_RLLL fun _ _ _ _ => rfl, builds_LLL fun _ _ _ => rfl, builds_RLS fun _ _ _ => rfl,
    builds_LS fun _ _ => rfl, builds_LLT fun _ _ _ => rfl, builds_RLLT fun _ _ _ _ => rfl, builds_RLLT fun _ _ _ _ => rfl, builds_N rfl,
    builds_D fun _ => rfl, builds_Two (fun _ => rfl) (fun _ => rfl), builds_N rfl, rows_nil⟩

theorem rows_page4Rows0 : Rows page4Rows0 := by
  simp only [page4Rows0, rows_none, rows_some]
  exact ⟨builds_Barset, builds_B fun _ => rfl, builds_DB fun _ _ => rfl, builds_DB fun _ _ => rfl, builds_DRSG fun _ _ _ => rfl,
    builds_S fun _ => rfl, builds_DRSG fun _ _ _ => rfl, builds_DRS fun _ _ => rfl, builds_DRS fun _ _ => rfl, builds_S fun _ => rfl,
    builds_B fun _ => rfl, rows_nil⟩
theorem rows_page4Rows1 : Rows page4Rows1 := by
  simp only [page4Rows1, rows_some]
  exact ⟨builds_N rfl, builds_N rfl, builds_Mem fun _ _ _ => rfl, builds_DRSG fun _ _ _ => rfl, builds_DRS fun _ _ => rfl,
    builds_MemZT fun _ _ _ _ _ => rfl, builds_DRS fun _ _ => rfl, builds_DRSG fun _ _ _ => rfl, builds_DS fun _ _ => rfl,
    builds_DRSG fun _ _ _ => rfl, builds_S fun _ => rfl, builds_DS fun _ _ => rfl, rows_nil⟩
theorem rows_page4Rows2 : Rows page4Rows2 := by
  simp only [page4Rows2, rows_some]
  exact ⟨builds_DS fun _ _ => rfl, builds_DS fun _ _ => rfl, rows_nil⟩

theorem rows_page5Rows0 : Rows page5Rows0 := by
  simp only [page5Rows0, rows_none, rows_some]
  exact ⟨builds_DRST fun _ _ _ => rfl, builds_DRS fun _ _ => rfl, builds_DRST fun _ _ _ => rfl, builds_S fun _ => rfl,
    builds_DRS fun _ _ => rfl, builds_DRST fun _ _ _ => rfl, builds_S fun _ => rfl, builds_ST fun _ _ => rfl, builds_S fun _ => rfl,
    builds_ST fun _ _ => rfl, builds_S fun _ => rfl, rows_nil⟩
theorem rows_page5Rows1 : Rows page5Rows1 := by
  simp only [page5Rows1, rows_some]
  exact ⟨builds_DRS fun _ _ => rfl, builds_DRS fun _ _ => rfl, builds_Mem fun _ _ _ => rfl, builds_DS fun _ _ => rfl, builds_N rfl,
    builds_BM fun _ _ => rfl, builds_S fun _ => rfl, rows_nil⟩

theorem rows_page6Rows0 : Rows page6Rows0 := by
  simp only [page6Rows0, rows_none, rows_some]
  exact ⟨builds_DRST fun _ _ _ => rfl, builds_Capnar fun _ _ _ _ => rfl, builds_DRS fun _ _ => rfl,
    builds_Ldrq (fun _ _ _ _ => rfl) (fun _ _ _ _ => rfl), builds_N rfl, builds_Ldrq (fun _ _ _ _ => rfl) (fun _ _ _ _ => rfl),
    builds_Mem fun _ _ _ => rfl, builds_Mem fun _ _ _ => rfl, builds_Mem fun _ _ _ => rfl, builds_Mem fun _ _ _ => rfl,
    builds_Mem fun _ _ _ => rfl, rows_nil⟩
theorem rows_page6Rows1 : Rows page6Rows1 := by
  simp only [page6Rows1, rows_some]
  exact ⟨builds_Mem fun _ _ _ => rfl, builds_Mem fun _ _ _ => rfl, builds_Mem fun _ _ _ => rfl, builds_Mem fun _ _ _ => rfl,
    builds_Mem fun _ _ _ => rfl, builds_Mem fun _ _ _ => rfl, builds_Mem fun _ _ _ => rfl, builds_Mem fun _ _ _ => rfl,
    builds_Mem fun _ _ _ => rfl, builds_Mem fun _ _ _ => rfl, builds_Mem fun _ _ _ => rfl, builds_Mem fun _ _ _ => rfl, rows_nil⟩
theorem rows_page6Rows2 : Rows page6Rows2 := by
  simp only [page6Rows2, rows_some]
  exact ⟨builds_Mem fun _ _ _ => rfl, builds_MemT fun _ _ _ _ => rfl, builds_MemT fun _ _ _ _ => rfl, builds_Mem fun _ _ _ => rfl,
    builds_Mem fun _ _ _ => rfl, builds_Mem fun _ _ _ => rfl, builds_Mem fun _ _ _ => rfl, builds_Mem fun _ _ _ => rfl,
    builds_Mem fun _ _ _ => rfl, builds_Mem fun _ _ _ => rfl, builds_Mem fun _ _ _ => rfl, builds_Mem fun _ _ _ => rfl, rows_nil⟩
theorem rows_page6Rows3 : Rows page6Rows3 := by
  simp only [page6Rows3, rows_some]
  exact ⟨builds_DRST fun _ _ _ => rfl, builds_DRS fun _ _ => rfl, builds_DRS fun _ _ => rfl, builds_DRS fun _ _ => rfl, rows_nil⟩

/-- No page of the opcode map has a row for a step of the machine. -/
theorem rows_pageRows (p : Nat) : Rows (pageRows p) := by
  unfold pageRows
  split
  · simp only [page0, rows_append]
    exact ⟨⟨⟨⟨rows_page0Rows0, rows_page0Rows1⟩, rows_page0Rows2⟩, rows_page0Rows3⟩, rows_page0Rows4⟩
  · simp only [page1, rows_append]
    exact ⟨⟨⟨⟨rows_page1Rows0, rows_page1Rows1⟩, rows_page1Rows2⟩, rows_page1Rows3⟩, rows_page1Rows4⟩
  · simp only [page2, rows_append]
    exact ⟨⟨⟨⟨rows_page2Rows0, rows_page2Rows1⟩, rows_page2Rows2⟩, rows_page2Rows3⟩, rows_page2Rows4⟩
  · simp only [page3, rows_append]
    exact ⟨⟨⟨⟨rows_page3Rows0, rows_page3Rows1⟩, rows_page3Rows2⟩, rows_page3Rows3⟩, rows_page3Rows4⟩
  · simp only [page4, rows_append]
    exact ⟨⟨rows_page4Rows0, rows_page4Rows1⟩, rows_page4Rows2⟩
  · simp only [page5, rows_append]
    exact ⟨rows_page5Rows0, rows_page5Rows1⟩
  · simp only [page6, rows_append]
    exact ⟨⟨⟨rows_page6Rows0, rows_page6Rows1⟩, rows_page6Rows2⟩, rows_page6Rows3⟩
  · exact rows_nil

theorem formOf_builds {page op : Nat} {k : BitVec 2} {f : Form} (h : formOf page op k = some f) : Builds f.build := by
  unfold formOf at h
  split at h
  · cases h
    exact builds_D fun _ => rfl
  · split at h
    · next r hr =>
      subst h
      exact rows_pageRows page f (List.mem_of_getElem? hr)
    · cases h

theorem decodeChain_isStep {c : Chain} {i : Instr} (h : decodeChain c = .ok i) : i.isStep = false := by
  unfold decodeChain at h
  split at h
  · cases h
  · next f hf =>
    split at h
    · cases h
    · next r _ =>
      split at h
      · cases h
      · next j hj =>
        cases h
        exact formOf_builds hf r _ hj

/-- What the decoder answers is never a step of the machine. -/
theorem decode_isStep {ws : List Half} {i : Instr} {n : Nat} (h : decode ws = .ok (i, n)) : i.isStep = false := by
  unfold decode at h
  split at h
  · cases h
  · split at h
    · cases h
    · next hi =>
      cases h
      exact decodeChain_isStep hi

end Sys2Proof
end
section
/-! SUPPORT. Every instruction answers (R31, R210): a chain of a thread that may issue goes on to a next state, and a step of the tables
goes on or is not enabled. -/

namespace Sys2Proof.Machine

/-! ## Outcomes -/

/-- An outcome of an instruction that is neither a refusal nor, for a chain of a thread that may issue, a fault. -/
def Answers (i : Instr) (s : State) (o : Host.Outcome State Fault Refusal) : Prop :=
  (∃ t, o = .next t) ∨ (i.isStep = true ∧ ∃ f, o = .fault f) ∨ (i.isStep = false ∧ s.issuing = false)

variable {i : Instr} {s : State}

theorem answers_chain (c : i.isStep = false) (n : Needs) (body : Vals → State → Res) : Answers i s (chain s n body) := by
  cases h : s.issuing with
  | true => exact .inl (chain_answers s n body h)
  | false => exact .inr (.inr ⟨c, h⟩)

theorem answers_chainNext (c : i.isStep = false) (n : Needs) (body : Vals → State → State) : Answers i s (chainNext s n body) :=
  answers_chain c n _

theorem answers_vec2 (c : i.isStep = false) (op : VFn) (dbl : Bool) (r : Rnd) (ld ls : Rec) : Answers i s (vec2 op dbl r ld ls s) :=
  answers_chain c _ _

theorem answers_vec3 (c : i.isStep = false) (op : VFn) (dbl : Bool) (r : Rnd) (ld ls lt : Rec) : Answers i s (vec3 op dbl r ld ls lt s) :=
  answers_chain c _ _

theorem answers_redOp (c : i.isStep = false) (op : RedFn) (dbl : Bool) (r : Rnd) (ld ls : Rec) : Answers i s (redOp op dbl r ld ls s) :=
  answers_chain c _ _

theorem answers_chainSlot (c : i.isStep = false) (n : Needs) (slot : Opr) (body : Vals → State → Res) :
    Answers i s (chainSlot s n slot body) := by
  unfold chainSlot
  split
  · dsimp only
    split <;> exact answers_chain c _ _
  · exact answers_chain c _ _

theorem answers_disabled (c : i.isStep = true) (f : Fault) : Answers i s (.fault f) := .inr (.inl ⟨c, f, rfl⟩)

theorem answers_sysStep (c : i.isStep = true) (f : State → Option State) : Answers i s (sysStep s f) := by
  unfold sysStep
  split
  · exact .inl ⟨_, rfl⟩
  · exact answers_disabled c _

theorem answers_pkgStep (c : i.isStep = true) (chip : Nat) (f : Package → Option Package) : Answers i s (pkgStep chip s f) := by
  unfold pkgStep
  split
  · split
    · exact .inl ⟨_, rfl⟩
    · exact answers_disabled c _
  · exact answers_disabled c _

theorem answers_jobStep (c : i.isStep = true) (chip id : Nat) (f : Package → Job → Option Package) : Answers i s (jobStep chip id s f) := by
  unfold jobStep
  split
  · split
    · exact .inl ⟨_, rfl⟩
    · exact answers_disabled c _
  · exact answers_disabled c _

theorem answers_packetStep (c : i.isStep = true) (kind chip id : Nat) (f : Package → HostPacket → Option Package) :
    Answers i s (packetStep kind chip id s f) := answers_jobStep c _ _ _

theorem answers_ite (c : i.isStep = true) (p : Prop) [Decidable p] (t : State) (f : Fault) :
    Answers i s (if p then .next t else .fault f) := by
  split
  · exact .inl ⟨t, rfl⟩
  · exact answers_disabled c f

theorem answers_unless (c : i.isStep = true) (p : Prop) [Decidable p] (t : State) (f : Fault) :
    Answers i s (if p then .fault f else .next t) := by
  split
  · exact answers_disabled c f
  · exact .inl ⟨t, rfl⟩

theorem answers_portBindRequest (c : i.isStep = true) (chip id : Nat) : Answers i s (execPortBindRequest chip id s) := by
  unfold execPortBindRequest
  dsimp only
  split
  · split
    · exact answers_disabled c _
    · split
      · exact .inl ⟨_, rfl⟩
      · split
        · exact .inl ⟨_, rfl⟩
        · split
          · exact .inl ⟨_, rfl⟩
          · split
            · exact answers_disabled c _
            · exact .inl ⟨_, rfl⟩
  · exact answers_disabled c _

/-! ## Instructions -/

theorem exec_answers (i : Instr) (s : State) : Answers i s (exec i s) := by
  cases i with unfold exec
  | messageArrival | messageDeliveryRetry | preemptHandlerStart | depositWrite | depositReply | slotRelease | cellOperation |
  aniseSlabWrite | aniseFaceStepSet | powerUp | bootStart | fatalError | dumpComplete | fundamentalReset | fabricPacketHop | linkDown |
  fabricLinkTrain | retransmitTimeout | streamRestart | streamStateExpiry | fabricStoreArrival | fabricAmoArrival |
  fabricPostedArrival | fabricFenceArrival | fabricMcastArrival | fabricPortArrival | fabricNoticeArrival | fabricReplyArrival |
  fabricAckArrival | migrateArrival | migrateReturn =>
    apply answers_sysStep; rfl
  | longLatencyResultArrival | translationWalkComplete | icacheFill | depositArrival | portValueArrival | spawnRemoteCreate |
  tstatRemoteReply | homeFeOperation | homeAtomic | engineLineRead | engineLineWrite | accswapExchange | clovePieceArrival |
  clovePieceWrite | commitEntryApply | commitRefresh | phaseCommitStart | anisePlacementRead | aniseSlabRead | aniseSelfFill |
  aniseDeliveryAbandon | preemptRequest | mapTradeArrival | mapTransferComplete | claimExpiry | packetComplete =>
    apply answers_jobStep; rfl
  | packetNop | packetLaunch | packetBarrier | packetSignal | packetIndirect | packetCopy => apply answers_packetStep; rfl
  | cassiaOpStart | barrierSignalHop | barrierRelease | budgetPeriodStart | preemptDone | preemptBudgetExpiry | packetTake |
  functionLevelReset | clusterPowerEntry | clusterPowerExitStart | clusterPowerExitComplete | linkReplay =>
    apply answers_pkgStep; rfl
  | cbptrWrite | doorbellWrite | bootgoWrite | hostRegisterWrite | hostLtrUpdate | ringSampleRetry | hostLinkUp | hostCxlWrite |
  hostCxlRead =>
    apply answers_ite; rfl
  | hostLinkReset | powerLoss => apply answers_unless; rfl
  | portBindRequest chip id => exact answers_portBindRequest (by rfl) chip id
  | gbind | hstep | hwait | hwaitF | gstatG | gstatF | gfree => apply answers_chainSlot; rfl
  | nop | yield | clrflg | punbind | ifence | tlbinv => apply answers_chainNext; rfl
  | vaddS | vaddD | vsubS | vsubD | vmulS | vmulD | vminS | vminD | vmaxS | vmaxD | vexpS | vexpD | vrcpS | vrcpD | vrsqS | vrsqD =>
    apply answers_vec2; rfl
  | vfmaS | vfmaD | vfmsS | vfmsD | vcmpEqS | vcmpEqD | vcmpLtS | vcmpLtD | vcmpLeS | vcmpLeD | vselS | vselD =>
    apply answers_vec3; rfl
  | vredSumS | vredSumD | vredMaxS | vredMaxD | vredMinS | vredMinD => apply answers_redOp; rfl
  | _ => apply answers_chain; rfl

/-- A chain of a thread that may issue goes on to a next state. -/
theorem exec_issues {i : Instr} {s : State} (c : i.isStep = false) (h : s.issuing = true) : ∃ t, exec i s = .next t := by
  rcases exec_answers i s with next | ⟨step, -⟩ | ⟨-, stopped⟩
  · exact next
  · rw [c] at step; cases step
  · rw [h] at stopped; cases stopped

/-- A step of the tables goes on to a next state, or is not enabled. -/
theorem exec_steps {i : Instr} (s : State) (c : i.isStep = true) : (∃ t, exec i s = .next t) ∨ ∃ f, exec i s = .fault f := by
  rcases exec_answers i s with next | ⟨-, fault⟩ | ⟨chain, -⟩
  · exact .inl next
  · exact .inr fault
  · rw [c] at chain; cases chain

/-! ## The turn of a slot (R137, R138) -/

/-- The state in which a slot's chain is issued: its turn is counted, and the issue context names the slot and the chain's words. -/
def State.turn (s : State) (chip core slot : Nat) (ws : List Half) : State :=
  { s.onPkg chip (fun p => p.onCore core (fun k => k.turnTaken slot)) with cur := ⟨chip, core, slot, ws⟩ }

section
variable (s : State) (chip core slot : Nat) (ws : List Half)

@[simp] theorem State.turn_cur : (s.turn chip core slot ws).cur = ⟨chip, core, slot, ws⟩ := rfl
@[simp] theorem State.turn_here : (s.turn chip core slot ws).here = (s.pkg chip).onCore core (fun k => k.turnTaken slot) :=
  State.pkg_onPkg_same s chip (fun p => p.onCore core (fun k => k.turnTaken slot))
@[simp] theorem State.turn_hereCore : (s.turn chip core slot ws).hereCore = ((s.pkg chip).core core).turnTaken slot := by
  simp [State.hereCore]
theorem Core.thread_turnTaken (k : Core) (slot : Nat) :
    (k.turnTaken slot).thread slot = { k.thread slot with lastIssue := k.cycle, gap := 8 } :=
  Core.thread_setThread_same k slot _
@[simp] theorem State.turn_me : (s.turn chip core slot ws).me =
    { (s.pkg chip).thread core slot with lastIssue := ((s.pkg chip).core core).cycle, gap := 8 } := by
  simp [State.me, Core.thread_turnTaken, Package.thread]

theorem State.turn_issuing {s : State} {chip core slot : Nat} (ws : List Half) (running : (s.pkg chip).phase = .running)
    (ready : ((s.pkg chip).core core |>.thread slot).life = .ready) : (s.turn chip core slot ws).issuing = true := by
  simp only [State.issuing, State.turn_here, State.turn_me, Bool.and_eq_true, decide_eq_true_eq]
  exact ⟨running, ready⟩

end

theorem firstIn_holds {lo n i : Nat} {ok : Nat → Bool} (h : firstIn lo n ok = some i) : ok i = true := List.find?_some h

theorem Core.ready_of_eligible {k : Core} {slot : Nat} (h : k.eligible slot = true) : (k.thread slot).life = .ready := by
  simp only [Core.eligible, Bool.and_eq_true, decide_eq_true_eq] at h
  exact h.1

/-- The slot that a core selects is READY. -/
theorem Core.ready_of_selectSlot {k : Core} {slot : Nat} (h : k.selectSlot = some slot) : (k.thread slot).life = .ready := by
  apply Core.ready_of_eligible
  unfold Core.selectSlot at h
  split at h
  · next service =>
    cases h
    simp only [Bool.and_eq_true] at service
    exact service.1
  · split at h
    · next found =>
      cases h
      exact firstIn_holds found
    · exact firstIn_holds h

/-- The issue of a slot comes to no chain, or to a chain in the state of its turn. -/
theorem issueSlot_issue {s t : State} {chip core slot : Nat} {i : Instr} (h : s.issueSlot chip core slot = .issue t i) :
    i.isStep = false ∧ ∃ ws, t = s.turn chip core slot ws := by
  unfold State.issueSlot at h
  dsimp only at h
  repeat' split at h
  all_goals cases h
  · next decoded => exact ⟨decode_isStep decoded, _, rfl⟩
  · exact ⟨rfl, _, rfl⟩

/-- A cycle comes to no chain, or to a chain of a thread that may issue. -/
theorem coreCycle_issue {s t : State} {chip core : Nat} {i : Instr} (h : s.coreCycle chip core = .issue t i) :
    i.isStep = false ∧ t.issuing = true := by
  unfold State.coreCycle at h
  dsimp only at h
  split at h
  · next running =>
    split at h
    · next slot selected =>
      have found : ((s.pkg chip).core core).selectSlot = some slot := by
        split at selected
        · exact selected
        · cases selected
      obtain ⟨c, ws, rfl⟩ := issueSlot_issue h
      exact ⟨c, State.turn_issuing ws running.1 (Core.ready_of_selectSlot found)⟩
    · cases h
  · cases h

/-! ## Moves -/

/-- An event goes on, whether or not it was enabled. -/
theorem State.event_answers {i : Instr} (c : i.isStep = true) (s : State) : ∃ t, State.event i s = .next t := by
  unfold State.event
  rcases exec_steps s c with ⟨t, e⟩ | ⟨f, e⟩ <;> simp [e]

theorem settled_next (s : State) : settled (.next s) = .next s.ended := rfl

theorem State.take_answers (s : State) (m : Move) : ∃ t, s.take m = .next t := by
  suffices done : ∃ t, _ = Host.Outcome.next t by
    obtain ⟨t, e⟩ := done
    exact ⟨t.ended, (congrArg settled e).trans (settled_next t)⟩
  cases m with
  | cycle chip core =>
    dsimp only
    split
    · next t _ => exact ⟨t, rfl⟩
    · next e =>
      obtain ⟨c, issuing⟩ := coreCycle_issue e
      exact exec_issues c issuing
  | wake chip core slot => exact ⟨_, rfl⟩
  | event i =>
    dsimp only
    split
    · next c => exact State.event_answers c s
    · exact ⟨s, rfl⟩
  | upset chip u => exact ⟨_, rfl⟩

/-- Settles O56: whichever move is next, its step goes on. -/
theorem everyStepAnswers : Obligations.EveryStepAnswers := fun _ => State.take_answers _ _

end Sys2Proof.Machine
end
section
/-! SUPPORT. What stands in package 0 after power-up (R23, R27, R154, R379, R382). -/

namespace Sys2Proof.Machine

theorem pkg_reset : State.reset.pkg 0 = Package.fresh := rfl
theorem core_fresh (c : Nat) : Package.fresh.core c = Core.fresh := rfl
theorem thread_fresh (c slot : Nat) : Package.fresh.thread c slot = Thread.freshIn slot := rfl

theorem tget?_unlisted {α : Type} {t : Tab α} {n : Nat} (h : ∀ e ∈ t, e.1 ≠ n) : tget? t n = none := by
  induction t with
  | nil => rfl
  | cons e t ih =>
    rw [tget?, if_neg (Ne.symm (h e List.mem_cons_self))]
    exact ih fun e he => h e (List.mem_cons_of_mem _ he)

/-- The map of the boot sequencers lists region entries of HBM alone (R382). -/
theorem kind_bootRegions : ∀ e ∈ bootRegions, ridKind e.1 = 1 := by decide

theorem bootRegions_unlisted {r : Nat} (h : ridKind r ≠ 1) : tget? bootRegions r = none :=
  tget?_unlisted fun e he same => h (same ▸ kind_bootRegions e he)

/-- A resource other than an HBM region belongs to holder 1 after power-up, with nothing pending (R361, R382). -/
theorem entry_fresh {r : Nat} (h : ridKind r ≠ 1) : Package.fresh.entry r = ⟨1, 0, 0, 0, 0, false, 0, 0, 0⟩ := by
  simp [Package.entry, Package.fresh, tget, bootRegions_unlisted h, h]

/-- The nine regions of the boot map adjoin, from 256 GiB down to 1 GiB (R382). -/
theorem regions_fresh : ∀ i, i < 9 → (Package.fresh.entry (0x10000000 + i)).holder = 1 ∧
    (Package.fresh.entry (0x10000000 + i)).log2 = 38 - i ∧ (Package.fresh.entry (0x10000000 + i)).base + 2 ^ (38 - i) =
      (if i = 8 then 0x17FC0000000 else (Package.fresh.entry (0x10000000 + i + 1)).base) := by decide

/-- Settles O52: the fields of the state after power-up, with the entries of its map by `entry_fresh` and `regions_fresh`. -/
theorem resetState : Obligations.ResetState := by
  refine ⟨rfl, rfl, rfl, fun r _ h => ?_, regions_fresh, rfl, fun c slot => ?_, fun _ _ => rfl, fun _ => ⟨rfl, rfl, rfl⟩,
    fun _ => ⟨rfl, rfl, rfl⟩⟩
  · rw [pkg_reset, entry_fresh h]
    exact ⟨rfl, rfl, rfl, rfl⟩
  · rw [pkg_reset, thread_fresh]
    exact ⟨rfl, rfl, rfl, rfl, rfl, rfl, rfl, rfl, rfl⟩

end Sys2Proof.Machine
end
section
/-! SUPPORT. What a retirement leaves of the cores and the threads of a package (R29, R30, R118). -/

namespace Sys2Proof.Machine

/-! ## Threads but for their ports, and cores but for what a thread that leaves has there -/

/-- A thread but for its ports. -/
def Thread.bare (t : Thread) : Thread := { t with ports := [] }

/-- A core but for its threads, and for the lists in which a thread may stand. -/
def Core.kept (k : Core) : Core := { k with threads := [], waitm := [], finished := [], pairs := [] }

@[simp] theorem Thread.bare_setPort (t : Thread) (port : Nat) (r : PortRec) : (t.setPort port r).bare = t.bare := rfl
theorem Thread.gen_of_bare {t u : Thread} (h : t.bare = u.bare) : t.gen = u.gen :=
  show t.bare.gen = u.bare.gen from congrArg Thread.gen h
theorem Thread.life_of_bare {t u : Thread} (h : t.bare = u.bare) : t.life = u.life :=
  show t.bare.life = u.bare.life from congrArg Thread.life h
theorem Core.outbox_of_kept {k l : Core} (h : k.kept = l.kept) : k.outbox = l.outbox :=
  show k.kept.outbox = l.kept.outbox from congrArg Core.outbox h

section
variable (p : Package) (c d n m : Nat)

theorem Package.thread_setThread_other (t : Thread) (h : (d, m) ≠ (c, n)) : (p.setThread c n t).thread d m = p.thread d m := by
  by_cases e : d = c
  · subst e
    have slot : m ≠ n := fun e => h (by rw [e])
    simp [Package.thread, Package.setThread, slot]
  · simp [Package.thread, Package.setThread, e]

@[simp] theorem Package.thread_onThread_same (f : Thread → Thread) : (p.onThread c n f).thread c n = f (p.thread c n) :=
  Package.thread_setThread_same p c n _
theorem Package.thread_onThread_other (f : Thread → Thread) (h : (d, m) ≠ (c, n)) : (p.onThread c n f).thread d m = p.thread d m :=
  Package.thread_setThread_other p c d n m _ h

theorem Package.bare_onThread {f : Thread → Thread} (h : ∀ t, (f t).bare = t.bare) :
    ((p.onThread c n f).thread d m).bare = (p.thread d m).bare := by
  by_cases e : (d, m) = (c, n)
  · cases e
    simp [h]
  · rw [Package.thread_onThread_other p c d n m f e]

@[simp] theorem Package.kept_setThread (t : Thread) : ((p.setThread c n t).core d).kept = (p.core d).kept := by
  by_cases e : d = c
  · subst e
    simp [Package.setThread, Core.kept, Core.setThread]
  · simp [Package.setThread, e]
@[simp] theorem Package.kept_onThread (f : Thread → Thread) : ((p.onThread c n f).core d).kept = (p.core d).kept :=
  Package.kept_setThread p c d n _

theorem Package.kept_onCore {f : Core → Core} (h : ∀ k, (f k).kept = k.kept) : ((p.onCore c f).core d).kept = (p.core d).kept := by
  by_cases e : d = c
  · subst e
    simp [h]
  · simp [e]
theorem Package.thread_onCore {f : Core → Core} (h : ∀ k, (f k).threads = k.threads) : (p.onCore c f).thread d m = p.thread d m := by
  by_cases e : d = c
  · subst e
    simp [Package.thread, Core.thread, h]
  · simp [Package.thread, e]

/-! ## What changes neither -/

@[simp] theorem Package.core_dropJobs (g : Job → Bool) : (p.dropJobs g).core d = p.core d := rfl
@[simp] theorem Package.core_addJob (j : Job) : (p.addJob j).core d = p.core d := rfl
@[simp] theorem Package.core_setJob (id : Nat) (j : Job) : (p.setJob id j).core d = p.core d := rfl
@[simp] theorem Package.core_dropJob (id : Nat) : (p.dropJob id).core d = p.core d := rfl
@[simp] theorem Package.core_send (x : Msg) : (p.send x).core d = p.core d := rfl
@[simp] theorem Package.core_owe (o : Owed) : (p.owe o).core d = p.core d := rfl
@[simp] theorem Package.core_setCell (id : Nat) (x : Cell) : (p.setCell id x).core d = p.core d := rfl

@[simp] theorem Package.core_cellFinish (id : Nat) : (p.cellFinish id).core d = p.core d := by
  unfold Package.cellFinish
  dsimp only
  split <;> rfl

@[simp] theorem Package.core_cellDrop (fuel id : Nat) : (p.cellDrop fuel id).core d = p.core d := by
  induction fuel generalizing p id with
  | zero => rfl
  | succ fuel ih => simp [Package.cellDrop, apply_ite (fun p => Package.core p d), ih]

@[simp] theorem Package.core_leaveCell (id : Nat) (paired : Bool) : (p.leaveCell id paired).core d = p.core d := by
  unfold Package.leaveCell
  split <;> simp

/-! ## Ports let go (R186) -/

theorem Package.bare_breakPort (handle port : Nat) : ((p.breakPort handle port).thread d m).bare = (p.thread d m).bare := by
  unfold Package.breakPort
  dsimp only
  split
  · exact Package.bare_onThread p _ d _ m (f := fun t => t.setPort port { t.port port with st := .broken }) fun _ => rfl
  · rfl

@[simp] theorem Package.kept_breakPort (handle port : Nat) : ((p.breakPort handle port).core d).kept = (p.core d).kept := by
  unfold Package.breakPort
  dsimp only
  split <;> simp

theorem Package.bare_unbind (chip core slot port : Nat) : ((p.unbind chip core slot port).thread d m).bare = (p.thread d m).bare := by
  unfold Package.unbind
  dsimp only
  rw [Package.bare_onThread _ _ _ _ _ fun t => Thread.bare_setPort t port PortRec.fresh]
  rw [Package.thread, Package.core_dropJobs]
  split
  · split
    · exact Package.bare_breakPort p d m _ _
    · rw [Package.core_owe, Package.thread]
  · split
    · rw [Package.core_dropJobs, Package.thread]
    · rw [Package.core_owe, Package.thread]
  · rfl

theorem Package.kept_unbind (chip core slot port : Nat) : ((p.unbind chip core slot port).core d).kept = (p.core d).kept := by
  unfold Package.unbind
  dsimp only
  rw [Package.kept_onThread, Package.core_dropJobs]
  split <;> (try split) <;> simp

/-! ## The retirement (R29) -/

/-- A thread that has retired: it stands where it stood, and nothing is left of what it waited for or held. -/
def Thread.retired (t : Thread) : Thread :=
  { t with life := .retired, reason := none, wait := .none, pend := none, reply := none, pair := none, preempt := false, covers := [],
           former := [], ports := [], lost := none }

theorem Thread.retired_of_bare {t u : Thread} (h : t.bare = u.bare) : t.retired = u.retired :=
  show t.bare.retired = u.bare.retired from congrArg Thread.retired h

theorem Package.bare_foldl {α : Type} (l : List α) (f : Package → α → Package)
    (h : ∀ p a, ((f p a).thread d m).bare = (p.thread d m).bare) : ((l.foldl f p).thread d m).bare = (p.thread d m).bare := by
  induction l generalizing p with
  | nil => rfl
  | cons a l ih => rw [List.foldl_cons, ih, h]

theorem Package.kept_foldl {α : Type} (l : List α) (f : Package → α → Package)
    (h : ∀ p a, ((f p a).core d).kept = (p.core d).kept) : ((l.foldl f p).core d).kept = (p.core d).kept := by
  induction l generalizing p with
  | nil => rfl
  | cons a l ih => rw [List.foldl_cons, ih, h]

@[simp] theorem Core.leavePair_kept (k : Core) (pair slot : Nat) : (k.leavePair pair slot).kept = k.kept := by
  unfold Core.leavePair
  split <;> rfl
@[simp] theorem Core.leavePair_threads (k : Core) (pair slot : Nat) : (k.leavePair pair slot).threads = k.threads := by
  unfold Core.leavePair
  split <;> rfl

end

/-- Deposits that wait in a core's buffer for a slot are refused. -/
def Package.refuseDeposits (p : Package) (core slot : Nat) : Package :=
  { p with flights := p.flights.map (fun e => (e.1, refuseDeposit core slot e.2)) }

@[simp] theorem Package.core_refuseDeposits (p : Package) (core slot d : Nat) : (p.refuseDeposits core slot).core d = p.core d := rfl

/-- A core without a thread in its lists, and without the thread's place in its pair. -/
def Core.withoutThread (k : Core) (o : Owner) (pair : Option Nat) : Core :=
  let k := { k with waitm := k.waitm.filter (· ≠ o.slot), finished := k.finished.filter (fun c => c.left || decide (c.owner ≠ o)) }
  match pair with
  | none => k
  | some q => k.leavePair q o.slot

@[simp] theorem Core.withoutThread_kept (k : Core) (o : Owner) (pair : Option Nat) : (k.withoutThread o pair).kept = k.kept := by
  unfold Core.withoutThread
  cases pair with
  | none => rfl
  | some q => exact Core.leavePair_kept _ q _
@[simp] theorem Core.withoutThread_threads (k : Core) (o : Owner) (pair : Option Nat) : (k.withoutThread o pair).threads = k.threads := by
  unfold Core.withoutThread
  cases pair with
  | none => rfl
  | some q => exact Core.leavePair_threads _ q _

/-- The package of a thread that leaves its slot, before the slot is RETIRED: its ports let go, its operations withdrawn, its places in lists
given up. -/
def Package.left (p : Package) (chip core slot : Nat) : Package :=
  let t := p.thread core slot
  let o : Owner := ⟨core, slot, t.gen⟩
  let p := (span 0 1 6).foldl (fun p q => p.unbind chip core slot q) p
  let p := (t.former.filter (fun f => decide (f.1 = chip))).foldl (fun p f => p.forgetOps f.2) p
  ((p.dropJobs (withdrawnBy o)).refuseDeposits core slot).onCore core (fun k => k.withoutThread o t.pair)

/-- A retirement: the thread leaves, its slot is RETIRED, and its launch cell is told. -/
theorem Package.retire_eq (p : Package) (chip core slot : Nat) : p.retire chip core slot =
    let q := (p.left chip core slot).onThread core slot Thread.retired
    match (p.thread core slot).cell, (p.thread core slot).away with
    | some c, _ => q.leaveCell c (p.thread core slot).paired
    | none, some (away, c) => q.owe (.cell away c (p.thread core slot).paired)
    | none, none => q := by
  unfold Package.retire Package.left Thread.retired
  rfl

section
variable (p : Package) (chip core slot : Nat)

theorem Package.bare_left (d m : Nat) : ((p.left chip core slot).thread d m).bare = (p.thread d m).bare := by
  unfold Package.left
  dsimp only
  rw [Package.thread_onCore _ _ _ _ fun k => Core.withoutThread_threads k _ _, Package.thread, Package.core_refuseDeposits,
    Package.core_dropJobs, ← Package.thread, Package.bare_foldl, Package.bare_foldl]
  · exact fun p q => Package.bare_unbind p d m chip core slot q
  · exact fun p f => congrArg Thread.bare (Package.thread_onCore p _ d m fun _ => rfl)

theorem Package.kept_left (d : Nat) : ((p.left chip core slot).core d).kept = (p.core d).kept := by
  unfold Package.left
  dsimp only
  rw [Package.kept_onCore _ _ _ fun k => Core.withoutThread_kept k _ _, Package.core_refuseDeposits, Package.core_dropJobs,
    Package.kept_foldl, Package.kept_foldl]
  · exact fun p q => Package.kept_unbind p d chip core slot q
  · exact fun p f => Package.kept_onCore p _ d fun _ => rfl

theorem Package.core_retire (d : Nat) : (p.retire chip core slot).core d = ((p.left chip core slot).onThread core slot Thread.retired).core d := by
  rw [Package.retire_eq]
  dsimp only
  split <;> simp

/-- A thread that retires keeps its slot's place, registers' window and control registers. -/
theorem Package.thread_retire : (p.retire chip core slot).thread core slot = (p.thread core slot).retired := by
  rw [Package.thread, Package.core_retire]
  exact (Package.thread_onThread_same _ core slot _).trans (Thread.retired_of_bare (Package.bare_left p chip core slot core slot))

/-- A retirement changes no other thread but at its ports. -/
theorem Package.bare_retire_other (d m : Nat) (h : (d, m) ≠ (core, slot)) :
    ((p.retire chip core slot).thread d m).bare = (p.thread d m).bare := by
  rw [Package.thread, Package.core_retire]
  exact (congrArg Thread.bare (Package.thread_onThread_other _ core d slot m _ h)).trans (Package.bare_left p chip core slot d m)

theorem Package.kept_retire (d : Nat) : ((p.retire chip core slot).core d).kept = (p.core d).kept := by
  rw [Package.core_retire, Package.kept_onThread, Package.kept_left]

theorem Package.thread_retireCancelled (cell : Nat) : (p.retireCancelled chip core slot cell).thread core slot =
    { (p.thread core slot).retired with cause := 0x10, value := word cell, cancel := none } := by
  rw [Package.retireCancelled, Package.thread_onThread_same, Package.thread_retire]

end

end Sys2Proof.Machine
end
section
/-! SUPPORT. What a trap leaves of a package (R32, R268). -/

namespace Sys2Proof.Machine

/-! ## The cause word (R32, R33) -/

theorem Cause.code_lt (c : Cause) : c.code < 256 := by cases c <;> decide

/-- The three fields of tc.cause after a trap: IH, and below it the detail and the code. -/
theorem causeWord_fields (cause : Cause) {detail : Nat} (ih : Bool) (h : detail < 256) :
    (causeWord cause detail ih).getLsbD 16 = ih ∧ (causeWord cause detail ih).toNat % 65536 = detail * 256 + cause.code ∧
    (causeWord cause detail ih).toNat < 131072 := by
  have code := cause.code_lt
  have value : (causeWord cause detail ih).toNat = (if ih then 65536 else 0) + detail * 256 + cause.code := by
    simp only [causeWord, word, BitVec.toNat_ofNat]
    cases ih <;> exact Nat.mod_eq_of_lt (by simp; omega)
  rw [← BitVec.testBit_toNat, value, Nat.testBit_eq_decide_div_mod_eq]
  cases ih <;> simp <;> omega

theorem Thread.cause_trap (t : Thread) (c : Cause) (d : Nat) (x : Word) :
    (t.trap c d x).cause = causeWord c d (if t.stopsOnTrap then t.inHandler else true) := by
  unfold Thread.trap
  dsimp only
  split <;> simp [*]

/-- What a trap leaves of a thread beside what it saves: its registers' window, its control registers, its waits that are over. -/
theorem Thread.trap_frame (t : Thread) (c : Cause) (d : Nat) (x : Word) :
    (t.trap c d x).role = t.role ∧ (t.trap c d x).prio = t.prio ∧ (t.trap c d x).lost = t.lost ∧ (t.trap c d x).cancel = t.cancel ∧
    (t.trap c d x).pend = none ∧ (t.trap c d x).reason = none := by
  unfold Thread.trap
  dsimp only
  split <;> exact ⟨rfl, rfl, rfl, rfl, rfl, rfl⟩

/-! ## The package -/

section
variable (p : Package) (c n : Nat)

@[simp] theorem Package.core_count (die k : Nat) : (p.count die k).core c = p.core c := rfl

@[simp] theorem Package.thread_orphan (o : Owner) : (p.orphan o).thread c n = p.thread c n := by
  unfold Package.orphan
  exact Package.thread_onCore _ o.core c n fun _ => rfl

@[simp] theorem Package.cell_orphan (o : Owner) (e : Nat) : ((p.orphan o).core c).cell e = (p.core c).cell e := by
  unfold Package.orphan
  dsimp only
  by_cases same : c = o.core
  · subst same
    rw [Package.core_onCore_same]
    rfl
  · rw [Package.core_onCore_other _ _ _ _ same]
    rfl

@[simp] theorem Package.cell_setThread (d : Nat) (t : Thread) (e : Nat) : ((p.setThread c n t).core d).cell e = (p.core d).cell e := by
  by_cases same : d = c
  · subst same
    simp [Package.setThread, Core.cell, Core.setThread]
  · simp [Package.setThread, same]

@[simp] theorem Package.core_faultMessage (core slot : Nat) : (p.faultMessage core slot).core c = p.core c := rfl

/-- The package whose thread takes a trap, before the error is counted and the message sent. -/
theorem Package.takeTrap_eq (core slot : Nat) (cause : Cause) (detail : Nat) (value : Word) :
    p.takeTrap core slot cause detail value =
      let q := (if cause = .softError then p.count (coreDie core) 1 else p).setThread core slot ((p.thread core slot).trap cause detail value)
      if (p.thread core slot).stopsOnTrap then (q.orphan ⟨core, slot, (p.thread core slot).gen⟩).faultMessage core slot else q := by
  have counted : (if cause = .softError then p.count (coreDie core) 1 else p).thread core slot = p.thread core slot := by
    split <;> rfl
  unfold Package.takeTrap
  dsimp only
  rw [counted]

variable (core slot : Nat) (cause : Cause) (detail : Nat) (value : Word)

@[simp] theorem Package.thread_takeTrap :
    (p.takeTrap core slot cause detail value).thread core slot = (p.thread core slot).trap cause detail value := by
  rw [Package.takeTrap_eq]
  dsimp only
  split
  · rw [Package.thread, Package.core_faultMessage, ← Package.thread, Package.thread_orphan, Package.thread_setThread_same]
  · rw [Package.thread_setThread_same]

theorem Package.thread_takeTrap_other (h : (c, n) ≠ (core, slot)) :
    (p.takeTrap core slot cause detail value).thread c n = p.thread c n := by
  have counted : (if cause = .softError then p.count (coreDie core) 1 else p).thread c n = p.thread c n := by split <;> rfl
  rw [Package.takeTrap_eq]
  dsimp only
  split
  · rw [Package.thread, Package.core_faultMessage, ← Package.thread, Package.thread_orphan, Package.thread_setThread_other _ _ _ _ _ _ h,
      counted]
  · rw [Package.thread_setThread_other _ _ _ _ _ _ h, counted]

@[simp] theorem Package.cell_takeTrap (e : Nat) : ((p.takeTrap core slot cause detail value).core c).cell e = (p.core c).cell e := by
  have counted : (if cause = .softError then p.count (coreDie core) 1 else p).core c = p.core c := by split <;> rfl
  rw [Package.takeTrap_eq]
  dsimp only
  split
  · rw [Package.core_faultMessage, Package.cell_orphan, Package.cell_setThread, counted]
  · rw [Package.cell_setThread, counted]

/-- A trap that stops its thread leaves its Cassia operations to go on without it, and sends the fault message; another leaves what is in
flight alone. -/
theorem Package.flights_takeTrap : (p.takeTrap core slot cause detail value).flights =
    let u := (p.thread core slot).trap cause detail value
    let h := handleOf (p.thread core slot).gen core slot
    if (p.thread core slot).stopsOnTrap then
      tset (p.orphan ⟨core, slot, (p.thread core slot).gen⟩).flights p.nextId
        (.msg (Msg.plain core core (header 2 1 (p.coreHolder core) h 0) [word h, u.cause, u.value, u.epc]))
    else p.flights := by
  obtain ⟨-, -, -, -, -, gen, -, -⟩ := (p.thread core slot).trap_saves cause detail value
  rw [Package.takeTrap_eq]
  dsimp only
  split
  · rw [Package.faultMessage, Package.thread_orphan, Package.thread_setThread_same, gen]
    split <;> rfl
  · split <;> rfl

end

/-- Settles O8: the fields of the trapped thread from `Thread.trap`, and the frame of the package from `Package.takeTrap_eq`. -/
theorem trapEntry : Obligations.TrapEntry := by
  intro p core slot cause detail value small
  obtain ⟨saved, epc, vec, fmode, flags, gen, -, -⟩ := (p.thread core slot).trap_saves cause detail value
  obtain ⟨role, prio, -, -, -, -⟩ := (p.thread core slot).trap_frame cause detail value
  dsimp only
  rw [Package.thread_takeTrap, Package.flights_takeTrap]
  have stops : (decide ((p.thread core slot).vec = 0) || (p.thread core slot).cause.getLsbD 16) = (p.thread core slot).stopsOnTrap := rfl
  rw [stops]
  obtain ⟨ih, code, small⟩ := causeWord_fields cause (if (p.thread core slot).stopsOnTrap then (p.thread core slot).inHandler else true) small
  rw [← Thread.cause_trap] at ih code small
  refine ⟨ih, code, small, saved, epc, ?_, ?_, vec, fmode, flags, role, prio, gen, ?_, ?_, ?_, ?_⟩
  · cases h : (p.thread core slot).stopsOnTrap
    · exact (Thread.trap_enters _ _ _ _ h).1
    · exact (Thread.trap_stops _ _ _ _ h).1
  · cases h : (p.thread core slot).stopsOnTrap
    · exact (Thread.trap_enters _ _ _ _ h).2
    · exact (Thread.trap_stops _ _ _ _ h).2
  · exact fun c n other => Package.thread_takeTrap_other p c n core slot cause detail value other
  · exact fun c e => Package.cell_takeTrap p c core slot cause detail value e
  · exact fun a => by rw [Package.takeTrap_mem]
  · simp only [saved]

end Sys2Proof.Machine
end
section
/-! SUPPORT. What a step that is a cycle comes to (R30, R59, R68, R137, R138, R210). -/

namespace Sys2Proof.Machine

/-! ## The end of a step -/

theorem mem_of_tget? {α : Type} {t : Tab α} {n : Nat} {v : α} (h : tget? t n = some v) : (n, v) ∈ t := by
  induction t with
  | nil => cases h
  | cons e t ih =>
    obtain ⟨k, w⟩ := e
    simp only [tget?] at h
    split at h
    · next same =>
      cases h
      cases same
      exact List.mem_cons_self
    · exact List.mem_cons_of_mem _ (ih h)

/-- What holds of every listed package and of the absent one holds of every chip. -/
theorem State.pkg_of_listed {P : Package → Prop} {s : State} (h : ∀ e ∈ s.chips, P e.2) (absent : P Package.absent) (chip : Nat) :
    P (s.pkg chip) := by
  unfold State.pkg tget
  cases found : tget? s.chips chip with
  | none => exact absent
  | some p => exact h _ (mem_of_tget? found)

theorem State.told_nothing {s : State} (h : ∀ e ∈ s.chips, e.2.owed = []) : s.told = s := by
  have owed (chip : Nat) : (s.pkg chip).owed = [] := State.pkg_of_listed (P := fun p => p.owed = []) h rfl chip
  have all (l : Tab Package) : l.foldl (fun s e => s.tell e.1) s = s := by
    induction l with
    | nil => rfl
    | cons e l ih => rw [List.foldl_cons, State.tell_nothing s e.1 (owed e.1), ih]
  exact all s.chips

theorem Package.closePhases_nothing {p : Package} (h : ∀ f ∈ p.flights, ∀ q, f.2 ≠ .phaseH q) : p.closePhases = p := by
  have stays : p.flights.any (fun e => decide (p.closePhase e.2 ≠ e.2)) = false := by
    rw [List.any_eq_false]
    intro e he
    rcases p.closePhase_eq e.2 with same | ⟨q, episode, -, -⟩
    · simp [same]
    · exact absurd episode (h e he q)
  rw [Package.closePhases, stays]
  rfl

theorem State.ended_nothing {s : State} (owed : ∀ e ∈ s.chips, e.2.owed = [])
    (open_ : ∀ e ∈ s.chips, ∀ f ∈ e.2.flights, ∀ q, f.2 ≠ .phaseH q) : s.ended = s := by
  have same : s.chips.map (fun e => (e.1, e.2.closePhases)) = s.chips := by
    conv_rhs => rw [← List.map_id s.chips]
    exact List.map_congr_left fun e he => by rw [Package.closePhases_nothing (open_ e he)]; rfl
  rw [State.ended, State.told_nothing owed, State.phased, same]

/-! ## The fetch of a chain (R68, R165) -/

/-- A word whose line the core has cached is fetched from there. -/
theorem State.fetchWord_cached {s : State} {va use : Nat} {l : CacheLine}
    (h : s.hereCore.icache.find? (fun l => decide (l.va = lineOf va)) = some l) : s.fetchWord va use = .word (l.half va) := by
  unfold State.fetchWord
  dsimp only
  rw [h]

/-- The two bytes of a word lie in one line. -/
theorem CacheLine.half_even (l : CacheLine) (k : Nat) :
    l.half (k * 2) = (l.bytes[k * 2 % 64 + 1]?).getD 0 ++ (l.bytes[k * 2 % 64]?).getD 0 := by
  have next : (k * 2 + 1) % 64 = k * 2 % 64 + 1 := by omega
  rw [CacheLine.half, next]

/-- The words of a chain that stands in the cache are fetched from the `j`-th on, whatever stood before. -/
theorem State.fetchWords_cached {s : State} {pc : BitVec 56} {ws : List Half} (h : Claims.Fetched s.hereCore pc ws) :
    ∀ room j, room + j = 5 → j < ws.length → ∃ w, s.fetchWords pc room j (ws.take j) = (.word w, ws) := by
  obtain ⟨-, short, stands⟩ := h
  intro room
  induction room with
  | zero =>
    intro j five inside
    omega
  | succ room ih =>
    intro j five inside
    obtain ⟨more, last, l, cached, value⟩ := stands j ws[j] (List.getElem?_eq_getElem inside)
    have word : s.fetchWord ((pc.toNat + j) % 2 ^ 56 * 2) j = .word ws[j] := by
      rw [State.fetchWord_cached cached, CacheLine.half_even, value]
    have took : ws.take j ++ [ws[j]] = ws.take (j + 1) := List.take_append_getElem inside
    rw [State.fetchWords, word]
    dsimp only
    rw [took]
    by_cases base : j + 1 = ws.length
    · have all : ws.take (j + 1) = ws := by rw [base, List.take_length]
      rw [all]
      split
      · next isPre =>
        have five' : ws.length = 5 := by
          by_contra short'
          rw [last base (by omega)] at isPre
          cases isPre
        have none_ : room = 0 := by omega
        rw [none_]
        exact ⟨_, rfl⟩
      · exact ⟨_, rfl⟩
    · rw [if_pos (more (by omega))]
      exact ih (j + 1) (by omega) (by omega)

/-- The chain that stands in the cache at a program counter is fetched whole. -/
theorem State.fetchWords_of_fetched {s : State} {pc : BitVec 56} {ws : List Half} (h : Claims.Fetched s.hereCore pc ws) :
    ∃ w, s.fetchWords pc 5 0 [] = (.word w, ws) :=
  State.fetchWords_cached h 5 0 rfl (List.length_pos_of_ne_nil h.1)

/-! ## The turn of a slot -/

section
variable {s : State} {chip core slot : Nat}

theorem State.turn_fold (ws : List Half) :
    ({ s.onPkg chip (fun p => p.onCore core (fun k => k.turnTaken slot)) with cur := ⟨chip, core, slot, ws⟩ } : State) =
      s.turn chip core slot ws := rfl

theorem State.turn_job (ws : List Half) (id : Nat) : (s.turn chip core slot ws).here.job id = (s.pkg chip).job id := by
  rw [State.turn_here]
  rfl

theorem State.turn_claiming (ws : List Half) :
    (s.turn chip core slot ws).here.claiming (s.turn chip core slot ws).me = (s.pkg chip).claiming ((s.pkg chip).thread core slot) := by
  rw [State.turn_here, State.turn_me]
  rfl

theorem State.turn_cancel (ws : List Half) : (s.turn chip core slot ws).me.cancel = ((s.pkg chip).thread core slot).cancel := by
  rw [State.turn_me]
theorem State.turn_lost (ws : List Half) : (s.turn chip core slot ws).me.lost = ((s.pkg chip).thread core slot).lost := by
  rw [State.turn_me]
theorem State.turn_pend (ws : List Half) : (s.turn chip core slot ws).me.pend = ((s.pkg chip).thread core slot).pend := by
  rw [State.turn_me]
theorem State.turn_pc (ws : List Half) : (s.turn chip core slot ws).me.pc = ((s.pkg chip).thread core slot).pc := by
  rw [State.turn_me]

theorem claiming_of_no_job {p : Package} {t : Thread} (h : t.pend.bind p.job = none) : p.claiming t = false := by
  rw [Package.claiming, h]

/-- The turn of a thread under a cancelled cell retires it (R30). -/
theorem issueSlot_cancelled {cell : Nat} (closed : (s.pkg chip).claiming ((s.pkg chip).thread core slot) = false)
    (cancel : ((s.pkg chip).thread core slot).cancel = some cell) :
    s.issueSlot chip core slot = .none ((s.turn chip core slot []).onHere (fun p => p.retireCancelled chip core slot cell)) := by
  unfold State.issueSlot
  simp only [State.turn_fold, State.turn_claiming, State.turn_cancel, closed, cancel, Bool.false_eq_true, if_false]

/-- The turn of a thread whose awaited resource was taken traps RECLAIMED (R30, R358). -/
theorem issueSlot_lost {r : Nat} (closed : (s.pkg chip).claiming ((s.pkg chip).thread core slot) = false)
    (cancel : ((s.pkg chip).thread core slot).cancel = none) (lost : ((s.pkg chip).thread core slot).lost = some r) :
    s.issueSlot chip core slot =
      .none ((((s.turn chip core slot []).onHere (fun p => p.dropJobs (withdrawnBy (s.turn chip core slot []).owner))).onMe
        (fun t => { t with lost := none })).takeTrap .reclaimed 0 (word r)) := by
  unfold State.issueSlot
  simp only [State.turn_fold, State.turn_claiming, State.turn_cancel, State.turn_lost, closed, cancel, lost, Bool.false_eq_true, if_false]

/-- The turn of a thread whose request is out (R100). -/
theorem issueSlot_pending {j : Job} (cancel : ((s.pkg chip).thread core slot).cancel = none)
    (lost : ((s.pkg chip).thread core slot).lost = none) (pend : ((s.pkg chip).thread core slot).pend.bind (s.pkg chip).job = some j) :
    s.issueSlot chip core slot = .none ((s.turn chip core slot []).heldTurn j) := by
  unfold State.issueSlot
  simp only [State.turn_fold, State.turn_claiming, State.turn_cancel, State.turn_lost, State.turn_pend, State.turn_job, cancel, lost, pend]
  split
  · next claim =>
    unfold Package.claiming at claim
    rw [pend] at claim
    split at claim
    · next isClaim =>
      cases isClaim
      rfl
    · cases claim
  · rfl

/-- The turn of a thread that may go on issues the chain that it fetches, or ILLEGAL_CHAIN where the words are none (R68, R81). -/
theorem issueSlot_fetched {w : Half} {ws : List Half} (cancel : ((s.pkg chip).thread core slot).cancel = none)
    (lost : ((s.pkg chip).thread core slot).lost = none) (pend : ((s.pkg chip).thread core slot).pend.bind (s.pkg chip).job = none)
    (fetched : (s.turn chip core slot []).fetchWords ((s.pkg chip).thread core slot).pc 5 0 [] = (.word w, ws)) :
    (∀ i n, decode ws = .ok (i, n) → s.issueSlot chip core slot = .issue (s.turn chip core slot ws) i) ∧
    (∀ why, decode ws = .error why → s.issueSlot chip core slot = .issue (s.turn chip core slot ws) (.illegalChain why)) := by
  have closed := claiming_of_no_job pend
  unfold State.issueSlot
  simp only [State.turn_fold, State.turn_claiming, State.turn_cancel, State.turn_lost, State.turn_pend, State.turn_pc, State.turn_job, cancel,
    lost, pend, closed, fetched, Bool.false_eq_true, if_false]
  constructor
  · intro i n decoded
    rw [decoded]
  · intro why decoded
    rw [decoded]

/-- A cycle of a core whose cluster is ACTIVE is the turn of the slot that it selects (R137, R138). -/
theorem coreCycle_selected (running : (s.pkg chip).phase = .running) (active : ((s.pkg chip).cluster (clusterOf core)).power = .active)
    (selected : ((s.pkg chip).core core).selectSlot = some slot) : s.coreCycle chip core = s.issueSlot chip core slot := by
  unfold State.coreCycle
  simp only [running, Package.clocked, active, selected, decide_true, Bool.true_or, and_self, if_true]

end

/-! ## Moves -/

section
variable {s : State}

theorem step_cycle_none {chip core : Nat} {t : State} (move : s.nextMove = .cycle chip core) (h : s.begin.coreCycle chip core = .none t) :
    step s = .next t.ended := by
  rw [step, move, State.take]
  rw [h]
  rfl

theorem step_cycle_issue {chip core : Nat} {t : State} {i : Instr} (move : s.nextMove = .cycle chip core)
    (h : s.begin.coreCycle chip core = .issue t i) : step s = settled (exec i t) := by
  rw [step, move, State.take]
  rw [h]

theorem step_event {i : Instr} (move : s.nextMove = .event i) (c : i.isStep = true) : step s = settled (State.event i s.begin) := by
  rw [step, move, State.take]
  rw [if_pos c]

theorem settled_stopped {o : Host.Outcome State Fault Refusal} (h : ∀ t, o ≠ .next t) : settled o = o := by
  cases o with
  | next t => exact absurd rfl (h t)
  | fault f => rfl
  | refused r => rfl

end

/-! ## The three turns that issue no chain -/

theorem State.heldTurn_other {s : State} {j : Job} (h : ∀ x, j ≠ .fe x) : s.heldTurn j = s := by
  cases j with
  | fe x => exact absurd rfl (h x)
  | _ => rfl

theorem State.heldTurn_fe (s : State) (h : HomeFe) :
    s.heldTurn (.fe h) = if h.enlisted = true ∨ s.here.heldBack h = true then s.park .word else s := by
  simp only [State.heldTurn, Bool.or_eq_true]

section
variable (s : State) (chip core slot : Nat)

/-- The turn of a thread under a cancelled cell: no byte changes, and the thread is retired with CANCELLED and that cell. -/
theorem State.cancelled_turn (cell : Nat) :
    let t := (s.turn chip core slot []).onHere (fun p => p.retireCancelled chip core slot cell)
    (t.pkg chip).mem = (s.pkg chip).mem ∧ (t.pkg chip).thread core slot =
      { ((s.turn chip core slot []).me).retired with cause := 0x10, value := word cell, cancel := none } := by
  intro t
  have here : t.pkg chip = (s.turn chip core slot []).here.retireCancelled chip core slot cell :=
    State.here_onHere (s.turn chip core slot []) (fun p => p.retireCancelled chip core slot cell)
  rw [here, Package.thread_retireCancelled, Package.retireCancelled_mem]
  exact ⟨by rw [State.turn_here, Package.onCore_mem], rfl⟩

/-- The turn of a thread whose awaited resource was taken: no byte changes, and the thread, which waits for it no more, takes its trap. -/
theorem State.lost_turn (rid : Nat) :
    let u := s.turn chip core slot []
    let t := ((u.onHere (fun p => p.dropJobs (withdrawnBy u.owner))).onMe (fun t => { t with lost := none })).takeTrap .reclaimed 0 (word rid)
    (t.pkg chip).mem = (s.pkg chip).mem ∧ ∃ last gap, (t.pkg chip).thread core slot =
      { (s.pkg chip).thread core slot with lost := none, lastIssue := last, gap := gap }.trap .reclaimed 0 (word rid) := by
  intro u t
  let v := (u.onHere (fun p => p.dropJobs (withdrawnBy u.owner))).onMe (fun t => { t with lost := none })
  have here : t.pkg chip = v.here.takeTrap core slot .reclaimed 0 (word rid) :=
    State.here_onHere v (fun p => p.takeTrap core slot .reclaimed 0 (word rid))
  have me : v.here.thread core slot = { u.me with lost := none } := by
    have dropped : (u.onHere (fun p => p.dropJobs (withdrawnBy u.owner))).me = u.me := by
      show ((u.onHere _).here.core core).thread slot = (u.here.core core).thread slot
      rw [State.here_onHere]
      rfl
    exact (State.me_onMe _ _).trans (by rw [dropped])
  have mem : v.here.mem = (s.pkg chip).mem := by
    show ((u.onHere (fun p => p.dropJobs (withdrawnBy u.owner))).onHere _).here.mem = _
    rw [State.here_onHere, State.here_onHere, State.turn_here]
    rfl
  rw [here, Package.takeTrap_mem, Package.thread_takeTrap, mem, me, State.turn_me]
  exact ⟨rfl, _, _, rfl⟩

end

/-- A RECLAIMED trap of a thread that awaits the resource no more (R32, R358). -/
theorem Thread.trap_reclaimed (u : Thread) (rid last gap : Nat) :
    let h := ({ u with lost := none, lastIssue := last, gap := gap } : Thread).trap .reclaimed 0 (word rid)
    h.value = word rid ∧ h.epc = u.pc.setWidth 64 ∧ h.lost = none ∧ h.pend = none ∧
    (u.stopsOnTrap = true → h.life = .trapped ∧ h.cause = causeWord .reclaimed 0 u.inHandler ∧ h.pc = u.pc) ∧
    (u.stopsOnTrap = false → h.life = .ready ∧ h.cause = causeWord .reclaimed 0 true ∧ h.pc = u.vec.setWidth 56) := by
  let w : Thread := { u with lost := none, lastIssue := last, gap := gap }
  obtain ⟨value, epc, -, -, -, -, -, -⟩ := w.trap_saves .reclaimed 0 (word rid)
  obtain ⟨-, -, lost, -, pend, -⟩ := w.trap_frame .reclaimed 0 (word rid)
  have cause := w.cause_trap .reclaimed 0 (word rid)
  refine ⟨value, epc, lost, pend, fun stops => ?_, fun goes => ?_⟩
  · obtain ⟨life, pc⟩ := w.trap_stops .reclaimed 0 (word rid) stops
    exact ⟨life, cause.trans (by rw [show w.stopsOnTrap = true from stops]; rfl), pc⟩
  · obtain ⟨life, pc⟩ := w.trap_enters .reclaimed 0 (word rid) goes
    exact ⟨life, cause.trans (by rw [show w.stopsOnTrap = false from goes]; rfl), pc⟩

/-! ## O54 -/

/-- Settles O54: each move by its own lemma, a cycle through the case of its slot's turn. -/
theorem stepRunsDecoded : Obligations.StepRunsDecoded := by
  refine ⟨fun s owed open_ => State.ended_nothing owed open_, fun s chip core => ⟨?_, ?_, ?_, ?_⟩⟩
  · intro m rest plan
    rw [State.nextMove, plan]
  · intro slot ws move running active selected cancel lost
    have cycle : s.begin.coreCycle chip core = s.begin.issueSlot chip core slot := coreCycle_selected running active selected
    constructor
    · intro pend cached
      obtain ⟨w, fetched⟩ := State.fetchWords_of_fetched (s := s.begin.turn chip core slot [])
        (pc := ((s.pkg chip).thread core slot).pc) (by rw [State.turn_hereCore]; exact cached)
      obtain ⟨ok, error⟩ := issueSlot_fetched (s := s.begin) cancel lost pend fetched
      refine ⟨fun i n t decoded done => ?_, fun i n decoded stopped => ?_, fun why t decoded done => ?_⟩
      · rw [step_cycle_issue move (cycle.trans (ok i n decoded))]
        exact congrArg settled done
      · rw [step_cycle_issue move (cycle.trans (ok i n decoded))]
        exact settled_stopped stopped
      · rw [step_cycle_issue move (cycle.trans (error why decoded))]
        exact congrArg settled done
    · intro r pend
      have turn := step_cycle_none move (cycle.trans (issueSlot_pending cancel lost pend))
      refine ⟨fun other => turn.trans ?_, fun h isFe => turn.trans ?_⟩
      · rw [State.heldTurn_other other]
        rfl
      · subst isFe
        rw [State.heldTurn_fe, State.turn_here]
        exact congrArg Host.Outcome.next (apply_ite State.ended _ _ _)
  · intro slot move running active selected closed
    have cycle : s.begin.coreCycle chip core = s.begin.issueSlot chip core slot := coreCycle_selected running active selected
    refine ⟨fun cell cancel => ?_, fun rid cancel lost => ?_⟩
    · refine ⟨_, step_cycle_none move (cycle.trans (issueSlot_cancelled closed cancel)), ?_⟩
      obtain ⟨mem, thread⟩ := State.cancelled_turn s.begin chip core slot cell
      rw [mem, thread, State.turn_me]
      exact ⟨rfl, rfl, rfl, rfl, rfl⟩
    · refine ⟨_, step_cycle_none move (cycle.trans (issueSlot_lost closed cancel lost)), ?_⟩
      obtain ⟨mem, last, gap, thread⟩ := State.lost_turn s.begin chip core slot rid
      rw [mem, thread]
      exact ⟨rfl, Thread.trap_reclaimed _ rid last gap⟩
  · intro i move c
    rw [step_event move c, State.event]
    refine ⟨fun t done => ?_, fun f done => ?_⟩
    · change exec i s.begin = _ at done
      rw [done]
      rfl
    · change exec i s.begin = _ at done
      rw [done]
      rfl

end Sys2Proof.Machine
end
section
/-! SUPPORT. Traps of chains, NOP, YIELD and RETIRE (R29, R31, R118, R119). -/

namespace Sys2Proof.Machine

/-! ## Chains that are ready -/

/-- What a chain that is ready comes to: its effect, with the streams that it reads popped where it takes effect. -/
theorem chain_ready {s : State} {n : Needs} {v : Vals} (h : Claims.Ready s n v) (body : Vals → State → Res) :
    chain s n body = .next (let r := body v s; (if r.took then r.map (fun s => n.pops.foldl State.pop s) else r).state) :=
  chain_ok (issuing_of_ready h) (gate_of_ready h) body

theorem chainNext_ready {s : State} {n : Needs} {v : Vals} (h : Claims.Ready s n v) (body : Vals → State → State) :
    chainNext s n body = .next ((n.pops.foldl State.pop (body v s)).advance) :=
  chainNext_ok (issuing_of_ready h) (gate_of_ready h) body

/-- A change of the issuing thread is one to the value that it gives the thread as it stands. -/
theorem State.onMe_const (s : State) (f : Thread → Thread) : s.onMe f = s.onMe (fun _ => f s.me) := rfl

/-! ## RETIRE -/

/-- RETIRE leaves its slot RETIRED, with the outbox and the memory as they were. -/
theorem State.retire_me (s : State) :
    let t := s.onHere (fun p => p.retire s.cur.chip s.cur.core s.cur.slot)
    t.me = s.me.retired ∧ t.hereCore.outbox = s.hereCore.outbox ∧ t.here.mem = s.here.mem := by
  intro t
  have here : t.here = s.here.retire s.cur.chip s.cur.core s.cur.slot := State.here_onHere s _
  have me : t.me = t.here.thread s.cur.core s.cur.slot := rfl
  have core : t.hereCore = t.here.core s.cur.core := rfl
  rw [me, core, here, Package.thread_retire, Package.retire_mem]
  exact ⟨rfl, Core.outbox_of_kept (Package.kept_retire s.here _ _ _ _), rfl⟩

/-- Settles O9: each chain's outcome where it is ready; RETIRE by `State.retire_me`. -/
theorem trapsYieldAndRetire : Obligations.TrapsYieldAndRetire := by
  refine ⟨fun s v ready => ⟨fun code => ?_, fun code => ?_, fun why => ?_⟩, fun s v ready => ⟨?_, ?_⟩, fun s v ready => ?_⟩
  · exact chain_ready ready (fun _ s => .trap s .trapInsn 0 code)
  · exact chain_ready ready (fun _ s => .trap s .break 0 code)
  · exact chain_ready ready (fun _ s => .trap s .illegal 0 (chainWord0 s))
  · exact chainNext_ready ready (fun _ s => s)
  · exact chainNext_ready ready (fun _ s => s.onMe (fun t => { t with gap := 64 }))
  · obtain ⟨me, outbox, mem⟩ := s.retire_me
    refine ⟨s.onHere (fun p => p.retire s.cur.chip s.cur.core s.cur.slot), chain_ready ready (fun _ s => .retire s), ?_⟩
    rw [me, outbox, mem]
    exact ⟨rfl, rfl, rfl, rfl, rfl, fun _ => rfl⟩

/-! ## Fields of words -/

/-- The low bits of a word as a word. -/
theorem word_bits (v : Word) (hi : Nat) (h : hi < 64) : word (bits v hi 0) = v &&& word (2 ^ (hi + 1) - 1) := by
  apply BitVec.eq_of_toNat_eq
  have fits : 2 ^ (hi + 1) ≤ 2 ^ 64 := Nat.pow_le_pow_right (by omega) (by omega)
  have positive : 0 < 2 ^ (hi + 1) := Nat.pow_pos (by omega)
  have small : v.toNat % 2 ^ (hi + 1) < 2 ^ (hi + 1) := Nat.mod_lt _ positive
  simp only [word, bits, BitVec.toNat_and, BitVec.toNat_ofNat, pow_zero, Nat.div_one, Nat.sub_zero]
  rw [Nat.mod_eq_of_lt (a := 2 ^ (hi + 1) - 1) (by omega), Nat.and_two_pow_sub_one_eq_mod, Nat.mod_eq_of_lt (by omega)]

/-- The fields of tc.fmode after a write (R23). -/
theorem toNat_fmodeWith (old : Word) {rm ovf : Nat} (small : rm < 8) (policy : ovf < 4) :
    (fmodeWith old rm ovf).toNat / 8 = ovf ∧
    (fmodeWith old rm ovf).toNat % 8 = if 1 ≤ rm ∧ rm ≤ 5 then rm else old.toNat % 8 := by
  have value : (fmodeWith old rm ovf).toNat = ovf * 8 + (if 1 ≤ rm ∧ rm ≤ 5 then rm else old.toNat % 8) := by
    simp only [fmodeWith, word, BitVec.toNat_ofNat]
    exact Nat.mod_eq_of_lt (by split <;> omega)
  rw [value]
  split <;> omega

/-! ## Control registers (R23, R134, R135) -/

theorem control_eq (t : Thread) {n : Nat} (h : n < 8) : Claims.control t n = t.control n := by
  interval_cases n <;> rfl

/-- A write of a control register by its rule leaves every other one (R135). -/
theorem control_setControl_other (t : Thread) (service : Bool) {n k : Nat} (v : Word) (hn : n < 8) (hk : k < 8) (other : k ≠ n) :
    (t.setControl service n v).control k = t.control k := by
  interval_cases n <;> interval_cases k <;> first | rfl | exact absurd rfl other

theorem setControl_frame (t : Thread) (service : Bool) (n : Nat) (v : Word) :
    (t.setControl service n v).life = t.life ∧ (t.setControl service n v).pc = t.pc ∧ (t.setControl service n v).base = t.base ∧
    (t.setControl service n v).len = t.len ∧ (t.setControl service n v).gen = t.gen := by
  unfold Thread.setControl
  split <;> exact ⟨rfl, rfl, rfl, rfl, rfl⟩

/-- A chain that the role forbids traps ROLE before any other check (R31). -/
theorem gate_never (s : State) (n : Needs) (mem : n.mem = false) (role : n.role = .never) : gate s n = .trap .role (chainWord0 s) := by
  rw [gate_eq]
  simp [mem, role, RoleRule.bad]

/-! ## The flags of a cluster (R49) -/

/-- The flags of a core are five bits. -/
theorem coreFlags_lt (p : Package) (h c : Nat) : p.coreFlags h c < 32 := by
  unfold Package.coreFlags
  split
  · have all (l : Tab Thread) (f : Nat) (small : f < 2 ^ 5) :
        l.foldl (fun f e => if e.2.live then f ||| bits e.2.flags 4 0 else f) f < 2 ^ 5 := by
      induction l generalizing f with
      | nil => exact small
      | cons e l ih =>
        rw [List.foldl_cons]
        apply ih
        split
        · exact Nat.or_lt_two_pow small (Nat.mod_lt _ (by decide))
        · exact small
    exact all _ 0 (by decide)
  · decide

/-- One core of the cluster gathered, where this turn (`now`) takes it and no earlier one (`old`) has. -/
def gatherCore (flags : Nat → Nat) (now old g pos : Nat) : Nat :=
  if now / 2 ^ pos % 2 = 1 ∧ old / 2 ^ (5 + pos) % 2 = 0 then g ||| 2 ^ (5 + pos) ||| flags pos else g

/-- What has been gathered after a turn: bits [8:5] say from which cores, bits [4:0] are their flags. -/
def gathered (flags : Nat → Nat) (now old : Nat) : Nat := (span 0 1 4).foldl (gatherCore flags now old) old

theorem testBit_gatherCore (flags : Nat → Nat) (now old g pos b : Nat) : (gatherCore flags now old g pos).testBit b =
    (g.testBit b || (now.testBit pos && !old.testBit (5 + pos) && (decide (5 + pos = b) || (flags pos).testBit b))) := by
  have turn : now / 2 ^ pos % 2 = 1 ↔ now.testBit pos = true := by simp [Nat.testBit_eq_decide_div_mod_eq]
  have open_ : old / 2 ^ (5 + pos) % 2 = 0 ↔ old.testBit (5 + pos) = false := by simp [Nat.testBit_eq_decide_div_mod_eq]
  unfold gatherCore
  simp only [turn, open_]
  cases now.testBit pos <;> cases old.testBit (5 + pos) <;> simp [Nat.testBit_or, Nat.testBit_two_pow, Bool.or_assoc]

section
variable {flags : Nat → Nat} (now old : Nat)

theorem gathered_cores (five : ∀ pos, flags pos < 32) {pos : Nat} (h : pos < 4) :
    (gathered flags now old).testBit (5 + pos) = (old.testBit (5 + pos) || now.testBit pos) := by
  have none_ (q : Nat) : (flags q).testBit (5 + pos) = false :=
    Nat.testBit_lt_two_pow (Nat.lt_of_lt_of_le (five q) (Nat.pow_le_pow_right (n := 2) (by decide) (by omega) : 2 ^ 5 ≤ 2 ^ (5 + pos)))
  simp only [gathered, span, List.foldl_cons, List.foldl_nil, testBit_gatherCore, none_, Bool.or_false]
  have absorb (a b : Bool) : (a || (b && !a)) = (a || b) := by cases a <;> cases b <;> rfl
  interval_cases pos <;> simp [absorb]

theorem gathered_flags {i : Nat} (h : i < 5) : (gathered flags now old).testBit i = (old.testBit i ||
    [0, 1, 2, 3].any (fun pos => now.testBit pos && !old.testBit (5 + pos) && (flags pos).testBit i)) := by
  have above (pos : Nat) : decide (5 + pos = i) = false := by simp; omega
  simp only [gathered, span, List.foldl_cons, List.foldl_nil, testBit_gatherCore, above, Bool.false_or, List.any_cons, List.any_nil,
    Bool.or_false, Bool.or_assoc]

/-- Where every core has been gathered a turn adds nothing. -/
theorem gathered_all (all : old / 32 % 16 = 15) : gathered flags now old = old := by
  have stays (pos : Nat) (h : pos < 4) (g : Nat) : gatherCore flags now old g pos = g := by
    refine if_neg fun open_ => ?_
    interval_cases pos <;> simp at open_ <;> omega
  simp only [gathered, span, List.foldl_cons, List.foldl_nil]
  rw [stays 0, stays 1, stays 2, stays 3] <;> decide

end

/-- What a core's cluster has gathered of its holder's flags after the issuing thread's turn. -/
def State.gathered (s : State) : Nat :=
  Machine.gathered (fun pos => s.here.coreFlags s.holder (clusterCore (clusterOf s.cur.core) pos)) (s.free 2 % 16) (s.me.reply.getD 0).toNat

/-- SREAD of the cluster's flags ends where all four cores have been gathered, and is replayed until then. -/
theorem exec_sreadClusterFlags {s : State} {v : Vals} {d : Reg} (ready : Claims.Ready s { d := wrReg d } v) :
    exec (.sreadClusterFlags d) s = .next (if s.gathered / 32 % 16 = 15 then (s.setReg d.toNat (word (s.gathered % 32))).advance
      else s.onMe (fun t => { t with reply := some (word s.gathered) })) := by
  refine (chain_ready ready (fun _ s => if s.gathered / 32 % 16 = 15 then .next (s.setReg d.toNat (word (s.gathered % 32)))
    else .replay (s.onMe (fun t => { t with reply := some (word s.gathered) })))).trans ?_
  dsimp only
  split <;> rfl

/-- Settles O10: the mode and the flags by their fields, SREAD and SWRITE by the control registers, the cluster's flags by what is gathered. -/
theorem modeFlagsAndControlRegisters : Obligations.ModeFlagsAndControlRegisters := by
  refine ⟨fun s v => ⟨fun imm small mode ready => ?_, fun d ready => ?_, fun imm small ready => ?_⟩,
    fun s v d n => ⟨fun ready => ?_, fun ready n6 => ?_, fun ready n6 => ?_⟩, fun s v d ready => ?_⟩
  · have high : bits imm 4 3 = imm.toNat / 8 := by simp only [bits]; omega
    have low : bits imm 2 0 = imm.toNat % 8 := by simp [bits]
    have legal : ¬ (bits imm 2 0 = 6 ∨ bits imm 2 0 = 7) := by rw [low]; omega
    obtain ⟨policy, rounding⟩ := toNat_fmodeWith s.me.fmode (rm := imm.toNat % 8) (ovf := imm.toNat / 8) (by omega) (by omega)
    refine ⟨fmodeWith s.me.fmode (imm.toNat % 8) (imm.toNat / 8), ?_, policy, ?_⟩
    · refine (chain_ready ready (fun _ s => if bits imm 2 0 = 6 ∨ bits imm 2 0 = 7 then .trap s .illegal 0 (chainWord0 s)
        else .next (s.onMe (fun t => { t with fmode := fmodeWith t.fmode (bits imm 2 0) (bits imm 4 3) })))).trans ?_
      rw [if_neg legal, high, low]
      rfl
    · rw [rounding]
      split <;> split <;> omega
  · refine (chainNext_ready ready (fun _ s => s.setReg d.toNat (word (bits s.me.flags 4 0)))).trans ?_
    rw [word_bits _ 4 (by decide)]
    rfl
  · refine (chainNext_ready ready (fun _ s => s.onMe (fun t => t.clearFlags imm.toNat))).trans ?_
    have same : word (imm.toNat % 32) = imm := by rw [Nat.mod_eq_of_lt small, word, BitVec.ofNat_toNat, BitVec.setWidth_eq]
    simp only [Thread.clearFlags, same]
    rfl
  · rw [control_eq _ n.isLt]
    exact chainNext_ready ready (fun _ s => s.setReg d.toNat (s.me.control n.toNat))
  · exact chain_trap (issuing_of_ready ready) (gate_never s { role := if n = 6 then .never else .any, d := rdReg d } rfl (if_pos n6))
      (fun v s => .next (s.onMe (fun t => t.setControl (decide (s.cur.slot = 63)) n.toNat v.d)))
  · refine ⟨s.me.setControl (decide (s.cur.slot = 63)) n.toNat v.d, ?_, ?_, ?_⟩
    · have any : Claims.Ready s { role := if n = 6 then .never else .any, d := rdReg d } v := by rw [if_neg n6]; exact ready
      exact chainNext_ready any (fun v s => s.onMe (fun t => t.setControl (decide (s.cur.slot = 63)) n.toNat v.d))
    · intro k hk other
      rw [control_eq _ hk, control_eq _ hk]
      exact control_setControl_other s.me _ v.d n.isLt hk other
    · obtain ⟨life, pc, base, len, gen⟩ := setControl_frame s.me (decide (s.cur.slot = 63)) n.toNat v.d
      refine ⟨?_, ?_, ?_, ?_, ?_, ?_, ?_, life, pc, base, len, gen⟩ <;> rintro rfl
      · exact word_bits v.d 55 (by decide)
      · exact word_bits v.d 16 (by decide)
      · rfl
      · exact word_bits v.d 55 (by decide)
      · have policy : bits v.d 4 3 = v.d.toNat / 8 % 4 := rfl
        have rounding : bits v.d 2 0 = v.d.toNat % 8 := by simp [bits]
        rw [← policy, ← rounding]
        exact toNat_fmodeWith s.me.fmode (Nat.mod_lt _ (by decide)) (Nat.mod_lt _ (by decide))
      · exact word_bits v.d 4 (by decide)
      · have service : word (bits v.d 0 0) = v.d &&& 1 := word_bits v.d 0 (by decide)
        rw [← service]
        by_cases slot : s.cur.slot = 63 <;> simp [slot, Thread.setControl]
  · refine ⟨fun pos => (s.free 2 % 16).testBit pos, s.gathered, exec_sreadClusterFlags ready,
      fun pos h => gathered_cores _ _ (fun _ => coreFlags_lt _ _ _) h, fun i h => gathered_flags _ _ h, fun all => ?_⟩
    rw [exec_sreadClusterFlags ready, State.gathered, gathered_all _ _ all, if_pos all]

end Sys2Proof.Machine
end
section
/-! SUPPORT. Results that arrive (R18, R22), and SETE of a register (R176). -/

namespace Sys2Proof.Machine

/-- A step on an item in flight that may be taken. -/
theorem jobStep_some {s : State} {chip id : Nat} {f : Package → Job → Option Package} {j : Job} {p : Package}
    (running : (s.pkg chip).phase = .running) (job : (s.pkg chip).job id = some j) (done : f (s.pkg chip) j = some p) :
    jobStep chip id s f = .next (s.setPkg chip p) := by
  rw [jobStep, if_pos running, job, Option.bind_some, done]

/-- A step on an item in flight that may not be taken. -/
theorem jobStep_none {s : State} {chip id : Nat} {f : Package → Job → Option Package} {j : Job}
    (job : (s.pkg chip).job id = some j) (held : f (s.pkg chip) j = none) : jobStep chip id s f = .fault .notEnabled := by
  rw [jobStep, job, Option.bind_some, held]
  split <;> rfl

theorem when_true {α : Type} {b : Bool} (h : b = true) (x : α) : when b x = some x := if_pos h

/-- A register that a result fills takes its value and its poison. -/
theorem Core.fillReg_same (k : Core) (t : Thread) (f : Fill) (h : f.reg < t.len) :
    let c := (k.fillReg t f).cell (t.base + f.reg)
    c.val = f.val ∧ c.full = true ∧ c.bad = f.bad := by
  simp [Core.fillReg, Nat.not_le.2 h, Core.cell, Core.writeReg]

/-- Every other register keeps its bits and its presence. -/
theorem Core.fillReg_other (k : Core) (t : Thread) (f : Fill) (e : Nat) (h : e ≠ t.base + f.reg) :
    ((k.fillReg t f).cell e).val = (k.cell e).val ∧ ((k.fillReg t f).cell e).full = (k.cell e).full := by
  obtain ⟨val, full, -⟩ := Core.writeReg_other k t f.reg e f.val h
  unfold Core.fillReg
  split
  · exact ⟨rfl, rfl⟩
  · simpa [Core.cell, h] using And.intro val full

/-- The core that a result of one register arrives at. -/
theorem exec_resultArrival {s : State} {chip id : Nat} {o : Owner} {f : Fill} (running : (s.pkg chip).phase = .running)
    (job : (s.pkg chip).job id = some (.result o (.regs [f]))) (awake : (s.pkg chip).awake o.core = true) :
    ∃ u, exec (.longLatencyResultArrival chip id) s = .next u ∧ (u.pkg chip).core o.core =
      let k := (s.pkg chip).core o.core
      if (s.pkg chip).ownerLive o then k.fillReg (k.thread o.slot) f else k := by
  have done : exec (.longLatencyResultArrival chip id) s = .next (s.setPkg chip (((s.pkg chip).dropJob id).onCore o.core (fun k =>
      if (s.pkg chip).ownerLive o then [f].foldl (fun k f => k.fillReg (k.thread o.slot) f) k else k))) := by
    change execLongLatencyResultArrival chip id s = _
    unfold execLongLatencyResultArrival
    exact jobStep_some running job (when_true awake _)
  refine ⟨_, done, ?_⟩
  rw [State.pkg_setPkg_same, Package.core_onCore_same]
  rfl

/-- Settles O18: the result by `Core.fillReg_same` and `Core.fillReg_other`. -/
theorem resultArrival : Obligations.ResultArrival := by
  refine ⟨fun s chip id o f running job awake => ?_, fun s v d ready => chainNext_ready ready (fun _ s => s.emptyReg d.toNat)⟩
  obtain ⟨u, done, core⟩ := exec_resultArrival running job awake
  refine ⟨u, done, ?_⟩
  dsimp only
  rw [core]
  refine ⟨fun ⟨live, inside⟩ => ?_, fun e other => ?_, fun gone e => ?_⟩
  · dsimp only
    rw [if_pos live]
    exact Core.fillReg_same _ _ f inside
  · dsimp only
    split
    · exact Core.fillReg_other _ _ f e other
    · exact ⟨rfl, rfl⟩
  · dsimp only
    rw [gone]
    rfl

end Sys2Proof.Machine
end
section
/-! SUPPORT. Chains that write one register (R18, R97, R104 to R111, R124 to R131): what they leave alone. -/

namespace Sys2Proof.Machine

/-! ## States alike but for one register and the issuing thread's place -/

/-- A core but for its registers and its threads. -/
def Core.bare (k : Core) : Core := { k with regs := [], threads := [] }

/-- A file entry but for its tag. -/
def RegCell.Same (a b : RegCell) : Prop := b.val = a.val ∧ b.full = a.full ∧ b.bad = a.bad

/-- Core `l` is `k` but for the file entry `e` (and the tag of its pair), and for the program counter, the request and, where `flags` allows
it, the flags of the thread in `slot`. -/
structure Core.Alike (flags : Bool) (slot e : Nat) (k l : Core) : Prop where
  cell : ∀ x, x ≠ e → (k.cell x).Same (l.cell x) ∧ (x ≠ e / 2 * 2 → (l.cell x).tag = (k.cell x).tag)
  other : ∀ n, n ≠ slot → l.thread n = k.thread n
  thread : l.thread slot = { k.thread slot with
    pc := (l.thread slot).pc, pend := (l.thread slot).pend, reply := (l.thread slot).reply,
    flags := if flags then (l.thread slot).flags else (k.thread slot).flags }
  bare : l.bare = k.bare

/-- Package `q` is `p` but for what `Core.Alike` allows in one core. -/
structure Package.Alike (flags : Bool) (core slot e : Nat) (p q : Package) : Prop where
  other : ∀ c, c ≠ core → q.core c = p.core c
  core : Core.Alike flags slot e (p.core core) (q.core core)
  rest : { q with cores := [] } = { p with cores := [] }

/-- State `t` is `s` but for what `Core.Alike` allows in the issuing core. -/
structure State.Alike (flags : Bool) (e : Nat) (s t : State) : Prop where
  other : ∀ chip, chip ≠ s.cur.chip → t.pkg chip = s.pkg chip
  here : Package.Alike flags s.cur.core s.cur.slot e (s.pkg s.cur.chip) (t.pkg s.cur.chip)
  packets : t.packets = s.packets
  extents : t.extents = s.extents
  cur : t.cur = s.cur

section
variable {flags : Bool} {slot e : Nat}

theorem Core.Alike.refl (k : Core) : Core.Alike flags slot e k k where
  cell _ _ := ⟨⟨rfl, rfl, rfl⟩, fun _ => rfl⟩
  other _ _ := rfl
  thread := by cases flags <;> rfl
  bare := rfl

theorem State.Alike.refl (s : State) : State.Alike flags e s s where
  other _ _ := rfl
  here := ⟨fun _ _ => rfl, Core.Alike.refl _, rfl⟩
  packets := rfl
  extents := rfl
  cur := rfl

/-- What `Alike` leaves of the issuing thread's registers' window, ports and pair. -/
theorem Core.Alike.fixed {k l : Core} (h : Core.Alike flags slot e k l) :
    (l.thread slot).base = (k.thread slot).base ∧ (l.thread slot).ports = (k.thread slot).ports ∧
    (l.thread slot).pair = (k.thread slot).pair ∧ (l.thread slot).role = (k.thread slot).role := by
  rw [h.thread]
  exact ⟨rfl, rfl, rfl, rfl⟩

/-- A change of neither registers nor threads, which reads neither. -/
theorem Core.Alike.both {k l : Core} {f g : Core → Core} (h : Core.Alike flags slot e k l)
    (kregs : (f k).regs = k.regs) (lregs : (g l).regs = l.regs) (kthreads : (f k).threads = k.threads)
    (lthreads : (g l).threads = l.threads) (bare : (g l).bare = (f k).bare) : Core.Alike flags slot e (f k) (g l) := by
  have kcell (x : Nat) : (f k).cell x = k.cell x := by rw [Core.cell, kregs]; rfl
  have lcell (x : Nat) : (g l).cell x = l.cell x := by rw [Core.cell, lregs]; rfl
  have kthread (n : Nat) : (f k).thread n = k.thread n := by rw [Core.thread, kthreads]; rfl
  have lthread (n : Nat) : (g l).thread n = l.thread n := by rw [Core.thread, lthreads]; rfl
  constructor
  · intro x other
    rw [kcell, lcell]
    exact h.cell x other
  · intro n other
    rw [kthread, lthread]
    exact h.other n other
  · rw [kthread, lthread]
    exact h.thread
  · exact bare

/-- One change made to both threads alike. -/
theorem Core.Alike.setThread {k l : Core} {t u : Thread} (h : Core.Alike flags slot e k l)
    (thread : u = { t with pc := u.pc, pend := u.pend, reply := u.reply, flags := if flags then u.flags else t.flags }) :
    Core.Alike flags slot e (k.setThread slot t) (l.setThread slot u) := by
  constructor
  · exact h.cell
  · intro n other
    rw [Core.thread_setThread_other _ _ _ _ other, Core.thread_setThread_other _ _ _ _ other]
    exact h.other n other
  · rw [Core.thread_setThread_same, Core.thread_setThread_same]
    exact thread
  · exact h.bare

/-- A change of the second thread alone. -/
theorem Core.Alike.afterThread {k l : Core} {u : Thread} (h : Core.Alike flags slot e k l) (thread : u = { k.thread slot with
    pc := u.pc, pend := u.pend, reply := u.reply, flags := if flags then u.flags else (k.thread slot).flags }) :
    Core.Alike flags slot e k (l.setThread slot u) := by
  constructor
  · exact h.cell
  · intro n other
    rw [Core.thread_setThread_other _ _ _ _ other]
    exact h.other n other
  · rw [Core.thread_setThread_same]
    exact thread
  · exact h.bare

/-- A register written clears the tag of its pair alone (R409). -/
theorem Core.writeReg_tag (k : Core) (t : Thread) (n : Nat) {x : Nat} (v : Word) (other : x ≠ t.base + n)
    (unpaired : x ≠ (t.base + n) / 2 * 2) : ((k.writeReg t n v).cell x).tag = (k.cell x).tag := by
  have cleared : (k.clearTag (t.base + n)).cell x = k.cell x := by
    unfold Core.clearTag
    dsimp only
    split
    · rfl
    · simp [Core.cell, unpaired]
  rw [← cleared]
  simp [Core.writeReg, Core.cell, other]

/-- A register written. -/
theorem Core.Alike.writeReg {k l : Core} (t : Thread) (n : Nat) (v : Word) (h : Core.Alike flags slot (t.base + n) k l) :
    Core.Alike flags slot (t.base + n) k (l.writeReg t n v) := by
  have threads : (l.writeReg t n v).threads = l.threads := by
    rw [Core.writeReg, Core.clearTag_fields]
  constructor
  · intro x other
    obtain ⟨⟨val, full, bad⟩, tag⟩ := h.cell x other
    obtain ⟨val', full', bad'⟩ := Core.writeReg_other l t n x v other
    refine ⟨⟨val'.trans val, full'.trans full, bad'.trans bad⟩, fun unpaired => ?_⟩
    exact (Core.writeReg_tag l t n v other unpaired).trans (tag unpaired)
  · intro m other
    rw [Core.thread, threads]
    exact h.other m other
  · rw [Core.thread, threads]
    exact h.thread
  · rw [← h.bare, Core.writeReg, Core.clearTag_fields]
    rfl

/-! ## Packages and states -/

variable {c : Nat}

theorem Package.Alike.onCore {p q : Package} {f g : Core → Core} (h : Package.Alike flags c slot e p q)
    (done : Core.Alike flags slot e (f (p.core c)) (g (q.core c))) :
    Package.Alike flags c slot e (p.onCore c f) (q.onCore c g) where
  other d other := by rw [Package.core_onCore_other _ _ _ _ other, Package.core_onCore_other _ _ _ _ other, h.other d other]
  core := by rw [Package.core_onCore_same, Package.core_onCore_same]; exact done
  rest := h.rest

theorem Package.Alike.after {p q : Package} {g : Core → Core} (h : Package.Alike flags c slot e p q)
    (done : Core.Alike flags slot e (p.core c) (g (q.core c))) : Package.Alike flags c slot e p (q.onCore c g) where
  other d other := by rw [Package.core_onCore_other _ _ _ _ other, h.other d other]
  core := by rw [Package.core_onCore_same]; exact done
  rest := h.rest

/-- A change of neither registers nor threads, made to both cores alike. -/
theorem Core.Alike.congr {k l : Core} {f : Core → Core} (h : Core.Alike flags slot e k l) (regs : ∀ k, (f k).regs = k.regs)
    (threads : ∀ k, (f k).threads = k.threads) (bare : ∀ k, (f k).bare = f k.bare) : Core.Alike flags slot e (f k) (f l) :=
  h.both (regs k) (regs l) (threads k) (threads l) (by rw [bare, bare, h.bare])

theorem Package.Alike.onBare {p q : Package} {f : Core → Core} (h : Package.Alike flags c slot e p q) (regs : ∀ k, (f k).regs = k.regs)
    (threads : ∀ k, (f k).threads = k.threads) (bare : ∀ k, (f k).bare = f k.bare) :
    Package.Alike flags c slot e (p.onCore c f) (q.onCore c f) := h.onCore (h.core.congr regs threads bare)

theorem Package.Alike.takeMbox {p q : Package} (h : Package.Alike flags c slot e p q) :
    Package.Alike flags c slot e (p.takeMbox c) (q.takeMbox c) := by
  have mbox : (q.core c).mbox = (p.core c).mbox := show (q.core c).bare.mbox = (p.core c).bare.mbox by rw [h.core.bare]
  have mem : q.mem = p.mem := show ({ q with cores := [] } : Package).mem = ({ p with cores := [] } : Package).mem by rw [h.rest]
  unfold Package.takeMbox
  rw [mbox]
  split
  · exact h
  · next x rest _ =>
    unfold Package.acquire
    rw [Package.onCore_mem, Package.onCore_mem, mem]
    refine Package.Alike.onBare ?_ (fun _ => rfl) (fun _ => rfl) fun _ => rfl
    exact h.onBare (fun _ => rfl) (fun _ => rfl) fun _ => rfl

/-- The head of a queue of a pair removed, as a pop of stream `c` does. -/
def Core.popPair (q c : Nat) (exe : Bool) (k : Core) : Core :=
  match tget? k.pairs q with
  | none => k
  | some r => { k with pairs := tset k.pairs q (
      if c = 6 then { r with lq0 := r.lq0.tail }
      else if c = 7 then { r with lq1 := r.lq1.tail }
      else if c = 10 then (if exe then { r with bqToExe := r.bqToExe.tail } else { r with bqToAcc := r.bqToAcc.tail })
      else r) }

theorem Core.popPair_regs (q c : Nat) (exe : Bool) (k : Core) : (k.popPair q c exe).regs = k.regs := by
  unfold Core.popPair
  split <;> rfl
theorem Core.popPair_threads (q c : Nat) (exe : Bool) (k : Core) : (k.popPair q c exe).threads = k.threads := by
  unfold Core.popPair
  split <;> rfl
theorem Core.popPair_bare (q c : Nat) (exe : Bool) (k : Core) : (k.popPair q c exe).bare = k.bare.popPair q c exe := by
  have pairs : k.bare.pairs = k.pairs := rfl
  unfold Core.popPair
  rw [pairs]
  split <;> rfl

/-- A pop, by its stream: a port, the mailbox, a queue of the thread's pair. -/
theorem State.pop_eq (s : State) (c : Nat) : s.pop c =
    if c ≤ 5 then s.onMe (fun t => t.setPort c { t.port c with queue := (t.port c).queue.tail })
    else if c = 11 then
      if s.hereCore.mboxPos < 3 then s.onHereCore (fun k => { k with mboxPos := k.mboxPos + 1 })
      else s.onHere (fun p => p.takeMbox s.cur.core)
    else match s.me.pair with
      | none => s
      | some q => s.onHereCore (Core.popPair q c s.isExe) := rfl

section
variable {s t : State} (h : State.Alike flags e s t)
include h

theorem State.Alike.onHere {f g : Package → Package}
    (done : Package.Alike flags s.cur.core s.cur.slot e (f s.here) (g t.here)) : State.Alike flags e (s.onHere f) (t.onHere g) := by
  constructor
  · intro chip other
    have elsewhere : chip ≠ t.cur.chip := by rw [h.cur]; exact other
    exact (State.pkg_onPkg_other t _ chip g elsewhere).trans ((h.other chip other).trans (State.pkg_onPkg_other s _ chip f other).symm)
  · have there : (t.onHere g).pkg s.cur.chip = g t.here := by
      rw [← h.cur]
      exact State.here_onHere t g
    have here : (s.onHere f).pkg s.cur.chip = f s.here := State.here_onHere s f
    show Package.Alike flags s.cur.core s.cur.slot e ((s.onHere f).pkg s.cur.chip) ((t.onHere g).pkg s.cur.chip)
    rw [there, here]
    exact done
  · exact h.packets
  · exact h.extents
  · exact h.cur

theorem State.Alike.after {g : Package → Package} (done : Package.Alike flags s.cur.core s.cur.slot e s.here (g t.here)) :
    State.Alike flags e s (t.onHere g) := by
  constructor
  · intro chip other
    have elsewhere : chip ≠ t.cur.chip := by rw [h.cur]; exact other
    rw [State.onHere, State.pkg_onPkg_other _ _ _ _ elsewhere]
    exact h.other chip other
  · have there : (t.onHere g).pkg s.cur.chip = g t.here := by
      rw [← h.cur]
      exact State.here_onHere t g
    rw [there]
    exact done
  · exact h.packets
  · exact h.extents
  · exact h.cur

/-- The two packages, as the states name them. -/
theorem State.Alike.package : Package.Alike flags s.cur.core s.cur.slot e s.here t.here := by
  have there : t.here = t.pkg s.cur.chip := by rw [State.here, h.cur]
  rw [there]
  exact h.here

/-- The two cores, as the states name them. -/
theorem State.Alike.core : Core.Alike flags s.cur.slot e s.hereCore t.hereCore := by
  rw [State.hereCore, State.hereCore, h.cur]
  exact h.package.core

theorem State.Alike.onHereCore {f g : Core → Core} (done : Core.Alike flags s.cur.slot e (f s.hereCore) (g t.hereCore)) :
    State.Alike flags e (s.onHereCore f) (t.onHereCore g) := by
  refine h.onHere ?_
  rw [State.hereCore, State.hereCore, h.cur] at done
  rw [h.cur]
  exact h.package.onCore done

theorem State.Alike.onBare {f : Core → Core} (regs : ∀ k, (f k).regs = k.regs) (threads : ∀ k, (f k).threads = k.threads)
    (bare : ∀ k, (f k).bare = f k.bare) : State.Alike flags e (s.onHereCore f) (t.onHereCore f) :=
  h.onHereCore (h.core.congr regs threads bare)

theorem State.Alike.afterCore {g : Core → Core} (done : Core.Alike flags s.cur.slot e s.hereCore (g t.hereCore)) :
    State.Alike flags e s (t.onHereCore g) := by
  refine h.after ?_
  rw [State.hereCore, State.hereCore, h.cur] at done
  rw [h.cur]
  exact h.package.after done

theorem State.Alike.me : t.me = { s.me with
    pc := t.me.pc, pend := t.me.pend, reply := t.me.reply, flags := if flags then t.me.flags else s.me.flags } := by
  have there : t.me = t.hereCore.thread s.cur.slot := by rw [State.me, h.cur]
  rw [there]
  exact h.core.thread

theorem State.Alike.fixed : t.me.base = s.me.base ∧ t.me.ports = s.me.ports ∧ t.me.pair = s.me.pair ∧ t.me.role = s.me.role := by
  rw [h.me]
  exact ⟨rfl, rfl, rfl, rfl⟩

theorem State.Alike.onMe {f g : Thread → Thread} (done : g t.me = { f s.me with
    pc := (g t.me).pc, pend := (g t.me).pend, reply := (g t.me).reply, flags := if flags then (g t.me).flags else (f s.me).flags }) :
    State.Alike flags e (s.onMe f) (t.onMe g) := by
  have left : s.onMe f = s.onHereCore (fun k => k.setThread s.cur.slot (f s.me)) := rfl
  have right : t.onMe g = t.onHereCore (fun k => k.setThread t.cur.slot (g t.me)) := rfl
  rw [left, right, h.cur]
  exact h.onHereCore (h.core.setThread done)

theorem State.Alike.afterMe {g : Thread → Thread} (done : g t.me = { s.me with
    pc := (g t.me).pc, pend := (g t.me).pend, reply := (g t.me).reply, flags := if flags then (g t.me).flags else s.me.flags }) :
    State.Alike flags e s (t.onMe g) := by
  have right : t.onMe g = t.onHereCore (fun k => k.setThread t.cur.slot (g t.me)) := rfl
  rw [right, h.cur]
  exact h.afterCore (h.core.afterThread done)

/-! ## The effects of the chains -/

theorem State.Alike.setReg {n : Nat} (v : Word) (reg : e = s.me.base + n) : State.Alike flags e s (t.setReg n v) := by
  have written : e = t.me.base + n := by rw [h.fixed.1]; exact reg
  subst written
  exact h.afterCore (Core.Alike.writeReg t.me n v h.core)

theorem State.Alike.advance : State.Alike flags e s t.advance := by
  refine h.afterMe ?_
  rw [h.me]
  cases flags <;> rfl

theorem State.Alike.raise (f : Nat) (floats : flags = true) : State.Alike flags e s (t.raise f) := by
  subst floats
  refine h.afterMe ?_
  rw [h.me]
  rfl

/-! ## Streams popped (R97) -/

theorem State.Alike.pop (c : Nat) : State.Alike flags e (s.pop c) (t.pop c) := by
  obtain ⟨-, -, pair, role⟩ := h.fixed
  have pos : t.hereCore.mboxPos = s.hereCore.mboxPos :=
    show t.hereCore.bare.mboxPos = s.hereCore.bare.mboxPos by rw [h.core.bare]
  have exe : t.isExe = s.isExe := by rw [State.isExe, State.isExe, role]
  rw [State.pop_eq, State.pop_eq, pos, pair, exe, h.cur]
  split
  · refine h.onMe ?_
    rw [h.me]
    cases flags <;> rfl
  · split
    · split
      · exact h.onBare (fun _ => rfl) (fun _ => rfl) fun _ => rfl
      · exact h.onHere h.package.takeMbox
    · split
      · exact h
      · next q _ =>
        exact h.onBare (Core.popPair_regs q c _) (Core.popPair_threads q c _) (Core.popPair_bare q c _)

omit h in
theorem State.Alike.pops (l : List Nat) (h : State.Alike flags e s t) :
    State.Alike flags e (l.foldl State.pop s) (l.foldl State.pop t) := by
  induction l generalizing s t with
  | nil => exact h
  | cons c l ih => exact ih (h.pop c)

end

end

end Sys2Proof.Machine
end
section
/-! SUPPORT. The chains that write one register, form by form. -/

namespace Sys2Proof.Machine

/-! ## The frame -/

/-- States that are alike but for one register are framed by it. -/
theorem State.Alike.frame {flags : Bool} {s t : State} {d : Nat} (h : State.Alike flags (s.me.base + d) s t) :
    Claims.Frame s t d flags := by
  have core (chip c : Nat) (other : (chip, c) ≠ (s.cur.chip, s.cur.core)) : (t.pkg chip).core c = (s.pkg chip).core c := by
    by_cases here : chip = s.cur.chip
    · subst here
      exact h.here.other c fun same => other (by rw [same])
    · rw [h.other chip here]
  have rest (chip : Nat) : ({ t.pkg chip with cores := [] } : Package) = { s.pkg chip with cores := [] } := by
    by_cases here : chip = s.cur.chip
    · subst here
      exact h.here.rest
    · rw [h.other chip here]
  refine ⟨fun chip c x other => ?_, fun chip c n other => ?_, h.me, fun chip c => ?_, rest, fun chip a => ?_, h.packets, h.extents, h.cur⟩
  · by_cases here : (chip, c) = (s.cur.chip, s.cur.core)
    · cases here
      obtain ⟨⟨val, full, bad⟩, tag⟩ := h.here.core.cell x fun same => other (by rw [same])
      exact ⟨val, full, bad, tag⟩
    · dsimp only
      rw [core chip c here]
      exact ⟨rfl, rfl, rfl, fun _ => rfl⟩
  · by_cases here : (chip, c) = (s.cur.chip, s.cur.core)
    · cases here
      exact h.here.core.other n fun same => other (by rw [same])
    · rw [Package.thread, Package.thread, core chip c here]
  · by_cases here : (chip, c) = (s.cur.chip, s.cur.core)
    · cases here
      exact h.here.core.bare
    · rw [core chip c here]
  · have mem : (t.pkg chip).mem = (s.pkg chip).mem :=
      show ({ t.pkg chip with cores := [] } : Package).mem = ({ s.pkg chip with cores := [] } : Package).mem by rw [rest chip]
    rw [mem]

/-! ## The window of a thread whose streams are popped -/

theorem State.me_onHereCore (s : State) {f : Core → Core} (threads : ∀ k, (f k).threads = k.threads) : (s.onHereCore f).me = s.me := by
  have core : (s.onHereCore f).hereCore = f s.hereCore := State.hereCore_onHereCore s f
  show (s.onHereCore f).hereCore.thread s.cur.slot = s.hereCore.thread s.cur.slot
  rw [core, Core.thread, threads, Core.thread]

theorem Package.thread_acquire (p : Package) (c : Nat) (ws : List Nat) (d n : Nat) : (p.acquire c ws).thread d n = p.thread d n := by
  unfold Package.acquire
  exact Package.thread_onCore _ _ _ _ fun _ => rfl

theorem State.me_takeMbox (s : State) : (s.onHere (fun p => p.takeMbox s.cur.core)).me = s.me := by
  have here : (s.onHere (fun p => p.takeMbox s.cur.core)).here = s.here.takeMbox s.cur.core := State.here_onHere s _
  show (s.onHere (fun p => p.takeMbox s.cur.core)).here.thread s.cur.core s.cur.slot = s.here.thread s.cur.core s.cur.slot
  rw [here]
  unfold Package.takeMbox
  split
  · rfl
  · rw [Package.thread_acquire]
    exact Package.thread_onCore _ _ _ _ fun _ => rfl

theorem State.base_pop (s : State) (c : Nat) : (s.pop c).me.base = s.me.base := by
  rw [State.pop_eq]
  split
  · rw [State.me_onMe]
    rfl
  · split
    · split
      · exact congrArg Thread.base (State.me_onHereCore s fun _ => rfl)
      · rw [State.me_takeMbox]
    · split
      · rfl
      · rw [State.me_onHereCore _ (Core.popPair_threads _ _ _)]

theorem State.base_pops (s : State) (l : List Nat) : (l.foldl State.pop s).me.base = s.me.base := by
  induction l generalizing s with
  | nil => rfl
  | cons c l ih => rw [List.foldl_cons, ih, State.base_pop]

/-! ## Chains that leave everything but a register -/

/-- A chain's outcome: it is complete, and beside what its streams lose it is framed by its register. -/
def Leaves (s : State) (n : Needs) (d : Nat) (flags : Bool) (o : Host.Outcome State Fault Refusal) : Prop :=
  ∃ t, o = .next t ∧ Claims.Frame (n.pops.foldl State.pop s) t d flags

theorem leaves_of_alike {s u : State} {n : Needs} {d : Nat} {flags : Bool} (h : State.Alike flags (s.me.base + d) s u) :
    Leaves s n d flags (.next (n.pops.foldl State.pop u).advance) := by
  refine ⟨_, rfl, State.Alike.frame ?_⟩
  rw [State.base_pops]
  exact (State.Alike.pops n.pops h).advance

section
variable {s : State} {v : Vals} {n : Needs} {d : Reg} {src : Src}

theorem leaves_chainNext {flags : Bool} {body : Vals → State → State} (ready : Claims.Ready s n v)
    (h : State.Alike flags (s.me.base + d.toNat) s (body v s)) : Leaves s n d.toNat flags (chainNext s n body) := by
  rw [chainNext_ready ready]
  exact leaves_of_alike h

/-- D set, whatever its value. -/
theorem leaves_setReg {f : Vals → State → Word} (ready : Claims.Ready s n v) :
    Leaves s n d.toNat false (chainNext s n (fun v s => s.setReg d.toNat (f v s))) :=
  leaves_chainNext ready ((State.Alike.refl s).setReg _ rfl)

theorem State.Alike.setFloat (r : FRes) : State.Alike true (s.me.base + d.toNat) s (s.setFloat d r) :=
  ((State.Alike.refl s).raise r.flags rfl).setReg (word r.bits) rfl

/-- D set to a floating result, whatever it is. -/
theorem leaves_setFloat {f : Vals → State → FRes} (ready : Claims.Ready s n v) :
    Leaves s n d.toNat true (chainNext s n (fun v s => s.setFloat d (f v s))) :=
  leaves_chainNext ready (State.Alike.setFloat _)

/-! ## The forms -/

theorem leaves_binary (f : Word → Word → Word) (ready : Claims.Ready s (Claims.needDS d src) v) :
    Leaves s (Claims.needDS d src) d.toNat false (binary f d src s) := leaves_setReg ready
theorem leaves_unary (f : Word → Word) (ready : Claims.Ready s (Claims.needWS d src) v) :
    Leaves s (Claims.needWS d src) d.toNat false (unary f d src s) := leaves_setReg ready
theorem leaves_withImm (f : Word → Word) (ready : Claims.Ready s { d := rwReg d } v) :
    Leaves s { d := rwReg d } d.toNat false (withImm f d s) := leaves_setReg ready
theorem leaves_classOp (f : Fmt) (ready : Claims.Ready s (Claims.needWS d src) v) :
    Leaves s (Claims.needWS d src) d.toNat false (classOp f d src s) := leaves_setReg ready
theorem leaves_float2 (f : Fmt) (op : Nat → Num → Num → FRes) (r : Rnd) (ready : Claims.Ready s (Claims.needDS d src) v) :
    Leaves s (Claims.needDS d src) d.toNat true (float2 f op r d src s) := leaves_setFloat ready
theorem leaves_floatBits (f : Fmt) (op : Nat → Nat → FRes) (ready : Claims.Ready s (Claims.needDS d src) v) :
    Leaves s (Claims.needDS d src) d.toNat true (floatBits f op d src s) := leaves_setFloat ready
theorem leaves_signOp (f : Fmt) (g : Bool → Bool → Bool) (ready : Claims.Ready s (Claims.needDS d src) v) :
    Leaves s (Claims.needDS d src) d.toNat true (signOp f g d src s) := by
  unfold signOp
  exact leaves_floatBits _ _ ready
theorem leaves_float3 {t : Tgt} (f : Fmt) (p a : Bool) (r : Rnd) (ready : Claims.Ready s (Claims.needDST d src t) v) :
    Leaves s (Claims.needDST d src t) d.toNat true (float3 f p a r d src t s) := by
  unfold Claims.needDST at ready ⊢
  rw [float3, chainNext_ready ready]
  exact leaves_of_alike (State.Alike.setFloat _)
theorem leaves_sqrtOp (f : Fmt) (r : Rnd) (ready : Claims.Ready s (Claims.needWS d src) v) :
    Leaves s (Claims.needWS d src) d.toNat true (sqrtOp f r d src s) := leaves_setFloat ready
theorem leaves_fromInt (signed : Bool) (f : Fmt) (r : Rnd) (ready : Claims.Ready s (Claims.needWS d src) v) :
    Leaves s (Claims.needWS d src) d.toNat true (fromInt signed f r d src s) := leaves_setFloat ready

theorem rounding_policy (s : State) (r : Rnd) : (s.rounding r).2 = Claims.policy s r := by
  unfold State.rounding Claims.policy
  split <;> rfl

/-- A conversion traps under overflow policy 11 alone. -/
theorem leaves_convertFloat (from_ to_ : Fmt) (r : Rnd) (ready : Claims.Ready s (Claims.needWS d src) v) (policy : (s.rounding r).2 ≠ 3) :
    Leaves s (Claims.needWS d src) d.toNat true (convertFloat from_ to_ r d src s) := by
  unfold Claims.needWS at ready ⊢
  rw [convertFloat, chain_ready ready]
  simp only [policy, and_false, if_false]
  exact leaves_of_alike (State.Alike.setFloat _)

theorem leaves_toInt (from_ : Fmt) (lo hi : Int) (r : Rnd) (ready : Claims.Ready s (Claims.needWS d src) v) (policy : (s.rounding r).2 ≠ 3) :
    Leaves s (Claims.needWS d src) d.toNat true (toInt from_ lo hi r d src s) := by
  unfold Claims.needWS at ready ⊢
  rw [toInt, chain_ready ready]
  simp only [policy, and_false, if_false]
  exact leaves_of_alike (((State.Alike.refl s).raise _ rfl).setReg _ rfl)

theorem leaves_sel {t : Tgt} (ready : Claims.Ready s (Claims.needDST d src t) v) : Leaves s (Claims.needDST d src t) d.toNat false (execSel d src t s) := by
  refine leaves_chainNext ready ?_
  split
  · exact State.Alike.refl s
  · exact (State.Alike.refl s).setReg _ rfl

end

/-- Settles O59: each form's effect is one register, and for the floating forms flags; `State.Alike` carries that past the pops. -/
theorem registerFrame : Obligations.RegisterFrame := by
  intro s v d src r
  rw [← rounding_policy]
  refine ⟨fun ready => ⟨?_, ?_⟩, fun ready => ⟨?_, ?_, fun policy => ?_⟩, fun t ready => ⟨?_, ?_⟩, fun imm ready => ?_, fun imm n ready => ?_,
    fun b disp ready => ?_⟩
  · simp only [List.forall_mem_cons, List.not_mem_nil, IsEmpty.forall_iff, implies_true, and_true]
    and_intros <;> unfold exec
    all_goals exact leaves_binary _ ready
  · simp only [List.forall_mem_cons, List.not_mem_nil, IsEmpty.forall_iff, implies_true, and_true]
    and_intros
    iterate 8 (unfold exec; exact leaves_float2 _ _ _ ready)
    iterate 10 (unfold exec; exact leaves_floatBits _ _ ready)
    iterate 6 (unfold exec; exact leaves_signOp _ _ ready)
  · simp only [List.forall_mem_cons, List.not_mem_nil, IsEmpty.forall_iff, implies_true, and_true]
    and_intros
    · unfold exec; exact leaves_setReg ready
    iterate 2 (unfold exec; exact leaves_unary _ ready)
    iterate 2 (unfold exec; exact leaves_classOp _ ready)
  · simp only [List.forall_mem_cons, List.not_mem_nil, IsEmpty.forall_iff, implies_true, and_true]
    and_intros
    iterate 2 (unfold exec; exact leaves_sqrtOp _ _ ready)
    iterate 4 (unfold exec; exact leaves_fromInt _ _ _ ready)
  · simp only [List.forall_mem_cons, List.not_mem_nil, IsEmpty.forall_iff, implies_true, and_true]
    and_intros
    iterate 2 (unfold exec; exact leaves_convertFloat _ _ _ ready policy)
    iterate 4 (unfold exec; exact leaves_toInt _ _ _ _ ready policy)
  · simp only [List.forall_mem_cons, List.not_mem_nil, IsEmpty.forall_iff, implies_true, and_true]
    and_intros
    · unfold exec; exact leaves_sel ready
    · unfold exec; exact leaves_setReg ready
  · simp only [List.forall_mem_cons, List.not_mem_nil, IsEmpty.forall_iff, implies_true, and_true]
    and_intros <;> unfold exec
    all_goals exact leaves_float3 _ _ _ _ ready
  · simp only [List.forall_mem_cons, List.not_mem_nil, IsEmpty.forall_iff, implies_true, and_true]
    and_intros <;> unfold exec
    all_goals exact leaves_withImm _ ready
  · simp only [List.forall_mem_cons, List.not_mem_nil, IsEmpty.forall_iff, implies_true, and_true]
    and_intros <;> unfold exec
    all_goals exact leaves_setReg ready
  · dsimp only
    unfold exec
    exact leaves_setReg ready

end Sys2Proof.Machine
end
section
/-! SUPPORT. Soft errors (R34, R169, R253, R380, R381): what the end of a step leaves of memory, cores and counters, and what an error marks. -/

namespace Sys2Proof.Machine

/-! ## Memory, cores and error counters through the end of a step -/

/-- The memory, the cores and the error counters of a package stand in another. -/
def Package.SameStore (p q : Package) : Prop := q.mem = p.mem ∧ (∀ c, q.core c = p.core c) ∧ q.errors = p.errors

/-- They stand in every package. -/
def State.SameStore (s t : State) : Prop := ∀ chip, (s.pkg chip).SameStore (t.pkg chip)

theorem Package.SameStore.refl (p : Package) : p.SameStore p := ⟨rfl, fun _ => rfl, rfl⟩
theorem Package.SameStore.trans {p q r : Package} (h : p.SameStore q) (k : q.SameStore r) : p.SameStore r :=
  ⟨k.1.trans h.1, fun c => (k.2.1 c).trans (h.2.1 c), k.2.2.trans h.2.2⟩

theorem State.SameStore.refl (s : State) : s.SameStore s := fun _ => .refl _
theorem State.SameStore.trans {s t u : State} (h : s.SameStore t) (k : t.SameStore u) : s.SameStore u := fun c => (h c).trans (k c)

theorem State.sameStore_onPkg {s : State} (chip : Nat) {f : Package → Package} (h : ∀ p : Package, p.SameStore (f p)) : s.SameStore (s.onPkg chip f) := by
  intro c
  by_cases same : c = chip
  · subst same
    rw [State.pkg_onPkg_same]
    exact h _
  · rw [State.pkg_onPkg_other _ _ _ _ same]
    exact .refl _

theorem State.sameStore_foldl {α : Type} (f : State → α → State) (h : ∀ (s : State) a, s.SameStore (f s a)) (l : List α) (s : State) :
    s.SameStore (l.foldl f s) := by
  induction l generalizing s with
  | nil => exact .refl s
  | cons a l ih => exact (h s a).trans (ih _)

@[simp] theorem Package.errors_cellFinish (p : Package) (id : Nat) : (p.cellFinish id).errors = p.errors := by
  unfold Package.cellFinish
  dsimp only
  split <;> rfl

@[simp] theorem Package.errors_cellDrop (p : Package) (fuel id : Nat) : (p.cellDrop fuel id).errors = p.errors := by
  induction fuel generalizing p id with
  | zero => rfl
  | succ fuel ih =>
    simp only [Package.cellDrop, apply_ite Package.errors, ih, Package.errors_cellFinish]
    simp only [Package.setCell, Package.onDie, ite_self]

theorem Package.sameStore_leaveCell (p : Package) (id : Nat) (paired : Bool) : p.SameStore (p.leaveCell id paired) := by
  refine ⟨Package.leaveCell_mem p id paired, fun c => Package.core_leaveCell p c id paired, ?_⟩
  unfold Package.leaveCell
  split <;> simp

/-- A package changed elsewhere than in its memory, its cores and its counters. -/
theorem State.sameStore_else {s : State} (chip : Nat) (f : Package → Package) (mem : ∀ p, (f p).mem = p.mem)
    (core : ∀ p c, (f p).core c = p.core c) (errors : ∀ p, (f p).errors = p.errors) : s.SameStore (s.onPkg chip f) :=
  State.sameStore_onPkg chip fun p => ⟨mem p, core p, errors p⟩

theorem State.sameStore_chargeFabric (s : State) (k : Packet) : s.SameStore (s.chargeFabric k) := by
  unfold State.chargeFabric
  split
  · exact .refl s
  · refine State.sameStore_else _ _ ?_ ?_ ?_ <;> intros <;> rfl

theorem State.sameStore_inject (s : State) (k : Packet) : s.SameStore (s.inject k) := by
  have chips : ∃ st : SrcStream, (s.inject k).chips = ((s.chargeFabric k).onPkg k.src (fun p =>
      { p with src := tset p.src (streamKey k.dst ((s.chargeFabric k).unitOf k.src k.dst)) st })).chips := ⟨_, rfl⟩
  obtain ⟨st, chips⟩ := chips
  intro c
  have found := congrArg (fun t => tget t c Package.absent) chips
  change (s.inject k).pkg c = ((s.chargeFabric k).onPkg k.src _).pkg c at found
  rw [found]
  refine (State.sameStore_chargeFabric s k).trans (State.sameStore_else k.src _ ?_ ?_ ?_) c <;> intros <;> rfl

theorem State.sameStore_pay (s : State) (chip : Nat) (o : Owed) : s.SameStore (s.pay chip o) := by
  cases o with
  | cell away id paired => exact State.sameStore_onPkg away fun p => p.sameStore_leaveCell id paired
  | news dst n h =>
    simp only [State.pay]
    split
    · exact State.sameStore_inject s _
    · refine State.sameStore_else chip _ ?_ ?_ ?_ <;> intros <;> rfl

theorem State.sameStore_tell (s : State) (chip : Nat) : s.SameStore (s.tell chip) := by
  unfold State.tell
  split
  · exact .refl s
  · refine State.SameStore.trans (State.sameStore_else chip (fun p => { p with owed := [] }) ?_ ?_ ?_)
      (State.sameStore_foldl _ (fun s o => s.sameStore_pay chip o) _ _) <;> intros <;> rfl

theorem tget?_mapValues {α : Type} (f : α → α) (t : Tab α) (n : Nat) : tget? (t.map fun e => (e.1, f e.2)) n = (tget? t n).map f := by
  induction t with
  | nil => rfl
  | cons e t ih =>
    simp only [List.map_cons, tget?, ih]
    split <;> rfl

theorem Package.sameStore_closePhases (p : Package) : p.SameStore p.closePhases := by
  unfold Package.closePhases
  split
  · exact ⟨rfl, fun _ => rfl, rfl⟩
  · exact .refl p

theorem State.sameStore_phased (s : State) : s.SameStore s.phased := by
  intro c
  have found : s.phased.pkg c = (s.pkg c).closePhases ∨ s.phased.pkg c = s.pkg c := by
    unfold State.phased State.pkg tget
    dsimp only
    rw [tget?_mapValues]
    cases tget? s.chips c with
    | none => exact .inr rfl
    | some p => exact .inl rfl
  rcases found with closed | same
  · rw [closed]
    exact Package.sameStore_closePhases _
  · rw [same]
    exact .refl _

/-- What is paid and closed when a step ends touches no memory, no core and no error counter. -/
theorem State.sameStore_ended (s : State) : s.SameStore s.ended :=
  (State.sameStore_foldl (fun s (e : Nat × Package) => s.tell e.1) (fun s e => s.sameStore_tell e.1) s.chips s).trans (State.sameStore_phased _)

/-! ## What an error marks -/

@[simp] theorem Memory.isBad_setBad (m : Memory) (w : Nat) : (m.setBad w true).isBad w = true := by
  simp [Memory.isBad, Memory.setBad]

theorem Package.core_onAllCores (p : Package) (f : Core → Core) (c : Nat) : (p.onAllCores f).core c = f (p.core c) := by
  unfold Package.onAllCores Package.core tget
  dsimp only
  rw [tget?_mapValues]
  cases tget? p.cores c <;> rfl

/-- One core changed, with the bits of its registers as they were. -/
theorem Package.val_onCore (p : Package) (c : Nat) {f : Core → Core} (h : ∀ k e, ((f k).cell e).val = (k.cell e).val) (x e : Nat) :
    (((p.onCore c f).core x).cell e).val = ((p.core x).cell e).val := by
  by_cases same : x = c
  · subst same
    rw [Package.core_onCore_same]
    exact h _ e
  · rw [Package.core_onCore_other _ _ _ _ same]

/-- A register marked bad keeps every register's bits. -/
theorem Core.val_markReg (k : Core) (e x : Nat) :
    (({ k with regs := tset k.regs e { k.cell e with bad := true } } : Core).cell x).val = (k.cell x).val := by
  by_cases same : x = e
  · subst same
    simp [Core.cell]
  · simp [Core.cell, same]

theorem Package.upset_byte (p : Package) (u : Upset) (a : Nat) : (p.upset u).mem.byte a = p.mem.byte a := by
  cases u with
  | word w => simp only [Package.upset]; split <;> rfl
  | corrected die => simp only [Package.upset]; split <;> rfl
  | retry die => simp only [Package.upset]; split <;> rfl
  | reg c e => simp only [Package.upset]; split <;> rfl
  | outbox c i w => rfl
  | spilled c i w => rfl
  | bank c visible e => simp only [Package.upset]; split <;> rfl

theorem Package.upset_val (p : Package) (u : Upset) (x e : Nat) : (((p.upset u).core x).cell e).val = ((p.core x).cell e).val := by
  cases u with
  | word w =>
    simp only [Package.upset]
    split
    case h_4 => rfl
    all_goals
      rw [Package.core_onAllCores]
      rfl
  | corrected die => simp only [Package.upset]; split <;> rfl
  | retry die => simp only [Package.upset]; split <;> rfl
  | reg c r =>
    simp only [Package.upset]
    split
    · exact Package.val_onCore p c (fun k e => Core.val_markReg k r e) x e
    · rfl
  | outbox c i w =>
    refine Package.val_onCore p c ?_ x e
    exact fun _ _ => rfl
  | spilled c i w =>
    refine Package.val_onCore p c ?_ x e
    exact fun _ _ => rfl
  | bank c visible b =>
    simp only [Package.upset]
    split
    · refine Package.val_onCore p c ?_ x e
      exact fun _ _ => rfl
    · rfl

theorem Package.upset_word (p : Package) (a : Nat) (hbm : p.place (wordOf a) = .hbm) :
    (p.upset (.word a)).mem.isBad (wordOf a) = true ∧ ∀ c, ((p.upset (.word a)).core c).view.isBad (wordOf a) = true := by
  simp only [Package.upset, hbm]
  refine ⟨Memory.isBad_setBad _ _, fun c => ?_⟩
  rw [Package.core_onAllCores]
  exact Memory.isBad_setBad _ _

theorem Package.upset_reg (p : Package) {c e : Nat} (hc : c < 1024) (he : e < 2048) : (((p.upset (.reg c e)).core c).cell e).bad = true := by
  simp [Package.upset, hc, he, Core.cell]

theorem Package.upset_bank (p : Package) {c e : Nat} (hc : c < 1024) (he : e < 16384) :
    e ∈ ((p.upset (.bank c true e)).core c).tile.vbad ∧ e ∈ ((p.upset (.bank c false e)).core c).tile.wbad := by
  simp [Package.upset, hc, he]

theorem Package.upset_corrected (p : Package) {die : Nat} (hd : die < 4) (room : (tget p.errors (die * 4) 0).toNat < 2 ^ 64 - 1) :
    tget (p.upset (.corrected die)).errors (die * 4) 0 = tget p.errors (die * 4) 0 + 1 := by
  simp only [Package.upset, if_pos hd, Package.count, Nat.add_zero, tget_tset_same]
  generalize tget p.errors (die * 4) 0 = n at room
  have small : Nat.min (2 ^ 64 - 1) (n.toNat + 1) = n.toNat + 1 := Nat.min_eq_right (by omega)
  rw [small]
  apply BitVec.eq_of_toNat_eq
  simp [word]

theorem step_upset {s : State} {chip : Nat} {u : Upset} (move : s.nextMove = .upset chip u) (running : (s.pkg chip).phase = .running) :
    step s = .next (s.begin.onPkg chip (fun p => p.upset u)).ended := by
  have struck : s.begin.upset chip u = s.begin.onPkg chip (fun p => p.upset u) := if_pos running
  rw [step, move, State.take, struck]
  rfl

/-! ## What a read finds -/

theorem mem_span_add {lo step n i : Nat} (h : i < n) : lo + i * step ∈ span lo step n := by
  induction n generalizing lo i with
  | zero => omega
  | succ n ih =>
    cases i with
    | zero => simp [span]
    | succ i =>
      have rest := ih (lo := lo + step) (i := i) (by omega)
      rw [show lo + (i + 1) * step = lo + step + i * step by ring]
      exact List.mem_cons_of_mem _ rest

theorem Package.plainLoad_bad {p : Package} {c a n i : Nat} (chip pick : Nat) (hi : i < n) (h : (p.core c).outboxBad (a + i) = true) :
    (p.plainLoad chip c a n pick).bad = true := by
  have within : a + i ∈ span a 1 n := by simpa using mem_span_add (lo := a) (step := 1) hi
  simp only [Package.plainLoad, Bool.or_eq_true, List.any_eq_true]
  exact .inr ⟨_, within, h⟩

/-- A chain with a full destination whose one register source is full and poisoned stops at the last check (R34). -/
theorem gate_poisoned {s : State} {d r : Reg} (hd : d.toNat < s.me.len) (hr : r.toNat < s.me.len)
    (fullD : (s.hereCore.reg s.me d.toNat).full = true) (fullR : (s.hereCore.reg s.me r.toNat).full = true)
    (bad : (s.hereCore.reg s.me r.toNat).bad = true) :
    gate s { s := rdOp ⟨r, false, false⟩, d := wrReg d } = .trap .softError (word r.toNat) := by
  have sought : (rdOp ⟨r, false, false⟩).ready s = .trap .softError (word r.toNat) := by
    simp [rdOp, Opr.ready, Use.readOf, span, fullR, bad]
  have written : (wrReg d).ready s = .val (s.reg d.toNat) := by simp [wrReg, Opr.ready, Use.readOf, span, fullD]
  have none_ : Opr.none.ready s = .val 0 := rfl
  rw [gate_eq]
  dsimp only
  rw [sought, written, none_, afterChecks_source]
  have inR : ¬ s.me.len < r.toNat + 1 := by omega
  have inD : ¬ s.me.len < d.toNat + 1 := by omega
  simp [RoleRule.bad, Opr.roleBad, Opr.alignBad, Opr.windowBad, Opr.emptyBad, rdOp, wrReg, inR, inD]

theorem exec_mov_poisoned {s : State} {d r : Reg} (issuing : s.issuing = true)
    (g : gate s { s := rdOp ⟨r, false, false⟩, d := wrReg d } = .trap .softError (word r.toNat)) :
    exec (.mov (.reg d) (.reg ⟨r, false, false⟩)) s = .next (s.takeTrap .softError 0 (word r.toNat)) :=
  chain_trap issuing g (fun v s => .next (s.writeDst (.reg d) v.s))

end Sys2Proof.Machine

namespace Sys2Proof

/-- Settles O51: an error marks what it strikes and leaves every bit, and the end of the step leaves what it marked. -/
theorem softErrors : Obligations.SoftErrors := by
  refine ⟨?_, fun p chip c a n pick i => Machine.Package.plainLoad_bad chip pick, ?_⟩
  · intro s chip u move running
    refine ⟨_, Machine.step_upset move running, ?_⟩
    have kept := Machine.State.sameStore_ended (s.begin.onPkg chip (fun p => p.upset u))
    have struck := kept chip
    rw [Machine.State.pkg_onPkg_same] at struck
    obtain ⟨mem, core, errors⟩ := struck
    refine ⟨fun c a => ?_, fun c x e => ?_, ?_⟩
    · rw [(kept c).1]
      by_cases here : c = chip
      · subst here
        rw [Machine.State.pkg_onPkg_same]
        exact Machine.Package.upset_byte _ u a
      · rw [Machine.State.pkg_onPkg_other _ _ _ _ here]
        rfl
    · rw [(kept c).2.1]
      by_cases here : c = chip
      · subst here
        rw [Machine.State.pkg_onPkg_same]
        exact Machine.Package.upset_val _ u x e
      · rw [Machine.State.pkg_onPkg_other _ _ _ _ here]
        rfl
    · dsimp only
      rw [mem, errors]
      simp only [core]
      refine ⟨?_, ?_, ?_, ?_, ?_⟩
      · rintro a rfl
        exact Machine.Package.upset_word _ a
      · rintro c e rfl
        exact Machine.Package.upset_reg _
      · rintro c e rfl hc he
        exact (Machine.Package.upset_bank _ hc he).1
      · rintro c e rfl hc he
        exact (Machine.Package.upset_bank _ hc he).2
      · rintro die rfl
        exact Machine.Package.upset_corrected _
  · intro s d r running ready hd hr fullD fullR bad
    have issuing : s.issuing = true := by simp [Machine.State.issuing, running, ready]
    exact Machine.exec_mov_poisoned issuing (Machine.gate_poisoned hd hr fullD fullR bad)

end Sys2Proof
end
section
/-! SUPPORT. A stopped thread under a cancelled cell retires (R30), so that a TSTOP does not leave it TRAPPED. -/

namespace Sys2Proof.Machine

/-- A machine whose thread in slot 0 of core 0 has in g0 the handle of a READY thread in slot 1, under a cell that a CANCEL has named. -/
def State.cancelledTarget : State :=
  { State.reset.onPkg 0 (fun p => ({ p with phase := .running } : Package).onCore 0 (fun k =>
      { k with
        regs := [(0, ⟨1, true, false, false⟩)],
        threads := [(0, { Thread.fresh with life := .ready, len := 8 }), (1, { Thread.fresh with life := .ready, cancel := some 0 })] })) with
    cur := ⟨0, 0, 0, []⟩ }

theorem State.cancelledTarget_ready : Claims.Ready .cancelledTarget { s := rdOp ⟨0, false, false⟩ } ⟨0, 1, 0⟩ := by
  unfold Claims.Ready
  decide +kernel

/-- The thread that its TSTOP names may stop at once, but its cell is cancelled: it retires. -/
theorem State.cancelledTarget_stops : State.cancelledTarget.target? 1 = some 1 ∧
    State.cancelledTarget.here.settling (State.cancelledTarget.hereCore.thread 1) ≠ .later ∧
    ∃ u, exec (.tstop ⟨0, false, false⟩) .cancelledTarget = .next u ∧ (u.hereCore.thread 1).life = .retired := by
  refine ⟨by decide +kernel, by decide +kernel, _, rfl, by decide +kernel⟩

end Sys2Proof.Machine

namespace Sys2Proof

/-- Refutes O23: a READY thread under a cancelled cell, which a TSTOP may stop at once, retires when it stops (R30). -/
theorem not_stopResumeAndRelease : ¬ Obligations.StopResumeAndRelease := by
  rintro ⟨stops, -⟩
  obtain ⟨target, settled, u, run, retired⟩ := Machine.State.cancelledTarget_stops
  obtain ⟨-, -, others⟩ := stops _ _ _ Machine.State.cancelledTarget_ready
  obtain ⟨-, -, stopped⟩ := others 1 target (by decide)
  obtain ⟨t, run', trapped, -⟩ := stopped (.inl (by decide +kernel)) settled
  rw [run] at run'
  cases run'
  rw [retired] at trapped
  cases trapped

end Sys2Proof
end
section
/-! SUPPORT. New threads (R16, R191 to R193): what a started thread holds, and what the end of a chain leaves of a core. -/

namespace Sys2Proof.Machine

/-! ## What the end of a chain leaves -/

/-- A state with the issue context, the registers and the other threads of another, whose thread differs in its ports only; a thread in no
pair leaves every pair alone. -/
structure State.Kept (s t : State) : Prop where
  cur : t.cur = s.cur
  regs : t.hereCore.regs = s.hereCore.regs
  others : ∀ n, n ≠ s.cur.slot → t.hereCore.thread n = s.hereCore.thread n
  base : t.me.base = s.me.base
  pc : t.me.pc = s.me.pc
  pair : t.me.pair = s.me.pair
  pairs : s.me.pair = none → t.hereCore.pairs = s.hereCore.pairs

theorem State.Kept.refl (s : State) : s.Kept s := ⟨rfl, rfl, fun _ _ => rfl, rfl, rfl, rfl, fun _ => rfl⟩

theorem State.Kept.trans {s t u : State} (h : s.Kept t) (k : t.Kept u) : s.Kept u where
  cur := k.cur.trans h.cur
  regs := k.regs.trans h.regs
  others n other := (k.others n (by rw [h.cur]; exact other)).trans (h.others n other)
  base := k.base.trans h.base
  pc := k.pc.trans h.pc
  pair := k.pair.trans h.pair
  pairs single := (k.pairs (by rw [h.pair]; exact single)).trans (h.pairs single)

/-- The core changed elsewhere than in its registers and threads. -/
theorem State.kept_of_core {s t : State} (cur : t.cur = s.cur) (regs : t.hereCore.regs = s.hereCore.regs)
    (threads : t.hereCore.threads = s.hereCore.threads) (pairs : s.me.pair = none → t.hereCore.pairs = s.hereCore.pairs) : s.Kept t := by
  have thread (n : Nat) : t.hereCore.thread n = s.hereCore.thread n := by rw [Core.thread, threads, Core.thread]
  have me : t.me = s.me := by rw [State.me, cur, thread]; rfl
  exact ⟨cur, regs, fun n _ => thread n, by rw [me], by rw [me], by rw [me], pairs⟩

theorem State.kept_onHereCore (s : State) {f : Core → Core} (regs : (f s.hereCore).regs = s.hereCore.regs)
    (threads : (f s.hereCore).threads = s.hereCore.threads) (pairs : s.me.pair = none → (f s.hereCore).pairs = s.hereCore.pairs) :
    s.Kept (s.onHereCore f) := by
  refine State.kept_of_core rfl ?_ ?_ ?_ <;> rw [State.hereCore_onHereCore]
  exacts [regs, threads, pairs]

/-- The thread changed in its ports only. -/
theorem State.kept_onMe (s : State) {f : Thread → Thread} (base : (f s.me).base = s.me.base) (pc : (f s.me).pc = s.me.pc)
    (pair : (f s.me).pair = s.me.pair) : s.Kept (s.onMe f) := by
  have core : (s.onMe f).hereCore = s.hereCore.setThread s.cur.slot (f s.me) :=
    State.hereCore_onHereCore s fun k => k.setThread s.cur.slot (f (k.thread s.cur.slot))
  exact ⟨rfl, by rw [core]; rfl, fun n other => by rw [core]; exact Core.thread_setThread_other _ _ _ _ other,
    by rw [State.me_onMe]; exact base, by rw [State.me_onMe]; exact pc, by rw [State.me_onMe]; exact pair, fun _ => by rw [core]; rfl⟩

theorem Package.takeMbox_core (p : Package) (c : Nat) : ((p.takeMbox c).core c).regs = (p.core c).regs ∧
    ((p.takeMbox c).core c).threads = (p.core c).threads ∧ ((p.takeMbox c).core c).pairs = (p.core c).pairs := by
  unfold Package.takeMbox
  split
  · exact ⟨rfl, rfl, rfl⟩
  · simp [Package.acquire]

theorem State.kept_pop (s : State) (c : Nat) : s.Kept (s.pop c) := by
  rw [State.pop_eq]
  split
  · exact s.kept_onMe rfl rfl rfl
  · split
    · split
      · exact s.kept_onHereCore rfl rfl fun _ => rfl
      · obtain ⟨regs, threads, pairs⟩ := s.here.takeMbox_core s.cur.core
        have here : (s.onHere fun p => p.takeMbox s.cur.core).here = s.here.takeMbox s.cur.core := State.here_onHere s _
        have core : (s.onHere fun p => p.takeMbox s.cur.core).hereCore = (s.here.takeMbox s.cur.core).core s.cur.core :=
          congrArg (fun p => Package.core p s.cur.core) here
        rw [← core] at regs threads pairs
        exact State.kept_of_core rfl regs threads fun _ => pairs
    · split
      · exact .refl s
      · next q hq => exact s.kept_onHereCore (Core.popPair_regs _ _ _ _) (Core.popPair_threads _ _ _ _) fun single => by rw [single] at hq; cases hq


theorem State.kept_pops (s : State) (l : List Nat) : s.Kept (l.foldl State.pop s) := by
  induction l generalizing s with
  | nil => exact .refl s
  | cons c l ih => exact (s.kept_pop c).trans (ih _)

theorem State.hereCore_advance (s : State) :
    s.advance.hereCore = s.hereCore.setThread s.cur.slot { s.me with pc := s.nextPc, pend := none, reply := none } :=
  State.hereCore_onHereCore s fun k => k.setThread s.cur.slot { k.thread s.cur.slot with pc := s.nextPc, pend := none, reply := none }

/-- What a chain that ends by writing a register leaves of its core. -/
theorem State.endOf_setReg (n : Needs) (s : State) (d : Nat) (v : Word) :
    let t := Claims.endOf n (s.setReg d v)
    t.reg d = v ∧ t.me.pc = s.nextPc ∧
    (∀ e, e ≠ s.me.base + d → (t.hereCore.cell e).full = (s.hereCore.cell e).full ∧ (t.hereCore.cell e).val = (s.hereCore.cell e).val) ∧
    (∀ m, m ≠ s.cur.slot → t.hereCore.thread m = s.hereCore.thread m) ∧ (s.me.pair = none → t.hereCore.pairs = s.hereCore.pairs) := by
  intro t
  have written : (s.setReg d v).hereCore = s.hereCore.writeReg s.me d v := State.hereCore_onHereCore s fun k => k.writeReg s.me d v
  have fields : s.hereCore.writeReg s.me d v = { s.hereCore with regs := (s.hereCore.writeReg s.me d v).regs } := by
    rw [Core.writeReg, Core.clearTag_fields]
  have thread (m : Nat) : (s.setReg d v).hereCore.thread m = s.hereCore.thread m := by rw [written, fields]; rfl
  have me : (s.setReg d v).me = s.me := thread s.cur.slot
  have pairsSame : (s.setReg d v).hereCore.pairs = s.hereCore.pairs := by rw [written, fields]
  obtain ⟨cur, regs, others, base, pc, -, pairs⟩ := (s.setReg d v).kept_pops n.pops
  have core : t.hereCore = _ := State.hereCore_advance (n.pops.foldl State.pop (s.setReg d v))
  have here : t.me = _ := State.me_goto (n.pops.foldl State.pop (s.setReg d v)) _
  rw [me] at base pc pairs
  have cell (e : Nat) : t.hereCore.cell e = (s.hereCore.writeReg s.me d v).cell e := by
    rw [core, ← written]
    exact congrArg (fun r => tget r e RegCell.fresh) regs
  refine ⟨?_, ?_, fun e other => ?_, fun m other => ?_, fun single => ?_⟩
  · have at_ : t.me.base = s.me.base := by rw [here, ← base]
    rw [State.reg, Core.reg, at_, cell]
    exact (Core.writeReg_same s.hereCore s.me d v).1
  · rw [here]
    show State.nextPc _ = _
    rw [State.nextPc, State.nextPc, pc, cur]
    rfl
  · rw [cell]
    obtain ⟨val, full, -⟩ := Core.writeReg_other s.hereCore s.me d e v other
    exact ⟨full, val⟩
  · rw [core, Core.thread_setThread_other _ _ _ _ (by rw [cur]; exact other), others m other, thread]
  · rw [core]
    exact (pairs single).trans pairsSame

/-! ## A started thread -/

@[simp] theorem Core.writeReg_threads (k : Core) (t : Thread) (n : Nat) (v : Word) : (k.writeReg t n v).threads = k.threads := by
  rw [Core.writeReg, Core.clearTag_fields]
@[simp] theorem Core.writeReg_pairs (k : Core) (t : Thread) (n : Nat) (v : Word) : (k.writeReg t n v).pairs = k.pairs := by
  rw [Core.writeReg, Core.clearTag_fields]

/-- Registers written one after the other (R16). -/
def Core.writeRegs (k : Core) (t : Thread) (l : List (Nat × Word)) : Core := l.foldl (fun k r => k.writeReg t r.1 r.2) k

theorem Core.writeRegs_frame (k : Core) (t : Thread) (l : List (Nat × Word)) :
    (k.writeRegs t l).threads = k.threads ∧ (k.writeRegs t l).pairs = k.pairs := by
  induction l generalizing k with
  | nil => exact ⟨rfl, rfl⟩
  | cons r l ih =>
    obtain ⟨threads, pairs⟩ := ih (k.writeReg t r.1 r.2)
    exact ⟨threads.trans (by simp), pairs.trans (by simp)⟩

/-- A register that none of the writes names keeps its bits and presence. -/
theorem Core.writeRegs_other {k : Core} {t : Thread} {l : List (Nat × Word)} {e : Nat} (h : ∀ r ∈ l, e ≠ t.base + r.1) :
    ((k.writeRegs t l).cell e).full = (k.cell e).full ∧ ((k.writeRegs t l).cell e).val = (k.cell e).val := by
  induction l generalizing k with
  | nil => exact ⟨rfl, rfl⟩
  | cons r l ih =>
    obtain ⟨val, full, -⟩ := Core.writeReg_other k t r.1 e r.2 (h r List.mem_cons_self)
    obtain ⟨full', val'⟩ := ih (k := k.writeReg t r.1 r.2) fun x hx => h x (List.mem_cons_of_mem _ hx)
    exact ⟨full'.trans full, val'.trans val⟩

/-- A register named once has the value written. -/
theorem Core.writeRegs_named {k : Core} {t : Thread} {l : List (Nat × Word)} (once : (l.map Prod.fst).Nodup) {r : Nat × Word} (h : r ∈ l) :
    ((k.writeRegs t l).cell (t.base + r.1)).full = true ∧ ((k.writeRegs t l).cell (t.base + r.1)).val = r.2 := by
  induction l generalizing k with
  | nil => cases h
  | cons x l ih =>
    rw [List.map_cons, List.nodup_cons] at once
    rcases List.mem_cons.1 h with rfl | later
    · obtain ⟨val, full, -⟩ := Core.writeReg_same k t r.1 r.2
      obtain ⟨full', val'⟩ := Core.writeRegs_other (k := k.writeReg t r.1 r.2) (t := t) (l := l) (e := t.base + r.1)
        fun y hy same => once.1 (by rw [show r.1 = y.1 by omega]; exact List.mem_map_of_mem hy)
      exact ⟨full'.trans full, val'.trans val⟩
    · exact ih once.2 later

theorem tget?_filter {α : Type} (t : Tab α) (f : Nat → Bool) (n : Nat) :
    tget? (t.filter fun e => f e.1) n = if f n = true then tget? t n else none := by
  induction t with
  | nil => simp [tget?]
  | cons e t ih =>
    obtain ⟨k, v⟩ := e
    by_cases same : n = k
    · subst same
      cases hf : f n <;> simp [tget?, hf] at ih ⊢
      exact ih
    · cases hf : f k <;> simp [tget?, hf, same, ih]

/-- A cleared window is full of zeros, and the rest of the file stands (R16). -/
theorem Core.clearWindow_cell (k : Core) (b n e : Nat) :
    (k.clearWindow b n).cell e = if e < b ∨ b + n ≤ e then k.cell e else RegCell.fresh := by
  unfold Core.clearWindow Core.cell tget
  dsimp only
  rw [tget?_filter k.regs (fun e => decide (e < b ∨ b + n ≤ e))]
  by_cases out : e < b ∨ b + n ≤ e <;> simp [out]

/-- The thread that a creation places in a slot (R16, R23). -/
def Core.started (k : Core) (slot base len : Nat) (entry : BitVec 56) (role : Word) (cell cancel : Option Nat) : Thread :=
  { Thread.fresh with
    life := .ready, pc := entry, base := base, len := len, gen := (k.thread slot).gen, role := role,
    prio := if slot = 63 then 1 else 0, lastIssue := (k.thread slot).lastIssue, gap := (k.thread slot).gap, cell := cell, cancel := cancel }

section
variable (k : Core) (slot base len : Nat) (entry : BitVec 56) (l : List (Nat × Word)) (role : Word) (cell cancel : Option Nat)

theorem Core.startThread_eq : k.startThread slot base len entry l role cell cancel =
    ((k.clearWindow base len).setThread slot (k.started slot base len entry role cell cancel)).writeRegs
      (k.started slot base len entry role cell cancel) l := rfl

theorem Core.startThread_threads : (k.startThread slot base len entry l role cell cancel).threads =
    tset k.threads slot (k.started slot base len entry role cell cancel) := by
  rw [Core.startThread_eq, (Core.writeRegs_frame _ _ l).1]
  rfl

theorem Core.startThread_pairs : (k.startThread slot base len entry l role cell cancel).pairs = k.pairs := by
  rw [Core.startThread_eq, (Core.writeRegs_frame _ _ l).2]
  rfl

theorem Core.thread_startThread_same : (k.startThread slot base len entry l role cell cancel).thread slot =
    k.started slot base len entry role cell cancel := by
  rw [Core.thread, Core.startThread_threads, tget_tset_same]

theorem Core.thread_startThread_other {m : Nat} (other : m ≠ slot) :
    (k.startThread slot base len entry l role cell cancel).thread m = k.thread m := by
  rw [Core.thread, Core.startThread_threads, tget_tset_other _ _ _ _ _ other, Core.thread]

/-- The registers of a new window: those named have their values, the others are full of zeros (R16, R192). -/
theorem Core.startThread_inside (once : (l.map Prod.fst).Nodup) {n : Nat} (inside : n < len) :
    let c := (k.startThread slot base len entry l role cell cancel).cell (base + n)
    c.full = true ∧ (∀ v, (n, v) ∈ l → c.val = v) ∧ ((∀ v, (n, v) ∉ l) → c.val = 0) := by
  rw [Core.startThread_eq]
  by_cases named : ∃ v, (n, v) ∈ l
  · obtain ⟨v, hv⟩ := named
    obtain ⟨full, -⟩ := Core.writeRegs_named (k := (k.clearWindow base len).setThread slot (k.started slot base len entry role cell cancel))
      (t := k.started slot base len entry role cell cancel) once hv
    exact ⟨full, fun w hw => (Core.writeRegs_named once hw).2, fun none_ => absurd hv (none_ v)⟩
  · have unnamed : ∀ r ∈ l, base + n ≠ (k.started slot base len entry role cell cancel).base + r.1 := by
      intro r hr same
      have number : n = r.1 := Nat.add_left_cancel same
      exact named ⟨r.2, by rw [number]; exact hr⟩
    obtain ⟨full, val⟩ := Core.writeRegs_other (k := (k.clearWindow base len).setThread slot (k.started slot base len entry role cell cancel)) unnamed
    have cleared : ((k.clearWindow base len).setThread slot (k.started slot base len entry role cell cancel)).cell (base + n) = RegCell.fresh :=
      (Core.clearWindow_cell k base len (base + n)).trans (if_neg (by omega))
    rw [cleared] at full val
    exact ⟨full, fun v hv => absurd ⟨v, hv⟩ named, fun _ => val⟩

/-- Outside the new window the file stands. -/
theorem Core.startThread_outside (within : ∀ r ∈ l, r.1 < len) {e : Nat} (outside : e < base ∨ base + len ≤ e) :
    ((k.startThread slot base len entry l role cell cancel).cell e).full = (k.cell e).full ∧
    ((k.startThread slot base len entry l role cell cancel).cell e).val = (k.cell e).val := by
  rw [Core.startThread_eq]
  have unnamed : ∀ r ∈ l, e ≠ (k.started slot base len entry role cell cancel).base + r.1 := by
    intro r hr same
    have inside := within r hr
    have at_ : e = base + r.1 := same
    omega
  obtain ⟨full, val⟩ := Core.writeRegs_other (k := (k.clearWindow base len).setThread slot (k.started slot base len entry role cell cancel)) unnamed
  have kept : ((k.clearWindow base len).setThread slot (k.started slot base len entry role cell cancel)).cell e = k.cell e :=
    (Core.clearWindow_cell k base len e).trans (if_pos outside)
  rw [kept] at full val
  exact ⟨full, val⟩

end

/-! ## The slot and the window chosen (R15, R191) -/

theorem Core.pickSlot_free {k : Core} {a : Nat} (h : k.pickSlot = some a) : a < 63 ∧ (k.thread a).life = .free := by
  have found : ∃ ok : Nat → Bool, (∀ i, ok i = true → k.slotFree i = true) ∧ firstIn 0 63 ok = some a := by
    unfold Core.pickSlot at h
    split at h
    · next i hi =>
      cases h
      exact ⟨_, fun i hi => (Bool.and_eq_true _ _ ▸ hi).1, hi⟩
    · exact ⟨_, fun _ hi => hi, h⟩
  obtain ⟨ok, free, first⟩ := found
  have open_ := free a (firstIn_holds first)
  simp only [Core.slotFree, decide_eq_true_eq] at open_
  refine ⟨?_, open_.1⟩
  have listed : a ∈ span 0 1 63 := List.mem_of_find?_eq_some first
  have small : ∀ x ∈ span 0 1 63, x < 63 := by decide
  exact small a listed

/-- Slots that are free in one core as in another are picked alike. -/
theorem Core.pickSlot_congr {k j : Core} (free : ∀ i, (k.thread i).life = .free ↔ (j.thread i).life = .free) (minted : k.minted = j.minted)
    (elig : k.elig = j.elig) : k.pickSlot = j.pickSlot := by
  have same : k.slotFree = j.slotFree := by
    funext i
    simp only [Core.slotFree, minted, free]
  unfold Core.pickSlot
  rw [same, elig]

theorem all_tset_congr {α : Type} (t : Tab α) (n : Nat) {f : Nat × α → Bool} {v w : α} (h : f (n, v) = f (n, w)) :
    (tset t n v).all f = (tset t n w).all f := by
  induction t with
  | nil => simp [tset, h]
  | cons e t ih =>
    obtain ⟨k, x⟩ := e
    simp only [tset]
    split
    · simp [h]
    · split <;> simp [h, ih]

/-- Threads with one window in one slot take up the same room. -/
theorem Core.fitWindow_congr {k j : Core} {t : Tab Thread} {a : Nat} {u v : Thread} (hk : k.threads = tset t a u) (hj : j.threads = tset t a v)
    (life : u.life = v.life) (base : u.base = v.base) (len : u.len = v.len) (n : Nat) : k.fitWindow n = j.fitWindow n := by
  have same : k.windowFree = j.windowFree := by
    funext b n
    unfold Core.windowFree
    rw [hk, hj]
    exact all_tset_congr t a (by simp only [life, base, len])
  unfold Core.fitWindow
  rw [same]

/-- A window that fits lies beside that of a thread which is there already. -/
theorem Core.fitWindow_beside {k : Core} {t : Tab Thread} {a n b : Nat} {u : Thread} (hk : k.threads = tset t a u) (slot : a < 63)
    (life : u.life ≠ .free) (h : k.fitWindow n = some b) : b + n ≤ u.base ∨ u.base + u.len ≤ b := by
  have fits : (decide (b + n ≤ 2016) && k.windowFree b n) = true :=
    List.find?_some (p := fun b => decide (b + n ≤ 2016) && k.windowFree b n) h
  rw [Bool.and_eq_true, Core.windowFree, List.all_eq_true, hk] at fits
  have there := fits.2 _ (self_mem_tset t a u)
  simp only [decide_eq_true_eq, life, false_or] at there
  rcases there with service | beside
  · omega
  · exact beside

end Sys2Proof.Machine
end
section
/-! SUPPORT. SPAWN.l and FORKAE (R190 to R193). -/

namespace Sys2Proof.Machine

theorem tset_tset_same {α : Type} (t : Tab α) (n : Nat) (v w : α) : tset (tset t n v) n w = tset t n w := by
  induction t with
  | nil => simp [tset]
  | cons e t ih =>
    obtain ⟨k, x⟩ := e
    simp only [tset]
    by_cases low : n < k
    · simp [low, tset]
    · by_cases same : n = k
      · simp [same, tset]
      · simp [low, same, tset, ih]

/-- A package written as it stands, and then a register: the register is written. -/
theorem State.setReg_onHere_same (s : State) (n : Nat) (v : Word) : (s.onHere fun _ => s.here).setReg n v = s.setReg n v := by
  have here : (s.onHere fun _ => s.here).here = s.here := State.here_onHere s fun _ => s.here
  have me : (s.onHere fun _ => s.here).me = s.me := congrArg (fun p => Package.thread p s.cur.core s.cur.slot) here
  unfold State.setReg State.onHereCore
  rw [me]
  unfold State.onHere State.onPkg State.setPkg at *
  simp only [State.pkg, tget_tset_same, tset_tset_same]
  rfl

/-! ## A new launch cell -/

@[simp] theorem Package.core_cellRaise (p : Package) (id n c : Nat) : (p.cellRaise id n).core c = p.core c := by
  unfold Package.cellRaise
  split <;> rfl

/-- A die with a free cell gives one, and no core changes. -/
theorem Package.newCell_free {p : Package} {die start i : Nat} (h : p.freeCell die start = some i) (holder level parent live : Nat)
    (notify : Word) (root : Bool) :
    ∃ q id, p.newCell die start holder level parent live notify root = some (q, id) ∧ ∀ c, q.core c = p.core c := by
  unfold Package.newCell
  rw [h]
  refine ⟨_, _, rfl, fun c => ?_⟩
  rw [Package.core_setCell]
  split
  · rfl
  · exact Package.core_cellRaise p parent 1 c

/-! ## SPAWN.l -/

section
variable {s : State} {v : Vals} {d : Reg} {src : RegOp} {t : Tgt}

theorem exec_spawnL_done (ready : Claims.Ready s { t := tgtOpr t, s := rdOp src, d := wrReg d } v) {p : Package} {w : Word}
    (made : s.here.spawnOn s.cur.core (coreDie s.cur.core) s.self (v.s.setWidth 56) v.t s.launchParent (s.free 4) = .done p w) :
    exec (.spawnL d src t) s = .next (Claims.endOf { t := tgtOpr t, s := rdOp src, d := wrReg d } ((s.onHere fun _ => p).setReg d.toNat w)) := by
  refine (chain_ready ready (fun v s =>
    match s.here.spawnOn s.cur.core (coreDie s.cur.core) s.self (v.s.setWidth 56) v.t s.launchParent (s.free 4) with
    | .noCell => .replay s
    | .done p w => .next ((s.onHere (fun _ => p)).setReg d.toNat w))).trans ?_
  simp only [made]
  rfl

/-- A creation that comes to nothing reports its reason and changes nothing else. -/
theorem exec_spawnL_fails (ready : Claims.Ready s { t := tgtOpr t, s := rdOp src, d := wrReg d } v) {w : Word}
    (made : s.here.spawnOn s.cur.core (coreDie s.cur.core) s.self (v.s.setWidth 56) v.t s.launchParent (s.free 4) = .done s.here w) :
    exec (.spawnL d src t) s = .next (Claims.endOf { t := tgtOpr t, s := rdOp src, d := wrReg d } (s.setReg d.toNat w)) := by
  rw [exec_spawnL_done ready made, State.setReg_onHere_same]

end

theorem Package.spawnOn_noSlot {p : Package} {c : Nat} (h : (p.core c).pickSlot = none) (die creator : Nat) (entry : BitVec 56) (cfg : Word)
    (parent start : Nat) : p.spawnOn c die creator entry cfg parent start = .done p (failedWord failNoSlot) := by
  simp only [Package.spawnOn, h]

theorem Package.spawnOn_noWindow {p : Package} {c slot : Nat} {cfg : Word} (h : (p.core c).pickSlot = some slot)
    (w : (p.core c).fitWindow (8 * (bits cfg 3 0 + 1)) = none) (die creator : Nat) (entry : BitVec 56) (parent start : Nat) :
    p.spawnOn c die creator entry cfg parent start = .done p (failedWord failNoWindow) := by
  simp only [Package.spawnOn, h, w]

/-- The thread that a spawn places, with its creator and its argument. -/
theorem Package.spawnOn_made {p : Package} {c slot base die start i : Nat} {cfg : Word} (h : (p.core c).pickSlot = some slot)
    (w : (p.core c).fitWindow (8 * (bits cfg 3 0 + 1)) = some base) (free : p.freeCell die start = some i) (creator : Nat) (entry : BitVec 56)
    (parent : Nat) : ∃ q cell cancel, p.spawnOn c die creator entry cfg parent start =
      .done q (createdWord (handleOf ((p.core c).thread slot).gen c slot) 0) ∧
      q.core c = (p.core c).startThread slot base (8 * (bits cfg 3 0 + 1)) entry [(0, word creator), (2, word (bits cfg 63 16))] 0 cell cancel := by
  obtain ⟨q, id, new, core⟩ := Package.newCell_free free (p.coreHolder c) 0 parent 1 silent false
  have made : p.spawnOn c die creator entry cfg parent start = .done
      (q.onCore c fun k => k.startThread slot base (8 * (bits cfg 3 0 + 1)) entry [(0, word creator), (2, word (bits cfg 63 16))] 0 (some id)
        (q.cellCancelled id)) (createdWord (handleOf ((p.core c).thread slot).gen c slot) 0) := by
    simp only [Package.spawnOn, h, w, new]
  exact ⟨_, some id, q.cellCancelled id, made, by rw [Package.core_onCore_same, core]⟩

theorem word_argument (v : Word) : word (bits v 63 16) = v >>> 16 := by
  apply BitVec.eq_of_toNat_eq
  simp only [word, bits, BitVec.toNat_ofNat, BitVec.toNat_ushiftRight, Nat.shiftRight_eq_div_pow]
  have small := v.isLt
  omega

theorem windowLength (v : Word) (lo : Nat) : bits v (lo + 3) lo = v.toNat / 2 ^ lo % 16 := by
  rw [bits, show lo + 3 + 1 - lo = 4 by omega]
  rfl

/-- The state whose package is another one, with the issuing thread as it was. -/
theorem State.onHere_const {s : State} {p : Package} (same : (p.core s.cur.core).thread s.cur.slot = s.me) :
    (s.onHere fun _ => p).hereCore = p.core s.cur.core ∧ (s.onHere fun _ => p).me = s.me := by
  have here : (s.onHere fun _ => p).here = p := State.here_onHere s fun _ => p
  have core : (s.onHere fun _ => p).hereCore = p.core s.cur.core := congrArg (fun p => Package.core p s.cur.core) here
  exact ⟨core, (congrArg (fun k => Core.thread k s.cur.slot) core).trans same⟩

/-- A thread started with its creator and its argument is fresh, whatever else has written `skip`. -/
theorem fresh_of_started {k j : Core} {slot base len skip : Nat} {entry : BitVec 56} {role creator arg : Word} {cell cancel : Option Nat}
    (thread : j.thread slot = (k.startThread slot base len entry [(0, creator), (2, arg)] role cell cancel).thread slot)
    (file : ∀ e, e ≠ skip → (j.cell e).full = ((k.startThread slot base len entry [(0, creator), (2, arg)] role cell cancel).cell e).full ∧
      (j.cell e).val = ((k.startThread slot base len entry [(0, creator), (2, arg)] role cell cancel).cell e).val) :
    Claims.Fresh j slot base len entry role creator arg skip := by
  rw [Core.thread_startThread_same] at thread
  refine ⟨by rw [thread]; rfl, by rw [thread]; rfl, by rw [thread]; rfl, by rw [thread]; rfl, by rw [thread]; rfl, by rw [thread]; rfl,
    by rw [thread]; rfl, by rw [thread]; rfl, by rw [thread]; rfl, fun n inside elsewhere => ?_⟩
  obtain ⟨full, named, zero⟩ := Core.startThread_inside k slot base len entry [(0, creator), (2, arg)] role cell cancel (by simp) inside
  rw [(file _ elsewhere).1, (file _ elsewhere).2]
  refine ⟨full, ?_⟩
  split
  · next first => exact named _ (by simp [first])
  · next first =>
    split
    · next third => exact named _ (by simp [third])
    · next third => exact zero fun v hv => by simp [first, third] at hv

/-- SPAWN.l: the slot, the window and the cell are there. -/
theorem exec_spawnL_made {s : State} {v : Vals} {d : Reg} {src : RegOp} {t : Tgt}
    (ready : Claims.Ready s { t := tgtOpr t, s := rdOp src, d := wrReg d } v) {slot base i : Nat}
    (picked : s.hereCore.pickSlot = some slot) (fits : s.hereCore.fitWindow (8 * (v.t.toNat % 16 + 1)) = some base)
    (free : s.here.freeCell (coreDie s.cur.core) (s.free 4) = some i) :
    ∃ u, exec (.spawnL d src t) s = .next u ∧
      Claims.Fresh u.hereCore slot base (8 * (v.t.toNat % 16 + 1)) (v.s.setWidth 56) 0 (word s.self) (v.t >>> 16) (s.me.base + d.toNat) ∧
      (u.reg d.toNat).toNat = (handleOf (s.hereCore.thread slot).gen s.cur.core slot) % 2 ^ 64 ∧
      ∀ n, n ≠ slot → n ≠ s.cur.slot → u.hereCore.thread n = s.hereCore.thread n := by
  have length : bits v.t 3 0 = v.t.toNat % 16 := by simpa using windowLength v.t 0
  rw [← length] at fits
  obtain ⟨p, cell, cancel, made, core⟩ := Package.spawnOn_made picked fits free s.self (v.s.setWidth 56) s.launchParent
  have hereCore : s.here.core s.cur.core = s.hereCore := rfl
  rw [hereCore] at made core
  rw [length, word_argument] at core
  have other : s.cur.slot ≠ slot := by
    intro same
    have life : s.me.life = .ready := ready.2.1
    have unused := (Core.pickSlot_free picked).2
    rw [← same] at unused
    rw [show s.me.life = (s.hereCore.thread s.cur.slot).life from rfl, unused] at life
    cases life
  have me : (p.core s.cur.core).thread s.cur.slot = s.me := by
    rw [core, Core.thread_startThread_other _ _ _ _ _ _ _ _ _ other]
    rfl
  obtain ⟨there, still⟩ := State.onHere_const me
  obtain ⟨value, -, file, threads, -⟩ := State.endOf_setReg { t := tgtOpr t, s := rdOp src, d := wrReg d } (s.onHere fun _ => p) d.toNat
    (createdWord (handleOf (s.hereCore.thread slot).gen s.cur.core slot) 0)
  rw [there, still] at file
  rw [there, core] at threads
  rw [core] at file
  refine ⟨_, exec_spawnL_done ready made, fresh_of_started (threads slot (Ne.symm other)) file, ?_, fun n new mine => ?_⟩
  · rw [value]
    simp [createdWord, word]
  · rw [threads n mine, Core.thread_startThread_other _ _ _ _ _ _ _ _ _ new]

/-! ## FORKAE -/

/-- A thread made a member of a pair, counted where its creator's launch is (R193, R310). -/
def Thread.member (t : Thread) (q : Nat) (away : Option (Nat × Nat)) : Thread := { t with pair := some q, paired := true, away := away }

/-- Two threads of a core made the members of a pair (R193). -/
def Core.paired (k : Core) (a e q : Nat) (away : Option (Nat × Nat)) : Core :=
  let j := (k.setThread a ((k.thread a).member q away)).setThread e ((k.thread e).member q away)
  { j with pairs := tset j.pairs q (Pair.fresh a e) }

/-- A member of a pair started with its creator, its argument and its partner, whatever else has written `skip`. -/
theorem member_of_started {k j : Core} {slot base len skip q : Nat} {entry : BitVec 56} {role creator arg partner : Word} {cell cancel : Option Nat}
    {away : Option (Nat × Nat)} (thread : j.thread slot = (k.started slot base len entry role cell cancel).member q away)
    (file : ∀ n, n < len → base + n ≠ skip →
      let c := (k.startThread slot base len entry [(0, creator), (2, arg), (3, partner)] role cell cancel).cell (base + n)
      (j.cell (base + n)).full = c.full ∧ (j.cell (base + n)).val = c.val) :
    Claims.Member j slot base len entry role creator arg partner skip := by
  refine ⟨by rw [thread]; rfl, by rw [thread]; rfl, by rw [thread]; rfl, by rw [thread]; rfl, by rw [thread]; rfl, fun n inside elsewhere => ?_⟩
  obtain ⟨full, named, zero⟩ :=
    Core.startThread_inside k slot base len entry [(0, creator), (2, arg), (3, partner)] role cell cancel (by simp) inside
  rw [(file n inside elsewhere).1, (file n inside elsewhere).2]
  refine ⟨full, ?_⟩
  split
  · next first => exact named _ (by simp [first])
  · next first =>
    split
    · next third => exact named _ (by simp [third])
    · next third =>
      split
      · next fourth => exact named _ (by simp [fourth])
      · next fourth => exact zero fun v hv => by simp [first, third, fourth] at hv

@[simp] theorem State.cur_joinLaunch (s : State) : s.joinLaunch.cur = s.cur := by
  unfold State.joinLaunch
  split <;> rfl

/-- A pair index that is not used is found (R193). -/
theorem firstPair_free {k : Core} {p : Nat} (small : p < 8) (free : tget? k.pairs p = none) :
    ∃ q, firstIn 0 8 (fun i => (tget? k.pairs i).isNone) = some q ∧ q < 8 ∧ tget? k.pairs q = none := by
  cases found : firstIn 0 8 (fun i => (tget? k.pairs i).isNone) with
  | none =>
    have listed : p ∈ span 0 1 8 := by simpa using mem_span_add (lo := 0) (step := 1) small
    have all := List.find?_eq_none.1 found p listed
    simp [free] at all
  | some q =>
    have listed : q ∈ span 0 1 8 := List.mem_of_find?_eq_some found
    have bound : ∀ x ∈ span 0 1 8, x < 8 := by decide
    exact ⟨q, rfl, bound q listed, by simpa using firstIn_holds found⟩

theorem Core.pickSlot_taken (k : Core) (a : Nat) {t u : Thread} (ht : t.life = .ready) (hu : u.life = .ready) :
    (k.setThread a t).pickSlot = (k.setThread a u).pickSlot := by
  refine Core.pickSlot_congr (fun i => ?_) rfl rfl
  by_cases same : i = a
  · subst same
    simp [ht, hu]
  · rw [Core.thread_setThread_other _ _ _ _ same, Core.thread_setThread_other _ _ _ _ same]

/-- A thread that is started takes up the room of its window. -/
theorem Core.fitWindow_taken (k : Core) (a base len n : Nat) (entry : BitVec 56) (l : List (Nat × Word)) (role : Word)
    (cell cancel : Option Nat) : (k.setThread a { Thread.fresh with life := .ready, base := base, len := len }).fitWindow n =
      (k.startThread a base len entry l role cell cancel).fitWindow n :=
  Core.fitWindow_congr (u := { Thread.fresh with life := .ready, base := base, len := len })
    (v := k.started a base len entry role cell cancel) rfl (Core.startThread_threads k a base len entry l role cell cancel) rfl rfl rfl n

section
variable {s : State} {d : Reg} {src : RegOp} {t : Tgt} {acc exe : BitVec 56} {cfg : Word}

theorem State.forkPair_noPair (full : ∀ q, q < 8 → (tget? s.hereCore.pairs q).isSome = true) :
    s.forkPair acc exe cfg = (s, failedWord failNoSlot) := by
  have none_ : firstIn 0 8 (fun i => (tget? s.hereCore.pairs i).isNone) = none := by
    have bound : ∀ x ∈ span 0 1 8, x < 8 := by decide
    exact List.find?_eq_none.2 fun x hx => by simpa [Option.isSome_iff_ne_none] using full x (bound x hx)
  simp only [State.forkPair, none_]

theorem State.forkPair_noSlot (none_ : s.hereCore.pickSlot = none) : s.forkPair acc exe cfg = (s, failedWord failNoSlot) := by
  cases found : firstIn 0 8 (fun i => (tget? s.hereCore.pairs i).isNone) <;> simp only [State.forkPair, found, none_]

theorem State.forkPair_noSecond {a : Nat} (first : s.hereCore.pickSlot = some a)
    (second : (s.hereCore.setThread a { Thread.fresh with life := .ready }).pickSlot = none) :
    s.forkPair acc exe cfg = (s, failedWord failNoSlot) := by
  rw [Core.pickSlot_taken s.hereCore a (u := { Thread.fresh with life := .ready, base := 2048, len := 0, gen := (s.hereCore.thread a).gen })
    rfl rfl] at second
  cases found : firstIn 0 8 (fun i => (tget? s.hereCore.pairs i).isNone) <;> simp only [State.forkPair, found, first, second]

/-- The two threads that a FORKAE starts in the windows that it finds. -/
def State.forked (s : State) (a e q ba be la le : Nat) (acc exe : BitVec 56) (arg : Word) : Core :=
  let ha := handleOf (s.hereCore.thread a).gen s.cur.core a
  let he := handleOf (s.hereCore.thread e).gen s.cur.core e
  ((s.hereCore.startThread a ba la acc [(0, word s.self), (2, arg), (3, word he)] 1 s.me.cell s.launchCancelled).startThread
    e be le exe [(0, word s.self), (2, arg), (3, word ha)] 2 s.me.cell s.launchCancelled).paired a e q s.me.away

variable {a e q : Nat} (pair : firstIn 0 8 (fun i => (tget? s.hereCore.pairs i).isNone) = some q) (first : s.hereCore.pickSlot = some a)
  (second : (s.hereCore.setThread a { Thread.fresh with life := .ready }).pickSlot = some e)
include pair first second

theorem State.forkPair_noWindow (none_ : s.hereCore.fitWindow (8 * (bits cfg 3 0 + 1)) = none) :
    s.forkPair acc exe cfg = (s, failedWord failNoWindow) := by
  rw [Core.pickSlot_taken s.hereCore a (u := { Thread.fresh with life := .ready, base := 2048, len := 0, gen := (s.hereCore.thread a).gen })
    rfl rfl] at second
  simp only [State.forkPair, pair, first, second, none_]

variable {ba : Nat} (fits : s.hereCore.fitWindow (8 * (bits cfg 3 0 + 1)) = some ba)
include fits

theorem State.forkPair_noWindow2 (none_ : (s.hereCore.setThread a
      { Thread.fresh with life := .ready, base := ba, len := 8 * (bits cfg 3 0 + 1) }).fitWindow (8 * (bits cfg 7 4 + 1)) = none) :
    s.forkPair acc exe cfg = (s, failedWord failNoWindow) := by
  rw [Core.pickSlot_taken s.hereCore a (u := { Thread.fresh with life := .ready, base := 2048, len := 0, gen := (s.hereCore.thread a).gen })
    rfl rfl] at second
  rw [Core.fitWindow_taken s.hereCore a ba _ _ acc
    [(0, word s.self), (2, word (bits cfg 63 16)), (3, word (handleOf (s.hereCore.thread e).gen s.cur.core e))] 1 s.me.cell s.launchCancelled] at none_
  simp only [State.forkPair, pair, first, second, fits, none_]

theorem State.forkPair_made {be : Nat} (fits2 : (s.hereCore.setThread a
      { Thread.fresh with life := .ready, base := ba, len := 8 * (bits cfg 3 0 + 1) }).fitWindow (8 * (bits cfg 7 4 + 1)) = some be) :
    s.forkPair acc exe cfg =
      (s.joinLaunch.onHere fun p => p.setCore s.cur.core
        (s.forked a e q ba be (8 * (bits cfg 3 0 + 1)) (8 * (bits cfg 7 4 + 1)) acc exe (word (bits cfg 63 16))),
      createdWord (handleOf (s.hereCore.thread a).gen s.cur.core a) (handleOf (s.hereCore.thread e).gen s.cur.core e)) := by
  rw [Core.pickSlot_taken s.hereCore a (u := { Thread.fresh with life := .ready, base := 2048, len := 0, gen := (s.hereCore.thread a).gen })
    rfl rfl] at second
  rw [Core.fitWindow_taken s.hereCore a ba _ _ acc
    [(0, word s.self), (2, word (bits cfg 63 16)), (3, word (handleOf (s.hereCore.thread e).gen s.cur.core e))] 1 s.me.cell s.launchCancelled] at fits2
  simp only [State.forkPair, pair, first, second, fits, fits2]
  rfl

end

theorem exec_forkae {s : State} {v : Vals} {d : Reg} {src : RegOp} {t : Tgt} {u : State} {w : Word}
    (ready : Claims.Ready s { role := .notPair, t := tgtOpr t, s := rdGroup src 2, d := wrReg d } v)
    (made : s.forkPair (v.s.setWidth 56) ((s.reg (src.n.toNat + 1)).setWidth 56) v.t = (u, w)) :
    exec (.forkae d src t) s =
      .next (Claims.endOf { role := .notPair, t := tgtOpr t, s := rdGroup src 2, d := wrReg d } (u.setReg d.toNat w)) := by
  refine (chainNext_ready ready (fun v s =>
    let (s, w) := s.forkPair (v.s.setWidth 56) ((s.reg (src.n.toNat + 1)).setWidth 56) v.t
    s.setReg d.toNat w)).trans ?_
  simp only [made]
  rfl

section
variable {s : State} {a e q ba be la le : Nat} {acc exe : BitVec 56} {arg : Word}

theorem Core.paired_thread (k : Core) {a e : Nat} (q : Nat) (away : Option (Nat × Nat)) (apart : a ≠ e) :
    (k.paired a e q away).thread a = (k.thread a).member q away ∧ (k.paired a e q away).thread e = (k.thread e).member q away ∧
    ∀ m, m ≠ a → m ≠ e → (k.paired a e q away).thread m = k.thread m := by
  have threads : (k.paired a e q away).threads =
      tset (tset k.threads a ((k.thread a).member q away)) e ((k.thread e).member q away) := rfl
  simp only [Core.thread, threads]
  refine ⟨?_, ?_, fun m ma me => ?_⟩
  · rw [tget_tset_other _ _ _ _ _ apart, tget_tset_same]
  · rw [tget_tset_same]
  · rw [tget_tset_other _ _ _ _ _ me, tget_tset_other _ _ _ _ _ ma]

/-- The threads of a core after a FORKAE (R193). -/
theorem State.forked_threads (apart : a ≠ e) :
    let k := s.forked a e q ba be la le acc exe arg
    k.thread a = (s.hereCore.started a ba la acc 1 s.me.cell s.launchCancelled).member q s.me.away ∧
    (∃ j : Core, k.thread e = (j.started e be le exe 2 s.me.cell s.launchCancelled).member q s.me.away ∧
      j = s.hereCore.startThread a ba la acc [(0, word s.self), (2, arg), (3, word (handleOf (s.hereCore.thread e).gen s.cur.core e))] 1
        s.me.cell s.launchCancelled) ∧
    ∀ m, m ≠ a → m ≠ e → k.thread m = s.hereCore.thread m := by
  intro k
  obtain ⟨onA, onE, others⟩ := Core.paired_thread ((s.hereCore.startThread a ba la acc
    [(0, word s.self), (2, arg), (3, word (handleOf (s.hereCore.thread e).gen s.cur.core e))] 1 s.me.cell s.launchCancelled).startThread
    e be le exe [(0, word s.self), (2, arg), (3, word (handleOf (s.hereCore.thread a).gen s.cur.core a))] 2 s.me.cell s.launchCancelled)
    q s.me.away apart
  refine ⟨onA.trans ?_, ⟨_, onE.trans ?_, rfl⟩, fun m ma me => (others m ma me).trans ?_⟩
  · rw [Core.thread_startThread_other _ _ _ _ _ _ _ _ _ apart, Core.thread_startThread_same]
  · rw [Core.thread_startThread_same]
  · rw [Core.thread_startThread_other _ _ _ _ _ _ _ _ _ me, Core.thread_startThread_other _ _ _ _ _ _ _ _ _ ma]

theorem State.forked_pairs : (s.forked a e q ba be la le acc exe arg).pairs = tset s.hereCore.pairs q (Pair.fresh a e) := by
  unfold State.forked Core.paired
  simp only [Core.setThread_pairs, Core.startThread_pairs]

theorem Core.paired_cell (k : Core) (a e q x : Nat) (away : Option (Nat × Nat)) : (k.paired a e q away).cell x = k.cell x := rfl

theorem State.forked_cell (x : Nat) : (s.forked a e q ba be la le acc exe arg).cell x =
    ((s.hereCore.startThread a ba la acc [(0, word s.self), (2, arg), (3, word (handleOf (s.hereCore.thread e).gen s.cur.core e))] 1
      s.me.cell s.launchCancelled).startThread e be le exe
      [(0, word s.self), (2, arg), (3, word (handleOf (s.hereCore.thread a).gen s.cur.core a))] 2 s.me.cell s.launchCancelled).cell x :=
  Core.paired_cell _ a e q x s.me.away

end

/-- The state whose core is another one, the launch joined first, with the issuing thread as it was. -/
theorem State.joinLaunch_setCore {s : State} {k : Core} (same : k.thread s.cur.slot = s.me) :
    (s.joinLaunch.onHere fun p => p.setCore s.cur.core k).cur = s.cur ∧
    (s.joinLaunch.onHere fun p => p.setCore s.cur.core k).hereCore = k ∧ (s.joinLaunch.onHere fun p => p.setCore s.cur.core k).me = s.me := by
  have cur : (s.joinLaunch.onHere fun p => p.setCore s.cur.core k).cur = s.cur := State.cur_joinLaunch s
  have core : (s.joinLaunch.onHere fun p => p.setCore s.cur.core k).hereCore = k := by
    have here : (s.joinLaunch.onHere fun p => p.setCore s.cur.core k).here = s.joinLaunch.here.setCore s.cur.core k :=
      State.here_onHere s.joinLaunch fun p => p.setCore s.cur.core k
    rw [State.hereCore, here, cur, Package.core_setCore_same]
  exact ⟨cur, core, by rw [State.me, core, cur, same]⟩

/-- FORKAE: the pair, the slots and the windows are there. -/
theorem exec_forkae_made {s : State} {v : Vals} {d : Reg} {src : RegOp} {t : Tgt}
    (ready : Claims.Ready s { role := .notPair, t := tgtOpr t, s := rdGroup src 2, d := wrReg d } v) {a e p ba be : Nat}
    (first : s.hereCore.pickSlot = some a) (second : (s.hereCore.setThread a { Thread.fresh with life := .ready }).pickSlot = some e)
    (small : p < 8) (free : tget? s.hereCore.pairs p = none) (fits : s.hereCore.fitWindow (8 * (v.t.toNat % 16 + 1)) = some ba)
    (fits2 : (s.hereCore.setThread a { Thread.fresh with life := .ready, base := ba, len := 8 * (v.t.toNat % 16 + 1) }).fitWindow
      (8 * (v.t.toNat / 16 % 16 + 1)) = some be) :
    let ha := handleOf (s.hereCore.thread a).gen s.cur.core a
    let he := handleOf (s.hereCore.thread e).gen s.cur.core e
    ∃ u q, exec (.forkae d src t) s = .next u ∧ q < 8 ∧ tget? s.hereCore.pairs q = none ∧
      tget? u.hereCore.pairs q = some (Pair.fresh a e) ∧ (u.hereCore.thread a).pair = some q ∧ (u.hereCore.thread e).pair = some q ∧
      Claims.Member u.hereCore a ba (8 * (v.t.toNat % 16 + 1)) (v.s.setWidth 56) 1 (word s.self) (v.t >>> 16) (word he) (s.me.base + d.toNat) ∧
      Claims.Member u.hereCore e be (8 * (v.t.toNat / 16 % 16 + 1)) ((s.reg (src.n.toNat + 1)).setWidth 56) 2 (word s.self) (v.t >>> 16)
        (word ha) (s.me.base + d.toNat) ∧
      (u.hereCore.thread a).cell = s.me.cell ∧ (u.hereCore.thread e).cell = s.me.cell ∧
      u.reg d.toNat = word (he * 2 ^ 24 + ha) ∧ u.me.pc = s.nextPc := by
  intro ha he
  have la : bits v.t 3 0 = v.t.toNat % 16 := by simpa using windowLength v.t 0
  have le : bits v.t 7 4 = v.t.toNat / 16 % 16 := windowLength v.t 4
  obtain ⟨q, pair, q8, unused⟩ := firstPair_free small free
  have life : (s.hereCore.thread s.cur.slot).life = .ready := ready.2.1
  have single : s.me.pair = none := by
    have role := ((gate_ok_iff s _ v).1 (gate_of_ready ready)).2.1
    simpa [RoleRule.bad] using role
  have notA : s.cur.slot ≠ a := by
    intro same
    rw [same, (Core.pickSlot_free first).2] at life
    cases life
  have apart : a ≠ e := by
    intro same
    have open_ := (Core.pickSlot_free second).2
    rw [← same, Core.thread_setThread_same] at open_
    cases open_
  have notE : s.cur.slot ≠ e := by
    intro same
    have open_ := (Core.pickSlot_free second).2
    rw [← same, Core.thread_setThread_other _ _ _ _ notA, life] at open_
    cases open_
  rw [← la] at fits fits2 ⊢
  rw [← le] at fits2 ⊢
  have made := State.forkPair_made (acc := v.s.setWidth 56) (exe := (s.reg (src.n.toNat + 1)).setWidth 56) pair first second fits fits2
  rw [word_argument] at made
  generalize hk : s.forked a e q ba be (8 * (bits v.t 3 0 + 1)) (8 * (bits v.t 7 4 + 1)) (v.s.setWidth 56)
    ((s.reg (src.n.toNat + 1)).setWidth 56) (v.t >>> 16) = k at made
  obtain ⟨onA, ⟨j, onE, started⟩, others⟩ := hk ▸ State.forked_threads (s := s) (q := q) (ba := ba) (be := be) (la := 8 * (bits v.t 3 0 + 1))
    (le := 8 * (bits v.t 7 4 + 1)) (acc := v.s.setWidth 56) (exe := (s.reg (src.n.toNat + 1)).setWidth 56) (arg := v.t >>> 16) apart
  have pairs : k.pairs = _ := hk ▸ State.forked_pairs
  have cell (x : Nat) : k.cell x = _ := hk ▸ State.forked_cell x
  obtain ⟨cur, core, me⟩ := State.joinLaunch_setCore (k := k) (others s.cur.slot notA notE)
  have ran := exec_forkae ready made
  obtain ⟨value, pc, file, threads, queues⟩ := State.endOf_setReg { role := .notPair, t := tgtOpr t, s := rdGroup src 2, d := wrReg d }
    (s.joinLaunch.onHere fun p => p.setCore s.cur.core k) d.toNat (createdWord ha he)
  rw [core, me] at file queues
  rw [core, cur] at threads
  have nextPc : (s.joinLaunch.onHere fun p => p.setCore s.cur.core k).nextPc = s.nextPc := by rw [State.nextPc, me, cur, State.nextPc]
  rw [nextPc] at pc
  have threadA := (threads a (Ne.symm notA)).trans onA
  have threadE := (threads e (Ne.symm notE)).trans onE
  refine ⟨_, q, ran, q8, unused, ?_, by rw [threadA]; rfl, by rw [threadE]; rfl, member_of_started threadA fun n inside elsewhere => ?_,
    member_of_started threadE fun n inside elsewhere => ?_, by rw [threadA]; rfl, by rw [threadE]; rfl, value, pc⟩
  · rw [queues single, pairs, tget?_tset_same]
  · obtain ⟨full, val⟩ := file _ elsewhere
    rw [cell] at full val
    have beside : be + 8 * (bits v.t 7 4 + 1) ≤ ba ∨ ba + 8 * (bits v.t 3 0 + 1) ≤ be :=
      Core.fitWindow_beside (t := s.hereCore.threads) (a := a)
        (u := { Thread.fresh with life := .ready, base := ba, len := 8 * (bits v.t 3 0 + 1) }) rfl (Core.pickSlot_free first).1
        (fun life => by cases life) fits2
    obtain ⟨full', val'⟩ := Core.startThread_outside (s.hereCore.startThread a ba (8 * (bits v.t 3 0 + 1)) (v.s.setWidth 56)
      [(0, word s.self), (2, v.t >>> 16), (3, word he)] 1 s.me.cell s.launchCancelled) e be (8 * (bits v.t 7 4 + 1))
      ((s.reg (src.n.toNat + 1)).setWidth 56) [(0, word s.self), (2, v.t >>> 16), (3, word ha)] 2 s.me.cell s.launchCancelled
      (e := ba + n) (by simp; omega) (by omega)
    exact ⟨full.trans full', val.trans val'⟩
  · obtain ⟨full, val⟩ := file _ elsewhere
    rw [cell, ← started] at full val
    exact ⟨full, val⟩

end Sys2Proof.Machine

namespace Sys2Proof

/-- Settles O19: SPAWN.l and FORKAE by what the core finds, the slots, the windows, the pair and the cell. -/
theorem threadCreation : Obligations.ThreadCreation := by
  refine ⟨fun d src t s v ready => ?_, fun d src t s v ready => ?_⟩
  · have length : Machine.bits v.t 3 0 = v.t.toNat % 16 := by simpa using Machine.windowLength v.t 0
    refine ⟨fun none_ => ?_, fun slot picked none_ => ?_, fun slot base i picked fits free => ?_⟩
    · exact Machine.exec_spawnL_fails ready (Machine.Package.spawnOn_noSlot none_ _ _ _ _ _ _)
    · rw [← length] at none_
      exact Machine.exec_spawnL_fails ready (Machine.Package.spawnOn_noWindow picked none_ _ _ _ _ _)
    · exact Machine.exec_spawnL_made ready picked fits free
  · have la : Machine.bits v.t 3 0 = v.t.toNat % 16 := by simpa using Machine.windowLength v.t 0
    have le : Machine.bits v.t 7 4 = v.t.toNat / 16 % 16 := Machine.windowLength v.t 4
    refine ⟨fun full => ?_, fun none_ => ?_, fun a first none_ => ?_, fun a e p first second small free =>
      ⟨fun none_ => ?_, fun ba fits => ⟨fun none_ => ?_, fun be fits2 => ?_⟩⟩⟩
    · exact Machine.exec_forkae ready (Machine.State.forkPair_noPair full)
    · exact Machine.exec_forkae ready (Machine.State.forkPair_noSlot none_)
    · exact Machine.exec_forkae ready (Machine.State.forkPair_noSecond first none_)
    · obtain ⟨q, pair, -⟩ := Machine.firstPair_free small free
      exact Machine.exec_forkae ready (Machine.State.forkPair_noWindow pair first second (by rw [la]; exact none_))
    · obtain ⟨q, pair, -⟩ := Machine.firstPair_free small free
      exact Machine.exec_forkae ready (Machine.State.forkPair_noWindow2 pair first second (by rw [la]; exact fits) (by rw [la, le]; exact none_))
    · exact Machine.exec_forkae_made ready first second small free fits fits2

end Sys2Proof
end
section
/-! SUPPORT. How the map block settles a chain and begins a transfer (R364, R365, R386). -/

namespace Sys2Proof.Machine

/-! ## Tables -/

theorem mem_tset_other {α : Type} {t : Tab α} {n : Nat} {v : α} {e : Nat × α} (h : e ∈ t) (other : e.1 ≠ n) : e ∈ tset t n v := by
  induction t with
  | nil => cases h
  | cons x t ih =>
    obtain ⟨k, w⟩ := x
    simp only [tset]
    split
    · exact List.mem_cons_of_mem _ h
    · rcases List.mem_cons.1 h with rfl | h
      · next same => rw [if_neg (Ne.symm other)]; exact List.mem_cons_self
      · split
        · exact List.mem_cons_of_mem _ h
        · exact List.mem_cons_of_mem _ (ih h)

/-- A rising table has one entry of a key. -/
theorem tget?_of_mem {α : Type} {b : Nat} {t : Tab α} (r : risingFrom b t = true) {e : Nat × α} (h : e ∈ t) : tget? t e.1 = some e.2 := by
  induction t generalizing b with
  | nil => cases h
  | cons x t ih =>
    obtain ⟨k, w⟩ := x
    simp only [risingFrom, Bool.and_eq_true, decide_eq_true_eq] at r
    rcases List.mem_cons.1 h with rfl | h
    · simp [tget?]
    · have found := ih r.2 h
      simp only [tget?]
      split
      · next same =>
        rw [same, tget?_below r.2 (Nat.lt_succ_self k)] at found
        cases found
      · exact found

theorem mem_span_one {lo n x : Nat} (h : x ∈ span lo 1 n) : lo ≤ x ∧ x < lo + n := by
  induction n generalizing lo with
  | zero => cases h
  | succ n ih =>
    rcases List.mem_cons.1 h with rfl | h
    · omega
    · have := ih h
      omega

/-! ## The chain of a request completed -/

section
variable (p : Package) (o : Owner) (len : Nat) (fs : List Fill)

@[simp] theorem Package.finishChain_map : (p.finishChain o len fs).map = p.map := by
  unfold Package.finishChain
  split <;> rfl

@[simp] theorem Package.finishChain_flights : (p.finishChain o len fs).flights = p.flights := by
  unfold Package.finishChain
  split <;> rfl

/-- The thread of a request that is performed with no result goes on past its chain. -/
theorem Package.finishChain_thread (live : p.ownerLive o = true) :
    ((p.finishChain o len []).thread o.core o.slot).pc = (p.thread o.core o.slot).pc + BitVec.ofNat 56 len ∧
    ((p.finishChain o len []).thread o.core o.slot).pend = none := by
  have same : (p.onCore o.core (fun k => ([] : List Fill).foldl (fun k f => k.fillReg (k.thread o.slot) f) k)).thread o.core o.slot =
      p.thread o.core o.slot := Package.thread_onCore _ _ _ _ fun _ => rfl
  rw [Package.finishChain, if_pos live, Package.thread_onThread_same, same]
  exact ⟨rfl, rfl⟩

/-- A core with a live thread has one when a chain of its is complete. -/
theorem Package.finishChain_live {c : Nat} (h : ∃ u ∈ (p.core c).threads, u.2.live = true) :
    ∃ u ∈ ((p.finishChain o len []).core c).threads, u.2.live = true := by
  unfold Package.finishChain
  split
  next alive =>
    by_cases here : c = o.core
    · subst here
      rw [Package.onThread, Package.setThread, Package.core_onCore_same]
      have same : (p.onCore o.core (fun k => ([] : List Fill).foldl (fun k f => k.fillReg (k.thread o.slot) f) k)).thread o.core o.slot =
          p.thread o.core o.slot := Package.thread_onCore _ _ _ _ fun _ => rfl
      have mine : (p.thread o.core o.slot).live = true := (Bool.and_eq_true _ _ ▸ alive : _ ∧ _).1
      refine ⟨_, self_mem_tset _ o.slot _, ?_⟩
      rw [same]
      unfold Thread.live at mine ⊢
      cases life : (p.thread o.core o.slot).life <;> simp_all
    · rw [Package.onThread, Package.setThread, Package.core_onCore_other _ _ _ _ here, Package.core_onCore_other _ _ _ _ here]
      exact h
  · exact h

end

@[simp] theorem Package.prune_map (p : Package) : p.prune.map = p.map := rfl
@[simp] theorem Package.prune_flights (p : Package) : p.prune.flights = p.flights := rfl
@[simp] theorem Package.thread_prune (p : Package) (c n : Nat) : p.prune.thread c n = p.thread c n := rfl

theorem Package.entry_of_map {p q : Package} (h : q.map = p.map) (r : Nat) : q.entry r = p.entry r := by rw [Package.entry, h, Package.entry]

theorem Package.entry_set {p q : Package} {r : Nat} {e : MapEntry} (h : q.map = tset p.map r e) : q.entry r = e := by
  rw [Package.entry, h, tget_tset_same]

/-! ## The start of a transfer (R365) -/

section
variable (p : Package)

@[simp] theorem Package.requestPreempt_map (c former budget why tid : Nat) : (p.requestPreempt c former budget why tid).map = p.map := by
  unfold Package.requestPreempt
  split <;> rfl

@[simp] theorem Package.coreEmptied_map (tid : Nat) : (p.coreEmptied tid).map = p.map := by
  unfold Package.coreEmptied
  split <;> rfl

@[simp] theorem Package.core_requestPreempt (c former budget why tid d : Nat) :
    (p.requestPreempt c former budget why tid).core d = p.core d := by
  unfold Package.requestPreempt
  split <;> rfl

@[simp] theorem Package.core_coreEmptied (tid d : Nat) : (p.coreEmptied tid).core d = p.core d := by
  unfold Package.coreEmptied
  split <;> rfl

/-- The transfer as it begins. -/
def Package.newTransfer (r holder lender why budget : Nat) : Transfer :=
  { rid := r, former := (p.entry r).holder, holder := holder, lender := lender, why := why, budget := budget,
    emptied := !decide (ridKind r = 0), committed := !decide (ridKind r = 0), start := none, onward := 0 }

/-- The package with the entry BUSY and the transfer in flight. -/
def Package.transferBegun (r holder lender why budget : Nat) : Package :=
  (p.setEntry r { p.entry r with busy := true }).addJob (.transfer (p.newTransfer r holder lender why budget))

variable (r holder lender why budget : Nat)

/-- How the transfer of a resource begins, by its kind and the threads of its core. -/
theorem Package.beginTransfer_eq : p.beginTransfer r holder lender why budget none =
    if !decide (ridKind r = 0) then p.transferBegun r holder lender why budget
    else if (p.core (ridIndex r)).threads.any (fun t => t.2.live) then
      (p.transferBegun r holder lender why budget).requestPreempt (ridIndex r) (p.entry r).holder budget why p.nextId
    else match (p.transferBegun r holder lender why budget).openRequest (ridIndex r) (p.entry r).holder budget why with
      | some (id, q) => (p.transferBegun r holder lender why budget).joinPreempt id q (ridIndex r) p.nextId
      | none => (p.transferBegun r holder lender why budget).coreEmptied p.nextId := rfl

theorem Package.beginTransfer_map : (p.beginTransfer r holder lender why budget none).map = tset p.map r { p.entry r with busy := true } := by
  rw [Package.beginTransfer_eq]
  split
  · rfl
  · split
    · exact Package.requestPreempt_map _ _ _ _ _ _
    · split
      · rfl
      · exact Package.coreEmptied_map _ _

theorem Package.core_beginTransfer (d : Nat) : (p.beginTransfer r holder lender why budget none).core d = p.core d := by
  rw [Package.beginTransfer_eq]
  split
  · rfl
  · split
    · exact Package.core_requestPreempt _ _ _ _ _ _ _
    · split
      · rfl
      · exact Package.core_coreEmptied _ _ _

end

/-- A request that may be joined is in flight, for the cluster, the holder, the budget and the reason. -/
theorem Package.openRequest_some {p : Package} {c former budget why id : Nat} {q : Preempt} (h : p.openRequest c former budget why = some (id, q)) :
    (id, Job.preempt q) ∈ p.flights ∧ q.cluster = clusterOf c ∧ q.former = former ∧ q.budget = budget ∧ q.why = why := by
  obtain ⟨⟨key, j⟩, listed, found⟩ := firstSome_eq_some h
  cases j with
  | preempt x =>
    dsimp only at found
    split at found
    · next fits =>
      cases found
      exact ⟨listed, fits.2.1, fits.2.2.1, fits.2.2.2.1, fits.2.2.2.2⟩
    · cases found
  | _ => cases found

/-- In a rising table of flights an open request is not a transfer. -/
theorem Package.openRequest_apart {p : Package} (rising : risingFrom 0 p.flights = true) {tid : Nat} {x : Transfer}
    (there : (tid, Job.transfer x) ∈ p.flights) {c former budget why id : Nat} {q : Preempt}
    (h : p.openRequest c former budget why = some (id, q)) : tid ≠ id := by
  intro same
  have asked := tget?_of_mem rising (Package.openRequest_some h).1
  have begun := tget?_of_mem rising there
  dsimp only at asked begun
  rw [← same, begun] at asked
  cases asked

section
variable {p : Package} {tid : Nat} {x : Transfer} (there : (tid, Job.transfer x) ∈ p.flights)
include there

theorem Package.transfer_requestPreempt (rising : risingFrom 0 p.flights = true) (next : tid ≠ p.nextId) (c former budget why t : Nat) :
    (tid, Job.transfer x) ∈ (p.requestPreempt c former budget why t).flights := by
  unfold Package.requestPreempt
  split
  · next id q found => exact mem_tset_other there (Package.openRequest_apart rising there found)
  · exact mem_tset_other there next

/-- A transfer whose core is empty is still in flight, and awaits its commit. -/
theorem Package.transfer_coreEmptied (rising : risingFrom 0 p.flights = true) (next : tid ≠ p.nextId) :
    (tid, Job.transfer { x with emptied := true }) ∈ (p.coreEmptied tid).flights := by
  have job : p.job tid = some (.transfer x) := tget?_of_mem rising there
  unfold Package.coreEmptied
  rw [job]
  exact mem_tset_other (self_mem_tset _ _ _) next

end

/-- A pre-emption that is asked for is in flight for its core. -/
theorem Package.requestPreempt_asked (p : Package) (c former budget why tid : Nat) : ∃ f x,
    (f, Job.preempt x) ∈ (p.requestPreempt c former budget why tid).flights ∧ c ∈ x.cores ∧ x.cluster = clusterOf c ∧ x.former = former ∧
      x.why = why ∧ x.budget = budget := by
  unfold Package.requestPreempt
  split
  · next id q found =>
    obtain ⟨-, cluster, holder, size, reason⟩ := Package.openRequest_some found
    exact ⟨id, _, self_mem_tset _ _ _, (mem_sadd _ _ _).2 (.inl rfl), cluster, holder, reason, size⟩
  · exact ⟨p.nextId, _, self_mem_tset _ _ _, List.mem_singleton.2 rfl, rfl, rfl, rfl, rfl⟩

section
variable (p : Package) (r holder lender why budget : Nat)

theorem Package.transferBegun_mem : (p.nextId, Job.transfer (p.newTransfer r holder lender why budget)) ∈
    (p.transferBegun r holder lender why budget).flights := self_mem_tset _ _ _

theorem Package.transferBegun_rising (h : risingFrom 0 p.flights = true) :
    risingFrom 0 (p.transferBegun r holder lender why budget).flights = true := risingFrom_tset _ (Nat.zero_le _) h

/-- The transfer that begins is in flight (R365). -/
theorem Package.beginTransfer_transfer (rising : ridKind r = 0 → risingFrom 0 p.flights = true) : ∃ f b,
    (f, Job.transfer { p.newTransfer r holder lender why budget with emptied := b }) ∈
      (p.beginTransfer r holder lender why budget none).flights := by
  have there := p.transferBegun_mem r holder lender why budget
  have next : p.nextId ≠ (p.transferBegun r holder lender why budget).nextId := Nat.ne_of_lt (Nat.lt_succ_self _)
  rw [Package.beginTransfer_eq]
  by_cases kind : ridKind r = 0
  · have rises := p.transferBegun_rising r holder lender why budget (rising kind)
    rw [if_neg (by simp [kind])]
    split
    · exact ⟨_, _, Package.transfer_requestPreempt there rises next _ _ _ _ _⟩
    · split
      · next found => exact ⟨_, _, mem_tset_other there (Package.openRequest_apart rises there found)⟩
      · exact ⟨_, _, Package.transfer_coreEmptied there rises next⟩
  · rw [if_pos (by simp [kind])]
    exact ⟨_, _, there⟩

/-- A core with live threads is pre-empted (R365). -/
theorem Package.beginTransfer_preempts (kind : ridKind r = 0) (live : ∃ u ∈ (p.core (ridIndex r)).threads, u.2.live = true) : ∃ f x,
    (f, Job.preempt x) ∈ (p.beginTransfer r holder lender why budget none).flights ∧ ridIndex r ∈ x.cores ∧
      x.cluster = clusterOf (ridIndex r) ∧ x.former = (p.entry r).holder ∧ x.why = why ∧ x.budget = budget := by
  rw [Package.beginTransfer_eq, if_neg (by simp [kind]), if_pos (List.any_eq_true.2 live)]
  exact Package.requestPreempt_asked _ _ _ _ _ _

end

/-- A transfer begins in a package that has the entries, the order of flights and the live threads of another (R365). -/
theorem begins_beginTransfer {p q : Package} {r : Nat} (map : q.map = p.map)
    (rising : risingFrom 0 p.flights = true → risingFrom 0 q.flights = true)
    (live : (∃ u ∈ (p.core (ridIndex r)).threads, u.2.live = true) → ∃ u ∈ (q.core (ridIndex r)).threads, u.2.live = true)
    (holder lender why budget : Nat) :
    Claims.Begins p (q.beginTransfer r holder lender why budget none) r holder lender why budget false := by
  have entry : q.entry r = p.entry r := Package.entry_of_map map r
  have busy : (q.beginTransfer r holder lender why budget none).entry r = { p.entry r with busy := true } := by
    rw [Package.entry_set (q.beginTransfer_map r holder lender why budget), entry]
  refine ⟨by rw [busy], by rw [busy], by rw [busy], by rw [busy], fun flights => ⟨?_, fun kind alive => ?_⟩⟩
  · obtain ⟨f, b, there⟩ := q.beginTransfer_transfer r holder lender why budget fun kind => rising (flights kind)
    exact ⟨f, _, there, rfl, congrArg MapEntry.holder entry, rfl, rfl, rfl, rfl, rfl⟩
  · obtain ⟨f, x, there, core, cluster, former, reason, size⟩ := q.beginTransfer_preempts r holder lender why budget kind (live alive)
    exact ⟨f, x, there, core, cluster, former.trans (congrArg MapEntry.holder entry), reason, size⟩

/-- What a transfer begins shows in the entries and the flights alone. -/
theorem begins_congr {p t u : Package} {r holder lender why budget : Nat} {minted : Bool} (h : Claims.Begins p t r holder lender why budget minted)
    (map : u.map = t.map) (flights : u.flights = t.flights) : Claims.Begins p u r holder lender why budget minted := by
  unfold Claims.Begins at *
  rw [Package.entry_of_map map, flights]
  exact h

/-! ## A claim that expires (R366, R386) -/

theorem exec_claimExpiry {s : State} {chip id : Nat} {c : Claim} (running : (s.pkg chip).phase = .running)
    (job : (s.pkg chip).job id = some (.claim c)) : exec (.claimExpiry chip id) s = .next (s.setPkg chip
      ((((s.pkg chip).dropJob id).finishChain c.owner c.len []).beginTransfer c.rid c.claimant 0 2 defaultBudget none)) := by
  change execClaimExpiry chip id s = _
  unfold execClaimExpiry
  exact jobStep_some running job rfl

/-- A claim whose grace has passed begins its transfer, and its chain is complete. -/
theorem claimExpiry_begins (p : Package) (id : Nat) (c : Claim) :
    let t := ((p.dropJob id).finishChain c.owner c.len []).beginTransfer c.rid c.claimant 0 2 defaultBudget none
    Claims.Begins p t c.rid c.claimant 0 2 65536 false ∧ (p.ownerLive c.owner = true →
      (t.thread c.owner.core c.owner.slot).pc = (p.thread c.owner.core c.owner.slot).pc + BitVec.ofNat 56 c.len ∧
      (t.thread c.owner.core c.owner.slot).pend = none) := by
  intro t
  refine ⟨begins_beginTransfer ?_ ?_ ?_ _ _ _ _, fun live => ?_⟩
  · rw [Package.finishChain_map]
    rfl
  · rw [Package.finishChain_flights]
    exact risingFrom_tdel
  · exact Package.finishChain_live (p.dropJob id) c.owner c.len
  · have thread : t.thread c.owner.core c.owner.slot = ((p.dropJob id).finishChain c.owner c.len []).thread c.owner.core c.owner.slot :=
      congrArg (fun k => Core.thread k c.owner.slot) (Package.core_beginTransfer _ _ _ _ _ _ _)
    rw [thread]
    exact Package.finishChain_thread (p.dropJob id) c.owner c.len live

/-! ## What a trade comes to (R363, R386) -/

/-- What a judgement makes of a package whose request it answers; none where the request waits. -/
def Package.answered (p : Package) (chip id : Nat) (q : TradeReq) : Judged → Option Package
  | .wait => none
  | .trap c v => some (p.trapReply chip q.owner.core q.owner.slot c v)
  | .done p fs => some ((p.finishChain q.owner q.len fs).prune)
  | .opened p grace => some (p.setJob id (.claim ⟨bits q.d 31 0, q.holder, grace, q.owner, q.len⟩)).prune

section
variable {s : State} {chip id : Nat} {q : TradeReq} (at_ : Claims.AtMap (s.pkg chip) id q)
include at_

/-- The step on a request at the map block, by its judgement. -/
theorem exec_trade {j : Judged} (judged : ((s.pkg chip).dropJob id).judgeTrade q = j) : exec (.mapTradeArrival chip id) s =
    match ((s.pkg chip).dropJob id).answered chip id q j with
    | some p => .next (s.setPkg chip p)
    | none => .fault .notEnabled := by
  subst judged
  obtain ⟨running, job, live⟩ := at_
  change execMapTradeArrival chip id s = _
  unfold execMapTradeArrival
  cases out : ((s.pkg chip).dropJob id).answered chip id q (((s.pkg chip).dropJob id).judgeTrade q) with
  | none => exact jobStep_none job ((if_pos live).trans out)
  | some p => exact jobStep_some running job ((if_pos live).trans out)

theorem trade_waits (judged : ((s.pkg chip).dropJob id).judgeTrade q = .wait) :
    exec (.mapTradeArrival chip id) s = .fault .notEnabled := exec_trade at_ judged

theorem trade_refused {c : Cause} {x : Word} (judged : ((s.pkg chip).dropJob id).judgeTrade q = .trap c x) :
    Claims.Refused s chip id q c x := exec_trade at_ judged

/-- A trade that is done, with no result, completes its chain. -/
theorem trade_performed {p : Package} {after : Package → Prop} (judged : ((s.pkg chip).dropJob id).judgeTrade q = .done p [])
    (mem : p.mem = (s.pkg chip).mem) (core : ∀ c, p.core c = (s.pkg chip).core c) (holds : after ((p.finishChain q.owner q.len []).prune)) :
    Claims.Performed s chip id q after := by
  have ran := exec_trade at_ judged
  have thread : p.thread q.owner.core q.owner.slot = (s.pkg chip).thread q.owner.core q.owner.slot :=
    congrArg (fun k => Core.thread k q.owner.slot) (core _)
  have live : p.ownerLive q.owner = true := by
    obtain ⟨-, -, live⟩ := at_
    rw [Package.ownerLive, thread]
    exact live
  refine ⟨_, ran, ?_, ?_, ?_⟩
  · rw [State.pkg_setPkg_same]
    exact (Package.finishChain_mem p q.owner q.len []).trans mem
  · rw [State.pkg_setPkg_same, Package.thread_prune, ← thread]
    exact p.finishChain_thread q.owner q.len live
  · rw [State.pkg_setPkg_same]
    exact holds

/-- A trade that begins a transfer. -/
theorem trade_begins {r holder lender why budget : Nat}
    (judged : ((s.pkg chip).dropJob id).judgeTrade q = .done (((s.pkg chip).dropJob id).beginTransfer r holder lender why budget none) []) :
    Claims.Performed s chip id q (fun t => Claims.Begins (s.pkg chip) t r holder lender why budget false) := by
  refine trade_performed at_ judged (by simp) (fun c => Package.core_beginTransfer _ _ _ _ _ _ _) ?_
  have begun := begins_beginTransfer (p := s.pkg chip) (q := (s.pkg chip).dropJob id) (r := r) rfl risingFrom_tdel (fun h => h)
    holder lender why budget
  refine begins_congr begun ?_ ?_
  · rw [Package.prune_map, Package.finishChain_map]
  · rw [Package.prune_flights, Package.finishChain_flights]

/-- A trade that writes its entry. -/
theorem trade_writes {r : Nat} {e : MapEntry} (judged : ((s.pkg chip).dropJob id).judgeTrade q = .done (((s.pkg chip).dropJob id).setEntry r e) []) :
    Claims.Performed s chip id q (fun t => t.entry r = e) := by
  refine trade_performed at_ judged rfl (fun _ => rfl) (Package.entry_set (p := s.pkg chip) ?_)
  rw [Package.prune_map, Package.finishChain_map]
  rfl

/-- A trade with no effect. -/
theorem trade_idle (judged : ((s.pkg chip).dropJob id).judgeTrade q = .done ((s.pkg chip).dropJob id) []) :
    Claims.Performed s chip id q (fun t => t.map = (s.pkg chip).map) := by
  refine trade_performed at_ judged rfl (fun _ => rfl) ?_
  rw [Package.prune_map, Package.finishChain_map]
  rfl

end

/-- A trade on one entry (R363): of a resource that exists, and is not BUSY, by its kind. -/
theorem Package.judgeTrade_entry (p : Package) {q : TradeReq} (kind : q.kind ∉ [TradeKind.mint, .giveS, .lendS, .deny, .ownq, .heir]) :
    p.judgeTrade q = if !ridExists (bits q.d 31 0) then .trap .notHolder (word (bits q.d 31 0))
      else if (p.entry (bits q.d 31 0)).busy then .wait else p.judgeEntry q (bits q.d 31 0) := by
  unfold Package.judgeTrade
  cases h : q.kind <;> simp [h] at kind ⊢

/-! ## The judgement of one entry (R364) -/

/-- Only regions merge (R362). -/
theorem Package.mergeRegion_other (p : Package) {r : Nat} (kind : ridKind r ≠ 1) : p.mergeRegion r = p := by
  have alone : p.buddyOf r = none := by simp [Package.buddyOf, kind]
  rw [Package.mergeRegion, Package.merge, alone]

section
variable {p : Package} {r h dest : Nat} {lend : Bool}

/-- An offer of what the holder does not hold outright, of what pends, or to a holder that has no record, is refused. -/
theorem Package.offer_refused (bad : ¬ ((p.entry r).holder = h ∧ (p.entry r).lender = 0) ∨
      ((p.entry r).pkind ≠ 0 ∧ ¬ (lend = false ∧ dest = (p.entry r).holder)) ∨
      (¬ (lend = false ∧ dest = (p.entry r).holder) ∧ p.holderRec dest = none)) :
    p.offer r h dest lend = .trap .notHolder (word r) := by
  unfold Package.offer
  dsimp only
  by_cases held : (p.entry r).holder ≠ h ∨ (p.entry r).lender ≠ 0 ∨ ((p.entry r).pkind ≠ 0 ∧ !(decide (dest = (p.entry r).holder) && !lend))
  · rw [if_pos held]
  · rw [if_neg held]
    simp only [not_or, ne_eq, not_not, not_and, Bool.not_eq_true, Bool.not_eq_false'] at held
    obtain ⟨holder, lender, pends⟩ := held
    have open_ : ¬ (lend = false ∧ dest = (p.entry r).holder) ∧ p.holderRec dest = none := by
      rcases bad with outright | ⟨pending, apart⟩ | unknown
      · exact absurd ⟨holder, lender⟩ outright
      · have cancel := pends pending
        simp only [Bool.and_eq_true, decide_eq_true_eq, Bool.not_eq_true'] at cancel
        exact absurd ⟨cancel.2, cancel.1⟩ apart
      · exact unknown
    have going : (decide (dest = (p.entry r).holder) && !lend) = false := by
      rw [← Bool.not_eq_true]
      simp only [Bool.and_eq_true, decide_eq_true_eq, Bool.not_eq_true']
      exact fun both => open_.1 ⟨both.2, both.1⟩
    rw [going, open_.2]
    rfl

/-- An offer leaves the trade pending. -/
theorem Package.offer_pends (holder : (p.entry r).holder = h) (lender : (p.entry r).lender = 0) (free : (p.entry r).pkind = 0)
    (apart : ¬ (lend = false ∧ dest = (p.entry r).holder)) (known : p.holderRec dest ≠ none) :
    p.offer r h dest lend = .done (p.setEntry r { p.entry r with pend := dest, pkind := if lend then 2 else 1 }) [] := by
  have going : (decide (dest = (p.entry r).holder) && !lend) = false := by
    rw [← Bool.not_eq_true]
    simp only [Bool.and_eq_true, decide_eq_true_eq, Bool.not_eq_true']
    exact fun both => apart ⟨both.2, both.1⟩
  have some_ : (p.holderRec dest).isNone = false := by
    cases found : p.holderRec dest with
    | none => exact absurd found known
    | some x => rfl
  unfold Package.offer
  dsimp only
  rw [if_neg (by simp [holder, lender, free]), going, some_]
  rfl

/-- GIVE to itself cancels what pends. -/
theorem Package.offer_cancels (holder : (p.entry r).holder = h) (lender : (p.entry r).lender = 0) (self : dest = (p.entry r).holder)
    (kind : ridKind r ≠ 1) : p.offer r h dest false = .done (p.setEntry r { p.entry r with pend := 0, pkind := 0 }) [] := by
  have going : (decide (dest = (p.entry r).holder) && !false) = true := by simp [self]
  unfold Package.offer
  dsimp only
  rw [if_neg (by simp [holder, lender, self]), if_pos going, Package.mergeRegion_other _ kind]

end

section
variable {p : Package} {q : TradeReq} {r : Nat}

theorem Package.judgeEntry_accept_refused (kind : q.kind = .accept) (bad : (p.entry r).pkind = 0 ∨ (p.entry r).pend ≠ q.holder) :
    p.judgeEntry q r = .trap .notHolder (word r) := by
  simp only [Package.judgeEntry, kind]
  exact if_pos bad

theorem Package.judgeEntry_accept (kind : q.kind = .accept) (pends : (p.entry r).pkind ≠ 0) (named : (p.entry r).pend = q.holder) :
    p.judgeEntry q r =
      .done (p.beginTransfer r q.holder (if (p.entry r).pkind = 2 then (p.entry r).holder else 0) 3 65536 none) [] := by
  simp only [Package.judgeEntry, kind]
  exact if_neg (by simp [pends, named])

theorem Package.judgeEntry_return_refused (kind : q.kind = .returnLoan) (bad : (p.entry r).holder ≠ q.holder ∨ (p.entry r).lender = 0) :
    p.judgeEntry q r = .trap .notHolder (word r) := by
  simp only [Package.judgeEntry, kind]
  exact if_pos bad

theorem Package.judgeEntry_return (kind : q.kind = .returnLoan) (holder : (p.entry r).holder = q.holder) (lent : (p.entry r).lender ≠ 0) :
    p.judgeEntry q r = .done (p.beginTransfer r (p.entry r).lender 0 3 65536 none) [] := by
  simp only [Package.judgeEntry, kind]
  exact if_neg (by simp [holder, lent])

/-- RECLAIM and CLAIM by the lender begin the transfer back, RECLAIM.b with its budget. -/
theorem Package.judgeEntry_lender (kind : q.kind = .reclaim ∨ q.kind = .reclaimB ∨ q.kind = .claim) (lender : (p.entry r).lender = q.holder) :
    p.judgeEntry q r = .done (p.beginTransfer r (p.entry r).lender 0 1 (if q.kind = .reclaimB then q.t.toNat % 2 ^ 32 else 65536) none) [] := by
  rcases kind with kind | kind | kind
  · simp only [Package.judgeEntry, kind, if_pos lender]
    rfl
  · simp only [Package.judgeEntry, kind, if_pos lender, Package.giveBack, bits, Nat.pow_zero, Nat.div_one]
    rfl
  · simp only [Package.judgeEntry, kind, if_pos lender]
    rfl

/-- RECLAIM and CLAIM by the holder have no effect. -/
theorem Package.judgeEntry_own (kind : q.kind = .reclaim ∨ q.kind = .reclaimB ∨ q.kind = .claim) (lender : (p.entry r).lender ≠ q.holder)
    (holder : (p.entry r).holder = q.holder) (whole : q.kind = .claim ∨ (p.entry r).lender = 0) : p.judgeEntry q r = .done p [] := by
  rcases kind with kind | kind | kind
  · have unlent : (p.entry r).lender = 0 := whole.resolve_left (by simp [kind])
    simp only [Package.judgeEntry, kind, if_neg lender]
    exact if_pos ⟨holder, unlent⟩
  · have unlent : (p.entry r).lender = 0 := whole.resolve_left (by simp [kind])
    simp only [Package.judgeEntry, kind, if_neg lender]
    exact if_pos ⟨holder, unlent⟩
  · simp only [Package.judgeEntry, kind, if_neg lender]
    exact if_pos holder

theorem Package.judgeEntry_reclaim_refused (kind : q.kind = .reclaim ∨ q.kind = .reclaimB) (lender : (p.entry r).lender ≠ q.holder)
    (other : ¬ ((p.entry r).holder = q.holder ∧ (p.entry r).lender = 0)) : p.judgeEntry q r = .trap .notHolder (word r) := by
  rcases kind with kind | kind
  · simp only [Package.judgeEntry, kind, if_neg lender]
    exact if_neg other
  · simp only [Package.judgeEntry, kind, if_neg lender]
    exact if_neg other

theorem Package.judgeEntry_claim_refused (kind : q.kind = .claim) (holder : (p.entry r).holder ≠ q.holder)
    (lender : (p.entry r).lender ≠ q.holder) (bad : (p.entry r).heir ≠ q.holder ∨ (p.entry r).lender ≠ 0) :
    p.judgeEntry q r = .trap .notHolder (word r) := by
  simp only [Package.judgeEntry, kind, if_neg lender, if_neg holder]
  exact if_neg fun heir => bad.elim (fun other => other heir.1) fun lent => lent heir.2

/-- CLAIM by the heir opens a claim. -/
theorem Package.judgeEntry_claim (kind : q.kind = .claim) (holder : (p.entry r).holder ≠ q.holder) (lender : (p.entry r).lender ≠ q.holder)
    (unlent : (p.entry r).lender = 0) (heir : (p.entry r).heir = q.holder) :
    p.judgeEntry q r = p.openClaim r q.holder (bits q.t 31 0) := by
  simp only [Package.judgeEntry, kind, if_neg lender, if_neg holder]
  exact if_pos ⟨heir, unlent⟩

end

/-! ## A claim opened (R366, R392) -/

@[simp] theorem Package.notice_map (p : Package) (h status : Nat) (pay : List Word) : (p.notice h status pay).map = p.map := by
  unfold Package.notice
  split <;> rfl

@[simp] theorem Package.core_notice (p : Package) (h status : Nat) (pay : List Word) (c : Nat) : (p.notice h status pay).core c = p.core c := by
  unfold Package.notice
  split <;> rfl

/-- A holder that has no core is given no grace. -/
theorem Package.openClaim_begins {p : Package} {r : Nat} (claimant grace : Nat)
    (none_ : ∀ c, c < 1024 → p.coreHolder c ≠ (p.entry r).holder) :
    p.openClaim r claimant grace = .done (p.beginTransfer r claimant 0 2 65536 none) [] := by
  have lowest : p.lowestCore (p.entry r).holder [] = none :=
    List.find?_eq_none.2 fun c hc => by simp [none_ c (by simpa using (mem_span_one hc).2)]
  simp only [Package.openClaim, lowest]
  rfl

theorem Package.openClaim_opens {p : Package} {r c : Nat} (claimant grace : Nat) (small : c < 1024)
    (held : p.coreHolder c = (p.entry r).holder) : p.openClaim r claimant grace =
      .opened ((p.setEntry r { p.entry r with busy := true, pend := 0, pkind := 0 }).notice (p.entry r).holder 0x0A
        [word r, word claimant, word grace]) grace := by
  have listed : c ∈ span 0 1 1024 := by simpa using mem_span_add (lo := 0) (step := 1) small
  have some_ : (p.lowestCore (p.entry r).holder []).isNone = false := by
    cases found : p.lowestCore (p.entry r).holder [] with
    | none =>
      have all := List.find?_eq_none.1 found c listed
      simp [held] at all
    | some x => rfl
  simp only [Package.openClaim, some_]
  rfl

/-- A claim that is opened stands in the place of its request, and its chain waits. -/
theorem trade_opens {s : State} {chip id : Nat} {q : TradeReq} (at_ : Claims.AtMap (s.pkg chip) id q) {r : Nat} {e : MapEntry} {h : Nat}
    {pay : List Word} {grace : Nat} (judged : ((s.pkg chip).dropJob id).judgeTrade q =
      .opened ((((s.pkg chip).dropJob id).setEntry r e).notice h 0x0A pay) grace) :
    ∃ t, exec (.mapTradeArrival chip id) s = .next t ∧ (t.pkg chip).entry r = e ∧
      (t.pkg chip).job id = some (.claim ⟨bits q.d 31 0, q.holder, grace, q.owner, q.len⟩) ∧
      (t.pkg chip).thread q.owner.core q.owner.slot = (s.pkg chip).thread q.owner.core q.owner.slot := by
  refine ⟨_, exec_trade at_ judged, ?_, ?_, ?_⟩ <;> rw [State.pkg_setPkg_same]
  · refine Package.entry_set (p := s.pkg chip) ?_
    rw [Package.prune_map, Package.setJob_map, Package.notice_map]
    rfl
  · exact tget?_tset_same _ _ _
  · rw [Package.thread_prune]
    exact congrArg (fun k => Core.thread k q.owner.slot) (Package.core_notice _ h 0x0A pay q.owner.core)

theorem word_low (v : Word) : bits v 31 0 = v.toNat % 2 ^ 32 := by simp [bits]

/-! ## A trap on a reply (R30, R32) -/

theorem Package.trapReply_takes (p : Package) (chip core slot : Nat) (cause : Cause) (x : Word)
    (on : (p.thread core slot).cancel = none ∨ (p.thread core slot).stopsOnTrap = false) :
    p.trapReply chip core slot cause x = p.takeTrap core slot cause 0 x := by
  rcases Package.trapReply_eq p chip core slot cause x with takes | ⟨cell, cancelled, stops, -⟩
  · exact takes
  · rcases on with none_ | goes
    · rw [none_] at cancelled
      cases cancelled
    · rw [goes] at stops
      cases stops

theorem Package.trapReply_retires (p : Package) (chip core slot : Nat) (cause : Cause) (x : Word) {cell : Nat}
    (cancelled : (p.thread core slot).cancel = some cell) (stops : (p.thread core slot).stopsOnTrap = true) :
    (p.trapReply chip core slot cause x).thread core slot =
      { (p.thread core slot).retired with cause := 0x10, value := word cell, cancel := none } := by
  have reply : p.trapReply chip core slot cause x = p.retireCancelled chip core slot cell := by
    simp only [Package.trapReply, cancelled, stops, if_true]
  rw [reply, Package.thread_retireCancelled]

end Sys2Proof.Machine
end
section
/-! SUPPORT. The last step of a transfer (R168, R365): what it leaves of the map, of the threads of a core that passes, and of the cells. -/

namespace Sys2Proof.Machine

/-! ## The map through the end of a transfer -/

/-- Two packages have one ownership map. -/
def Package.SameMap (p q : Package) : Prop := q.map = p.map

theorem Package.SameMap.trans {p q r : Package} (h : p.SameMap q) (k : q.SameMap r) : p.SameMap r := Eq.trans k h

theorem Package.sameMap_foldl {α : Type} (f : Package → α → Package) (h : ∀ (p : Package) a, p.SameMap (f p a)) (l : List α) (p : Package) :
    p.SameMap (l.foldl f p) := by
  induction l generalizing p with
  | nil => rfl
  | cons a l ih => exact (h p a).trans (ih _)

section
variable (p : Package)

@[simp] theorem Package.cellFinish_map (id : Nat) : (p.cellFinish id).map = p.map := by
  unfold Package.cellFinish
  dsimp only
  split <;> rfl

@[simp] theorem Package.cellDrop_map (fuel id : Nat) : (p.cellDrop fuel id).map = p.map := by
  induction fuel generalizing p id with
  | zero => rfl
  | succ fuel ih =>
    simp only [Package.cellDrop, apply_ite Package.map, ih, Package.cellFinish_map]
    simp only [Package.setCell, Package.onDie, ite_self]

@[simp] theorem Package.leaveCell_map (id : Nat) (paired : Bool) : (p.leaveCell id paired).map = p.map := by
  unfold Package.leaveCell
  split
  · rfl
  · exact Package.cellDrop_map _ _ _

theorem Package.breakPort_map (handle port : Nat) : (p.breakPort handle port).map = p.map := by
  unfold Package.breakPort
  dsimp only
  split <;> rfl

theorem Package.sameMap_unbind (chip core slot port : Nat) : p.SameMap (p.unbind chip core slot port) := by
  unfold Package.unbind
  dsimp only
  split
  · split
    · exact Package.breakPort_map p _ _
    · rfl
  · split <;> rfl
  · rfl

theorem Package.sameMap_left (chip core slot : Nat) : p.SameMap (p.left chip core slot) := by
  have unbound := Package.sameMap_foldl (fun p q => p.unbind chip core slot q) (fun p q => p.sameMap_unbind chip core slot q) (span 0 1 6) p
  refine unbound.trans (Package.SameMap.trans ?_ rfl)
  exact Package.sameMap_foldl (fun p f => p.forgetOps f.2) (fun _ _ => rfl)
    ((p.thread core slot).former.filter (fun f => decide (f.1 = chip))) _

theorem Package.sameMap_retire (chip core slot : Nat) : p.SameMap (p.retire chip core slot) := by
  rw [Package.retire_eq]
  dsimp only
  have left := p.sameMap_left chip core slot
  split
  · exact (Package.leaveCell_map _ _ _).trans left
  · exact left
  · exact left

theorem Package.sameMap_retireAll (chip c : Nat) : p.SameMap (p.retireAll chip c) := by
  refine Package.sameMap_foldl _ (fun p e => ?_) _ p
  split
  · exact p.sameMap_retire chip c e.1
  · rfl

theorem Package.sameMap_lose (o : Owner) (r : Nat) : p.SameMap (p.lose o r) := by
  unfold Package.lose
  split <;> rfl

theorem Package.sameMap_loseWaiters (why : Reason) (r : Nat) : p.SameMap (p.loseWaiters why r) :=
  Package.sameMap_foldl _ (fun p o => p.sameMap_lose o r) _ p

theorem Package.sameMap_abandon (id : Nat) (x : Slab) (status : Nat) : p.SameMap (p.abandon id x status) := by
  unfold Package.abandon Package.recordFailure
  split <;> rfl

theorem Package.sameMap_leaveGrid (r : Nat) : p.SameMap (p.leaveGrid r) :=
  (p.sameMap_loseWaiters .halo r).trans (Package.sameMap_foldl (fun p (e : Nat × Slab) => p.abandon e.1 e.2 0x09)
    (fun p e => p.sameMap_abandon e.1 e.2 0x09) _ _)

theorem Package.sameMap_leaveMemory (former r : Nat) : p.SameMap (p.leaveMemory former r) := by
  unfold Package.leaveMemory
  split
  · rfl
  · exact Package.SameMap.trans rfl (Package.sameMap_foldl (fun p o => p.lose o r) (fun p o => p.sameMap_lose o r) _ _)

theorem Package.sameMap_redirect (former c : Nat) (hdr : Word) (pay : List Word) : p.SameMap (p.redirect former c hdr pay) := by
  unfold Package.redirect
  split
  · split <;> rfl
  · rfl

theorem Package.sameMap_emptyLatch (former c : Nat) : p.SameMap (p.emptyLatch former c) := by
  unfold Package.emptyLatch
  split
  · rfl
  · split
    · split
      · exact Package.SameMap.trans rfl (Package.sameMap_redirect _ _ _ _ _)
      · rfl
    · rfl

theorem Package.sameMap_passCore (former c : Nat) : p.SameMap (p.passCore former c) := by
  have redirected := Package.sameMap_foldl (fun p e => p.redirect former c e.hdr [e.w1, e.w2, e.w3])
    (fun p (e : MboxEntry) => p.sameMap_redirect former c e.hdr [e.w1, e.w2, e.w3]) ((p.emptyLatch former c).core c).mbox (p.emptyLatch former c)
  exact (p.sameMap_emptyLatch former c).trans (redirected.trans rfl)

end

/-! ## The threads of the core, and the cells of the dies -/

/-- No thread of a core is live. -/
def Package.Idle (p : Package) (c : Nat) : Prop := ∀ n, (p.thread c n).live = false

/-- A core that is idle stays idle, and every die keeps its cells. -/
structure Package.Passes (c : Nat) (p q : Package) : Prop where
  idle : p.Idle c → q.Idle c
  cells : ∀ d, (q.die d).cells = (p.die d).cells

theorem Package.Passes.refl (c : Nat) (p : Package) : Package.Passes c p p := ⟨fun h => h, fun _ => rfl⟩

theorem Package.Passes.trans {c : Nat} {p q r : Package} (h : Package.Passes c p q) (k : Package.Passes c q r) : Package.Passes c p r :=
  ⟨fun idle => k.idle (h.idle idle), fun d => (k.cells d).trans (h.cells d)⟩

theorem Package.passes_of_same {c : Nat} {p q : Package} (threads : ∀ n, q.thread c n = p.thread c n) (dies : q.dies = p.dies) :
    Package.Passes c p q :=
  ⟨fun idle n => by rw [threads]; exact idle n, fun d => by rw [Package.die, dies, Package.die]⟩

theorem Package.passes_foldl {α : Type} {c : Nat} (f : Package → α → Package) (h : ∀ (p : Package) a, Package.Passes c p (f p a)) (l : List α)
    (p : Package) : Package.Passes c p (l.foldl f p) := by
  induction l generalizing p with
  | nil => exact .refl c p
  | cons a l ih => exact (h p a).trans (ih _)

theorem Package.freeCell_congr {p q : Package} (h : ∀ d, (q.die d).cells = (p.die d).cells) (die start : Nat) :
    q.freeCell die start = p.freeCell die start := by
  unfold Package.freeCell
  rw [h]

/-- A table whose entries are changed in place. -/
theorem tget?_mapEntries {α : Type} (g : Nat × α → Nat × α) (keys : ∀ e, (g e).1 = e.1) (t : Tab α) (n : Nat) :
    tget? (t.map g) n = (tget? t n).map (fun v => (g (n, v)).2) := by
  induction t with
  | nil => rfl
  | cons e t ih =>
    obtain ⟨k, v⟩ := e
    have key := keys (k, v)
    simp only [List.map_cons]
    by_cases same : n = k
    · subst same
      cases h : g (n, v) with
      | mk a b =>
        rw [h] at key
        subst key
        simp [tget?, h]
    · cases h : g (k, v) with
      | mk a b =>
        rw [h] at key
        subst key
        simp [tget?, same, ih]

/-- Dies whose grids change keep their cells. -/
theorem Package.cells_mapGrids {p q : Package} {f : Die → Die} (same : ∀ d, (f d).cells = d.cells)
    (dies : q.dies = p.dies.map (fun e => (e.1, f e.2))) (d : Nat) : (q.die d).cells = (p.die d).cells := by
  unfold Package.die tget
  rw [dies, tget?_mapValues]
  cases tget? p.dies d with
  | none => rfl
  | some x => exact same x

section
variable (p : Package) (c : Nat)

theorem Package.thread_purge (h : Nat) (bad : TlbEntry → Bool) (table : Nat → Bool) (n : Nat) :
    (p.purge h bad table).thread c n = p.thread c n := by
  have threads : ((p.purge h bad table).core c).threads = (p.core c).threads := by
    unfold Package.purge Package.core tget
    dsimp only
    rw [tget?_mapEntries _ fun e => by split <;> rfl]
    cases tget? p.cores c with
    | none => rfl
    | some k =>
      dsimp only [Option.map, Option.getD]
      split <;> rfl
  rw [Package.thread, Core.thread, threads, Package.thread, Core.thread]

/-- A thread that loses what it awaits was live, and is. -/
theorem Package.passes_lose (o : Owner) (r : Nat) : Package.Passes c p (p.lose o r) := by
  unfold Package.lose
  split
  · next live =>
    refine ⟨fun idle n => ?_, fun _ => rfl⟩
    by_cases same : (c, n) = (o.core, o.slot)
    · cases same
      have mine := (Bool.and_eq_true _ _ ▸ live : _ ∧ _).1
      rw [idle o.slot] at mine
      cases mine
    · rw [Package.thread_onThread_other p _ c _ n _ same]
      exact idle n
  · exact .refl c p

theorem Package.passes_loseWaiters (why : Reason) (r : Nat) : Package.Passes c p (p.loseWaiters why r) :=
  Package.passes_foldl _ (fun p o => p.passes_lose c o r) _ p

theorem Package.passes_leaveMemory (former r : Nat) : Package.Passes c p (p.leaveMemory former r) := by
  unfold Package.leaveMemory
  split
  · exact .refl c p
  · next lo hi _ =>
    refine Package.Passes.trans ?_ (Package.passes_foldl (fun p o => p.lose o r) (fun p o => p.passes_lose c o r) _ _)
    exact Package.Passes.trans (q := p.purge former (fun e => decide (e.pa < hi) && decide (lo < e.pa + e.size)) (fun _ => true))
      (Package.passes_of_same (fun n => p.thread_purge c _ _ _ n) rfl)
      (Package.passes_of_same (fun _ => rfl) rfl)

theorem Package.passes_redirect (former d : Nat) (hdr : Word) (pay : List Word) : Package.Passes c p (p.redirect former d hdr pay) := by
  unfold Package.redirect
  split
  · split
    · exact Package.passes_of_same (fun _ => rfl) rfl
    · exact .refl c p
  · exact .refl c p

theorem Package.passes_emptyLatch (former d : Nat) : Package.Passes c p (p.emptyLatch former d) := by
  unfold Package.emptyLatch
  split
  · exact .refl c p
  · split
    · split
      · refine Package.Passes.trans ?_ (Package.passes_redirect _ c former d _ _)
        exact Package.passes_of_same (fun _ => rfl) rfl
      · exact .refl c p
    · exact .refl c p

/-- The core's own state passes, and its threads with their slots stay. -/
theorem Package.passes_passCore (former d : Nat) : Package.Passes c p (p.passCore former d) := by
  have redirected := Package.passes_foldl (c := c) (fun p e => p.redirect former d e.hdr [e.w1, e.w2, e.w3])
    (fun p (e : MboxEntry) => p.passes_redirect c former d e.hdr [e.w1, e.w2, e.w3]) ((p.emptyLatch former d).core d).mbox (p.emptyLatch former d)
  refine (p.passes_emptyLatch c former d).trans (redirected.trans ⟨fun idle n => ?_, fun e => ?_⟩)
  · have thread : (p.passCore former d).thread c n = (((p.emptyLatch former d).core d).mbox.foldl
        (fun p e => p.redirect former d e.hdr [e.w1, e.w2, e.w3]) (p.emptyLatch former d)).thread c n :=
      Package.thread_onCore _ _ _ _ fun _ => rfl
    exact (congrArg Thread.live thread).trans (idle n)
  · exact Package.cells_mapGrids (f := fun x => { x with grids := x.grids.map (fun g => (g.1, { g.2 with
      bound := g.2.bound.filter (fun b => decide (b.core ≠ d)) })) }) (fun _ => rfl) rfl e

end

/-! ## The threads of a core that passes are retired (R260) -/

theorem Thread.live_of_bare {t u : Thread} (h : t.bare = u.bare) : t.live = u.live := by
  rw [Thread.live, Thread.life_of_bare h, Thread.live]

section
variable (p : Package) (chip c : Nat)

/-- One slot's thread retired, if it is live. -/
def Package.retireLive (p : Package) (chip c : Nat) (e : Nat × Thread) : Package :=
  if (p.thread c e.1).live then p.retire chip c e.1 else p

theorem Package.retireAll_eq : p.retireAll chip c = (p.core c).threads.foldl (fun p e => p.retireLive chip c e) p := rfl

theorem Package.live_retireLive (e : Nat × Thread) (n : Nat) (h : ((p.retireLive chip c e).thread c n).live = true) :
    (p.thread c n).live = true ∧ e.1 ≠ n := by
  unfold Package.retireLive at h
  split at h
  · next live =>
    by_cases same : e.1 = n
    · subst same
      rw [Package.thread_retire] at h
      cases h
    · rw [Thread.live_of_bare (p.bare_retire_other chip c e.1 c n fun both => same (by cases both; rfl))] at h
      exact ⟨h, same⟩
  · next dead =>
    refine ⟨h, fun same => dead ?_⟩
    rw [same]
    exact h

theorem Package.live_retireEach (l : List (Nat × Thread)) (n : Nat)
    (h : ((l.foldl (fun p e => p.retireLive chip c e) p).thread c n).live = true) : (p.thread c n).live = true ∧ ∀ e ∈ l, e.1 ≠ n := by
  induction l generalizing p with
  | nil => exact ⟨h, fun e he => by cases he⟩
  | cons e l ih =>
    obtain ⟨live, others⟩ := ih _ h
    obtain ⟨was, apart⟩ := Package.live_retireLive p chip c e n live
    exact ⟨was, List.forall_mem_cons.2 ⟨apart, others⟩⟩

/-- No thread that is listed, or not, is live after all have been retired. -/
theorem Package.idle_retireAll : (p.retireAll chip c).Idle c := by
  intro n
  rw [← Bool.not_eq_true, Package.retireAll_eq]
  intro live
  obtain ⟨was, apart⟩ := Package.live_retireEach p chip c _ n live
  rw [Package.thread, Core.thread, tget] at was
  cases listed : tget? (p.core c).threads n with
  | none =>
    rw [listed] at was
    cases was
  | some t => exact apart _ (mem_of_tget? listed) rfl

theorem Package.retireAll_of_idle (idle : p.Idle c) : p.retireAll chip c = p := by
  rw [Package.retireAll_eq]
  have stays (e : Nat × Thread) : p.retireLive chip c e = p := if_neg (by rw [idle]; simp)
  induction (p.core c).threads with
  | nil => rfl
  | cons e l ih => rw [List.foldl_cons, stays, ih]

/-- A core whose listed threads are all in FREE slots is idle. -/
theorem Package.idle_of_free (free : ∀ u ∈ (p.core c).threads, u.2.life = .free) : p.Idle c := by
  intro n
  rw [Package.thread, Core.thread, tget]
  cases listed : tget? (p.core c).threads n with
  | none => rfl
  | some t =>
    have life : t.life = .free := free _ (mem_of_tget? listed)
    show t.live = false
    rw [Thread.live, life]

end

/-! ## The thread that MINT starts (R387) -/

theorem Package.newCell_map {p q : Package} {die start holder level parent live id : Nat} {notify : Word} {root : Bool}
    (h : p.newCell die start holder level parent live notify root = some (q, id)) : q.map = p.map := by
  unfold Package.newCell at h
  split at h
  · cases h
  · cases h
    show (if level = 3 then p else p.cellRaise parent 1).map = p.map
    split
    · rfl
    · unfold Package.cellRaise
      split <;> rfl

/-- The thread of a MINT, once the die has a free cell. -/
theorem Package.startMinted_free {p : Package} {c free i : Nat} (cell : p.freeCell (coreDie c) free = some i) (holder slot : Nat)
    (entry : BitVec 56) (len : Nat) (arg creator : Word) : ∃ q root, p.startMinted c holder free (slot, entry, len, arg, creator) = some q ∧
      q.map = p.map ∧ q.core c = { (p.core c).startThread slot (if slot = 63 then 2016 else 0) len entry [(0, creator), (2, arg)] 0
        (some root) none with minted := none } := by
  obtain ⟨q, id, new, core⟩ := Package.newCell_free cell holder 3 0 1 silent true
  have started : p.startMinted c holder free (slot, entry, len, arg, creator) =
      some ((q.onHolder holder (fun r => { r with rootCell := id })).onCore c (fun k =>
        { k.startThread slot (if slot = 63 then 2016 else 0) len entry [(0, creator), (2, arg)] 0 (some id) none with minted := none })) := by
    simp only [Package.startMinted, new]
  have map : q.map = p.map := Package.newCell_map new
  refine ⟨_, id, started, map, ?_⟩
  rw [Package.core_onCore_same]
  have same : (q.onHolder holder (fun r => { r with rootCell := id })).core c = p.core c := core c
  rw [same]

/-! ## The entry that is written (R361, R365) -/

/-- The entry of a transfer's resource as its last step writes it, from the one that stood there. -/
def MapEntry.Passed (u e : MapEntry) (x : Transfer) : Prop :=
  u.holder = x.holder ∧ u.lender = x.lender ∧ u.gen = (e.gen + 1) % 65536 ∧ u.busy = false ∧ u.pend = 0 ∧ u.pkind = 0 ∧
  (x.lender ≠ 0 → u.heir = x.lender)

theorem Package.passed_writeEntry {p q t : Package} {x : Transfer} (same : p.SameMap q) (written : t.map = (q.writeEntry x).map) :
    (t.entry x.rid).Passed (p.entry x.rid) x := by
  have entry : t.entry x.rid = (q.writeEntry x).entry x.rid := Package.entry_of_map written x.rid
  have now : (q.writeEntry x).entry x.rid = { q.entry x.rid with
      holder := x.holder, lender := x.lender, heir := if x.lender ≠ 0 then x.lender else q.defaultHeir x.holder,
      gen := ((q.entry x.rid).gen + 1) % 65536, busy := false, pend := 0, pkind := 0 } := Package.entry_set rfl
  rw [entry, now, Package.entry_of_map same]
  exact ⟨rfl, rfl, rfl, rfl, rfl, rfl, fun lent => if_pos lent⟩

/-- A region merges with none where its holder has no other. -/
theorem Package.mergeRegion_alone {p : Package} {r : Nat}
    (alone : ∀ y ∈ p.map, ridKind y.1 = 1 → y.1 ≠ r → y.2.holder ≠ (p.entry r).holder) : p.mergeRegion r = p := by
  have none_ : p.buddyOf r = none := by
    unfold Package.buddyOf
    dsimp only
    split
    · rfl
    · rw [List.find?_eq_none]
      intro y hy
      simp only [Bool.and_eq_true, decide_eq_true_eq, not_and]
      rintro ⟨kind, other, -, -, holder, -⟩
      exact absurd holder (alone y hy kind other)
  rw [Package.mergeRegion, Package.merge, none_]

/-! ## The last step -/

section
variable {p : Package} {chip : Nat} {x : Transfer}

/-- What is left of the former holder's on a core that passes, before its entry is written. -/
def Package.corePassed (p : Package) (chip : Nat) (x : Transfer) : Package :=
  (((p.leaveMemory x.former x.rid).retireAll chip (ridIndex x.rid)).passCore x.former (ridIndex x.rid)).loseWaiters .acc x.rid

theorem Package.finishTransfer_core (kind : ridKind x.rid = 0) (free : Nat) : p.finishTransfer chip x free =
    match x.start with
    | some st => ((p.corePassed chip x).writeEntry x).startMinted (ridIndex x.rid) x.holder free st
    | none => some ((p.corePassed chip x).writeEntry x) := by
  simp only [Package.finishTransfer, kind]
  rfl

theorem Package.sameMap_corePassed : p.SameMap (p.corePassed chip x) :=
  (p.sameMap_leaveMemory x.former x.rid).trans ((Package.sameMap_retireAll _ chip _).trans
    ((Package.sameMap_passCore _ x.former _).trans (Package.sameMap_loseWaiters _ .acc x.rid)))

/-- No thread of a core that has passed is live (R260). -/
theorem Package.idle_corePassed : (p.corePassed chip x).Idle (ridIndex x.rid) :=
  (Package.passes_loseWaiters _ _ .acc x.rid).idle ((Package.passes_passCore _ _ x.former _).idle
    (Package.idle_retireAll (p.leaveMemory x.former x.rid) chip (ridIndex x.rid)))

/-- A core that is idle passes with the cells of its die as they were. -/
theorem Package.cells_corePassed (idle : p.Idle (ridIndex x.rid)) (d : Nat) : ((p.corePassed chip x).die d).cells = (p.die d).cells := by
  have left := p.passes_leaveMemory (ridIndex x.rid) x.former x.rid
  rw [Package.corePassed, Package.retireAll_of_idle _ chip _ (left.idle idle)]
  exact (left.trans ((Package.passes_passCore _ _ x.former _).trans (Package.passes_loseWaiters _ (ridIndex x.rid) .acc x.rid))).cells d

/-- What the last step leaves of a resource that passes without a new thread (R361, R365). -/
theorem Package.finishTransfer_passes (start : x.start = none) (free : Nat)
    (alone : ridKind x.rid = 1 → ∀ y ∈ p.map, ridKind y.1 = 1 → y.1 ≠ x.rid → y.2.holder ≠ x.holder) :
    ∃ q, p.finishTransfer chip x free = some q ∧ (q.entry x.rid).Passed (p.entry x.rid) x ∧
      (ridKind x.rid = 0 → q.Idle (ridIndex x.rid)) := by
  have left := p.sameMap_leaveMemory x.former x.rid
  by_cases core : ridKind x.rid = 0
  · have same : p.SameMap (p.corePassed chip x) := Package.sameMap_corePassed
    have idle : (p.corePassed chip x).Idle (ridIndex x.rid) := Package.idle_corePassed
    have done := Package.finishTransfer_core (p := p) (chip := chip) core free
    rw [start] at done
    generalize p.corePassed chip x = r at same idle done
    exact ⟨r.writeEntry x, done, Package.passed_writeEntry same rfl, fun _ => idle⟩
  · have rest : ∃ q, p.finishTransfer chip x free = some q ∧ ∃ r : Package, p.SameMap r ∧ q.map = (r.writeEntry x).map := by
      unfold Package.finishTransfer
      dsimp only
      split
      · next kind => exact absurd kind core
      · next kind =>
        refine ⟨_, rfl, _, left, ?_⟩
        rw [Package.mergeRegion_alone]
        intro y hy region other
        rw [(Package.passed_writeEntry (p := p) left rfl).1]
        rcases mem_tset hy with written | listed
        · exact absurd (congrArg Prod.fst written) other
        · exact alone kind y (left ▸ listed) region other
      · exact ⟨_, rfl, _, left.trans (Package.sameMap_leaveGrid _ _), rfl⟩
      · exact ⟨_, rfl, (p.leaveMemory x.former x.rid).leaveRoot x.former x.rid, left, rfl⟩
      · exact ⟨_, rfl, _, left, rfl⟩
    obtain ⟨q, done, r, same, written⟩ := rest
    exact ⟨q, done, Package.passed_writeEntry same written, fun kind => absurd kind core⟩

/-- What the last step leaves of a core that a MINT passes, whose slots are all FREE (R387). -/
theorem Package.finishTransfer_mints {slot len i : Nat} {entry : BitVec 56} {arg creator : Word}
    (start : x.start = some (slot, entry, len, arg, creator)) (kind : ridKind x.rid = 0)
    (unused : ∀ u ∈ (p.core (ridIndex x.rid)).threads, u.2.life = .free) {free : Nat}
    (cell : p.freeCell (coreDie (ridIndex x.rid)) free = some i) :
    ∃ q, p.finishTransfer chip x free = some q ∧ (q.entry x.rid).Passed (p.entry x.rid) x ∧
      let base := if slot = 63 then 2016 else 0
      Claims.Fresh (q.core (ridIndex x.rid)) slot base len entry 0 creator arg (base + len) := by
  have same : p.SameMap (p.corePassed chip x) := Package.sameMap_corePassed
  have cells := Package.cells_corePassed (p := p) (chip := chip) (x := x) (p.idle_of_free _ unused)
  have done := Package.finishTransfer_core (p := p) (chip := chip) kind free
  rw [start] at done
  generalize p.corePassed chip x = r at same cells done
  have there : (r.writeEntry x).freeCell (coreDie (ridIndex x.rid)) free = some i :=
    (Package.freeCell_congr (p := p) (q := r.writeEntry x) cells _ _).trans cell
  obtain ⟨q, root, minted, map, core⟩ := Package.startMinted_free there x.holder slot entry len arg creator
  refine ⟨q, done.trans minted, Package.passed_writeEntry same map, ?_⟩
  rw [core]
  exact fresh_of_started rfl fun _ _ => ⟨rfl, rfl⟩

end

/-- The last step of a transfer whose resource is empty and committed. -/
theorem exec_transferComplete {s : State} {chip id : Nat} {x : Transfer} {q : Package} (running : (s.pkg chip).phase = .running)
    (job : (s.pkg chip).job id = some (.transfer x)) (emptied : x.emptied = true) (committed : x.committed = true) (last : x.onward = 0)
    (pieces : (s.pkg chip).pieceUnder x.rid = false)
    (core : ridKind x.rid = 0 → ((s.pkg chip).core (ridIndex x.rid)).outbox = [] ∧ ((s.pkg chip).core (ridIndex x.rid)).spilled = [] ∧
      ∀ y ∈ (s.pkg chip).started (clusterOf (ridIndex x.rid)), y.2.fn.tile ≠ some (positionOf (ridIndex x.rid)))
    (unminted : (s.pkg chip).mintWaits x = false) (done : ((s.pkg chip).dropJob id).finishTransfer chip x (s.free 4) = some q) :
    exec (.mapTransferComplete chip id) s = .next (s.setPkg chip q.prune) := by
  change execMapTransferComplete chip id s = _
  unfold execMapTransferComplete
  have drained : (x.committed && decide (ridKind x.rid = 0) && (((s.pkg chip).core (ridIndex x.rid)).oldest).isSome) = false := by
    by_cases kind : ridKind x.rid = 0
    · obtain ⟨outbox, spilled, -⟩ := core kind
      simp [Core.oldest, outbox, spilled]
    · simp [kind]
  have ready : (x.emptied && x.committed && !(s.pkg chip).pieceUnder x.rid &&
      (decide (ridKind x.rid ≠ 0) || (s.pkg chip).tileIdle (ridIndex x.rid))) = true := by
    by_cases kind : ridKind x.rid = 0
    · obtain ⟨-, -, tile⟩ := core kind
      have idle : (s.pkg chip).tileIdle (ridIndex x.rid) = true := List.all_eq_true.2 fun y hy => decide_eq_true (tile y hy)
      simp [emptied, committed, pieces, idle]
    · simp [emptied, committed, pieces, kind]
  refine jobStep_some running job ?_
  dsimp only
  rw [drained, unminted, ready, done, last]
  rfl

end Sys2Proof.Machine
end
section
/-! SUPPORT. Trades and transfers, by the kind of the request (R363 to R366, R386 to R391). -/

namespace Sys2Proof.Machine

section
variable {s : State} {chip id : Nat} {q : TradeReq} (at_ : Claims.AtMap (s.pkg chip) id q)
  (kind : q.kind ∉ [TradeKind.mint, .giveS, .lendS, .deny, .ownq, .heir])

include at_ kind in
/-- A trade of a resource that does not exist, and one on a BUSY entry. -/
theorem trade_notJudged : (ridExists (q.d.toNat % 2 ^ 32) = false →
      Claims.Refused s chip id q .notHolder (word (q.d.toNat % 2 ^ 32))) ∧
    (ridExists (q.d.toNat % 2 ^ 32) = true → ((s.pkg chip).entry (q.d.toNat % 2 ^ 32)).busy = true →
      exec (.mapTradeArrival chip id) s = .fault .notEnabled) := by
  have judged := Package.judgeTrade_entry ((s.pkg chip).dropJob id) kind
  rw [word_low] at judged
  refine ⟨fun absent => trade_refused at_ ?_, fun present busy => trade_waits at_ ?_⟩
  · rw [judged, absent]
    rfl
  · rw [judged, present]
    exact if_pos busy

section
variable {r : Nat} (judged : ((s.pkg chip).dropJob id).judgeTrade q = ((s.pkg chip).dropJob id).judgeEntry q r)
include at_ judged

/-- GIVE and LEND (R364, R388). -/
theorem trade_offers (kind : q.kind = .give ∨ q.kind = .lend) :
    let p := s.pkg chip
    let e := p.entry r
    let dest := q.s.toNat % 2 ^ 16
    let outright : Prop := e.holder = q.holder ∧ e.lender = 0
    let cancels : Prop := q.kind = .give ∧ dest = e.holder
    (¬ outright ∨ (e.pkind ≠ 0 ∧ ¬ cancels) ∨ (¬ cancels ∧ p.holderRec dest = none) → Claims.Refused s chip id q .notHolder (word r)) ∧
    (outright → e.pkind = 0 → ¬ cancels → p.holderRec dest ≠ none → Claims.Performed s chip id q (fun t =>
      t.entry r = { e with pend := dest, pkind := if q.kind = .lend then 2 else 1 })) ∧
    (outright → cancels → ridKind r ≠ 1 → Claims.Performed s chip id q (fun t => t.entry r = { e with pend := 0, pkind := 0 })) := by
  intro p e dest outright cancels
  obtain ⟨lend, offered, isLend, isGive⟩ : ∃ lend : Bool,
      ((s.pkg chip).dropJob id).judgeEntry q r = ((s.pkg chip).dropJob id).offer r q.holder dest lend ∧
      (q.kind = .lend ↔ lend = true) ∧ (q.kind = .give ↔ lend = false) := by
    rcases kind with kind | kind
    · exact ⟨false, by simp only [Package.judgeEntry, kind]; rfl, by simp [kind], by simp [kind]⟩
    · exact ⟨true, by simp only [Package.judgeEntry, kind]; rfl, by simp [kind], by simp [kind]⟩
  rw [offered] at judged
  have cancel : cancels ↔ lend = false ∧ dest = e.holder := and_congr_left fun _ => isGive
  refine ⟨fun bad => trade_refused at_ ?_, fun own free apart known => trade_writes at_ ?_, fun own self region => trade_writes at_ ?_⟩
  · rw [cancel] at bad
    rw [judged]
    exact Package.offer_refused bad
  · rw [cancel] at apart
    have pends := Package.offer_pends (p := (s.pkg chip).dropJob id) own.1 own.2 free apart known
    simp only [isLend]
    exact judged.trans pends
  · obtain ⟨give, target⟩ := cancel.1 self
    subst give
    rw [judged]
    exact Package.offer_cancels own.1 own.2 target region

/-- ACCEPT (R364, R390). -/
theorem trade_accepts (kind : q.kind = .accept) :
    let e := (s.pkg chip).entry r
    (e.pkind = 0 ∨ e.pend ≠ q.holder → Claims.Refused s chip id q .notHolder (word r)) ∧
    (e.pkind ≠ 0 → e.pend = q.holder → Claims.Performed s chip id q (fun t =>
      Claims.Begins (s.pkg chip) t r q.holder (if e.pkind = 2 then e.holder else 0) 3 65536 false)) :=
  ⟨fun bad => trade_refused at_ (judged.trans (Package.judgeEntry_accept_refused kind bad)),
    fun pends named => trade_begins at_ (judged.trans (Package.judgeEntry_accept kind pends named))⟩

/-- RETURN (R364, R391). -/
theorem trade_returns (kind : q.kind = .returnLoan) :
    let e := (s.pkg chip).entry r
    (e.holder ≠ q.holder ∨ e.lender = 0 → Claims.Refused s chip id q .notHolder (word r)) ∧
    (e.holder = q.holder → e.lender ≠ 0 → Claims.Performed s chip id q (fun t =>
      Claims.Begins (s.pkg chip) t r e.lender 0 3 65536 false)) :=
  ⟨fun bad => trade_refused at_ (judged.trans (Package.judgeEntry_return_refused kind bad)),
    fun own lent => trade_begins at_ (judged.trans (Package.judgeEntry_return kind own lent))⟩

/-- RECLAIM, and CLAIM by the lender or by the holder (R364, R366). -/
theorem trade_reclaims (someone : q.holder ≠ 0) (kind : q.kind = .reclaim ∨ q.kind = .reclaimB ∨ q.kind = .claim) :
    let e := (s.pkg chip).entry r
    let outright : Prop := e.holder = q.holder ∧ e.lender = 0
    (e.lender = q.holder → Claims.Performed s chip id q (fun t => Claims.Begins (s.pkg chip) t r e.lender 0 1
      (if q.kind = .reclaimB then q.t.toNat % 2 ^ 32 else 65536) false)) ∧
    (outright → Claims.Performed s chip id q (fun t => t.map = (s.pkg chip).map)) ∧
    (q.kind ≠ .claim → e.lender ≠ q.holder → ¬ outright → Claims.Refused s chip id q .notHolder (word r)) := by
  intro e outright
  refine ⟨fun lender => trade_begins at_ (judged.trans (Package.judgeEntry_lender kind lender)), fun own => trade_idle at_ ?_,
    fun reclaim lender other => trade_refused at_ ?_⟩
  · have apart : e.lender ≠ q.holder := by rw [own.2]; exact someone.symm
    exact judged.trans (Package.judgeEntry_own kind apart own.1 (.inr own.2))
  · refine judged.trans (Package.judgeEntry_reclaim_refused ?_ lender other)
    rcases kind with kind | kind | kind
    · exact .inl kind
    · exact .inr kind
    · exact absurd kind reclaim

/-- CLAIM (R366, R386, R392). -/
theorem trade_claims (ids : bits q.d 31 0 = r) (someone : q.holder ≠ 0) (kind : q.kind = .claim) :
    let p := s.pkg chip
    let e := p.entry r
    (e.holder = q.holder → e.lender ≠ q.holder → Claims.Performed s chip id q (fun t => t.map = p.map)) ∧
    (e.holder ≠ q.holder → e.lender ≠ q.holder → (e.heir ≠ q.holder ∨ e.lender ≠ 0) → Claims.Refused s chip id q .notHolder (word r)) ∧
    (e.holder ≠ q.holder → e.lender = 0 → e.heir = q.holder →
      ((∀ c, c < 1024 → p.coreHolder c ≠ e.holder) →
        Claims.Performed s chip id q (fun t => Claims.Begins p t r q.holder 0 2 65536 false)) ∧
      (∀ c, c < 1024 → p.coreHolder c = e.holder →
        ∃ t, exec (.mapTradeArrival chip id) s = .next t ∧ (t.pkg chip).entry r = { e with busy := true, pend := 0, pkind := 0 } ∧
          (t.pkg chip).job id = some (.claim ⟨r, q.holder, q.t.toNat % 2 ^ 32, q.owner, q.len⟩) ∧
          (t.pkg chip).thread q.owner.core q.owner.slot = p.thread q.owner.core q.owner.slot)) := by
  intro p e
  refine ⟨fun own lender => trade_idle at_ (judged.trans (Package.judgeEntry_own (.inr (.inr kind)) lender own (.inl kind))),
    fun other lender bad => trade_refused at_ (judged.trans (Package.judgeEntry_claim_refused kind other lender bad)),
    fun other unlent heir => ?_⟩
  have apart : e.lender ≠ q.holder := by rw [unlent]; exact someone.symm
  have claimed := judged.trans (Package.judgeEntry_claim kind other apart unlent heir)
  refine ⟨fun none_ => trade_begins at_ (claimed.trans (Package.openClaim_begins _ _ none_)), fun c small held => ?_⟩
  have opened := trade_opens at_ (claimed.trans (Package.openClaim_opens _ _ small held))
  rw [ids, word_low] at opened
  exact opened

end

end

end Sys2Proof.Machine

namespace Sys2Proof

/-- Settles O40: a trade by its kind, the last step of a transfer by its resource, and the claim that expires. -/
theorem tradesAndTransfers : Obligations.TradesAndTransfers := by
  refine ⟨fun p chip core slot cause x => ⟨?_, fun cell cancelled stops => ?_⟩, fun s chip id q at_ kind => ?_, fun s chip id x running job => ?_,
    fun s chip id c running job => ?_⟩
  · exact Machine.Package.trapReply_takes p chip core slot cause x
  · rw [Machine.Package.trapReply_retires p chip core slot cause x cancelled stops]
    exact ⟨rfl, rfl, rfl⟩
  · obtain ⟨absent, waits⟩ := Machine.trade_notJudged at_ kind
    refine ⟨absent, waits, fun present free => ?_⟩
    have judged := Machine.Package.judgeTrade_entry ((s.pkg chip).dropJob id) kind
    rw [Machine.word_low, present] at judged
    replace judged := judged.trans ((if_neg (by decide)).trans (if_neg (by rw [Bool.not_eq_true]; exact free)))
    exact ⟨Machine.trade_offers at_ judged, Machine.trade_accepts at_ judged, Machine.trade_returns at_ judged,
      Machine.trade_reclaims at_ judged, fun claim someone => Machine.trade_claims at_ judged (Machine.word_low q.d) someone claim⟩
  · intro p c e written emptied committed last pieces core
    have written_of {q : Machine.Package} (entry : (q.entry x.rid).Passed e x) (mem : q.mem = (p.dropJob id).mem) : written q.prune := by
      obtain ⟨holder, lender, gen, busy, pend, pkind, heir⟩ := entry
      exact ⟨holder, lender, gen, busy, pend, pkind, heir, fun a => congrArg (fun m => Machine.Memory.byte m a) mem⟩
    refine ⟨fun start alone => ?_, fun slot entry len arg creator i start kind unused cell => ?_⟩
    · have unminted : p.mintWaits x = false := by simp [Machine.Package.mintWaits, start]
      obtain ⟨q, done, entry, idle⟩ := Machine.Package.finishTransfer_passes (p := p.dropJob id) (chip := chip) start (s.free 4) alone
      refine ⟨_, Machine.exec_transferComplete running job emptied committed last pieces core unminted done, ?_, ?_⟩
      · rw [Machine.State.pkg_setPkg_same]
        exact written_of entry (Machine.Package.finishTransfer_mem done)
      · rw [Machine.State.pkg_setPkg_same]
        exact idle
    · have unminted : p.mintWaits x = false := by
        have free : (p.core c).threads.any (fun e => decide (e.2.life ≠ .free)) = false := by simpa [List.any_eq_false] using unused
        rw [Machine.Package.mintWaits, free, Bool.and_false]
      obtain ⟨q, done, entry, fresh⟩ := Machine.Package.finishTransfer_mints (p := p.dropJob id) (chip := chip) start kind unused
        (free := s.free 4) cell
      refine ⟨_, Machine.exec_transferComplete running job emptied committed last pieces core unminted done, ?_, ?_⟩
      · rw [Machine.State.pkg_setPkg_same]
        exact written_of entry (Machine.Package.finishTransfer_mem done)
      · rw [Machine.State.pkg_setPkg_same]
        exact fresh
  · obtain ⟨begins, completes⟩ := Machine.claimExpiry_begins (s.pkg chip) id c
    refine ⟨_, Machine.exec_claimExpiry running job, ?_, ?_⟩
    · rw [Machine.State.pkg_setPkg_same]
      exact begins
    · rw [Machine.State.pkg_setPkg_same]
      exact completes

end Sys2Proof
end
section
/-! SUPPORT. Rounding to integers (R44): what the model rounds, in units of the last place, is what the exact number rounds to. -/

namespace Sys2Proof.Machine

/-! ## Real numbers and the integers that they round to -/

/-- The number that a magnitude and a sign make. -/
noncomputable def signedReal (neg : Bool) (t : ℝ) : ℝ := if neg then -t else t

theorem signed_cast (neg : Bool) (n : ℕ) : ((signed neg n : ℤ) : ℝ) = signedReal neg n := by cases neg <;> simp [signed, signedReal]

theorem abs_signedReal (neg : Bool) (t : ℝ) : |signedReal neg t| = |t| := by cases neg <;> simp [signedReal]

theorem signedReal_mul (neg : Bool) (t u : ℝ) : signedReal neg t * u = signedReal neg (t * u) := by cases neg <;> simp [signedReal]

theorem natAbs_signed (neg : Bool) (n : ℕ) : (signed neg n).natAbs = n := by cases neg <;> simp [signed]

theorem signed_natAbs (i : ℤ) : signed (decide (i < 0)) i.natAbs = i := by
  by_cases h : i < 0
  · simp only [signed, h, decide_true, if_true]; omega
  · simp only [signed, h, decide_false, Bool.false_eq_true, if_false]; omega

/-- The choice of the integer above the magnitude n + f, with f below 1 (R44). -/
def RoundsUp (rm : ℕ) (neg : Bool) (n : ℕ) (f : ℝ) : Prop :=
  match rm with
  | 2 => False
  | 3 => neg = true ∧ 0 < f
  | 4 => neg = false ∧ 0 < f
  | 5 => 1 / 2 ≤ f
  | _ => 1 / 2 < f ∨ (f = 1 / 2 ∧ n % 2 = 1)

/-- An integer rounds to itself. -/
theorem roundsTo_self (rm : ℕ) (n : ℤ) : Claims.RoundsTo rm n n := by
  unfold Claims.RoundsTo
  split <;> simp
  exact mul_self_nonneg _

/-- A number rounds to no integer but itself where it is one. -/
theorem eq_of_roundsTo {rm : ℕ} {n k : ℤ} (h : Claims.RoundsTo rm k n) : n = k := by
  have near (h : |(k : ℝ) - n| ≤ 1 / 2) : n = k := by
    have : |((k - n : ℤ) : ℝ)| < 1 := by push_cast; linarith
    rw [← Int.cast_abs] at this
    have : |k - n| < 1 := by exact_mod_cast this
    have := Int.abs_lt_one_iff.mp this
    omega
  unfold Claims.RoundsTo at h
  split at h
  · obtain ⟨low, high, sign⟩ := h
    rw [← Int.cast_abs, ← Int.cast_abs] at low high
    have low : |n| ≤ |k| := by exact_mod_cast low
    have high : |k| < |n| + 1 := by exact_mod_cast high
    have sign : 0 ≤ n * k := by exact_mod_cast sign
    rcases abs_eq_abs.mp (show |n| = |k| by omega) with h | h
    · exact h
    · rw [h] at sign
      have : k = 0 := by nlinarith
      omega
  · simpa using h
  · simpa using h
  · exact near h.1
  · exact near h.1

/-- The magnitude of a rounded number keeps the integer bounds of the exact one. -/
theorem roundsTo_abs_le {rm : ℕ} {x : ℝ} {n : ℤ} (h : Claims.RoundsTo rm x n) {b : ℕ} (hx : |x| ≤ b) : n.natAbs ≤ b := by
  suffices -(b : ℤ) ≤ n ∧ n ≤ b by omega
  obtain ⟨lo, hi⟩ := abs_le.mp hx
  have near (h : |x - n| ≤ 1 / 2) : -(b : ℤ) ≤ n ∧ n ≤ b := by
    obtain ⟨l, u⟩ := abs_le.mp h
    have l' : (n : ℝ) < (b : ℤ) + 1 := by push_cast; linarith
    have u' : ((-b - 1 : ℤ) : ℝ) < n := by push_cast; linarith
    have l' : n < (b : ℤ) + 1 := by exact_mod_cast l'
    have u' : (-b - 1 : ℤ) < n := by exact_mod_cast u'
    omega
  unfold Claims.RoundsTo at h
  split at h
  · have : |(n : ℝ)| ≤ (b : ℤ) := by push_cast; exact h.1.trans hx
    rw [← Int.cast_abs] at this
    exact abs_le.mp (by exact_mod_cast this)
  · subst h
    exact ⟨Int.le_floor.mpr (by push_cast; exact lo), Int.floor_le_iff.mpr (by push_cast; linarith)⟩
  · subst h
    exact ⟨Int.le_ceil_iff.mpr (by push_cast; linarith), Int.ceil_le.mpr (by push_cast; exact hi)⟩
  · exact near h.1
  · exact near h.1

theorem le_roundsTo_abs {rm : ℕ} {x : ℝ} {n : ℤ} (h : Claims.RoundsTo rm x n) {a : ℕ} (hx : (a : ℝ) ≤ |x|) : a ≤ n.natAbs := by
  have goal (h : (a : ℝ) < |(n : ℝ)| + 1) : a ≤ n.natAbs := by
    rw [← Int.cast_abs, Int.abs_eq_natAbs] at h
    have : (a : ℤ) < n.natAbs + 1 := by exact_mod_cast h
    omega
  have near (h : |x - n| ≤ 1 / 2) : a ≤ n.natAbs := by
    have := abs_sub_abs_le_abs_sub x n
    exact goal (by linarith)
  unfold Claims.RoundsTo at h
  split at h
  · exact goal (by linarith [h.2.1])
  · subst h
    apply goal
    rcases abs_cases x with ⟨e, _⟩ | ⟨e, neg⟩
    · have := Int.lt_floor_add_one x
      have := le_abs_self (⌊x⌋ : ℝ)
      linarith
    · have := Int.floor_le x
      have := neg_le_abs (⌊x⌋ : ℝ)
      linarith
  · subst h
    apply goal
    rcases abs_cases x with ⟨e, _⟩ | ⟨e, neg⟩
    · have := Int.le_ceil x
      have := le_abs_self (⌈x⌉ : ℝ)
      linarith
    · have := Int.ceil_lt_add_one x
      have := neg_le_abs (⌈x⌉ : ℝ)
      linarith
  · exact near h.1
  · exact near h.1

theorem int_le_iff_between {c : ℝ} {k : ℤ} (h : (k : ℝ) < c ∧ c < k + 1) (i : ℤ) : (i : ℝ) ≤ c ↔ i ≤ k := by
  refine ⟨fun le => ?_, fun le => (Int.cast_le.mpr le).trans h.1.le⟩
  have : (i : ℝ) < (k + 1 : ℤ) := by push_cast; exact le.trans_lt h.2
  exact Int.lt_add_one_iff.mp (by exact_mod_cast this)

theorem le_int_iff_between {c : ℝ} {k : ℤ} (h : (k : ℝ) < c ∧ c < k + 1) (i : ℤ) : c ≤ i ↔ k < i := by
  refine ⟨fun le => ?_, fun lt => h.2.le.trans ?_⟩
  · exact_mod_cast h.1.trans_le le
  · exact_mod_cast lt

/-- Two numbers between the same neighbouring halves of integers round alike. -/
theorem roundsTo_between {rm : ℕ} {a b : ℝ} {k n : ℤ} (ha : (k : ℝ) < 2 * a ∧ 2 * a < k + 1) (hb : (k : ℝ) < 2 * b ∧ 2 * b < k + 1)
    (h : Claims.RoundsTo rm a n) : Claims.RoundsTo rm b n := by
  have le (i : ℤ) : (i : ℝ) ≤ 2 * a ↔ (i : ℝ) ≤ 2 * b := (int_le_iff_between ha i).trans (int_le_iff_between hb i).symm
  have ge (i : ℤ) : 2 * a ≤ i ↔ 2 * b ≤ i := (le_int_iff_between ha i).trans (le_int_iff_between hb i).symm
  have floor (n : ℤ) (h : n ≤ a ∧ a < n + 1) : n ≤ b ∧ b < n + 1 := by
    have l := (le (2 * n)).mp (by push_cast; linarith)
    have u := mt (le (2 * n + 2)).mpr (by push_cast; linarith)
    push_cast at l u
    constructor <;> linarith
  have ceil (n : ℤ) (h : n - 1 < a ∧ a ≤ n) : n - 1 < b ∧ b ≤ n := by
    have l := mt (ge (2 * n - 2)).mpr (by push_cast; linarith)
    have u := (ge (2 * n)).mp (by push_cast; linarith)
    push_cast at l u
    constructor <;> linarith
  have near (h : |a - n| ≤ 1 / 2) : |b - n| < 1 / 2 := by
    obtain ⟨l, u⟩ := abs_le.mp h
    have l := (int_le_iff_between ha (2 * n - 1)).mp (by push_cast; linarith)
    have u := (le_int_iff_between ha (2 * n + 1)).mp (by push_cast; linarith)
    have l : ((2 * n - 1 : ℤ) : ℝ) ≤ k := by exact_mod_cast l
    have u : (k : ℝ) + 1 ≤ (2 * n + 1 : ℤ) := by exact_mod_cast u
    push_cast at l u
    exact abs_lt.mpr ⟨by linarith, by linarith⟩
  unfold Claims.RoundsTo at h ⊢
  split at h
  · obtain ⟨low, high, sign⟩ := h
    rcases le_or_gt 0 k with pos | neg
    · have k0 : (0 : ℝ) ≤ k := by exact_mod_cast pos
      have a0 : 0 < a := by linarith
      have b0 : 0 < b := by linarith
      have n0 : 0 ≤ (n : ℝ) := nonneg_of_mul_nonneg_left sign a0
      rw [abs_of_nonneg n0, abs_of_pos a0] at low high
      obtain ⟨l, u⟩ := floor n ⟨low, high⟩
      exact ⟨by rw [abs_of_nonneg n0, abs_of_pos b0]; exact l, by rw [abs_of_nonneg n0, abs_of_pos b0]; exact u, by positivity⟩
    · have k0 : (k : ℝ) + 1 ≤ 0 := by exact_mod_cast neg
      have a0 : a < 0 := by linarith
      have b0 : b < 0 := by linarith
      have n0 : (n : ℝ) ≤ 0 := by
        by_contra pos
        nlinarith
      rw [abs_of_nonpos n0, abs_of_neg a0] at low high
      obtain ⟨l, u⟩ := ceil n ⟨by linarith, by linarith⟩
      exact ⟨by rw [abs_of_nonpos n0, abs_of_neg b0]; linarith, by rw [abs_of_nonpos n0, abs_of_neg b0]; linarith,
        mul_nonneg_of_nonpos_of_nonpos n0 b0.le⟩
  · exact (Int.floor_eq_iff.mpr (floor n (Int.floor_eq_iff.mp h.symm))).symm
  · exact (Int.ceil_eq_iff.mpr (ceil n (Int.ceil_eq_iff.mp h.symm))).symm
  · exact ⟨(near h.1).le, fun tie => absurd tie (near h.1).ne⟩
  · exact ⟨(near h.1).le, fun tie => absurd tie (near h.1).ne⟩

/-! ## Magnitudes rounded -/

/-- A magnitude n + f, with f below 1, rounds to n + 1 where `RoundsUp` says so, and to n elsewhere. -/
theorem roundsTo_up {rm : ℕ} {neg : Bool} {n : ℕ} {f : ℝ} (f0 : 0 ≤ f) (f1 : f < 1) {up : Bool} (hup : up = true ↔ RoundsUp rm neg n f) :
    Claims.RoundsTo rm (signedReal neg (n + f)) (signed neg (if up then n + 1 else n)) := by
  have n0 : (0 : ℝ) ≤ n := Nat.cast_nonneg n
  have dist (up : Bool) : |signedReal neg (n + f) - (signed neg (if up then n + 1 else n) : ℤ)| = if up then 1 - f else f := by
    cases up
    · cases neg <;> simp [signedReal, signed_cast, f0]
    · rw [← abs_of_pos (sub_pos.mpr f1)]
      cases neg <;> simp [signedReal, signed_cast, abs_sub_comm, neg_add_eq_sub]
  unfold Claims.RoundsTo
  split
  · have : up = false := by simpa [RoundsUp] using hup
    subst this
    simp only [Bool.false_eq_true, if_false, signed_cast, abs_signedReal, abs_of_nonneg n0, abs_of_nonneg (add_nonneg n0 f0)]
    refine ⟨by linarith, by linarith, ?_⟩
    cases neg <;> simp only [signedReal, Bool.false_eq_true, if_false, if_true] <;> nlinarith
  · symm
    rw [Int.floor_eq_iff, signed_cast]
    cases neg <;> cases up <;> simp [signedReal, RoundsUp] at hup ⊢ <;> constructor <;> linarith
  · symm
    rw [Int.ceil_eq_iff, signed_cast]
    cases neg <;> cases up <;> simp [signedReal, RoundsUp] at hup ⊢ <;> constructor <;> linarith
  · rw [dist]
    cases up <;> simp [abs_signedReal, signed_cast, RoundsUp] at hup ⊢
    · exact ⟨hup.le, fun tie => absurd tie (by simpa using hup.ne)⟩
    · rw [abs_of_nonneg (add_nonneg n0 f0), abs_of_nonneg (by positivity)]
      exact ⟨by linarith, fun _ => by linarith⟩
  · next h2 h3 h4 h5 =>
    have even : up = true ↔ 1 / 2 < f ∨ (f = 1 / 2 ∧ n % 2 = 1) := by
      rw [hup, RoundsUp]
      · exact h2
      · exact h3
      · exact h4
      · exact h5
    have parity (k : ℕ) : Even (signed neg k) ↔ k % 2 = 0 := by
      cases neg <;> simp [signed, even_neg, Nat.even_iff]
    rw [dist, parity]
    cases up <;> simp at even ⊢
    · refine ⟨by simpa using even.1, fun tie => ?_⟩
      have := even.2 (by linarith)
      omega
    · refine ⟨?_, fun tie => ?_⟩
      · rcases even with h | ⟨h, _⟩ <;> linarith
      · rcases even with h | h
        · linarith
        · omega

/-- m / 2^sh rounded by its quotient and its remainder (R44). -/
theorem roundShift_roundsTo (rm : ℕ) (neg : Bool) (m sh : ℕ) :
    Claims.RoundsTo rm (signedReal neg (m / 2 ^ sh)) (signed neg (roundShift rm neg m sh).1) := by
  have unit : (0 : ℝ) < 2 ^ sh := by positivity
  have split_ : (m : ℝ) / 2 ^ sh = (m / 2 ^ sh : ℕ) + (m % 2 ^ sh : ℕ) / 2 ^ sh := by
    rw [div_eq_iff unit.ne', add_mul, div_mul_cancel₀ _ unit.ne']
    exact_mod_cast (Nat.div_add_mod' m (2 ^ sh)).symm
  have small : ((m % 2 ^ sh : ℕ) : ℝ) / 2 ^ sh < 1 := by
    rw [div_lt_one unit]
    exact_mod_cast Nat.mod_lt m (by positivity)
  rw [split_]
  refine roundsTo_up (by positivity) small ?_
  have pos : m % 2 ^ sh ≠ 0 ↔ (0 : ℝ) < (m % 2 ^ sh : ℕ) / 2 ^ sh := by
    rw [lt_div_iff₀ unit, zero_mul, Nat.cast_pos, Nat.pos_iff_ne_zero]
  have above : 2 ^ sh < 2 * (m % 2 ^ sh) ↔ (1 / 2 : ℝ) < (m % 2 ^ sh : ℕ) / 2 ^ sh := by
    rw [lt_div_iff₀ unit, div_mul_eq_mul_div, one_mul, div_lt_iff₀' two_pos]
    exact_mod_cast Iff.rfl
  have atLeast : 2 ^ sh ≤ 2 * (m % 2 ^ sh) ↔ (1 / 2 : ℝ) ≤ (m % 2 ^ sh : ℕ) / 2 ^ sh := by
    rw [le_div_iff₀ unit, div_mul_eq_mul_div, one_mul, div_le_iff₀' two_pos]
    exact_mod_cast Iff.rfl
  have half : 2 ^ sh = 2 * (m % 2 ^ sh) ↔ ((m % 2 ^ sh : ℕ) : ℝ) / 2 ^ sh = 1 / 2 := by
    rw [div_eq_div_iff unit.ne' two_ne_zero, one_mul, mul_comm, eq_comm]
    exact_mod_cast Iff.rfl
  have nonzero : 2 ^ sh = 2 * (m % 2 ^ sh) → m % 2 ^ sh ≠ 0 := fun h => by
    have : 0 < 2 ^ sh := by positivity
    omega
  generalize ((m % 2 ^ sh : ℕ) : ℝ) / 2 ^ sh = f at pos above atLeast half
  unfold RoundsUp
  split
  · simp
  · simp [← pos]
  · simp [← pos]
  · simp only [Bool.and_eq_true, decide_eq_true_eq]
    exact ⟨fun h => atLeast.mp h.2, fun h => ⟨pos.mpr (by linarith), atLeast.mpr h⟩⟩
  · simp only [Bool.or_eq_true, Bool.and_eq_true, decide_eq_true_eq]
    rw [above, ← half]
    tauto

/-! ## Dyadic numbers -/

/-- The number that a dyadic stands for. -/
noncomputable def Dyadic.real (d : Dyadic) : ℝ := d.m * (2 : ℝ) ^ d.e

theorem Dyadic.real_div_of_le {d : Dyadic} {q : ℤ} (h : q ≤ d.e) : d.real / 2 ^ q = (d.m * 2 ^ (d.e - q).toNat : ℤ) := by
  rw [real, mul_div_assoc, ← zpow_sub₀ two_ne_zero]
  push_cast
  rw [← zpow_natCast, Int.toNat_of_nonneg (by omega)]

theorem Dyadic.real_div_of_lt {d : Dyadic} {q : ℤ} (h : d.e < q) : d.real / 2 ^ q = d.m / 2 ^ (q - d.e).toNat := by
  rw [real, mul_div_assoc, ← zpow_sub₀ two_ne_zero, div_eq_mul_inv (d.m : ℝ), ← zpow_natCast, ← zpow_neg, Int.toNat_of_nonneg (by omega)]
  congr 2
  omega

theorem signedReal_natAbs (i : ℤ) : signedReal (decide (i < 0)) i.natAbs = i := by
  rw [← signed_cast, signed_natAbs]

/-- A dyadic rounded to a multiple of 2^q is its number rounded, and the model says when that number is no multiple (R44). -/
theorem roundAt_real (rm : ℕ) (d : Dyadic) (q : ℤ) :
    Claims.RoundsTo rm (d.real / 2 ^ q) (signed (decide (d.m < 0)) (roundAt rm d q).1) ∧
      ((roundAt rm d q).2 = true ↔ ∀ k : ℤ, d.real / 2 ^ q ≠ k) := by
  unfold roundAt
  split
  · next le =>
    have whole : signed (decide (d.m < 0)) (d.m.natAbs * 2 ^ (d.e - q).toNat) = d.m * 2 ^ (d.e - q).toNat := by
      conv_rhs => rw [← signed_natAbs d.m]
      cases decide (d.m < 0) <;> simp [signed]
    simp only [whole, Dyadic.real_div_of_le le]
    exact ⟨roundsTo_self rm _, by simp; exact ⟨d.m * 2 ^ (d.e - q).toNat, by push_cast; rfl⟩⟩
  · next gt =>
    rw [Dyadic.real_div_of_lt (not_le.mp gt)]
    generalize (q - d.e).toNat = sh
    constructor
    · have := roundShift_roundsTo rm (decide (d.m < 0)) d.m.natAbs sh
      rwa [div_eq_mul_inv, ← signedReal_mul, signedReal_natAbs, ← div_eq_mul_inv] at this
    · have unit : ((2 : ℝ) ^ sh) ≠ 0 := by positivity
      have : (∃ k : ℤ, (d.m : ℝ) / 2 ^ sh = k) ↔ d.m.natAbs % 2 ^ sh = 0 := by
        rw [← Nat.dvd_iff_mod_eq_zero, ← Int.natCast_dvd, dvd_iff_exists_eq_mul_left]
        refine exists_congr fun k => ?_
        rw [div_eq_iff unit]
        push_cast
        exact_mod_cast Iff.rfl
      simp only [roundShift, decide_eq_true_eq, ne_eq, ← this, not_exists]

/-- A dyadic that stands for a number: exactly, or with an odd last bit that says that the number is none of the neighbouring multiples
of two units. -/
def Dyadic.Near (d : Dyadic) (x : ℝ) : Prop := x = d.real ∨ (d.m % 2 = 1 ∧ |x - d.real| < 2 ^ d.e)

/-- An odd dyadic, and every number near it, stands strictly between two neighbouring multiples of a coarser unit. -/
theorem Dyadic.between_of_odd {d : Dyadic} {x : ℝ} (odd : d.m % 2 = 1) (close : |x - d.real| < 2 ^ d.e) {q : ℤ} (coarse : d.e < q) :
    ((d.m / 2 ^ (q - d.e).toNat : ℤ) : ℝ) < x / 2 ^ q ∧ x / 2 ^ q < (d.m / 2 ^ (q - d.e).toNat : ℤ) + 1 := by
  obtain ⟨s, hs⟩ : ∃ s : ℕ, q = d.e + s + 1 := ⟨(q - d.e - 1).toNat, by omega⟩
  have sh : (q - d.e).toNat = s + 1 := by omega
  have split_ := Int.mul_ediv_add_emod d.m (2 ^ (s + 1))
  have r0 := Int.emod_nonneg d.m (show (2 : ℤ) ^ (s + 1) ≠ 0 by positivity)
  have r1 := Int.emod_lt_of_pos d.m (show (0 : ℤ) < 2 ^ (s + 1) by positivity)
  have even : (2 : ℤ) ^ (s + 1) = 2 * 2 ^ s := pow_succ' 2 s
  have rodd : d.m % 2 ^ (s + 1) % 2 = 1 := by rw [Int.emod_emod_of_dvd _ ⟨2 ^ s, even⟩, odd]
  rw [sh]
  generalize d.m / 2 ^ (s + 1) = k at *
  generalize d.m % 2 ^ (s + 1) = r at *
  have low : (2 : ℝ) ^ (s + 1) * k + 1 ≤ d.m := by exact_mod_cast (by omega : 2 ^ (s + 1) * k + 1 ≤ d.m)
  have high : (d.m : ℝ) + 1 ≤ 2 ^ (s + 1) * k + 2 ^ (s + 1) := by
    exact_mod_cast (by omega : d.m + 1 ≤ 2 ^ (s + 1) * k + 2 ^ (s + 1))
  have unit : (0 : ℝ) < 2 ^ d.e := by positivity
  have scale : (2 : ℝ) ^ q = 2 ^ (s + 1) * 2 ^ d.e := by
    rw [hs, add_assoc, add_comm, zpow_add₀ two_ne_zero]
    norm_cast
  obtain ⟨l, u⟩ := abs_lt.mp close
  unfold real at l u
  rw [scale, lt_div_iff₀ (by positivity), div_lt_iff₀ (by positivity)]
  constructor <;> nlinarith

/-- Rounding a dyadic rounds the number that it stands for, where the place of rounding is coarse enough (R44). -/
theorem Dyadic.Near.roundAt_spec {d : Dyadic} {x : ℝ} (near : d.Near x) (rm : ℕ) {q : ℤ} (coarse : x = d.real ∨ d.e + 2 ≤ q) :
    Claims.RoundsTo rm (x / 2 ^ q) (signed (decide (d.m < 0)) (roundAt rm d q).1) ∧
      ((roundAt rm d q).2 = true ↔ ∀ k : ℤ, x / 2 ^ q ≠ k) := by
  rcases near with rfl | ⟨odd, close⟩
  · exact roundAt_real rm d q
  rcases coarse with rfl | coarse
  · exact roundAt_real rm d q
  have double (z : ℝ) : 2 * (z / 2 ^ q) = z / 2 ^ (q - 1) := by
    rw [zpow_sub_one₀ two_ne_zero, ← div_eq_mul_inv, div_div_eq_mul_div, mul_div_assoc', mul_comm]
  have self : |d.real - d.real| < 2 ^ d.e := by rw [sub_self, abs_zero]; positivity
  have ha := Dyadic.between_of_odd odd self (show d.e < q - 1 by omega)
  have hb := Dyadic.between_of_odd odd close (show d.e < q - 1 by omega)
  rw [← double] at ha hb
  have apart {z : ℝ} {k : ℤ} (h : (k : ℝ) < 2 * z ∧ 2 * z < k + 1) (i : ℤ) : z ≠ i := by
    rintro rfl
    have l := (int_le_iff_between h (2 * i)).mp (by push_cast; exact le_rfl)
    have u := (le_int_iff_between h (2 * i)).mp (by push_cast; exact le_rfl)
    omega
  obtain ⟨rounds, inexact⟩ := roundAt_real rm d q
  exact ⟨roundsTo_between ha hb rounds, by rw [inexact]; exact ⟨fun _ => apart hb, fun _ => apart ha⟩⟩

theorem Dyadic.abs_real (d : Dyadic) : |d.real| = d.m.natAbs * 2 ^ d.e := by
  rw [real, abs_mul, abs_of_pos (show (0 : ℝ) < 2 ^ d.e by positivity), Nat.cast_natAbs, Int.cast_abs]

theorem Dyadic.real_neg_iff (d : Dyadic) : d.real < 0 ↔ d.m < 0 := by
  have unit : (0 : ℝ) < 2 ^ d.e := by positivity
  rw [real, mul_neg_iff]
  simp [unit, unit.le]

theorem Dyadic.real_eq_zero_iff (d : Dyadic) : d.real = 0 ↔ d.m = 0 := by simp [real, zpow_ne_zero]

/-- A number that an odd dyadic stands for has its sign. -/
theorem Dyadic.Near.neg_iff {d : Dyadic} {x : ℝ} (near : d.Near x) : x < 0 ↔ d.m < 0 := by
  rcases near with rfl | ⟨odd, close⟩
  · exact d.real_neg_iff
  have unit : (0 : ℝ) < 2 ^ d.e := by positivity
  obtain ⟨l, u⟩ := abs_lt.mp close
  unfold real at l u
  constructor
  · intro h
    by_contra pos
    have : (1 : ℝ) ≤ d.m := by exact_mod_cast (by omega : 1 ≤ d.m)
    nlinarith
  · intro h
    have : (d.m : ℝ) ≤ -1 := by exact_mod_cast (by omega : d.m ≤ -1)
    nlinarith

/-- The leading bit of a dyadic is that of the number that it stands for. -/
theorem Dyadic.Near.top {d : Dyadic} {x : ℝ} (near : d.Near x) (hm : d.m ≠ 0) (long : x = d.real ∨ 2 ≤ d.m.natAbs) :
    (2 : ℝ) ^ d.top ≤ |x| ∧ |x| < 2 ^ (d.top + 1) := by
  have unit : (0 : ℝ) < 2 ^ d.e := by positivity
  have low := Nat.log2_self_le (by omega : d.m.natAbs ≠ 0)
  have high := Nat.lt_log2_self (n := d.m.natAbs)
  have lowR : (2 : ℝ) ^ d.m.natAbs.log2 ≤ d.m.natAbs := by exact_mod_cast low
  have highR : (d.m.natAbs : ℝ) < 2 ^ (d.m.natAbs.log2 + 1) := by exact_mod_cast high
  have scale : (2 : ℝ) ^ d.top = 2 ^ d.m.natAbs.log2 * 2 ^ d.e := by
    rw [Dyadic.top, zpow_add₀ two_ne_zero, zpow_natCast]
  have scale1 : (2 : ℝ) ^ (d.top + 1) = 2 ^ (d.m.natAbs.log2 + 1) * 2 ^ d.e := by
    rw [zpow_add_one₀ two_ne_zero, scale, pow_succ]; ring
  rw [scale, scale1]
  have exact_ : 2 ^ d.m.natAbs.log2 * 2 ^ d.e ≤ |d.real| ∧ |d.real| < 2 ^ (d.m.natAbs.log2 + 1) * 2 ^ d.e := by
    rw [Dyadic.abs_real]
    exact ⟨by gcongr, by gcongr⟩
  rcases near with rfl | ⟨odd, close⟩
  · exact exact_
  rcases long with rfl | long
  · exact exact_
  have even : d.m.natAbs.log2 ≠ 0 := fun h => by rw [h] at high; omega
  obtain ⟨k, hk⟩ := Nat.exists_eq_succ_of_ne_zero even
  rw [hk] at low high ⊢
  have low1 : 2 ^ (k + 1) + 1 ≤ d.m.natAbs := by
    have := pow_succ 2 k
    simp only [Nat.succ_eq_add_one] at low
    omega
  have high1 : d.m.natAbs + 1 ≤ 2 ^ (k + 1 + 1) := by simpa using high
  have low1 : (2 : ℝ) ^ (k + 1) + 1 ≤ d.m.natAbs := by exact_mod_cast low1
  have high1 : (d.m.natAbs : ℝ) + 1 ≤ 2 ^ (k + 1 + 1) := by exact_mod_cast high1
  have near := (abs_abs_sub_abs_le_abs_sub x d.real).trans_lt close
  rw [Dyadic.abs_real, abs_lt] at near
  simp only [Nat.succ_eq_add_one]
  constructor <;> nlinarith

end Sys2Proof.Machine
end
section
/-! SUPPORT. Encodings of the floating formats (R35, R38): what a magnitude is worth, and what decoding makes of an encoding. -/

namespace Sys2Proof.Machine

/-- A binary format of IEEE 754 (R35, R38): its bias, its largest finite magnitude and its default NaN from its widths. -/
structure Fmt.Ieee (f : Fmt) : Prop where
  hasInf : f.hasInf = true
  hasNan : f.hasNan = true
  ebits : 2 ≤ f.ebits
  mbits : 1 ≤ f.mbits
  narrow : f.mbits ≤ 52
  bias : f.bias = 2 ^ (f.ebits - 1) - 1
  largest : f.largest = Claims.largestBits f.ebits f.mbits
  nan : f.nan = Claims.nanBits f.ebits f.mbits

theorem fp64_ieee : fp64.Ieee := by constructor <;> decide
theorem fp32_ieee : fp32.Ieee := by constructor <;> decide

/-! ## The value of a magnitude -/

/-- What a magnitude is worth in a format with m fraction bits, whose smallest normal is 2^low (R38). -/
noncomputable def magValue (m : ℕ) (low : ℤ) (mag : ℕ) : ℝ :=
  if mag / 2 ^ m = 0 then mag * 2 ^ (low - m) else (2 ^ m + mag % 2 ^ m : ℕ) * 2 ^ ((mag / 2 ^ m : ℕ) + low - 1 - m)

theorem magValue_subnormal {m : ℕ} (low : ℤ) {mag : ℕ} (h : mag < 2 ^ m) : magValue m low mag = mag * 2 ^ (low - m) := by
  rw [magValue, if_pos (Nat.div_eq_of_lt h)]

theorem magValue_normal {m e n : ℕ} (low : ℤ) (he : e ≠ 0) (hn : n < 2 ^ m) :
    magValue m low (e * 2 ^ m + n) = (2 ^ m + n : ℕ) * 2 ^ (e + low - 1 - m) := by
  have unit : 0 < 2 ^ m := by positivity
  have div : (e * 2 ^ m + n) / 2 ^ m = e := by rw [mul_comm, Nat.mul_add_div unit, Nat.div_eq_of_lt hn, add_zero]
  have mod : (e * 2 ^ m + n) % 2 ^ m = n := by rw [mul_comm, Nat.mul_add_mod, Nat.mod_eq_of_lt hn]
  rw [magValue, div, mod, if_neg he]

theorem magValue_zero (m : ℕ) (low : ℤ) : magValue m low 0 = 0 := by simp [magValue]

/-- Of two magnitudes the greater encoding is worth more (R38). -/
theorem magValue_strictMono (m : ℕ) (low : ℤ) : StrictMono (magValue m low) := by
  refine strictMono_nat_of_lt_succ fun mag => ?_
  have unit : 0 < 2 ^ m := by positivity
  have split_ := Nat.div_add_mod' mag (2 ^ m)
  have hr := Nat.mod_lt mag unit
  generalize mag / 2 ^ m = e at split_
  generalize mag % 2 ^ m = r at split_ hr
  have step : (2 : ℝ) ^ ((e + 1 : ℕ) + low - 1 - m) = 2 * 2 ^ (e + low - 1 - m) := by
    rw [← zpow_one_add₀ two_ne_zero]
    congr 1
    push_cast
    ring
  rcases Nat.lt_or_ge (r + 1) (2 ^ m) with inside | carry
  · rcases Nat.eq_zero_or_pos e with rfl | pos
    · rw [magValue_subnormal low (by omega), magValue_subnormal low (by omega)]
      gcongr
      omega
    · rw [← split_, add_assoc, magValue_normal low pos.ne' hr, magValue_normal low pos.ne' inside]
      gcongr
      omega
  · have last : mag + 1 = (e + 1) * 2 ^ m + 0 := by rw [add_mul]; omega
    rw [last, magValue_normal low (Nat.succ_ne_zero e) unit, step]
    rcases Nat.eq_zero_or_pos e with rfl | pos
    · have same : (2 : ℝ) ^ (low - m) = 2 * 2 ^ ((0 : ℕ) + low - 1 - m) := by
        rw [← zpow_one_add₀ two_ne_zero]
        congr 1
        push_cast
        ring
      have : (mag : ℝ) < (2 ^ m + 0 : ℕ) := by exact_mod_cast (by omega : mag < 2 ^ m + 0)
      rw [magValue_subnormal low (by omega), same]
      gcongr
    · rw [← split_, magValue_normal low pos.ne' hr, ← mul_assoc]
      gcongr
      exact_mod_cast (by omega : 2 ^ m + r < (2 ^ m + 0) * 2)

/-! ## Encodings and what they stand for -/

section
variable (e m x : ℕ)

theorem field_exponent : x % 2 ^ (e + m) / 2 ^ m = x / 2 ^ m % 2 ^ e := by
  rw [pow_add, mul_comm, Nat.mod_mul_right_div_self]

theorem field_fraction : x % 2 ^ (e + m) % 2 ^ m = x % 2 ^ m :=
  Nat.mod_mod_of_dvd x (pow_dvd_pow 2 (Nat.le_add_left m e))

theorem encoding_split : x / 2 ^ m % 2 ^ e * 2 ^ m + x % 2 ^ m = x % 2 ^ (e + m) := by
  have := Nat.div_add_mod' (x % 2 ^ (e + m)) (2 ^ m)
  rwa [field_exponent, field_fraction] at this

/-- The value of an encoding is its magnitude's, with its sign (R38). -/
theorem value_eq : ((Claims.value e m x : ℚ) : ℝ) =
    signedReal (Claims.negative e m x) (magValue m (2 - 2 ^ (e - 1)) (x % 2 ^ (e + m))) := by
  have sign (t : ℚ) : (((if Claims.negative e m x then -1 else 1) * t : ℚ) : ℝ) = signedReal (Claims.negative e m x) t := by
    cases Claims.negative e m x <;> simp [signedReal]
  rw [Claims.value, sign, magValue, field_exponent, field_fraction]
  congr 1
  split_ifs with sub
  · rw [← encoding_split, sub, zero_mul, zero_add]
    push_cast
    rfl
  · push_cast
    congr 2
    ring

theorem isInf_iff : Claims.isInf e m x ↔ x % 2 ^ (e + m) = Claims.infBits e m := by
  have frac := Nat.mod_lt x (show 0 < 2 ^ m by positivity)
  rw [Claims.isInf, Claims.infBits, ← encoding_split]
  constructor
  · rintro ⟨h, h'⟩
    rw [h, h', add_zero]
  · intro h
    have div := congrArg (· / 2 ^ m) h
    have mod := congrArg (· % 2 ^ m) h
    simpa [mul_comm _ (2 ^ m), Nat.mul_add_div, Nat.mul_add_mod, Nat.div_eq_of_lt frac] using And.intro div mod

theorem isNaN_iff : Claims.isNaN e m x ↔ Claims.infBits e m < x % 2 ^ (e + m) := by
  have frac := Nat.mod_lt x (show 0 < 2 ^ m by positivity)
  have exp := Nat.mod_lt (x / 2 ^ m) (show 0 < 2 ^ e by positivity)
  rw [Claims.isNaN, Claims.infBits, ← encoding_split]
  generalize x / 2 ^ m % 2 ^ e = E at *
  constructor
  · rintro ⟨rfl, h'⟩
    omega
  · intro h
    have : ¬ E < 2 ^ e - 1 := fun lt => by
      have := Nat.mul_le_mul_right (2 ^ m) (Nat.succ_le_of_lt lt)
      rw [Nat.succ_mul] at this
      omega
    obtain rfl : E = 2 ^ e - 1 := by omega
    exact ⟨rfl, by omega⟩

theorem isFinite_iff : Claims.isFinite e m x ↔ x % 2 ^ (e + m) < Claims.infBits e m := by
  have frac := Nat.mod_lt x (show 0 < 2 ^ m by positivity)
  rw [Claims.isFinite, Claims.infBits, ← encoding_split]
  generalize x / 2 ^ m % 2 ^ e = E at *
  constructor
  · intro h
    have := Nat.mul_le_mul_right (2 ^ m) (Nat.succ_le_of_lt h)
    rw [Nat.succ_mul] at this
    omega
  · intro h
    by_contra ge
    have := Nat.mul_le_mul_right (2 ^ m) (not_lt.mp ge)
    omega

end

/-! ## Decoding -/

/-- What a decoded operand stands for. -/
noncomputable def Num.exact : Num → Claims.Exact
  | .nan sig => .nan sig
  | .inf neg => .inf neg
  | .zero neg => .zero neg
  | .fin d => .real d.real

/-- A finite operand is not zero. -/
def Num.Proper : Num → Prop
  | .fin d => d.m ≠ 0
  | _ => True

theorem Fmt.inf_eq (f : Fmt) : f.inf = Claims.infBits f.ebits f.mbits := rfl

theorem Fmt.bias_eq (f : Fmt) : (f.bias : ℤ) = 1 - f.emin := by rw [Fmt.emin]; ring

section
variable {f : Fmt} (hf : f.Ieee)
include hf

theorem Fmt.Ieee.emin_eq : f.emin = 2 - 2 ^ (f.ebits - 1) := by
  have : 1 ≤ 2 ^ (f.ebits - 1) := Nat.one_le_two_pow
  rw [Fmt.emin, hf.bias]
  push_cast [this]
  ring

/-- What a finite magnitude other than zero decodes to: a dyadic of its value, with no more bits than the fraction and the leading one,
from the place of the last bit of the subnormals on (R38). -/
structure Fmt.Decodes (f : Fmt) (neg : Bool) (mag : ℕ) (d : Dyadic) : Prop where
  real : d.real = signedReal neg (magValue f.mbits f.emin mag)
  short : d.m.natAbs < 2 ^ (f.mbits + 1)
  proper : d.m ≠ 0
  low : f.emin - f.mbits ≤ d.e
  high : d.e ≤ 2 ^ f.ebits

omit hf in
theorem Fmt.finite_decodes (f : Fmt) (neg : Bool) {mag : ℕ} (nonzero : mag ≠ 0) (bound : mag < 2 ^ (f.ebits + f.mbits)) :
    ∃ d : Dyadic, f.finite neg mag = .fin d ∧ f.Decodes neg mag d := by
  have unit : 0 < 2 ^ f.mbits := by positivity
  have frac := Nat.mod_lt mag unit
  have exp : mag / 2 ^ f.mbits < 2 ^ f.ebits := by
    rw [Nat.div_lt_iff_lt_mul unit, ← pow_add]
    exact bound
  have whole := Nat.div_add_mod' mag (2 ^ f.mbits)
  have double := pow_succ 2 f.mbits
  have real (n : ℕ) (e : ℤ) : (⟨signed neg n, e⟩ : Dyadic).real = signedReal neg (n * 2 ^ e) := by
    rw [Dyadic.real, signed_cast, signedReal_mul]
  have nz (n : ℕ) (h : n ≠ 0) : signed neg n ≠ 0 := by cases neg <;> simpa [signed] using h
  have emin := f.bias_eq
  simp only [Fmt.finite, nonzero, if_false]
  by_cases sub : mag / 2 ^ f.mbits = 0
  · rw [sub, zero_mul, zero_add] at whole
    refine ⟨_, if_pos sub, ⟨?_, ?_, nz _ (by omega), le_rfl, ?_⟩⟩
    · rw [real, magValue, if_pos sub, whole]
    · rw [natAbs_signed]; omega
    · have : (0 : ℤ) < 2 ^ f.ebits := by positivity
      have := Nat.one_le_two_pow (n := f.ebits)
      show f.emin - f.mbits ≤ 2 ^ f.ebits
      have : f.emin ≤ 1 := by rw [Fmt.emin]; omega
      have : (1 : ℤ) ≤ 2 ^ f.ebits := by omega
      omega
  · refine ⟨_, if_neg sub, ⟨?_, ?_, nz _ (by omega), ?_, ?_⟩⟩
    · rw [real, magValue, if_neg sub]
      congr 3
      omega
    · rw [natAbs_signed]; omega
    · show f.emin - f.mbits ≤ ((mag / 2 ^ f.mbits : ℕ) : ℤ) - f.bias - f.mbits
      generalize mag / 2 ^ f.mbits = e at sub ⊢
      omega
    · show ((mag / 2 ^ f.mbits : ℕ) : ℤ) - f.bias - f.mbits ≤ 2 ^ f.ebits
      have : ((mag / 2 ^ f.mbits : ℕ) : ℤ) < 2 ^ f.ebits := by exact_mod_cast exp
      omega

/-- What an encoding stands for, by its magnitude (R38). -/
theorem Fmt.Ieee.decode_cases (x : ℕ) :
    let neg := Claims.negative f.ebits f.mbits x
    let mag := x % 2 ^ (f.ebits + f.mbits)
    (Claims.isInf f.ebits f.mbits x ∧ f.decode x = .inf neg) ∨
    (Claims.isNaN f.ebits f.mbits x ∧ ∃ sig, f.decode x = .nan sig ∧ (sig = true ↔ Claims.isSNaN f.ebits f.mbits x)) ∨
    (Claims.isFinite f.ebits f.mbits x ∧ mag = 0 ∧ f.decode x = .zero neg) ∨
    (Claims.isFinite f.ebits f.mbits x ∧ mag ≠ 0 ∧ ∃ d, f.decode x = .fin d ∧ f.Decodes neg mag d) := by
  intro neg mag
  have bound : mag < 2 ^ (f.ebits + f.mbits) := Nat.mod_lt x (by positivity)
  have sign : decide (x / f.signBit % 2 = 1) = neg := rfl
  have magnitude : x % f.signBit = mag := rfl
  simp only [isInf_iff, isNaN_iff, isFinite_iff, Claims.isSNaN, ← f.inf_eq]
  have quiet : (decide (mag / 2 ^ (f.mbits - 1) % 2 = 0) = true ↔ x % 2 ^ f.mbits < 2 ^ (f.mbits - 1)) := by
    have frac : x % 2 ^ f.mbits = mag % (2 ^ (f.mbits - 1) * 2) := by
      rw [← pow_succ, Nat.sub_add_cancel hf.mbits, ← field_fraction f.ebits]
    have := Nat.mod_lt (mag / 2 ^ (f.mbits - 1)) two_pos
    rw [frac, Nat.mod_mul, decide_eq_true_eq]
    have := Nat.mod_lt mag (show 0 < 2 ^ (f.mbits - 1) by positivity)
    rcases Nat.mod_two_eq_zero_or_one (mag / 2 ^ (f.mbits - 1)) with h | h <;> rw [h] <;> omega
  have decode : f.decode x = if mag = f.inf then .inf neg else if f.inf < mag then .nan (mag / 2 ^ (f.mbits - 1) % 2 = 0)
      else f.finite neg mag := by
    simp only [Fmt.decode, hf.hasInf, hf.hasNan, true_and, Bool.true_eq_false, false_and, if_false]
    rfl
  rw [decode]
  rcases lt_trichotomy mag f.inf with lt | eq | gt
  · rw [if_neg lt.ne, if_neg lt.not_gt]
    by_cases zero : mag = 0
    · exact .inr (.inr (.inl ⟨lt, zero, by simp [Fmt.finite, zero]⟩))
    · exact .inr (.inr (.inr ⟨lt, zero, f.finite_decodes neg zero bound⟩))
  · exact .inl ⟨eq, if_pos eq⟩
  · rw [if_neg gt.ne', if_pos gt]
    exact .inr (.inl ⟨gt, _, rfl, by rw [quiet]; exact ⟨fun h => ⟨gt, h⟩, fun h => h.2⟩⟩)

/-- Decoding gives what the encoding stands for (R36, R38). -/
theorem Fmt.Ieee.standsFor_decode (x : ℕ) : Claims.StandsFor f.ebits f.mbits x (f.decode x).exact := by
  have value := value_eq f.ebits f.mbits x
  rw [← hf.emin_eq] at value
  rcases hf.decode_cases x with ⟨h, e⟩ | ⟨h, sig, e, quiet⟩ | ⟨h, zero, e⟩ | ⟨h, nonzero, d, e, real, -, proper, -⟩
  · rw [e]; exact ⟨h, rfl⟩
  · rw [e]; exact ⟨h, quiet⟩
  · rw [e]
    refine ⟨h, ?_, rfl⟩
    rw [zero, magValue_zero] at value
    simpa [signedReal] using value
  · rw [e]
    rw [← real] at value
    refine ⟨h, fun zero => ?_, value.symm⟩
    rw [zero, Rat.cast_zero, eq_comm, Dyadic.real_eq_zero_iff] at value
    exact proper value

theorem Fmt.Ieee.decode_proper (x : ℕ) : (f.decode x).Proper := by
  rcases hf.decode_cases x with ⟨-, e⟩ | ⟨-, sig, e, -⟩ | ⟨-, -, e⟩ | ⟨-, -, d, e, decodes⟩ <;> rw [e]
  · trivial
  · trivial
  · trivial
  · exact decodes.proper

theorem Fmt.Ieee.decode_fin {x : ℕ} {d : Dyadic} (h : f.decode x = .fin d) :
    f.Decodes (Claims.negative f.ebits f.mbits x) (x % 2 ^ (f.ebits + f.mbits)) d := by
  rcases hf.decode_cases x with ⟨-, e⟩ | ⟨-, sig, e, -⟩ | ⟨-, -, e⟩ | ⟨-, -, d, e, decodes⟩ <;> rw [e] at h <;> cases h
  exact decodes

end

/-- An encoding stands for one thing. -/
theorem standsFor_unique {e m x : ℕ} {a b : Claims.Exact} (ha : Claims.StandsFor e m x a) (hb : Claims.StandsFor e m x b) : a = b := by
  cases a <;> cases b <;> simp only [Claims.StandsFor, isNaN_iff, isInf_iff, isFinite_iff] at ha hb
  case nan.nan => rw [Bool.eq_iff_iff.mpr (ha.2.trans hb.2.symm)]
  case inf.inf => rw [ha.2, hb.2]
  case zero.zero => rw [ha.2.2, hb.2.2]
  case real.real => rw [ha.2.2, hb.2.2]
  case zero.real => exact absurd ha.2.1 hb.2.1
  case real.zero => exact absurd hb.2.1 ha.2.1
  all_goals omega

end Sys2Proof.Machine
end
section
/-! SUPPORT. Exact numbers rounded into a format (R44, R47, R50): the model's encoding and flags are those of the number rounded once. -/

namespace Sys2Proof.Machine

/-- The magnitude n × 2^q packed as an encoding is worth that much (R38). -/
theorem Fmt.magValue_pack (f : Fmt) {n : ℕ} {q : ℤ} (bound : n ≤ 2 ^ (f.mbits + 1)) (low : f.emin - f.mbits ≤ q)
    (sub : n < 2 ^ f.mbits → q = f.emin - f.mbits) : magValue f.mbits f.emin (f.pack n q) = n * 2 ^ q := by
  have bias := f.bias_eq
  have unit : 0 < 2 ^ f.mbits := by positivity
  have double := pow_succ 2 f.mbits
  unfold Fmt.pack
  split_ifs with h1 h2
  · rw [magValue_subnormal _ h1, sub h1]
  · have := magValue_normal f.emin (show (q + 1 + f.mbits + f.bias).toNat ≠ 0 by omega) unit
    rw [add_zero] at this
    rw [this, h2, Int.toNat_of_nonneg (by omega), show q + 1 + f.mbits + f.bias + f.emin - 1 - f.mbits = 1 + q by omega,
      zpow_one_add₀ two_ne_zero]
    push_cast
    ring
  · rw [magValue_normal f.emin (by omega) (by omega), Int.toNat_of_nonneg (by omega), Nat.add_sub_cancel' (by omega),
      show q + f.mbits + f.bias + f.emin - 1 - f.mbits = q by omega]

/-- The largest finite number of a format. -/
theorem Fmt.Ieee.magValue_largest {f : Fmt} (hf : f.Ieee) :
    magValue f.mbits f.emin f.largest = (2 ^ (f.mbits + 1) - 1) * (2 : ℝ) ^ ((2 : ℤ) ^ (f.ebits - 1) - 1 - f.mbits) := by
  obtain ⟨e, he⟩ : ∃ e, f.ebits = e + 2 := ⟨f.ebits - 2, by have := hf.ebits; omega⟩
  have unit : 0 < 2 ^ f.mbits := by positivity
  have one : 1 ≤ 2 ^ e := Nat.one_le_two_pow
  have split_ : f.largest = (2 ^ f.ebits - 2) * 2 ^ f.mbits + (2 ^ f.mbits - 1) := by
    have : 2 ^ f.ebits - 1 = (2 ^ f.ebits - 2) + 1 := by rw [he, pow_add]; omega
    rw [hf.largest, Claims.largestBits, this, add_one_mul]
    omega
  have two : 2 ^ f.ebits - 2 ≠ 0 := by rw [he, pow_add]; omega
  have exponent : ((2 ^ (e + 2) - 2 : ℕ) : ℤ) = 2 * 2 ^ (e + 1) - 2 := by
    rw [pow_succ' 2 (e + 1)]
    push_cast [show 2 ≤ 2 * 2 ^ (e + 1) by omega]
    rfl
  rw [split_, magValue_normal f.emin two (by omega), hf.emin_eq, he, exponent, show e + 2 - 1 = e + 1 by omega]
  congr 1
  · push_cast [show 1 ≤ 2 ^ f.mbits by omega]
    ring
  · congr 1
    ring

/-- A dyadic that stands for a number precisely enough for a format: exactly, or with two bits and more beyond the fraction. -/
structure Fmt.Takes (f : Fmt) (d : Dyadic) (x : ℝ) : Prop where
  near : d.Near x
  proper : d.m ≠ 0
  precise : x = d.real ∨ f.mbits + 2 ≤ d.m.natAbs.log2

section
variable {f : Fmt} {d : Dyadic} {x : ℝ}

/-- The place of the last fraction bit where the exponent has no bounds, and in the format. -/
def Fmt.free (f : Fmt) (d : Dyadic) : ℤ := d.top - f.mbits
def Fmt.place (f : Fmt) (d : Dyadic) : ℤ := max (f.free d) (f.emin - f.mbits)

theorem Fmt.Takes.exact {d : Dyadic} (f : Fmt) (proper : d.m ≠ 0) : f.Takes d d.real := ⟨.inl rfl, proper, .inl rfl⟩

/-- The number has its leading bit where the dyadic has it. -/
theorem Fmt.Takes.top (h : f.Takes d x) : (2 : ℝ) ^ (f.free d + f.mbits) ≤ |x| ∧ |x| < 2 ^ (f.free d + f.mbits + 1) := by
  rw [Fmt.free, sub_add_cancel]
  refine h.near.top h.proper (h.precise.imp_right fun long => ?_)
  calc 2 = 2 ^ 1 := rfl
    _ ≤ 2 ^ d.m.natAbs.log2 := Nat.pow_le_pow_right two_pos (by omega)
    _ ≤ d.m.natAbs := Nat.log2_self_le (by have := h.proper; omega)

/-- The dyadic rounds as the number does, wherever the format rounds. -/
theorem Fmt.Takes.roundAt_spec (h : f.Takes d x) (rm : ℕ) {q : ℤ} (coarse : f.free d ≤ q) :
    Claims.RoundsTo rm (x / 2 ^ q) (signed (decide (d.m < 0)) (roundAt rm d q).1) ∧
      ((roundAt rm d q).2 = true ↔ ∀ k : ℤ, x / 2 ^ q ≠ k) := by
  refine h.near.roundAt_spec rm (h.precise.imp_right fun long => ?_)
  rw [Fmt.free, Dyadic.top] at coarse
  omega

theorem abs_div_unit (x : ℝ) (q : ℤ) : |x / 2 ^ q| = |x| / 2 ^ q := by
  rw [abs_div, abs_of_pos (show (0 : ℝ) < 2 ^ q by positivity)]

/-- The magnitude rounded where the exponent has no bounds keeps the leading bit, or is the next power of two (R44). -/
theorem Fmt.Takes.free_bounds (h : f.Takes d x) (rm : ℕ) :
    2 ^ f.mbits ≤ (roundAt rm d (f.free d)).1 ∧ (roundAt rm d (f.free d)).1 ≤ 2 ^ (f.mbits + 1) := by
  have rounds := (h.roundAt_spec rm le_rfl).1
  have unit : (0 : ℝ) < 2 ^ f.free d := by positivity
  obtain ⟨low, high⟩ := h.top
  rw [add_assoc, zpow_add₀ two_ne_zero, ← Nat.cast_add_one, zpow_natCast] at high
  rw [zpow_add₀ two_ne_zero, zpow_natCast] at low
  have l := le_roundsTo_abs rounds (a := 2 ^ f.mbits) (by rw [abs_div_unit, le_div_iff₀' unit]; push_cast; exact low)
  have u := roundsTo_abs_le rounds (b := 2 ^ (f.mbits + 1)) (by rw [abs_div_unit, div_le_iff₀' unit]; push_cast; exact high.le)
  rw [natAbs_signed] at l u
  exact ⟨l, u⟩

/-- The magnitude rounded at its place in the format fits the fraction and the leading bit, and falls below that bit among the subnormals
alone. -/
theorem Fmt.Takes.place_bounds (h : f.Takes d x) (rm : ℕ) : (roundAt rm d (f.place d)).1 ≤ 2 ^ (f.mbits + 1) ∧
    ((roundAt rm d (f.place d)).1 < 2 ^ f.mbits → f.place d = f.emin - f.mbits) := by
  rcases le_total (f.emin - f.mbits) (f.free d) with normal | sub
  · rw [Fmt.place, max_eq_left normal]
    have := h.free_bounds rm
    exact ⟨this.2, fun lt => by omega⟩
  · rw [Fmt.place, max_eq_right sub]
    refine ⟨?_, fun _ => rfl⟩
    have rounds := (h.roundAt_spec rm sub).1
    have unit : (0 : ℝ) < 2 ^ (f.emin - f.mbits) := by positivity
    have u := roundsTo_abs_le rounds (b := 2 ^ (f.mbits + 1)) (by
      rw [abs_div_unit, div_le_iff₀' unit]
      push_cast
      refine h.top.2.le.trans ?_
      rw [← zpow_natCast, ← zpow_add₀ two_ne_zero]
      exact zpow_le_zpow_right₀ one_le_two (by push_cast; omega))
    rwa [natAbs_signed] at u

/-- The magnitude rounded there. -/
def Fmt.rounded (f : Fmt) (rm : ℕ) (d : Dyadic) : ℕ := f.pack (roundAt rm d (f.place d)).1 (f.place d)

/-- A result rounded where the exponent has no bounds lies below the normal numbers (R47). -/
def Fmt.tiny (f : Fmt) (rm : ℕ) (d : Dyadic) : Bool :=
  decide (f.free d + f.mbits < f.emin) &&
    !(decide ((roundAt rm d (f.free d)).1 = 2 ^ (f.mbits + 1)) && decide (f.free d + 1 + f.mbits = f.emin))

/-- Rounding overflows, or packs the rounded magnitude (R47, R50). -/
theorem Fmt.round_eq (f : Fmt) (rm : ℕ) (d : Dyadic) : f.round rm d =
    if f.largest < f.rounded rm d then ⟨f.largest, 5, true⟩
    else ⟨f.rounded rm d, (if (roundAt rm d (f.place d)).2 then (if f.tiny rm d then 3 else 1) else 0), false⟩ := by
  have place : f.place d = if f.emin - f.mbits ≤ d.top - f.mbits then d.top - f.mbits else f.emin - f.mbits := by
    rw [Fmt.place, Fmt.free, max_def']
  unfold Fmt.round Fmt.rounded Fmt.tiny Fmt.free
  simp only [← place]
  have flags (inexact tiny : Bool) : ((if inexact then flagNX else 0) ||| (if inexact && tiny then flagUF else 0)) =
      if inexact then (if tiny then 3 else 1) else 0 := by cases inexact <;> cases tiny <;> rfl
  split
  · rfl
  · exact congrArg (Rounded.mk _ · _) (flags _ _)

/-- The magnitude rounded in the format is worth the rounded number. -/
theorem Fmt.Takes.magValue_rounded (h : f.Takes d x) (rm : ℕ) :
    magValue f.mbits f.emin (f.rounded rm d) = (roundAt rm d (f.place d)).1 * 2 ^ f.place d := by
  have bounds := h.place_bounds rm
  exact f.magValue_pack bounds.1 (le_max_right _ _) bounds.2

/-- The model's test says whether the number, rounded where the exponent has no bounds, lies below the smallest normal (R47). -/
theorem Fmt.Takes.tiny_iff (h : f.Takes d x) (rm : ℕ) :
    f.tiny rm d = true ↔ ((roundAt rm d (f.free d)).1 : ℝ) * 2 ^ f.free d < 2 ^ f.emin := by
  obtain ⟨low, high⟩ := h.free_bounds rm
  unfold Fmt.tiny
  generalize (roundAt rm d (f.free d)).1 = n at low high ⊢
  have unit : (0 : ℝ) < 2 ^ f.free d := by positivity
  have scale (k : ℕ) : (2 : ℝ) ^ (f.free d + k) = (2 ^ k : ℕ) * 2 ^ f.free d := by
    rw [add_comm, zpow_add₀ two_ne_zero, zpow_natCast]
    push_cast
    rfl
  simp only [Bool.and_eq_true, Bool.not_eq_true', Bool.and_eq_false_iff, decide_eq_true_eq, decide_eq_false_iff_not]
  rcases lt_trichotomy (f.free d + f.mbits + 1) f.emin with below | last | above
  · refine iff_of_true ⟨by omega, .inr (by omega)⟩ ?_
    calc (n : ℝ) * 2 ^ f.free d ≤ (2 ^ (f.mbits + 1) : ℕ) * 2 ^ f.free d := by gcongr
      _ = 2 ^ (f.free d + (f.mbits + 1 : ℕ)) := (scale _).symm
      _ < 2 ^ f.emin := zpow_lt_zpow_right₀ one_lt_two (by push_cast; omega)
  · rw [show f.emin = f.free d + (f.mbits + 1 : ℕ) by push_cast; omega, scale, mul_lt_mul_iff_left₀ unit, Nat.cast_lt]
    constructor
    · rintro ⟨-, h | h⟩
      · omega
      · push_cast at h; omega
    · intro h
      exact ⟨by push_cast; omega, .inl (by omega)⟩
  · refine iff_of_false (fun h => by omega) (not_lt.mpr ?_)
    calc (2 : ℝ) ^ f.emin ≤ 2 ^ (f.free d + f.mbits) := zpow_le_zpow_right₀ one_le_two (by omega)
      _ = (2 ^ f.mbits : ℕ) * 2 ^ f.free d := scale _
      _ ≤ n * 2 ^ f.free d := by gcongr

theorem Fmt.withSign_mod (f : Fmt) (neg : Bool) {mag : ℕ} (bound : mag < 2 ^ (f.ebits + f.mbits)) :
    f.withSign neg mag % 2 ^ (f.ebits + f.mbits) = mag := by
  cases neg
  · exact Nat.mod_eq_of_lt bound
  · exact (Nat.add_mod_left _ _).trans (Nat.mod_eq_of_lt bound)

theorem Fmt.negative_withSign (f : Fmt) (neg : Bool) {mag : ℕ} (bound : mag < 2 ^ (f.ebits + f.mbits)) :
    Claims.negative f.ebits f.mbits (f.withSign neg mag) = neg := by
  have unit : 0 < 2 ^ (f.ebits + f.mbits) := by positivity
  cases neg
  · simp [Claims.negative, Fmt.withSign, Nat.div_eq_of_lt bound]
  · simp [Claims.negative, Fmt.withSign, Fmt.signBit, Nat.add_div_left _ unit, Nat.div_eq_of_lt bound]

theorem Fmt.withSign_lt (f : Fmt) (neg : Bool) {mag : ℕ} (bound : mag < 2 ^ (f.ebits + f.mbits)) :
    f.withSign neg mag < 2 ^ (1 + f.ebits + f.mbits) := by
  rw [add_assoc, pow_add, pow_one]
  cases neg
  · simp only [Fmt.withSign, Bool.false_eq_true, if_false]; omega
  · simp only [Fmt.withSign, if_true, Fmt.signBit]; omega

theorem Fmt.infBits_lt (f : Fmt) : Claims.infBits f.ebits f.mbits < 2 ^ (f.ebits + f.mbits) := by
  have := Nat.one_le_two_pow (n := f.ebits)
  rw [Claims.infBits, pow_add]
  exact Nat.mul_lt_mul_of_pos_right (by omega) (by positivity)

theorem Fmt.Ieee.largest_lt (hf : f.Ieee) : f.largest < Claims.infBits f.ebits f.mbits := by
  have : 0 < Claims.infBits f.ebits f.mbits := Nat.mul_pos (by
    have := Nat.pow_le_pow_right two_pos hf.ebits
    omega) (by positivity)
  rw [hf.largest, Claims.largestBits]
  exact Nat.sub_one_lt this.ne'

/-- What stands below the infinity, with a sign, is a finite encoding of its value (R38). -/
theorem Fmt.Ieee.value_withSign (hf : f.Ieee) (neg : Bool) {mag : ℕ} (bound : mag < Claims.infBits f.ebits f.mbits) :
    Claims.isFinite f.ebits f.mbits (f.withSign neg mag) ∧
      ((Claims.value f.ebits f.mbits (f.withSign neg mag) : ℚ) : ℝ) = signedReal neg (magValue f.mbits f.emin mag) := by
  have fits := bound.trans f.infBits_lt
  rw [isFinite_iff, value_eq, f.withSign_mod neg fits, f.negative_withSign neg fits, hf.emin_eq]
  exact ⟨bound, rfl⟩

/-- Rounding an exact number into a format gives its encoding, rounded once, with its flags (R44, R47, R50). -/
theorem Fmt.Ieee.round_rounded (hf : f.Ieee) (h : f.Takes d x) (rm : ℕ) (excess : Bool → ℕ) :
    Claims.Rounded f.ebits f.mbits rm excess x
      (if (f.round rm d).ovf then excess (decide (d.m < 0)) else f.withSign (decide (d.m < 0)) (f.round rm d).mag) (f.round rm d).flags := by
  have place : max (f.free d) (2 - 2 ^ (f.ebits - 1) - f.mbits) = f.place d := by rw [Fmt.place, hf.emin_eq]
  obtain ⟨rounds, inexact⟩ := h.roundAt_spec rm (q := f.place d) (le_max_left _ _)
  have unit : (0 : ℝ) < 2 ^ f.place d := by positivity
  have tiny := h.tiny_iff rm
  have value := h.magValue_rounded rm
  have neg := h.near.neg_iff
  refine ⟨f.free d, signed (decide (d.m < 0)) (roundAt rm d (f.place d)).1, signed (decide (d.m < 0)) (roundAt rm d (f.free d)).1,
    h.top.1, h.top.2, ?_⟩
  dsimp only
  rw [place, ← hf.emin_eq, ← hf.magValue_largest, signed_cast, signed_cast, signedReal_mul, ← value, abs_signedReal, abs_signedReal,
    Nat.abs_cast, ← tiny]
  have pos : 0 ≤ magValue f.mbits f.emin (f.rounded rm d) := by rw [value]; positivity
  have same : signedReal (decide (d.m < 0)) (magValue f.mbits f.emin (f.rounded rm d)) = x ↔ (roundAt rm d (f.place d)).2 = false := by
    rw [← Bool.not_eq_true, inexact, value, ← signedReal_mul, ← signed_cast]
    push Not
    constructor
    · intro e
      exact ⟨_, by rw [← e, mul_div_cancel_right₀ _ unit.ne']⟩
    · rintro ⟨k, e⟩
      rw [e] at rounds
      rw [eq_of_roundsTo rounds, ← e, div_mul_cancel₀ _ unit.ne']
  rw [abs_of_nonneg pos, (magValue_strictMono f.mbits f.emin).lt_iff_lt, (magValue_strictMono f.mbits f.emin).le_iff_le, f.round_eq]
  refine ⟨rounds, (h.roundAt_spec rm le_rfl).1, fun above => ?_, fun within => ?_⟩
  · rw [if_pos above]
    refine ⟨fun lt => ?_, fun gt => ?_, rfl⟩
    · simp [neg.mp lt]
    · simp [mt neg.mpr gt.not_gt]
  · rw [if_neg within.not_gt]
    have bound := within.trans_lt hf.largest_lt
    obtain ⟨finite, worth⟩ := hf.value_withSign (decide (d.m < 0)) bound
    have sign := f.negative_withSign (decide (d.m < 0)) (bound.trans f.infBits_lt)
    refine ⟨f.withSign_lt _ (bound.trans f.infBits_lt), finite, worth, ?_, fun e => ?_, fun e => ?_, fun e => ?_⟩
    · exact (Bool.eq_iff_iff.mp sign).trans (decide_eq_true_iff.trans neg.symm)
    · simp [same.mp e]
    · simp [mt same.mpr e.1, e.2]
    · simp [mt same.mpr e.1, e.2]

end

end Sys2Proof.Machine
end
section
/-! SUPPORT. Floating-point arithmetic (R36, R44, R47, R124 to R126): the model's results are the exact ones, rounded once. -/

namespace Sys2Proof.Machine

/-! ## Results -/

/-- A result has the bits and the flags that an exact one gives in a format (R47, R124). -/
def Fmt.Rounds (f : Fmt) (rm : ℕ) (c : Claims.Exact) (r : FRes) : Prop :=
  Claims.Gives f.ebits f.mbits rm (Claims.overflowed f.ebits f.mbits rm) c r.bits r.flags

section
variable {f : Fmt} (hf : f.Ieee) (rm : ℕ)

theorem Fmt.rounds_inf (f : Fmt) (neg : Bool) : f.Rounds rm (.inf neg) ⟨f.withSign neg f.inf, 0⟩ := ⟨rfl, rfl⟩
theorem Fmt.rounds_zero (f : Fmt) (neg : Bool) : f.Rounds rm (.zero neg) ⟨f.withSign neg 0, 0⟩ := ⟨rfl, rfl⟩
theorem Fmt.rounds_zeroSum (f : Fmt) : f.Rounds rm (.zero (decide (rm = 3))) (f.zeroSum rm) := f.rounds_zero rm _
theorem Fmt.rounds_byZero (f : Fmt) (neg : Bool) : f.Rounds rm (.byZero neg) ⟨f.withSign neg f.inf, flagDZ⟩ := ⟨rfl, rfl⟩

include hf

theorem Fmt.Ieee.rounds_quiet (sig : Bool) : f.Rounds rm (.nan sig) (f.quiet sig) := ⟨hf.nan, rfl⟩
theorem Fmt.Ieee.rounds_invalid : f.Rounds rm .invalid f.invalid := ⟨hf.nan, rfl⟩

theorem Fmt.Ieee.overflowed_eq (neg : Bool) : f.overflowed rm neg = Claims.overflowed f.ebits f.mbits rm neg := by
  unfold Fmt.overflowed Claims.overflowed
  rw [hf.largest, f.inf_eq]
  show Claims.signedBits _ _ neg _ = _
  congr 1
  split <;> cases neg <;> simp_all

/-- A number other than zero is rounded once (R44, R47, R124). -/
theorem Fmt.Ieee.rounds_real {d : Dyadic} {x : ℝ} (h : f.Takes d x) : f.Rounds rm (.real x) (f.arith rm d) := by
  unfold Fmt.arith
  simp only [if_neg h.proper, hf.overflowed_eq]
  exact hf.round_rounded h rm _

/-- What a format holds is given as it is. -/
theorem Fmt.Ieee.rounds_exact {a : Num} (h : a.Proper) : f.Rounds rm a.exact (f.exact rm a) := by
  cases a with
  | nan sig => exact hf.rounds_quiet rm sig
  | inf neg => exact f.rounds_inf rm neg
  | zero neg => exact f.rounds_zero rm neg
  | fin d => exact hf.rounds_real rm (.exact f h)

end

/-! ## Sums and products -/

theorem Dyadic.units_real {d : Dyadic} {e : ℤ} (h : e ≤ d.e) : (d.units e : ℝ) * 2 ^ e = d.real := by
  have := d.real_div_of_le h
  rw [div_eq_iff (by positivity)] at this
  exact this.symm

@[simp] theorem Dyadic.real_add (d c : Dyadic) : (d.add c).real = d.real + c.real := by
  unfold Dyadic.add
  dsimp only
  split
  · next le =>
    rw [← d.units_real le_rfl, ← c.units_real le, ← add_mul]
    simp [real]
  · next gt =>
    rw [← d.units_real (not_le.mp gt).le, ← c.units_real le_rfl, ← add_mul]
    simp [real]

@[simp] theorem Dyadic.real_mul (d c : Dyadic) : (d.mul c).real = d.real * c.real := by
  simp only [Dyadic.mul, real, zpow_add₀ (two_ne_zero (α := ℝ))]
  push_cast
  ring

@[simp] theorem Dyadic.real_neg (d : Dyadic) : d.neg.real = -d.real := by simp [Dyadic.neg, real]

/-- Another sign makes another sign of what an operand stands for. -/
theorem opposite_flip (a : Num) : Claims.Opposite a.exact a.flip.exact := by
  cases a <;> simp [Num.exact, Num.flip, Claims.Opposite]

theorem Num.Proper.flip {a : Num} (h : a.Proper) : a.flip.Proper := by
  cases a with
  | fin d => exact neg_ne_zero.mpr h
  | _ => trivial

/-- The sign of an operand that is no NaN is that of what it stands for. -/
theorem Num.negative_exact {a : Num} (h : a.isNan = false) : a.exact.Negative ↔ a.neg? = true := by
  cases a with
  | nan sig => cases h
  | inf neg => exact .rfl
  | zero neg => exact .rfl
  | fin d => exact d.real_neg_iff.trans (decide_eq_true_iff).symm

/-- The sign of a product or a quotient (R124). -/
theorem sign_differs {a b : Num} (ha : a.isNan = false) (hb : b.isNan = false) :
    (a.neg? != b.neg?) = true ↔ ¬ (a.exact.Negative ↔ b.exact.Negative) := by
  rw [Num.negative_exact ha, Num.negative_exact hb, ← Bool.eq_iff_iff, bne_iff_ne]

section
variable {f : Fmt} (hf : f.Ieee) (rm : ℕ) {a b : Num} (ha : a.Proper) (hb : b.Proper)
include hf ha hb

/-- Sums of two operands (R44, R124). -/
theorem Fmt.Ieee.addNum_sum : ∃ c, Claims.Sum rm a.exact b.exact c ∧ f.Rounds rm c (f.addNum rm a b) := by
  cases a with
  | nan x => exact ⟨.nan (x || b.sig), by cases b <;> simp [Num.exact, Num.sig, Claims.Sum], hf.rounds_quiet rm _⟩
  | inf x =>
    cases b with
    | nan y => exact ⟨_, rfl, hf.rounds_quiet rm y⟩
    | inf y =>
      refine ⟨_, rfl, ?_⟩
      by_cases same : x = y
      · simpa [Fmt.addNum, same] using f.rounds_inf rm y
      · simpa [Fmt.addNum, same] using hf.rounds_invalid rm
    | zero y => exact ⟨_, rfl, f.rounds_inf rm x⟩
    | fin d => exact ⟨_, rfl, f.rounds_inf rm x⟩
  | zero x =>
    cases b with
    | nan y => exact ⟨_, rfl, hf.rounds_quiet rm y⟩
    | inf y => exact ⟨_, rfl, f.rounds_inf rm y⟩
    | zero y =>
      refine ⟨_, rfl, ?_⟩
      by_cases same : x = y
      · simpa [Fmt.addNum, same] using f.rounds_zero rm y
      · simpa [Fmt.addNum, same] using f.rounds_zeroSum rm
    | fin c => exact ⟨_, rfl, hf.rounds_real rm (.exact f hb)⟩
  | fin d =>
    cases b with
    | nan y => exact ⟨_, rfl, hf.rounds_quiet rm y⟩
    | inf y => exact ⟨_, rfl, f.rounds_inf rm y⟩
    | zero y => exact ⟨_, rfl, hf.rounds_real rm (.exact f ha)⟩
    | fin c =>
      have total := d.real_add c
      by_cases zero : (d.add c).m = 0
      · have none_ : d.real + c.real = 0 := by rw [← total, Dyadic.real_eq_zero_iff]; exact zero
        refine ⟨.zero (decide (rm = 3)), ⟨fun _ => rfl, fun h => absurd none_ h⟩, ?_⟩
        simpa [Fmt.addNum, Fmt.arith, zero] using f.rounds_zeroSum rm
      · have some_ : d.real + c.real ≠ 0 := by rw [← total, Ne, Dyadic.real_eq_zero_iff]; exact zero
        refine ⟨.real (d.real + c.real), ⟨fun h => absurd h some_, fun _ => rfl⟩, ?_⟩
        rw [← total]
        exact hf.rounds_real rm (.exact f zero)

end

/-- What an exact product stands for; none is invalid. -/
noncomputable def exactOf : Option Num → Claims.Exact
  | none => .invalid
  | some p => p.exact

theorem Num.exact_ne_invalid (a : Num) : a.exact ≠ .invalid := by cases a <;> exact Claims.Exact.noConfusion

section
variable {f : Fmt} (hf : f.Ieee) (rm : ℕ) {a b : Num} (ha : a.Proper) (hb : b.Proper)

/-- Products of two operands (R124). -/
theorem Num.product_times (a b : Num) : Claims.Product a.exact b.exact (exactOf (a.times b)) := by
  have sign (ha : a.isNan = false) (hb : b.isNan = false) := sign_differs ha hb
  cases a with
  | nan x => cases b <;> simp [Num.exact, Num.sig, Num.times, exactOf, Claims.Product]
  | inf x =>
    cases b with
    | nan y => rfl
    | zero y => rfl
    | inf y => exact ⟨_, rfl, sign rfl rfl⟩
    | fin c => exact ⟨_, rfl, sign rfl rfl⟩
  | zero x =>
    cases b with
    | nan y => rfl
    | inf y => rfl
    | zero y => exact ⟨_, rfl, sign rfl rfl⟩
    | fin c => exact ⟨_, rfl, sign rfl rfl⟩
  | fin d =>
    cases b with
    | nan y => rfl
    | inf y => exact ⟨_, rfl, by rw [bne_comm]; exact sign rfl rfl⟩
    | zero y => exact ⟨_, rfl, sign rfl rfl⟩
    | fin c => exact congrArg Claims.Exact.real (d.real_mul c)

include ha hb in
theorem Num.Proper.times {p : Num} (h : a.times b = some p) : p.Proper := by
  cases a <;> cases b <;> cases h
  case fin.fin d c => exact mul_ne_zero ha hb
  all_goals trivial

include hf ha hb

/-- A product rounded once (R124). -/
theorem Fmt.Ieee.mulNum_product : ∃ c, Claims.Product a.exact b.exact c ∧ f.Rounds rm c (f.mulNum rm a b) := by
  refine ⟨_, a.product_times b, ?_⟩
  unfold Fmt.mulNum
  split
  · next e => rw [e]; exact hf.rounds_invalid rm
  · next p e => rw [e]; exact hf.rounds_exact rm (ha.times hb e)

/-- A fused product rounded once, invalid where the product is (R126). -/
theorem Fmt.Ieee.fmaNum_fused {c : Num} (hc : c.Proper) :
    ∃ x, Claims.Fused rm a.exact b.exact c.exact x ∧ f.Rounds rm x (f.fmaNum rm a b c) := by
  have product := a.product_times b
  unfold Fmt.fmaNum
  split
  · next e =>
    rw [e] at product
    exact ⟨.invalid, ⟨_, product, fun _ => rfl, fun h => absurd rfl h⟩, hf.rounds_invalid rm⟩
  · next p e =>
    rw [e] at product
    obtain ⟨x, sum, rounds⟩ := hf.addNum_sum rm (ha.times hb e) hc
    exact ⟨x, ⟨_, product, fun h => absurd h p.exact_ne_invalid, fun _ => sum⟩, rounds⟩

end

/-! ## Quotients and roots -/

/-- A sticky last bit stands for a number between two integers (R125). -/
theorem sticky_near (neg : Bool) (n : ℕ) (rem : Bool) (e : ℤ) {t : ℝ} (exact_ : rem = false → t = n)
    (between : rem = true → n < t ∧ t < n + 1) :
    (sticky neg n rem e).Near (signedReal neg t * 2 ^ e) := by
  have unit : (2 : ℝ) ^ e = 2 * 2 ^ (e - 1) := by rw [← zpow_one_add₀ two_ne_zero]; congr 1; ring
  cases rem with
  | false =>
    left
    rw [exact_ rfl, sticky, Dyadic.real, signed_cast, unit, ← mul_assoc]
    cases neg <;> simp [signedReal, mul_comm]
  | true =>
    right
    obtain ⟨low, high⟩ := between rfl
    have half : (0 : ℝ) < 2 ^ (e - 1) := by positivity
    refine ⟨by cases neg <;> simp [sticky, signed], ?_⟩
    have apart : |2 * t - (2 * n + 1)| < 1 := abs_lt.mpr ⟨by linarith, by linarith⟩
    have diff : signedReal neg t * 2 ^ e - (sticky neg n true e).real = signedReal neg (2 * t - (2 * n + 1)) * 2 ^ (e - 1) := by
      rw [sticky, Dyadic.real, signed_cast, unit]
      cases neg <;> simp [signedReal] <;> ring
    rw [diff, abs_mul, abs_signedReal, abs_of_pos half]
    exact mul_lt_of_lt_one_left half apart

theorem sticky_takes {f : Fmt} {neg : Bool} {n : ℕ} {rem : Bool} {e : ℤ} {x : ℝ} (near : (sticky neg n rem e).Near x)
    (long : 2 ^ (f.mbits + 2) ≤ n) : f.Takes (sticky neg n rem e) x := by
  have mag : (sticky neg n rem e).m.natAbs = 2 * n + if rem then 1 else 0 := natAbs_signed _ _
  have pos : 0 < 2 ^ (f.mbits + 2) := by positivity
  have nz : 2 * n + (if rem then 1 else 0) ≠ 0 := by omega
  refine ⟨near, fun h => ?_, .inr ?_⟩
  · rw [h] at mag; exact nz mag.symm
  · rw [mag, Nat.le_log2 nz]
    omega

/-- A quotient of magnitudes, 192 bits further down, by the integer quotient and its remainder (R125). -/
theorem quotient_near {d c : Dyadic} (hd : d.m ≠ 0) (hc : c.m ≠ 0) :
    (sticky (decide (d.m < 0) != decide (c.m < 0)) (d.m.natAbs * 2 ^ 192 / c.m.natAbs) (decide (d.m.natAbs * 2 ^ 192 % c.m.natAbs ≠ 0))
      (d.e - c.e - 192)).Near (d.real / c.real) := by
  have pos : 0 < c.m.natAbs := Int.natAbs_pos.mpr hc
  have posR : (0 : ℝ) < c.m.natAbs := by exact_mod_cast pos
  have split_ := Nat.div_add_mod (d.m.natAbs * 2 ^ 192) c.m.natAbs
  have rest := Nat.mod_lt (d.m.natAbs * 2 ^ 192) pos
  have whole : d.real / c.real =
      signedReal (decide (d.m < 0) != decide (c.m < 0)) ((d.m.natAbs * 2 ^ 192 : ℕ) / c.m.natAbs) * 2 ^ (d.e - c.e - 192) := by
    have unit : (2 : ℝ) ^ (d.e - c.e - 192) = 2 ^ d.e / 2 ^ c.e / 2 ^ 192 := by
      rw [zpow_sub₀ two_ne_zero, zpow_sub₀ two_ne_zero]
      rfl
    have ec : (2 : ℝ) ^ c.e ≠ 0 := by positivity
    rw [Dyadic.real, Dyadic.real, ← signedReal_natAbs d.m, ← signedReal_natAbs c.m, unit, Nat.cast_mul, Nat.cast_pow, Nat.cast_ofNat]
    have scale : (2 : ℝ) ^ 192 ≠ 0 := by positivity
    generalize (2 : ℝ) ^ 192 = W at scale ⊢
    cases decide (d.m < 0) <;> cases decide (c.m < 0) <;> simp [signedReal] <;> field_simp
  rw [whole]
  refine sticky_near _ _ _ _ (fun h => ?_) (fun h => ?_)
  · rw [div_eq_iff posR.ne']
    have : d.m.natAbs * 2 ^ 192 % c.m.natAbs = 0 := by simpa using h
    rw [this, add_zero, mul_comm] at split_
    exact_mod_cast split_.symm
  · have : d.m.natAbs * 2 ^ 192 % c.m.natAbs ≠ 0 := by simpa using h
    rw [lt_div_iff₀ posR, div_lt_iff₀ posR, add_one_mul]
    generalize d.m.natAbs * 2 ^ 192 = N at *
    generalize N / c.m.natAbs = n at *
    rw [mul_comm] at split_
    constructor
    · exact_mod_cast (by omega : n * c.m.natAbs < N)
    · exact_mod_cast (by omega : N < n * c.m.natAbs + c.m.natAbs)

section
variable {f : Fmt} (hf : f.Ieee) (rm : ℕ)
include hf

theorem Fmt.Ieee.quotient_takes {d c : Dyadic} (hd : d.m ≠ 0) (hc : c.m ≠ 0) (short : c.m.natAbs < 2 ^ (f.mbits + 1)) :
    f.Takes (sticky (decide (d.m < 0) != decide (c.m < 0)) (d.m.natAbs * 2 ^ 192 / c.m.natAbs) (decide (d.m.natAbs * 2 ^ 192 % c.m.natAbs ≠ 0))
      (d.e - c.e - 192)) (d.real / c.real) := by
  refine sticky_takes (quotient_near hd hc) ?_
  rw [Nat.le_div_iff_mul_le (Int.natAbs_pos.mpr hc)]
  calc 2 ^ (f.mbits + 2) * c.m.natAbs ≤ 2 ^ (f.mbits + 2) * 2 ^ (f.mbits + 1) := Nat.mul_le_mul_left _ short.le
    _ = 2 ^ (f.mbits + 2 + (f.mbits + 1)) := (pow_add _ _ _).symm
    _ ≤ 2 ^ 192 := Nat.pow_le_pow_right two_pos (by have := hf.narrow; omega)
    _ ≤ d.m.natAbs * 2 ^ 192 := Nat.le_mul_of_pos_left _ (Int.natAbs_pos.mpr hd)

/-- A quotient rounded once (R125). -/
theorem Fmt.Ieee.divNum_quotient {a b : Num} (ha : a.Proper) (hb : b.Proper)
    (short : ∀ c, b = .fin c → c.m.natAbs < 2 ^ (f.mbits + 1)) :
    ∃ c, Claims.Quotient a.exact b.exact c ∧ f.Rounds rm c (f.divNum rm a b) := by
  have sign (ha : a.isNan = false) (hb : b.isNan = false) := sign_differs ha hb
  cases a with
  | nan x => exact ⟨.nan (x || b.sig), by cases b <;> simp [Num.exact, Num.sig, Claims.Quotient], hf.rounds_quiet rm _⟩
  | inf x =>
    cases b with
    | nan y => exact ⟨_, rfl, hf.rounds_quiet rm y⟩
    | inf y => exact ⟨_, rfl, hf.rounds_invalid rm⟩
    | zero y => exact ⟨_, ⟨_, rfl, sign rfl rfl⟩, f.rounds_inf rm _⟩
    | fin c => exact ⟨_, ⟨_, rfl, sign rfl rfl⟩, f.rounds_inf rm _⟩
  | zero x =>
    cases b with
    | nan y => exact ⟨_, rfl, hf.rounds_quiet rm y⟩
    | inf y => exact ⟨_, ⟨_, rfl, sign rfl rfl⟩, f.rounds_zero rm _⟩
    | zero y => exact ⟨_, rfl, hf.rounds_invalid rm⟩
    | fin c => exact ⟨_, ⟨_, rfl, sign rfl rfl⟩, f.rounds_zero rm _⟩
  | fin d =>
    cases b with
    | nan y => exact ⟨_, rfl, hf.rounds_quiet rm y⟩
    | inf y => exact ⟨_, ⟨_, rfl, sign rfl rfl⟩, f.rounds_zero rm _⟩
    | zero y => exact ⟨_, ⟨_, rfl, sign rfl rfl⟩, f.rounds_byZero rm _⟩
    | fin c => exact ⟨_, rfl, hf.rounds_real rm (hf.quotient_takes ha hb (short c rfl))⟩

end

/-- The root found bit by bit is the integer root (R125). -/
theorem sqrtBits_spec (x n r : ℕ) (low : r * r ≤ x) (high : x < (r + 2 ^ n) * (r + 2 ^ n)) :
    sqrtBits x n r * sqrtBits x n r ≤ x ∧ x < (sqrtBits x n r + 1) * (sqrtBits x n r + 1) := by
  induction n generalizing r with
  | zero => exact ⟨low, high⟩
  | succ n ih =>
    have double := pow_succ 2 n
    rw [sqrtBits]
    split
    · next fits => exact ih _ fits (by rwa [add_assoc, ← two_mul, ← pow_succ'])
    · next more => exact ih _ low (not_le.mp more)

/-- The places by which a radicand is shifted, so that its exponent is even. -/
def Dyadic.rootShift (d : Dyadic) : ℕ := if d.e % 2 = 0 then 256 else 257

theorem Dyadic.rootShift_spec (d : Dyadic) : 256 ≤ d.rootShift ∧ d.e = (d.e - d.rootShift) / 2 * 2 + d.rootShift := by
  unfold rootShift
  split <;> omega

/-- The root of a positive dyadic is the root of an integer M in units of 2^h, found to the last bit (R125). -/
theorem Dyadic.root_spec {d : Dyadic} (pos : 0 < d.m) : ∃ (M r : ℕ) (h : ℤ), d.root = sticky false r (decide (r * r ≠ M)) h ∧
    r * r ≤ M ∧ M < (r + 1) * (r + 1) ∧ 2 ^ 256 ≤ M ∧ d.real = M * (2 ^ h) ^ 2 := by
  obtain ⟨large, even⟩ := d.rootShift_spec
  have high {M : ℕ} : M < (0 + 2 ^ (Nat.log2 M / 2 + 1)) * (0 + 2 ^ (Nat.log2 M / 2 + 1)) := by
    rw [zero_add, ← pow_add]
    exact Nat.lt_log2_self.trans_le (Nat.pow_le_pow_right two_pos (by omega))
  obtain ⟨l, u⟩ := sqrtBits_spec _ _ 0 (Nat.zero_le (d.m.natAbs * 2 ^ d.rootShift)) high
  refine ⟨d.m.natAbs * 2 ^ d.rootShift, _, (d.e - d.rootShift) / 2, rfl, l, u, ?_, ?_⟩
  · calc 2 ^ 256 ≤ 2 ^ d.rootShift := Nat.pow_le_pow_right two_pos large
      _ ≤ d.m.natAbs * 2 ^ d.rootShift := Nat.le_mul_of_pos_left _ (by omega)
  · have mag : (d.m : ℝ) = d.m.natAbs := by rw [Nat.cast_natAbs, abs_of_pos pos]
    have scale : (2 : ℝ) ^ d.e = (2 ^ ((d.e - d.rootShift) / 2)) ^ 2 * 2 ^ d.rootShift := by
      conv_lhs => rw [even, zpow_add₀ two_ne_zero, zpow_mul, zpow_natCast]
      norm_cast
    rw [real, mag, scale]
    push_cast
    ring

theorem Fmt.Ieee.root_takes {f : Fmt} (hf : f.Ieee) {d : Dyadic} (pos : 0 < d.m) : f.Takes d.root (Real.sqrt d.real) := by
  obtain ⟨M, r, h, root, low, high, big, real⟩ := d.root_spec pos
  have unit : (0 : ℝ) < 2 ^ h := by positivity
  have value : Real.sqrt d.real = signedReal false (Real.sqrt M) * 2 ^ h := by
    rw [real, Real.sqrt_mul (Nat.cast_nonneg M), Real.sqrt_sq unit.le]
    rfl
  rw [root, value]
  refine sticky_takes (sticky_near _ _ _ _ (fun e => ?_) (fun e => ?_)) ?_
  · have : r * r = M := by simpa using e
    rw [← this, Nat.cast_mul, Real.sqrt_mul_self (Nat.cast_nonneg r)]
  · have : r * r ≠ M := by simpa using e
    rw [Real.lt_sqrt (Nat.cast_nonneg r), Real.sqrt_lt' (by positivity), sq, sq]
    exact ⟨by exact_mod_cast lt_of_le_of_ne low this, by exact_mod_cast high⟩
  · have large : 2 ^ 128 < r + 1 := by
      by_contra small
      have := Nat.mul_le_mul (not_lt.mp small) (not_lt.mp small)
      rw [← pow_add] at this
      omega
    exact (Nat.pow_le_pow_right two_pos (by have := hf.narrow; omega)).trans (Nat.lt_succ_iff.mp large)

theorem Fmt.Ieee.sqrtNum_root {f : Fmt} (hf : f.Ieee) (rm : ℕ) {a : Num} (ha : a.Proper) :
    ∃ c, Claims.Root a.exact c ∧ f.Rounds rm c (f.sqrtNum rm a) := by
  cases a with
  | nan x => exact ⟨_, rfl, hf.rounds_quiet rm x⟩
  | inf neg =>
    cases neg with
    | true => exact ⟨_, rfl, hf.rounds_invalid rm⟩
    | false => exact ⟨_, rfl, f.rounds_inf rm false⟩
  | zero neg => exact ⟨_, rfl, f.rounds_zero rm neg⟩
  | fin d =>
    have sign := d.real_neg_iff
    by_cases neg : d.m < 0
    · refine ⟨.invalid, ⟨fun _ => rfl, fun h => absurd (sign.mpr neg) h.not_gt⟩, ?_⟩
      simpa [Fmt.sqrtNum, neg] using hf.rounds_invalid rm
    · have pos : 0 < d.m := by have : d.m ≠ 0 := ha; omega
      refine ⟨.real (Real.sqrt d.real), ⟨fun h => absurd (sign.mp h) neg, fun _ => rfl⟩, ?_⟩
      simpa [Fmt.sqrtNum, neg] using hf.rounds_real rm (hf.root_takes pos)

end Sys2Proof.Machine
end
section
/-! SUPPORT. The chains of floating-point arithmetic (R44, R45, R47, R124 to R126). -/

namespace Sys2Proof.Machine

theorem State.setFloat_eq (s : State) (d : Reg) (r : FRes) : s.setFloat d r = Claims.floated s d r.bits r.flags := rfl

theorem State.rounding_mode (s : State) (r : Rnd) : (s.rounding r).1 = Claims.mode s r := by
  unfold rounding Claims.mode
  split <;> simp [bits]

/-- A chain that writes a floating result with its flags, for an exact result (R47). -/
def Fmt.Writes (f : Fmt) (s : State) (r : Rnd) (n : Needs) (d : Reg) (o : Host.Outcome State Fault Refusal) (c : Claims.Exact) : Prop :=
  ∃ bits flags, Claims.Gives f.ebits f.mbits (Claims.mode s r) (Claims.overflowed f.ebits f.mbits (Claims.mode s r)) c bits flags ∧
    o = .next (Claims.endOf n (Claims.floated s d bits flags))

section
variable {f : Fmt} {s : State} {v : Vals} {r : Rnd} {d : Reg} {src : Src} {t : Tgt} {c : Claims.Exact}

theorem writes_of_rounds {n : Needs} {res : FRes} {body : Vals → State → State} (ready : Claims.Ready s n v)
    (h : body v s = s.setFloat d res) (rounds : f.Rounds (Claims.mode s r) c res) : f.Writes s r n d (chainNext s n body) c := by
  refine ⟨res.bits, res.flags, rounds, ?_⟩
  rw [chainNext_ready ready, h, State.setFloat_eq]
  rfl

theorem float2_writes {op : ℕ → Num → Num → FRes} (ready : Claims.Ready s (Claims.needDS d src) v)
    (rounds : f.Rounds (Claims.mode s r) c (op (Claims.mode s r) (f.decode (f.operand v.d)) (f.decode (f.operand v.s)))) :
    f.Writes s r (Claims.needDS d src) d (float2 f op r d src s) c :=
  writes_of_rounds ready (by rw [s.rounding_mode]) rounds

theorem sqrtOp_writes (ready : Claims.Ready s (Claims.needWS d src) v)
    (rounds : f.Rounds (Claims.mode s r) c (f.sqrtNum (Claims.mode s r) (f.decode (f.operand v.s)))) :
    f.Writes s r (Claims.needWS d src) d (sqrtOp f r d src s) c :=
  writes_of_rounds ready (by rw [s.rounding_mode]) rounds

/-- An operand of a fused product, whose sign is turned or not (R126). -/
def Num.turned (turn : Bool) (a : Num) : Num := if turn then a.flip else a

theorem Num.Proper.turned {a : Num} (h : a.Proper) (turn : Bool) : (a.turned turn).Proper := by
  cases turn
  · exact h
  · exact h.flip

theorem float3_writes {product addend : Bool} (ready : Claims.Ready s (Claims.needDST d src t) v)
    (rounds : f.Rounds (Claims.mode s r) c (f.fmaNum (Claims.mode s r) ((f.decode (f.operand v.s)).turned product) (f.decode (f.operand v.t))
      ((f.decode (f.operand v.d)).turned addend))) :
    f.Writes s r (Claims.needDST d src t) d (float3 f product addend r d src t s) c :=
  writes_of_rounds ready (by rw [s.rounding_mode]; rfl) rounds

end

section
variable {f : Fmt} (hf : f.Ieee) {s : State} {v : Vals} (r : Rnd) {d : Reg} {src : Src}
include hf

/-- The operand in a register stands for what it decodes to (R35). -/
theorem Fmt.Ieee.standsFor_operand (w : Word) :
    Claims.StandsFor f.ebits f.mbits (w.toNat % 2 ^ (1 + f.ebits + f.mbits)) (f.decode (f.operand w)).exact := hf.standsFor_decode _

/-- Sums, differences, products and quotients of D and S (R124, R125). -/
theorem Fmt.Ieee.binary_writes (ready : Claims.Ready s (Claims.needDS d src) v) :
    ∃ a b nb, Claims.StandsFor f.ebits f.mbits (v.d.toNat % 2 ^ (1 + f.ebits + f.mbits)) a ∧
      Claims.StandsFor f.ebits f.mbits (v.s.toNat % 2 ^ (1 + f.ebits + f.mbits)) b ∧ Claims.Opposite b nb ∧
      (∃ c, Claims.Sum (Claims.mode s r) a b c ∧ f.Writes s r (Claims.needDS d src) d (float2 f f.addNum r d src s) c) ∧
      (∃ c, Claims.Sum (Claims.mode s r) a nb c ∧
        f.Writes s r (Claims.needDS d src) d (float2 f (fun rm a b => f.addNum rm a b.flip) r d src s) c) ∧
      (∃ c, Claims.Product a b c ∧ f.Writes s r (Claims.needDS d src) d (float2 f f.mulNum r d src s) c) ∧
      (∃ c, Claims.Quotient a b c ∧ f.Writes s r (Claims.needDS d src) d (float2 f f.divNum r d src s) c) := by
  have ha := hf.decode_proper (f.operand v.d)
  have hb := hf.decode_proper (f.operand v.s)
  refine ⟨_, _, _, hf.standsFor_operand v.d, hf.standsFor_operand v.s, opposite_flip _, ?_, ?_, ?_, ?_⟩
  · obtain ⟨c, sum, rounds⟩ := hf.addNum_sum (Claims.mode s r) ha hb
    exact ⟨c, sum, float2_writes ready rounds⟩
  · obtain ⟨c, sum, rounds⟩ := hf.addNum_sum (Claims.mode s r) ha hb.flip
    exact ⟨c, sum, float2_writes (op := fun rm a b => f.addNum rm a b.flip) ready rounds⟩
  · obtain ⟨c, product, rounds⟩ := hf.mulNum_product (Claims.mode s r) ha hb
    exact ⟨c, product, float2_writes ready rounds⟩
  · obtain ⟨c, quotient, rounds⟩ := hf.divNum_quotient (Claims.mode s r) ha hb (fun _ h => (hf.decode_fin h).short)
    exact ⟨c, quotient, float2_writes ready rounds⟩

/-- Roots of S (R125). -/
theorem Fmt.Ieee.root_writes (ready : Claims.Ready s (Claims.needWS d src) v) :
    ∃ b, Claims.StandsFor f.ebits f.mbits (v.s.toNat % 2 ^ (1 + f.ebits + f.mbits)) b ∧
      ∃ c, Claims.Root b c ∧ f.Writes s r (Claims.needWS d src) d (sqrtOp f r d src s) c := by
  obtain ⟨c, root, rounds⟩ := hf.sqrtNum_root (Claims.mode s r) (hf.decode_proper (f.operand v.s))
  exact ⟨_, hf.standsFor_operand v.s, c, root, sqrtOp_writes ready rounds⟩

/-- Fused products of S and T with D, each with a sign (R126). -/
theorem Fmt.Ieee.fused_writes {t : Tgt} (ready : Claims.Ready s (Claims.needDST d src t) v) (product addend : Bool) :
    ∃ c, Claims.Fused (Claims.mode s r) ((f.decode (f.operand v.s)).turned product).exact (f.decode (f.operand v.t)).exact
        ((f.decode (f.operand v.d)).turned addend).exact c ∧
      f.Writes s r (Claims.needDST d src t) d (float3 f product addend r d src t s) c := by
  obtain ⟨c, fused, rounds⟩ := hf.fmaNum_fused (Claims.mode s r) ((hf.decode_proper (f.operand v.s)).turned product)
    (hf.decode_proper (f.operand v.t)) ((hf.decode_proper (f.operand v.d)).turned addend)
  exact ⟨c, fused, float3_writes ready rounds⟩

theorem Fmt.Ieee.ternary_writes {t : Tgt} (ready : Claims.Ready s (Claims.needDST d src t) v) :
    ∃ a b c na nb, Claims.StandsFor f.ebits f.mbits (v.d.toNat % 2 ^ (1 + f.ebits + f.mbits)) a ∧
      Claims.StandsFor f.ebits f.mbits (v.s.toNat % 2 ^ (1 + f.ebits + f.mbits)) b ∧
      Claims.StandsFor f.ebits f.mbits (v.t.toNat % 2 ^ (1 + f.ebits + f.mbits)) c ∧ Claims.Opposite a na ∧ Claims.Opposite b nb ∧
      (∃ x, Claims.Fused (Claims.mode s r) b c a x ∧ f.Writes s r (Claims.needDST d src t) d (float3 f false false r d src t s) x) ∧
      (∃ x, Claims.Fused (Claims.mode s r) b c na x ∧ f.Writes s r (Claims.needDST d src t) d (float3 f false true r d src t s) x) ∧
      (∃ x, Claims.Fused (Claims.mode s r) nb c a x ∧ f.Writes s r (Claims.needDST d src t) d (float3 f true false r d src t s) x) ∧
      (∃ x, Claims.Fused (Claims.mode s r) nb c na x ∧ f.Writes s r (Claims.needDST d src t) d (float3 f true true r d src t s) x) :=
  ⟨_, _, _, _, _, hf.standsFor_operand v.d, hf.standsFor_operand v.s, hf.standsFor_operand v.t, opposite_flip _, opposite_flip _,
    hf.fused_writes r ready false false, hf.fused_writes r ready false true, hf.fused_writes r ready true false,
    hf.fused_writes r ready true true⟩

end

/-- Settles O11: FP64 and FP32 as one IEEE format; each operation's exact result by the laws of sums, products, quotients and roots. -/
theorem floatArithmetic : Obligations.FloatArithmetic := by
  intro r d src s v double
  cases double with
  | true =>
    exact ⟨fun ready => fp64_ieee.binary_writes r ready, fun ready => fp64_ieee.root_writes r ready,
      fun t ready => fp64_ieee.ternary_writes r ready⟩
  | false =>
    exact ⟨fun ready => fp32_ieee.binary_writes r ready, fun ready => fp32_ieee.root_writes r ready,
      fun t ready => fp32_ieee.ternary_writes r ready⟩

end Sys2Proof.Machine
end
section
/-! SUPPORT. Conversions (R44, R47, R50, R51, R131): of integers to floats, of floats to integers, and between FP64 and FP32. -/

namespace Sys2Proof.Machine

/-! ## What an encoding of a known class decodes to -/

section
variable {f : Fmt} (hf : f.Ieee) {x : ℕ}
include hf

theorem Fmt.Ieee.decode_nan (h : Claims.isNaN f.ebits f.mbits x) :
    ∃ sig, f.decode x = .nan sig ∧ (sig = true ↔ Claims.isSNaN f.ebits f.mbits x) := by
  rw [isNaN_iff] at h
  rcases hf.decode_cases x with ⟨i, -⟩ | ⟨-, found⟩ | ⟨i, -⟩ | ⟨i, -⟩
  · rw [isInf_iff] at i; omega
  · exact found
  · rw [isFinite_iff] at i; omega
  · rw [isFinite_iff] at i; omega

theorem Fmt.Ieee.decode_inf (h : Claims.isInf f.ebits f.mbits x) : f.decode x = .inf (Claims.negative f.ebits f.mbits x) := by
  rw [isInf_iff] at h
  rcases hf.decode_cases x with ⟨-, found⟩ | ⟨i, -⟩ | ⟨i, -⟩ | ⟨i, -⟩
  · exact found
  · rw [isNaN_iff] at i; omega
  · rw [isFinite_iff] at i; omega
  · rw [isFinite_iff] at i; omega

/-- A finite encoding decodes to a zero, or to a dyadic of its value (R38). -/
theorem Fmt.Ieee.decode_finite (h : Claims.isFinite f.ebits f.mbits x) :
    (f.decode x = .zero (Claims.negative f.ebits f.mbits x) ∧ Claims.value f.ebits f.mbits x = 0) ∨
    ∃ d, f.decode x = .fin d ∧ f.Decodes (Claims.negative f.ebits f.mbits x) (x % 2 ^ (f.ebits + f.mbits)) d ∧
      ((Claims.value f.ebits f.mbits x : ℚ) : ℝ) = d.real := by
  have stands := hf.standsFor_decode x
  rw [isFinite_iff] at h
  rcases hf.decode_cases x with ⟨i, -⟩ | ⟨i, -⟩ | ⟨-, -, found⟩ | ⟨-, -, d, found, decodes⟩
  · rw [isInf_iff] at i; omega
  · rw [isNaN_iff] at i; omega
  · rw [found] at stands
    exact .inl ⟨found, stands.2.1⟩
  · rw [found] at stands
    exact .inr ⟨d, found, decodes, stands.2.2.symm⟩

end

/-! ## From integers -/

theorem exact_intNum (i : ℤ) : (intNum i).exact = if i = 0 then .zero false else .real i := by
  unfold intNum
  split <;> simp [Num.exact, Dyadic.real]

theorem proper_intNum (i : ℤ) : (intNum i).Proper := by
  unfold intNum
  split
  · trivial
  · assumption

section
variable {f : Fmt} (hf : f.Ieee) {s : State} {v : Vals} (r : Rnd) {d : Reg} {src : Src} (ready : Claims.Ready s (Claims.needWS d src) v)
include hf ready

/-- An integer is rounded once (R131). -/
theorem Fmt.Ieee.fromInt_done (signed_ : Bool) : ∃ bits flags, fromInt signed_ f r d src s =
      .next (Claims.endOf (Claims.needWS d src) (Claims.floated s d bits flags)) ∧
    let i : ℤ := if signed_ then v.s.toInt else v.s.toNat
    Claims.Gives f.ebits f.mbits (Claims.mode s r) (Claims.overflowed f.ebits f.mbits (Claims.mode s r))
      (if i = 0 then .zero false else .real i) bits flags := by
  have rounds := hf.rounds_exact (Claims.mode s r) (proper_intNum (if signed_ then v.s.toInt else v.s.toNat))
  rw [exact_intNum] at rounds
  obtain ⟨bits, flags, gives, done⟩ := writes_of_rounds (d := d) (body := fun v s =>
    s.setFloat d (f.exact (s.rounding r).1 (intNum (if signed_ then v.s.toInt else v.s.toNat)))) ready (by rw [s.rounding_mode]) rounds
  exact ⟨bits, flags, done, gives⟩

end

/-! ## To integers -/

section
variable {f : Fmt} {s : State} {v : Vals} (r : Rnd) {d : Reg} {src : Src} (ready : Claims.Ready s (Claims.needWS d src) v)
include ready

/-- A conversion to an integer traps where it overflows under policy 11, and else writes its result with its flags (R50, R131). -/
theorem toInt_ready (lo hi : ℤ) : toInt f lo hi r d src s =
    let c := convertInt (Claims.mode s r) lo hi (f.decode (f.operand v.s))
    .next (if c.2.2 = true ∧ Claims.policy s r = 3 then s.takeTrap .overflow 0 (word (f.operand v.s))
      else Claims.endOf (Claims.needWS d src) (Claims.floated s d (BitVec.ofInt 64 c.1).toNat c.2.1)) := by
  unfold toInt
  unfold Claims.needWS at ready
  rw [chain_ready ready]
  simp only [s.rounding_mode, rounding_policy]
  split
  · rfl
  · rw [Claims.floated, BitVec.ofNat_toNat, BitVec.setWidth_eq]
    rfl

/-- A conversion between floats traps where it overflows under policy 11 (R50, R131). -/
theorem convertFloat_traps {to_ : Fmt} (h : (to_.convert (Claims.mode s r) (Claims.policy s r) (f.decode (f.operand v.s))).ovf = true)
    (policy : Claims.policy s r = 3) : convertFloat f to_ r d src s = .next (s.takeTrap .overflow 0 (word (f.operand v.s))) := by
  unfold convertFloat
  unfold Claims.needWS at ready
  rw [chain_ready ready]
  simp only [s.rounding_mode, rounding_policy]
  split
  · rfl
  · next other => exact absurd ⟨h, policy⟩ other

/-- Elsewhere it writes its result with its flags (R47, R131). -/
theorem convertFloat_writes {to_ : Fmt} {n : Num} {bits flags : ℕ} {ovf : Bool} (operand : f.decode (f.operand v.s) = n)
    (result : to_.convert (Claims.mode s r) (Claims.policy s r) n = ⟨bits, flags, ovf⟩) (h : ovf = true → Claims.policy s r ≠ 3) :
    convertFloat f to_ r d src s =
      .next (Claims.endOf (Claims.needWS d src) (Claims.floated s d bits (flags ||| if n.sig then 16 else 0))) := by
  unfold convertFloat
  unfold Claims.needWS at ready
  rw [chain_ready ready]
  simp only [s.rounding_mode, rounding_policy, operand, result]
  split
  · next both => exact absurd both.2 (h both.1)
  · rfl

/-- A number that is no NaN adds no flag to those of its conversion. -/
theorem convertFloat_quiet {to_ : Fmt} {n : Num} {bits flags : ℕ} {ovf : Bool} (operand : f.decode (f.operand v.s) = n)
    (result : to_.convert (Claims.mode s r) (Claims.policy s r) n = ⟨bits, flags, ovf⟩) (quiet : n.sig = false)
    (h : ovf = true → Claims.policy s r ≠ 3) :
    convertFloat f to_ r d src s = .next (Claims.endOf (Claims.needWS d src) (Claims.floated s d bits flags)) := by
  rw [convertFloat_writes r ready operand result h, quiet, if_neg Bool.false_ne_true, Nat.or_zero]

end

/-- A dyadic rounded to an integer (R44, R131). -/
theorem toInteger_spec (d : Dyadic) (rm : ℕ) :
    Claims.RoundsTo rm d.real (d.toInteger rm).1 ∧ ((d.toInteger rm).2 = true ↔ ∀ k : ℤ, d.real ≠ k) := by
  have := roundAt_real rm d 0
  rw [zpow_zero, div_one] at this
  exact this

/-- What a conversion of a finite number to an integer gives (R50, R131). -/
theorem convertInt_fin (rm : ℕ) (lo hi : ℤ) (d : Dyadic) : convertInt rm lo hi (.fin d) =
    if (d.toInteger rm).1 < lo then (lo, 5, true)
    else if hi < (d.toInteger rm).1 then (hi, 5, true)
    else ((d.toInteger rm).1, if (d.toInteger rm).2 then 1 else 0, false) := rfl

section
variable {f : Fmt} (hf : f.Ieee) {s : State} {v : Vals} (r : Rnd) {d : Reg} {src : Src} (ready : Claims.Ready s (Claims.needWS d src) v)
include hf ready

/-- Conversions of floats to a range of integers about 0 (R50, R131). -/
theorem Fmt.Ieee.toInt_done {lo hi : ℤ} (low : lo ≤ 0) (high : 0 ≤ hi) :
    let x := v.s.toNat % 2 ^ (1 + f.ebits + f.mbits)
    let o := toInt f lo hi r d src s
    let done (bits flags : ℕ) : Prop := o = .next (Claims.endOf (Claims.needWS d src) (Claims.floated s d bits flags))
    let int (i : ℤ) : ℕ := (BitVec.ofInt 64 i).toNat
    let excess (i : ℤ) : Prop :=
      (Claims.policy s r = 3 → o = .next (s.takeTrap .overflow 0 (word x))) ∧ (Claims.policy s r ≠ 3 → done (int i) 5)
    (Claims.isNaN f.ebits f.mbits x → done 0 16) ∧
    (Claims.isInf f.ebits f.mbits x → excess (if Claims.negative f.ebits f.mbits x then lo else hi)) ∧
    (Claims.isFinite f.ebits f.mbits x → ∃ i : ℤ, Claims.RoundsTo (Claims.mode s r) (Claims.value f.ebits f.mbits x : ℝ) i ∧
      (i < lo → excess lo) ∧ (hi < i → excess hi) ∧
      (lo ≤ i ∧ i ≤ hi → done (int i) (if (i : ℚ) = Claims.value f.ebits f.mbits x then 0 else 1))) := by
  intro x o done int excess
  have ready_ := toInt_ready (f := f) r ready lo hi
  have operand : f.operand v.s = x := rfl
  rw [operand] at ready_
  have outside {i : ℤ} (h : convertInt (Claims.mode s r) lo hi (f.decode x) = (i, 5, true)) : excess i := by
    rw [h] at ready_
    exact ⟨fun p => ready_.trans (congrArg _ (if_pos ⟨rfl, p⟩)), fun p => ready_.trans (congrArg _ (if_neg fun both => p both.2))⟩
  have within {i : ℤ} {fl : ℕ} (h : convertInt (Claims.mode s r) lo hi (f.decode x) = (i, fl, false)) : done (int i) fl := by
    rw [h] at ready_
    exact ready_.trans (congrArg _ (if_neg fun both => Bool.noConfusion both.1))
  refine ⟨fun nan => ?_, fun inf => ?_, fun finite => ?_⟩
  · obtain ⟨sig, e, -⟩ := hf.decode_nan nan
    exact within (by rw [e]; rfl)
  · exact outside (by rw [hf.decode_inf inf]; rfl)
  · rcases hf.decode_finite finite with ⟨e, zero⟩ | ⟨d, e, -, value⟩
    · refine ⟨0, ?_, fun h => by omega, fun h => by omega, fun _ => ?_⟩
      · rw [zero]
        simpa using roundsTo_self (Claims.mode s r) 0
      · rw [zero, if_pos Int.cast_zero]
        exact within (by rw [e]; rfl)
    · obtain ⟨rounds, inexact⟩ := toInteger_spec d (Claims.mode s r)
      have found := convertInt_fin (Claims.mode s r) lo hi d
      rw [← e] at found
      rw [value]
      refine ⟨_, rounds, fun h => outside ?_, fun h => outside ?_, fun h => within ?_⟩
      · rw [found, if_pos h]
      · rw [found, if_neg (by omega), if_pos h]
      · rw [found, if_neg (by omega), if_neg (by omega)]
        have same : (((d.toInteger (Claims.mode s r)).1 : ℚ) = Claims.value f.ebits f.mbits x) ↔ (d.toInteger (Claims.mode s r)).2 = false := by
          rw [← Bool.not_eq_true, inexact, ← Rat.cast_inj (α := ℝ), value, Rat.cast_intCast]
          push Not
          constructor
          · exact fun e => ⟨_, e.symm⟩
          · rintro ⟨k, e⟩
            rw [e] at rounds ⊢
            rw [eq_of_roundsTo rounds]
        cases inexactly : (d.toInteger (Claims.mode s r)).2 <;> simp [same, inexactly]

end

/-! ## Between FP64 and FP32 -/

/-- Rounding overflows where its flags say so (R47). -/
theorem Fmt.round_ovf (f : Fmt) (rm : ℕ) (d : Dyadic) : (f.round rm d).ovf = true ↔ (f.round rm d).flags = 5 := by
  rw [f.round_eq]
  split
  · simp
  · simp only [Bool.false_eq_true, false_iff]
    split <;> (try split) <;> simp

/-- A number that a format holds is rounded to itself (R51). -/
theorem Fmt.round_exact (f : Fmt) (rm : ℕ) {d : Dyadic} (proper : d.m ≠ 0) (short : d.m.natAbs < 2 ^ (f.mbits + 1))
    (low : f.emin - f.mbits ≤ d.e) (small : |d.real| ≤ magValue f.mbits f.emin f.largest) :
    f.round rm d = ⟨f.rounded rm d, 0, false⟩ ∧ f.rounded rm d ≤ f.largest ∧ magValue f.mbits f.emin (f.rounded rm d) = |d.real| := by
  have top : d.m.natAbs.log2 ≤ f.mbits := Nat.lt_succ_iff.mp ((Nat.log2_lt (by omega)).mpr short)
  have fine : f.place d ≤ d.e := max_le (by rw [Fmt.free, Dyadic.top]; omega) low
  have exact_ : roundAt rm d (f.place d) = (d.m.natAbs * 2 ^ (d.e - f.place d).toNat, false) := if_pos fine
  have value : magValue f.mbits f.emin (f.rounded rm d) = |d.real| := by
    have unit : (2 : ℝ) ^ (d.e - f.place d).toNat * 2 ^ f.place d = 2 ^ d.e := by
      rw [← zpow_natCast, ← zpow_add₀ two_ne_zero, Int.toNat_of_nonneg (by omega), sub_add_cancel]
    rw [(Fmt.Takes.exact f proper).magValue_rounded rm, exact_, d.abs_real, ← unit]
    push_cast
    ring
  have within : f.rounded rm d ≤ f.largest := (magValue_strictMono f.mbits f.emin).le_iff_le.mp (value.trans_le small)
  refine ⟨?_, within, value⟩
  rw [f.round_eq, if_neg within.not_gt, exact_]
  rfl

section
variable {f g : Fmt} (hf : f.Ieee) (hg : g.Ieee) {s : State} {v : Vals} (r : Rnd) {d : Reg} {src : Src}
  (ready : Claims.Ready s (Claims.needWS d src) v)
include hf hg ready

/-- A NaN becomes the default NaN of the other format, with NV where it is signalling (R36, R131). -/
theorem Fmt.Ieee.convertFloat_nan (nan : Claims.isNaN f.ebits f.mbits (v.s.toNat % 2 ^ (1 + f.ebits + f.mbits))) :
    ∃ flags, (flags = 16 ↔ Claims.isSNaN f.ebits f.mbits (v.s.toNat % 2 ^ (1 + f.ebits + f.mbits))) ∧ (flags = 16 ∨ flags = 0) ∧
      convertFloat f g r d src s =
        .next (Claims.endOf (Claims.needWS d src) (Claims.floated s d (Claims.nanBits g.ebits g.mbits) flags)) := by
  obtain ⟨sig, e, quiet⟩ := hf.decode_nan nan
  have done := convertFloat_writes (d := d) r ready (to_ := g) e (if_pos hg.hasNan) Bool.noConfusion
  rw [Nat.zero_or, hg.nan] at done
  refine ⟨_, ?_, ?_, done⟩
  · rw [← quiet]; cases sig <;> simp [Num.sig]
  · cases sig <;> simp [Num.sig]

/-- Anything else is rounded once; what overflows traps under policy 11, and else gives what the policy says (R50, R51, R131). -/
theorem Fmt.Ieee.convertFloat_gives {excess : Bool → ℕ} (policy : ∀ neg, g.overflowBits (Claims.policy s r) neg = excess neg) {a : Claims.Exact}
    (number : ¬ Claims.isNaN f.ebits f.mbits (v.s.toNat % 2 ^ (1 + f.ebits + f.mbits)))
    (stands : Claims.StandsFor f.ebits f.mbits (v.s.toNat % 2 ^ (1 + f.ebits + f.mbits)) a) :
    ∃ bits flags, Claims.Gives g.ebits g.mbits (Claims.mode s r) excess a bits flags ∧
      (Claims.policy s r = 3 ∧ flags = 5 → convertFloat f g r d src s = .next (s.takeTrap .overflow 0 (word (f.operand v.s)))) ∧
      (¬ (Claims.policy s r = 3 ∧ flags = 5) → convertFloat f g r d src s =
        .next (Claims.endOf (Claims.needWS d src) (Claims.floated s d bits flags))) := by
  obtain rfl := standsFor_unique stands (hf.standsFor_operand v.s)
  have proper := hf.decode_proper (f.operand v.s)
  cases e : f.decode (f.operand v.s) with
  | nan sig => rw [e] at stands; exact absurd stands.1 number
  | inf neg =>
    exact ⟨_, 0, ⟨rfl, rfl⟩, fun h => absurd h.2 (by decide),
      fun _ => convertFloat_quiet r ready e (if_pos hg.hasInf) rfl Bool.noConfusion⟩
  | zero neg =>
    exact ⟨_, 0, ⟨rfl, rfl⟩, fun h => absurd h.2 (by decide),
      fun _ => convertFloat_quiet r ready e rfl rfl Bool.noConfusion⟩
  | fin x =>
    rw [e] at proper
    refine ⟨_, _, hg.round_rounded (.exact g proper) (Claims.mode s r) excess, fun h => ?_, fun h => ?_⟩
    · exact convertFloat_traps r ready (by rw [e]; simp [Fmt.convert, Fmt.overflow, (g.round_ovf _ _).mpr h.2]) h.1
    · cases ovf : (g.round (Claims.mode s r) x).ovf with
      | false =>
        exact convertFloat_quiet r ready (ovf := false) e (by simp [Fmt.convert, ovf]) rfl Bool.noConfusion
      | true =>
        have flags := (g.round_ovf _ _).mp ovf
        rw [flags, if_pos rfl, ← policy]
        exact convertFloat_quiet r ready (ovf := true) e (by simp [Fmt.convert, Fmt.overflow, ovf, flagOF, flagNX]) rfl fun _ p => h ⟨p, flags⟩

end

/-- Every FP32 number is one of FP64 (R38, R51). -/
theorem decodes_fits {neg : Bool} {mag : ℕ} {d : Dyadic} (h : fp32.Decodes neg mag d) (rm : ℕ) :
    ∃ m, fp64.round rm d = ⟨m, 0, false⟩ ∧ m ≤ fp64.largest ∧ magValue 52 fp64.emin m = |d.real| := by
  have short : d.m.natAbs < 2 ^ (23 + 1) := h.short
  have low : (-149 : ℤ) ≤ d.e := h.low
  have high : d.e ≤ 2 ^ 8 := h.high
  refine ⟨_, fp64.round_exact rm h.proper (short.trans (by decide)) (le_trans (by decide) low) ?_⟩
  have count : (d.m.natAbs : ℝ) ≤ 2 ^ 24 := by exact_mod_cast short.le
  have unit : (2 : ℝ) ^ d.e ≤ 2 ^ (256 : ℤ) := zpow_le_zpow_right₀ one_le_two high
  have exponent : (2 : ℤ) ^ (fp64.ebits - 1) - 1 - fp64.mbits = 971 := rfl
  rw [fp64_ieee.magValue_largest, d.abs_real, exponent]
  calc (d.m.natAbs : ℝ) * 2 ^ d.e ≤ 2 ^ 24 * 2 ^ (256 : ℤ) := mul_le_mul count unit (by positivity) (by positivity)
    _ = 2 ^ (280 : ℤ) := by rw [← zpow_ofNat, ← zpow_add₀ two_ne_zero]; rfl
    _ ≤ 2 ^ (971 : ℤ) := zpow_le_zpow_right₀ one_le_two (by decide)
    _ ≤ (2 ^ (fp64.mbits + 1) - 1) * 2 ^ (971 : ℤ) := le_mul_of_one_le_left (by positivity) (by norm_num [fp64])

theorem magValue_nonneg (m : ℕ) (low : ℤ) (mag : ℕ) : 0 ≤ magValue m low mag :=
  (magValue_zero m low).symm.trans_le ((magValue_strictMono m low).monotone (Nat.zero_le mag))

/-- A decoded number has the sign of its encoding. -/
theorem Fmt.Decodes.sign {f : Fmt} {neg : Bool} {mag : ℕ} {d : Dyadic} (h : f.Decodes neg mag d) : decide (d.m < 0) = neg := by
  have real := h.real
  have nonneg := magValue_nonneg f.mbits f.emin mag
  have nonzero := mt d.real_eq_zero_iff.mp h.proper
  have sign := d.real_neg_iff
  rw [real] at sign nonzero
  cases neg with
  | false => exact decide_eq_false (mt sign.mpr (not_lt.mpr nonneg))
  | true => exact decide_eq_true (sign.mp (lt_of_le_of_ne (neg_nonpos.mpr nonneg) nonzero))

theorem fp32_finite {x : ℕ} (h : Claims.isFinite 8 23 x) :
    (fp32.decode x = .zero (Claims.negative 8 23 x) ∧ Claims.value 8 23 x = 0) ∨
    ∃ d, fp32.decode x = .fin d ∧ fp32.Decodes (Claims.negative 8 23 x) (x % 2 ^ 31) d ∧ ((Claims.value 8 23 x : ℚ) : ℝ) = d.real :=
  fp32_ieee.decode_finite h

theorem fp64_value (neg : Bool) {mag : ℕ} (bound : mag < Claims.infBits 11 52) : Claims.isFinite 11 52 (fp64.withSign neg mag) ∧
    ((Claims.value 11 52 (fp64.withSign neg mag) : ℚ) : ℝ) = signedReal neg (magValue 52 fp64.emin mag) ∧
    Claims.negative 11 52 (fp64.withSign neg mag) = neg :=
  ⟨(fp64_ieee.value_withSign neg bound).1, (fp64_ieee.value_withSign neg bound).2, fp64.negative_withSign neg (bound.trans fp64.infBits_lt)⟩

section
variable {s : State} {v : Vals} (r : Rnd) {d : Reg} {src : Src} (ready : Claims.Ready s (Claims.needWS d src) v)
include ready

/-- FP32 becomes FP64 exactly, with no flag (R51, R131). -/
theorem convertFloat_widens (number : ¬ Claims.isNaN 8 23 (v.s.toNat % 2 ^ 32)) :
    ∃ bits, convertFloat fp32 fp64 r d src s = .next (Claims.endOf (Claims.needWS d src) (Claims.floated s d bits 0)) ∧ bits < 2 ^ 64 ∧
      (Claims.isInf 8 23 (v.s.toNat % 2 ^ 32) →
        bits = Claims.signedBits 11 52 (Claims.negative 8 23 (v.s.toNat % 2 ^ 32)) (Claims.infBits 11 52)) ∧
      (Claims.isFinite 8 23 (v.s.toNat % 2 ^ 32) → Claims.isFinite 11 52 bits ∧
        Claims.value 11 52 bits = Claims.value 8 23 (v.s.toNat % 2 ^ 32) ∧
        Claims.negative 11 52 bits = Claims.negative 8 23 (v.s.toNat % 2 ^ 32)) := by
  have holds {n : Num} {m : ℕ} {neg : Bool} (e : fp32.decode (v.s.toNat % 2 ^ 32) = n) (quiet : n.sig = false)
      (result : fp64.convert (Claims.mode s r) (Claims.policy s r) n = ⟨fp64.withSign neg m, 0, false⟩) :
      convertFloat fp32 fp64 r d src s = .next (Claims.endOf (Claims.needWS d src) (Claims.floated s d (fp64.withSign neg m) 0)) :=
    convertFloat_quiet r ready e result quiet Bool.noConfusion
  generalize v.s.toNat % 2 ^ 32 = x at number holds
  by_cases inf : Claims.isInf 8 23 x
  · refine ⟨_, holds (fp32_ieee.decode_inf inf) rfl (m := fp64.inf) rfl, fp64.withSign_lt _ (by decide), fun _ => rfl, fun finite => ?_⟩
    rw [isFinite_iff] at finite
    rw [isInf_iff] at inf
    omega
  · have finite : Claims.isFinite 8 23 x := by
      rw [isInf_iff] at inf
      rw [isNaN_iff] at number
      rw [isFinite_iff]
      omega
    rcases fp32_finite finite with ⟨e, zero⟩ | ⟨c, e, decodes, value⟩
    · obtain ⟨held, worth, sign⟩ := fp64_value (Claims.negative 8 23 x) (mag := 0) (by decide)
      refine ⟨_, holds e rfl rfl, fp64.withSign_lt _ (by decide), fun h => absurd h inf, fun _ => ⟨held, ?_, sign⟩⟩
      rw [← Rat.cast_inj (α := ℝ), worth, magValue_zero, zero]
      simp [signedReal]
    · obtain ⟨m, round, within, size⟩ := decodes_fits decodes (Claims.mode s r)
      have bound := within.trans_lt fp64_ieee.largest_lt
      obtain ⟨held, worth, sign⟩ := fp64_value (Claims.negative 8 23 x) bound
      refine ⟨_, holds (m := m) (neg := Claims.negative 8 23 x) e rfl ?_, fp64.withSign_lt _ (bound.trans fp64.infBits_lt),
        fun h => absurd h inf, fun _ => ⟨held, ?_, sign⟩⟩
      · simp only [Fmt.convert, round, Bool.false_eq_true, if_false]
        rw [decodes.sign]
      · rw [← Rat.cast_inj (α := ℝ), worth, value, size, decodes.real, abs_signedReal, abs_of_nonneg (magValue_nonneg _ _ _)]

end

/-- What an overflow gives under a policy (R50). -/
theorem Fmt.Ieee.overflowBits_eq {g : Fmt} (hg : g.Ieee) (policy : ℕ) (neg : Bool) : g.overflowBits policy neg = match policy with
    | 1 => Claims.signedBits g.ebits g.mbits neg (Claims.infBits g.ebits g.mbits)
    | 2 => Claims.nanBits g.ebits g.mbits
    | _ => Claims.signedBits g.ebits g.mbits neg (Claims.largestBits g.ebits g.mbits) := by
  rw [← hg.nan, ← hg.largest]
  unfold Fmt.overflowBits
  rw [hg.hasInf, hg.hasNan]
  rcases policy with _ | _ | _ | policy <;> rfl

/-- Settles O13: each form by its law, in FP64 and FP32. -/
theorem floatConversions : Obligations.FloatConversions := by
  intro r d src s v ready
  refine ⟨?_, ?_, ⟨?_, ?_⟩, ⟨?_, ?_⟩⟩
  · simp only [List.forall_mem_cons, List.not_mem_nil, false_implies, implies_true, and_true]
    exact ⟨fp64_ieee.fromInt_done r ready true, fp64_ieee.fromInt_done r ready false, fp32_ieee.fromInt_done r ready true,
      fp32_ieee.fromInt_done r ready false⟩
  · simp only [List.forall_mem_cons, List.not_mem_nil, false_implies, implies_true, and_true]
    exact ⟨fp64_ieee.toInt_done r ready (by norm_num) (by norm_num), fp64_ieee.toInt_done r ready (by norm_num) (by norm_num),
      fp32_ieee.toInt_done r ready (by norm_num) (by norm_num), fp32_ieee.toInt_done r ready (by norm_num) (by norm_num)⟩
  · exact fun nan => fp64_ieee.convertFloat_nan fp32_ieee r ready nan
  · exact fun a number stands => fp64_ieee.convertFloat_gives fp32_ieee r ready (fun neg => fp32_ieee.overflowBits_eq _ neg) number stands
  · exact fun nan => fp32_ieee.convertFloat_nan fp64_ieee r ready nan
  · exact fun number => convertFloat_widens r ready number

end Sys2Proof.Machine
end
section
/-! SUPPORT. Format codes 13 to 15, which R37 gives no format and BFMT refuses (R202). The statements about the engines' results and about
copies speak of every format number, and ask of a destination with such a code for an encoding of FP32 (`Claims.shape`), while its elements
have eight bits (`elemBits`): no step can write that. -/

namespace Sys2Proof.Machine

/-- Bits that stand apart sum up to a number of that width. -/
theorem sum_bits_lt (bit : ℕ → Bool) (w : ℕ) : ((List.range w).map fun i => if bit i then 2 ^ i else 0).sum < 2 ^ w := by
  induction w with
  | zero => simp
  | succ w ih =>
    have double := pow_succ 2 w
    simp only [List.range_succ, List.map_append, List.sum_append, List.map_cons, List.map_nil, List.sum_cons, List.sum_nil]
    split <;> omega

/-- An element has the bits of its format (R37). -/
theorem element_lt (m : Memory) (o : Operand) (n : ℕ) : Claims.element m o n < 2 ^ elemBits o.fmt :=
  sum_bits_lt (fun i => (m.byte (Claims.place o n i).1).getLsbD (Claims.place o n i).2) _

/-- An infinity in a format with code 13 would be the largest FP32 number, which has more than eight bits. -/
theorem not_encoded_unlisted {rm bits : ℕ} (h : bits < 2 ^ elemBits 13) : ¬ Claims.Encoded 13 rm 0 true (.inf false) bits := by
  intro e
  have : bits = 0x7F7FFFFF := e
  rw [this] at h
  exact absurd h (by decide)

/-! ## One element of E5M2 that holds +∞, and one of format 13 -/

/-- An operand of one element at the start of HBM. -/
def oneElement (fmt : ℕ) : Operand := ⟨0, 0, 0, fmt, 0, 1, 1, 1, 1, 1, 1, 1, 1, [(0, 0x10000000000)]⟩

/-- The memory whose first byte of HBM is +∞ of E5M2 (R38). -/
def infinityMemory : Memory := Memory.empty.write [(0x10000000000, 0x7C)]

theorem infinityMemory_element : Claims.element infinityMemory (oneElement 3) 0 = 0x7C := by decide

theorem infinityMemory_value {a : Claims.Exact} (h : Claims.ValueOf infinityMemory (oneElement 3) ((oneElement 3).at_ 0) true a) :
    a = .inf false := by
  have at0 : (oneElement 3).at_ 0 = 0 := by decide
  rw [at0, Claims.ValueOf, infinityMemory_element] at h
  exact h.2.1 (by unfold Claims.NaNOf Claims.isNaN; decide) (by decide)

theorem apart_oneElement : Claims.Apart (oneElement 13) [0] := by
  intro i hi j hj a b ha hb differ
  obtain rfl := List.mem_singleton.mp hi
  obtain rfl := List.mem_singleton.mp hj
  have bits : ∀ a < 8, ∀ b < 8, a ≠ b →
      Claims.place (oneElement 13) ((oneElement 13).at_ 0) a ≠ Claims.place (oneElement 13) ((oneElement 13).at_ 0) b := by decide
  exact bits a ha b hb fun e => differ (by rw [e])

theorem within_oneElement : Claims.within (oneElement 13) 0 0x10000000000 := by unfold Claims.within; decide

/-- Package 0 running, with one item in flight or several. -/
def runningWith (jobs : Tab Job) : State :=
  { State.reset with chips := [(0, { Package.fresh with phase := .running, flights := jobs })] }

/-! ## A conversion in Cassia -/

/-- A VCVT of that element from E5M2 to format 13, about to write its only line. -/
def unlistedConversion : CassiaOp :=
  { CassiaOp.new ⟨0, 0, 0⟩ (.vec .cvt false [oneElement 13, oneElement 3, oneElement 3] 0 1 0) none with
    stage := .writing, cap := infinityMemory, toWrite := [0x10000000000] }

/-- Refutes O46: a VCVT of +∞ from E5M2 to format 13. -/
theorem not_engineResults : ¬ Obligations.EngineResults := by
  intro h
  obtain ⟨-, -, -, -, vec, -⟩ := h (runningWith [(1, .cassia unlistedConversion)]) 0 1 0x10000000000 [] unlistedConversion rfl rfl rfl rfl
    (by decide) (by decide)
  have undisturbed : Claims.Undisturbed (oneElement 13) (oneElement 3) 1 := by
    intro i j x a less count
    have : (oneElement 13).count = 1 := rfl
    omega
  obtain ⟨t, y, -, only, writes⟩ := vec .cvt false (oneElement 13) (oneElement 3) (oneElement 3) [] 0 1 0 rfl (by decide) (by decide) (by decide)
    (by decide) (by decide) apart_oneElement undisturbed undisturbed fun other => absurd rfl other
  obtain rfl := List.mem_singleton.mp only
  obtain ⟨-, xs, -, -, -, value, -, -, encoded, -⟩ := writes 0 (by decide) within_oneElement
  obtain rfl := infinityMemory_value value
  exact not_encoded_unlisted (element_lt _ _ _) (encoded rfl)

/-! ## A conversion in Clove -/

/-- A copy of that element from E5M2 to format 13, and its piece, which has read its source. -/
def unlistedCopy : Copy := Copy.new ⟨0, 0, 0⟩ 1 0 0 false (oneElement 13) (oneElement 3) 1 0 none
def unlistedPiece : Piece := ⟨1, blockChannel (0x10000000000 / 4096 % 256), none, .reading, [], infinityMemory, [0x10000000000], false⟩

/-- That copy and its piece in flight. -/
def unlistedCopying : State := runningWith [(1, .copy unlistedCopy), (2, .piece unlistedPiece)]

theorem unlistedCopying_elems : (unlistedCopying.pkg 0).pieceElems unlistedCopy unlistedPiece.streamer = [0] := by decide

/-- Refutes O33: a COPY of +∞ from E5M2 to format 13. -/
theorem not_copies : ¬ Obligations.Copies := by
  rintro ⟨-, pieces⟩
  obtain ⟨-, -, write⟩ := pieces unlistedCopying 0 2 unlistedPiece unlistedCopy rfl (by decide) rfl rfl (by decide) rfl
  obtain ⟨t, -, y, only, -, -, -, convert⟩ := write 0x10000000000 [] rfl rfl (by decide)
  obtain rfl := List.mem_singleton.mp only
  rw [unlistedCopying_elems] at convert
  obtain ⟨a, value, encoded⟩ := convert (by decide) (by decide) (by decide) (by decide) (by decide) (by decide) (by decide)
    apart_oneElement 0 (List.mem_singleton.mpr rfl) within_oneElement
  obtain rfl := infinityMemory_value value
  exact not_encoded_unlisted (element_lt _ _ _) encoded

end Sys2Proof.Machine
end
section
/-! SUPPORT. Immediates (R63): the IMM prefixes and the base field that the encoder writes for a value are read as that value. -/

namespace Sys2Proof

/-! ## Bit strings -/

theorem immPayloads_length (n u : Nat) : (immPayloads n u).length = n := by
  induction n with
  | zero => rfl
  | succ n ih => rw [immPayloads, List.length_cons, ih]

/-- The payloads of `n` prefixes are the low `n` digits of the string to base 1024, most significant first. -/
theorem foldl_immPayloads (n u a : Nat) :
    (immPayloads n u).foldl (fun a p => a * 1024 + p.toNat) a = a * 1024 ^ n + u % 1024 ^ n := by
  induction n generalizing a with
  | zero => simp [immPayloads, Nat.mod_one]
  | succ n ih =>
    have digit : u % 1024 ^ (n + 1) = u % 1024 ^ n + 1024 ^ n * (u / 1024 ^ n % 2 ^ 10) := Nat.mod_pow_succ
    rw [immPayloads, List.foldl_cons, ih, BitVec.toNat_ofNat, digit]
    ring

/-- The payloads above a field of `w` bits and the field give the whole string. -/
theorem immString_immPayloads {n w u : Nat} (h : u < 2 ^ (10 * n + w)) : immString (immPayloads n (u / 2 ^ w)) (u % 2 ^ w) w = u := by
  have high : u / 2 ^ w < 1024 ^ n := by
    rw [Nat.div_lt_iff_lt_mul (Nat.two_pow_pos w), show 1024 = 2 ^ 10 from rfl, ← Nat.pow_mul, ← Nat.pow_add]
    exact h
  rw [immString, foldl_immPayloads, Nat.mod_eq_of_lt high, Nat.zero_mul, Nat.zero_add, Nat.div_add_mod']

theorem stringOf_lt (len : Nat) (v : Int) : stringOf len v < 2 ^ len := by
  have := Int.emod_lt_of_pos v (b := 2 ^ len) (by positivity)
  have := Int.emod_nonneg v (b := 2 ^ len) (by positivity)
  zify
  rw [stringOf]
  omega

/-- The two's complement string of a value that fits is read as the value. -/
theorem signedString_stringOf {len : Nat} {v : Int} (h : fitsString len v = true) : signedString len (stringOf len v) = v := by
  cases len with
  | zero =>
    obtain rfl : v = 0 := by simpa [fitsString] using h
    rfl
  | succ n =>
    obtain ⟨low, high⟩ : -(2 ^ n) ≤ v ∧ v < 2 ^ n := by simpa [fitsString] using h
    have double : (2 : Int) ^ (n + 1) = 2 * 2 ^ n := by ring
    have natural : ((stringOf (n + 1) v : Nat) : Int) = v % 2 ^ (n + 1) := Int.toNat_of_nonneg (Int.emod_nonneg v (by positivity))
    have half : 2 ^ (n + 1 - 1) ≤ stringOf (n + 1) v ↔ (2 : Int) ^ n ≤ v % 2 ^ (n + 1) := by
      rw [← natural, Nat.add_sub_cancel]
      norm_cast
    simp only [signedString, half, natural, double]
    by_cases sign : 0 ≤ v
    · rw [Int.emod_eq_of_lt sign (by omega), if_neg (by omega)]
    · have wrapped : v % (2 * 2 ^ n) = v + 2 * 2 ^ n := by
        rw [← Int.add_emod_right, Int.emod_eq_of_lt (by omega) (by omega)]
      rw [wrapped, if_pos ⟨by omega, by omega⟩]
      ring

/-! ## The number of prefixes -/

theorem fitsString_mono {m n : Nat} {v : Int} (le : m ≤ n) (h : fitsString m v = true) : fitsString n v = true := by
  rcases Nat.eq_zero_or_pos m with rfl | pos
  · obtain rfl : v = 0 := by simpa [fitsString] using h
    simp [fitsString]
  · have wider : (2 : Int) ^ (m - 1) ≤ 2 ^ (n - 1) := by gcongr; omega
    rw [fitsString, if_neg (by omega), decide_eq_true_eq] at h ⊢
    omega

theorem immCount_le (least w : Nat) (v : Int) : immCount least w v ≤ 3 := by
  rw [immCount]
  split_ifs <;> omega

/-- A value that fits its field takes none where none is asked for. -/
theorem immCount_zero {w : Nat} {v : Int} (h : fitsString w v = true) : immCount 0 w v = 0 := if_pos ⟨rfl, h⟩

/-- Where the form asks for at least one, there is one. -/
theorem immCount_pos {w : Nat} {v : Int} : immCount 1 w v ≠ 0 := by
  rw [immCount, if_neg (by omega)]
  split_ifs <;> omega

/-- A value that fits one beside its field takes one where one is asked for. -/
theorem immCount_one {w : Nat} {v : Int} (h : fitsString (10 + w) v = true) : immCount 1 w v = 1 := by
  rw [immCount, if_neg (by omega), if_pos h]

/-- The prefixes that the encoder takes hold the value, if three do. -/
theorem fits_immCount {least w : Nat} {v : Int} (h : fitsString (30 + w) v = true) : fitsString (10 * immCount least w v + w) v = true := by
  rw [immCount]
  split_ifs with own one two
  · rw [Nat.mul_zero, Nat.zero_add]; exact own.2
  · exact one
  · exact two
  · exact h

/-! ## The parts of an immediate -/

section
variable {f : Form} {r : Raw} {w least : Nat} (shape : immShape f r.s = some (w, least))
include shape

theorem immParts_length : (immParts f r).1.length = immCount least w r.imm.toInt := by
  rw [immParts, shape]
  exact immPayloads_length _ _

theorem immParts_field_lt : (immParts f r).2 < 2 ^ w := by
  rw [immParts, shape]
  exact Nat.mod_lt _ (Nat.two_pow_pos w)

/-- An immediate that fits its field takes none where none is asked for. -/
theorem immParts_nil (unasked : least = 0) (h : fitsString w r.imm.toInt = true) : (immParts f r).1 = [] := by
  subst unasked
  rw [← List.length_eq_zero_iff, immParts_length shape, immCount_zero h]

/-- An immediate of prefixes alone has an empty field. -/
theorem immParts_no_field (alone : w = 0) : (immParts f r).2 = 0 := by
  subst alone
  exact Nat.lt_one_iff.mp (immParts_field_lt shape)

/-- The parts of an immediate that fits are read as its value (R63). -/
theorem immValue_immParts (h : fitsString (30 + w) r.imm.toInt = true) : immValue (immParts f r).1 (immParts f r).2 w = r.imm.toInt := by
  rw [immValue, immParts_length shape, immParts, shape]
  dsimp only
  rw [immString_immPayloads (stringOf_lt _ _), signedString_stringOf (fits_immCount h)]

end

/-- A chain has at most three IMM prefixes (R66). -/
theorem immParts_length_le (f : Form) (r : Raw) : (immParts f r).1.length ≤ 3 := by
  cases shape : immShape f r.s with
  | none =>
    rw [immParts, shape]
    exact Nat.zero_le 3
  | some p => exact (immParts_length shape).trans_le (immCount_le _ _ _)

end Sys2Proof
end
section
/-! SUPPORT. Prefixes and base words (R60, R65, R66): the words that the encoder writes for a chain are parsed as that chain. -/

namespace Sys2Proof

/-! ## Fields of words -/

theorem opcodeOf_prefixWord (o : BitVec 6) (v : BitVec 10) : opcodeOf (prefixWord o v) = o := BitVec.extractLsb'_append_eq_left

theorem payloadOf_prefixWord (o : BitVec 6) (v : BitVec 10) : payloadOf (prefixWord o v) = v := BitVec.extractLsb'_append_eq_right

/-- The payload of PAGE (R65). -/
def pagePayload (page : BitVec 4) (r : Rnd) : BitVec 10 := page ++ r.mode ++ r.ovp ++ (0 : BitVec 1)

theorem pagePayload_page (page : BitVec 4) (r : Rnd) : (pagePayload page r).extractLsb' 6 4 = page := by
  rw [pagePayload, BitVec.extractLsb'_append_eq_of_le, BitVec.extractLsb'_append_eq_of_le]
  · exact BitVec.extractLsb'_append_eq_left
  all_goals decide

theorem pagePayload_mode (page : BitVec 4) (r : Rnd) : (pagePayload page r).extractLsb' 3 3 = r.mode := by
  rw [pagePayload, BitVec.extractLsb'_append_eq_of_le, BitVec.extractLsb'_append_eq_of_le]
  · exact BitVec.extractLsb'_append_eq_right
  all_goals decide

theorem pagePayload_ovp (page : BitVec 4) (r : Rnd) : (pagePayload page r).extractLsb' 1 2 = r.ovp := by
  rw [pagePayload, BitVec.extractLsb'_append_eq_of_le]
  · exact BitVec.extractLsb'_append_eq_right
  all_goals decide

theorem pagePayload_bit0 (page : BitVec 4) (r : Rnd) : (pagePayload page r).getLsbD 0 = false := by
  rw [pagePayload, BitVec.getLsbD_append]
  rfl

/-! ## Prefixes, one by one -/

section
variable {p : Prefixes}

theorem Prefixes.add_page {page : BitVec 4} (r : Rnd) (fresh : p.paged = false) (low : page ≠ 0) (high : page.toNat < 7) :
    p.add (prefixWord 63 (pagePayload page r)) = .ok { p with paged := true, page := page, rnd := r } := by
  have known : ¬ (page.toNat = 0 ∨ 7 ≤ page.toNat) := by
    have : page.toNat ≠ 0 := BitVec.toNat_ne.mp low
    omega
  simpa [Prefixes.add, opcodeOf_prefixWord, payloadOf_prefixWord, pagePayload_page, pagePayload_mode, pagePayload_ovp, fresh, known] using
    pagePayload_bit0 page r

theorem Prefixes.add_regx {x : BitVec 10} (fresh : p.regx = none) (even : x.getLsbD 0 = false) :
    p.add (prefixWord 61 x) = .ok { p with regx := some x } := by
  simpa [Prefixes.add, opcodeOf_prefixWord, payloadOf_prefixWord, fresh] using even

theorem Prefixes.add_regt {x : BitVec 10} (fresh : p.regt = none) : p.add (prefixWord 62 x) = .ok { p with regt := some x } := by
  simp [Prefixes.add, opcodeOf_prefixWord, payloadOf_prefixWord, fresh]

theorem Prefixes.add_imm (v : BitVec 10) (room : p.imms.length < 3) :
    p.add (prefixWord 60 v) = .ok { p with imms := p.imms ++ [v] } := by
  simp [Prefixes.add, opcodeOf_prefixWord, payloadOf_prefixWord, room.ne]

end

/-! ## The prefixes of a chain -/

/-- The prefixes of a chain, in the encoder's order. -/
def Chain.prefixes (c : Chain) : List Half :=
  (if c.page = 0 then [] else [prefixWord 63 (pagePayload c.page c.rnd)]) ++ c.regx.toList.map (prefixWord 61) ++
  c.regt.toList.map (prefixWord 62) ++ c.imms.map (prefixWord 60)

theorem Chain.words_eq (c : Chain) : c.words = c.prefixes ++ [c.base] := by
  rcases c with ⟨page, rnd, _ | x, _ | t, imms, base⟩ <;> rfl

/-- A chain that has words: reserved bits 0, no rounding fields on page 0, no more prefixes than R66 admits, and a base word whose opcode
value is not one of theirs (R60, R65, R66). -/
structure Chain.Encodable (c : Chain) : Prop where
  plain : c.page = 0 → c.rnd = ⟨0, 0⟩
  page : c.page.toNat < 7
  regx : ∀ x ∈ c.regx, x.getLsbD 0 = false
  imms : c.imms.length ≤ 3
  room : c.prefixes.length ≤ 4
  base : isPrefix c.base = false

theorem isPrefix_prefixWord {o : BitVec 6} (v : BitVec 10) (h : 60 ≤ o.toNat) : isPrefix (prefixWord o v) = true := by
  rw [isPrefix, opcodeOf_prefixWord]
  exact decide_eq_true h

theorem Chain.isPrefix_of_mem {c : Chain} {w : Half} (h : w ∈ c.prefixes) : isPrefix w = true := by
  simp only [Chain.prefixes, List.mem_append, List.mem_map] at h
  obtain ((paged | ⟨_, _, rfl⟩) | ⟨_, _, rfl⟩) | ⟨_, _, rfl⟩ := h
  · split at paged
    · cases paged
    · obtain rfl := List.mem_singleton.mp paged
      exact isPrefix_prefixWord _ (by decide)
  all_goals exact isPrefix_prefixWord _ (by decide)

/-! ## Prefixes read one after another -/

/-- A step of the decoder that answers is followed by the rest. -/
theorem bind_of_ok {α β : Type} {x : Except Illegal α} {a : α} {g : α → Except Illegal β} {y : Except Illegal β} (first : x = .ok a)
    (rest : g a = y) : x >>= g = y := by
  rw [first]
  exact rest

theorem foldlM_add_page {c : Chain} (h : c.Encodable) :
    (if c.page = 0 then [] else [prefixWord 63 (pagePayload c.page c.rnd)]).foldlM Prefixes.add Prefixes.empty =
      .ok { Prefixes.empty with paged := decide (c.page ≠ 0), page := c.page, rnd := c.rnd } := by
  by_cases zero : c.page = 0
  · simp only [zero, if_true, h.plain zero, ne_eq, not_true, decide_false]
    rfl
  · simp only [zero, if_false, List.foldlM_cons, Prefixes.add_page (p := Prefixes.empty) c.rnd rfl zero h.page, ne_eq, not_false_eq_true, decide_true]
    rfl

theorem foldlM_add_regx {p : Prefixes} {o : Option (BitVec 10)} (fresh : p.regx = none) (even : ∀ x ∈ o, x.getLsbD 0 = false) :
    (o.toList.map (prefixWord 61)).foldlM Prefixes.add p = .ok { p with regx := o } := by
  cases o with
  | none => cases p; cases fresh; rfl
  | some x =>
    simp only [Option.toList, List.map, List.foldlM_cons, Prefixes.add_regx fresh (even x rfl)]
    rfl

theorem foldlM_add_regt {p : Prefixes} (o : Option (BitVec 10)) (fresh : p.regt = none) :
    (o.toList.map (prefixWord 62)).foldlM Prefixes.add p = .ok { p with regt := o } := by
  cases o with
  | none => cases p; cases fresh; rfl
  | some x =>
    simp only [Option.toList, List.map, List.foldlM_cons, Prefixes.add_regt fresh]
    rfl

theorem foldlM_add_imms {p : Prefixes} {vs : List (BitVec 10)} (room : p.imms.length + vs.length ≤ 3) :
    (vs.map (prefixWord 60)).foldlM Prefixes.add p = .ok { p with imms := p.imms ++ vs } := by
  induction vs generalizing p with
  | nil => rw [List.append_nil]; rfl
  | cons v vs ih =>
    rw [List.length_cons] at room
    have rest := ih (p := { p with imms := p.imms ++ [v] }) (by rw [List.length_append, List.length_singleton]; omega)
    rw [List.append_assoc, List.singleton_append] at rest
    rw [List.map_cons, List.foldlM_cons, Prefixes.add_imm v (by omega)]
    exact rest

/-- The prefixes of a chain read in order give its fields. -/
theorem Chain.foldlM_prefixes {c : Chain} (h : c.Encodable) :
    c.prefixes.foldlM Prefixes.add Prefixes.empty = .ok ⟨decide (c.page ≠ 0), c.page, c.rnd, c.regx, c.regt, c.imms⟩ := by
  have few : Prefixes.empty.imms.length + c.imms.length ≤ 3 := by simpa [Prefixes.empty] using h.imms
  simp only [Chain.prefixes, List.foldlM_append]
  exact bind_of_ok (bind_of_ok (bind_of_ok (foldlM_add_page h) (foldlM_add_regx rfl h.regx)) (foldlM_add_regt c.regt rfl))
    (foldlM_add_imms few)

/-! ## Parsing -/

theorem parseFrom_base (p : Prefixes) (room : Nat) {w : Half} (ws : List Half) (h : isPrefix w = false) :
    parseFrom p room (w :: ws) = .ok (⟨p.page, p.rnd, p.regx, p.regt, p.imms, w⟩, 1) := by
  cases room <;> simp [parseFrom, h]

/-- Prefixes that can be read are, and what stands after them is parsed with them. -/
theorem parseFrom_append {us : List Half} (prefixes : ∀ u ∈ us, isPrefix u = true) {p q : Prefixes} {room n : Nat} {ws : List Half} {c : Chain}
    (read : us.foldlM Prefixes.add p = .ok q) (parsed : parseFrom q room ws = .ok (c, n)) :
    parseFrom p (room + us.length) (us ++ ws) = .ok (c, n + us.length) := by
  induction us generalizing p with
  | nil => cases read; exact parsed
  | cons u us ih =>
    rw [List.foldlM_cons] at read
    cases first : p.add u with
    | error e => rw [first] at read; cases read
    | ok p' =>
      rw [first] at read
      have later := ih (fun v hv => prefixes v (List.mem_cons_of_mem u hv)) read
      rw [List.length_cons, ← Nat.add_assoc, List.cons_append, parseFrom, if_pos (prefixes u List.mem_cons_self), first]
      simp only [later, Nat.add_assoc]

/-- The words of a chain, whatever follows them, are parsed as the chain. -/
theorem parse_words {c : Chain} (h : c.Encodable) (rest : List Half) : parse (c.words ++ rest) = .ok (c, c.words.length) := by
  have parsed := parseFrom_append (room := 4 - c.prefixes.length) (fun _ => Chain.isPrefix_of_mem) (Chain.foldlM_prefixes h)
    (parseFrom_base _ _ rest h.base)
  rw [Nat.sub_add_cancel h.room] at parsed
  rw [parse, Chain.words_eq, List.append_assoc, List.singleton_append, parsed, List.length_append, List.length_singleton, Nat.add_comm]

end Sys2Proof
end
section
/-! SUPPORT. Operands (R61 to R67): what the encoder writes for the operands of a row is read as those operands. -/

namespace Sys2Proof

/-! ## REGX -/

/-- An operand that REGX does not serve has none of its fields (R67). -/
theorem Opd.fields_of_not_served {o : Opd} (h : o.served = false) :
    o.regHi = 0 ∧ o.reuseBit = false ∧ o.trapBit = false ∧ o.isStream = false := by
  cases o with
  | reg r => cases h
  | stream c => cases h
  | none => exact ⟨rfl, rfl, rfl, rfl⟩
  | imm => exact ⟨rfl, rfl, rfl, rfl⟩
  | num n => exact ⟨rfl, rfl, rfl, rfl⟩

section
variable (d s : Opd)

theorem regxOf_dhi : (regxOf d s).extractLsb' 7 3 = d.regHi := by
  rw [regxOf]
  iterate 4 rw [BitVec.extractLsb'_append_eq_of_le]
  · exact BitVec.extractLsb'_append_eq_left
  all_goals decide

theorem regxOf_shi : (regxOf d s).extractLsb' 4 3 = s.regHi := by
  rw [regxOf]
  iterate 4 rw [BitVec.extractLsb'_append_eq_of_le]
  · exact BitVec.extractLsb'_append_eq_right
  all_goals decide

theorem regxOf_bits : (regxOf d s).getLsbD 3 = s.reuseBit ∧ (regxOf d s).getLsbD 2 = s.trapBit ∧
    (regxOf d s).getLsbD 1 = d.isStream ∧ (regxOf d s).getLsbD 0 = false := by
  simp only [regxOf, BitVec.getLsbD_append]
  simp

theorem regxOf_of_not_served (hd : d.served = false) (hs : s.served = false) : regxOf d s = 0 := by
  obtain ⟨dhi, -, -, stream⟩ := Opd.fields_of_not_served hd
  obtain ⟨shi, reuse, trap, -⟩ := Opd.fields_of_not_served hs
  rw [regxOf, dhi, shi, reuse, trap, stream]
  rfl

end

/-! ## D and S -/

theorem reg_append (n : Reg) : n.extractLsb' 4 3 ++ n.extractLsb' 0 4 = n :=
  (BitVec.extractLsb'_append_extractLsb'_eq_extractLsb' rfl).trans BitVec.extractLsb'_eq_self

theorem regS_reg (r : RegOp) : regS (Opd.reg r).regHi (Opd.reg r).lo (Opd.reg r).reuseBit (Opd.reg r).trapBit = .reg r := by
  simp only [regS, Opd.regHi, Opd.lo, Opd.reuseBit, Opd.trapBit, reg_append]

/-- A register operand without hint and trap bit is the plain register of its number. -/
theorem plainReg_of_bare {r : RegOp} (reuse : r.reuse = false) (trap : r.trap = false) : plainReg r.n = r := by
  cases r
  cases reuse
  cases trap
  rfl

theorem readD_of_accepts {f : DForm} {d : Opd} (h : f.accepts d = true) : readD f d.regHi d.isStream d.lo = .ok d := by
  match f, d, h with
  | .none, .none, _ => rfl
  | .reg, .reg r, h | .dst, .reg r, h =>
    obtain ⟨reuse, trap⟩ := of_decide_eq_true h
    rw [← plainReg_of_bare reuse trap]
    exact congrArg _ (congrArg (Opd.reg ∘ plainReg) (reg_append r.n))
  | .dst, .stream c, h => exact if_pos ⟨rfl, h⟩
  | .num m, .num n, h => exact if_neg (Nat.not_lt.mpr (of_decide_eq_true h))

/-- An operand S is read from its fields and its kind; the low bits count unless it is an immediate (R61). -/
theorem readSA_of_accepts {f : SForm} {s : Opd} {lo : BitVec 4} (h : f.accepts s = true) (low : s ≠ .imm → lo = s.lo) :
    readSA f s.regHi s.reuseBit s.trapBit lo s.kind = .ok s := by
  match f, s, h with
  | .none, .none, _ => rw [low nofun]; rfl
  | .base, .reg r, _ => rw [low nofun]; exact congrArg _ (regS_reg r)
  | .num, .num n, _ => rw [low nofun]; rfl
  | .src _ _, .reg r, _ => rw [low nofun]; exact congrArg _ (regS_reg r)
  | .src stream imm, .stream c, h =>
    obtain ⟨may, source⟩ := of_decide_eq_true h
    rw [low nofun]
    simp [readSA, Opd.kind, Opd.lo, Opd.regHi, Opd.reuseBit, Opd.trapBit, may, source]
  | .src _ i, .imm, h =>
    simp [readSA, Opd.kind, Opd.regHi, Opd.reuseBit, Opd.trapBit, show i.isSome = true from h]
  | .sel reg _, .reg r, h =>
    rw [low nofun]
    exact (if_pos ⟨rfl, h⟩).trans (congrArg _ (regS_reg r))
  | .sel _ _, .imm, _ => simp [readSA, Opd.kind, Opd.regHi, Opd.reuseBit, Opd.trapBit]

/-! ## T -/

/-- The payload of REGT for a register (R65). -/
theorem regtOf_reg (r : RegOp) : ∃ v, regtOf (.reg r) = some v ∧ v.extractLsb' 3 7 = r.n ∧ v.getLsbD 2 = r.reuse ∧ v.getLsbD 1 = r.trap ∧
    v.getLsbD 0 = false := by
  refine ⟨_, rfl, ?_, ?_⟩
  · iterate 2 rw [BitVec.extractLsb'_append_eq_of_le]
    · exact BitVec.extractLsb'_append_eq_left
    all_goals decide
  · simp only [BitVec.getLsbD_append]
    simp

/-- The payload of REGT for a stream or a record number: seven bits and their three low ones. -/
theorem regtOf_low (n : BitVec 7) (low : BitVec 3) : (n ++ low : BitVec 10).extractLsb' 3 7 = n ∧
    (n ++ low : BitVec 10).getLsbD 2 = low.getLsbD 2 ∧ (n ++ low : BitVec 10).getLsbD 1 = low.getLsbD 1 ∧
    (n ++ low : BitVec 10).getLsbD 0 = low.getLsbD 0 := by
  refine ⟨BitVec.extractLsb'_append_eq_left, ?_⟩
  simp only [BitVec.getLsbD_append]
  simp

theorem readT_of_accepts {f : TForm} {t : Opd} (h : f.accepts t = true) : readT f (regtOf t) = .ok t := by
  match f, t, h with
  | .none, .none, _ => rfl
  | .regO, .none, _ => rfl
  | .regT, .reg r, _ | .regO, .reg r, _ | .tgt, .reg r, _ =>
    obtain ⟨v, payload, n, reuse, trap, plain⟩ := regtOf_reg r
    simp only [payload, readT, n, reuse, trap, plain]
    rfl
  | .tgt, .stream c, h =>
    obtain ⟨n, reuse, trap, stream⟩ := regtOf_low (c.setWidth 7) 1
    have h : sourceStream c = true := h
    have small : (c.setWidth 7).toNat ≤ 15 := by have := c.isLt; simp; omega
    have narrow : (c.setWidth 7).setWidth 4 = c := by simp
    simp only [regtOf, readT, n, reuse, trap, stream, narrow, h, small]
    rfl
  | .recT, .num c, _ =>
    obtain ⟨n, reuse, trap, stream⟩ := regtOf_low (c.setWidth 7) 0
    have small : ¬ 15 < (c.setWidth 7).toNat := by have := c.isLt; simp; omega
    have narrow : (c.setWidth 7).setWidth 4 = c := by simp
    simp only [regtOf, readT, n, reuse, trap, stream, narrow, small]
    rfl

end Sys2Proof
end
section
/-! SUPPORT. Chains (R60 to R67): the chain that the encoder builds for the operands of a row is one that has words, and it is read as those
operands. -/

namespace Sys2Proof

/-! ## Rows of the opcode map -/

/-- Operands that a format has room for (R60): format J has no D, and only formats A and M have an S, which in format M is a register. -/
def DForm.standsIn : Format → DForm → Bool
  | .J, d => d = .none
  | _, _ => true

def SForm.standsIn : Format → SForm → Bool
  | .A, _ => true
  | .M, s => s = .base ∨ s = .none
  | _, s => s = .none

/-- Formats A and M have no field of their own for an immediate, and no row of format J forbids IMM prefixes above its field (R60, R63). -/
def IForm.standsIn : Format → IForm → Bool
  | .A, .field _ | .A, .bare _ | .M, .field _ | .M, .bare _ | .J, .bare _ => false
  | _, _ => true

/-- A row whose operands its format has room for, and which rounds only where PAGE, which holds the rounding fields, stands. -/
def Form.regular (page : Nat) (f : Form) : Bool :=
  f.d.standsIn f.fmt && f.s.standsIn f.fmt && f.imm.standsIn f.fmt && (page ≠ 0 || !f.rounds)

theorem Form.regular_iff {f : Form} {page : Nat} : f.regular page = true ↔ f.d.standsIn f.fmt = true ∧ f.s.standsIn f.fmt = true ∧
    f.imm.standsIn f.fmt = true ∧ (page = 0 → f.rounds = false) := by
  simp only [Form.regular, Bool.and_eq_true, Bool.or_eq_true, decide_eq_true_eq, Bool.not_eq_true', and_assoc, ← Decidable.imp_iff_not_or,
    ne_eq]

theorem pageRows_regular : ∀ p < 7, (pageRows p).all (fun r => r.all (Form.regular p)) = true := by decide
theorem pageRows_length : ∀ p < 7, (pageRows p).length ≤ 60 := by decide
theorem pageRows_beyond {p : Nat} (h : 7 ≤ p) : pageRows p = [] := by
  obtain ⟨n, rfl⟩ := Nat.exists_eq_add_of_le' h
  rfl

/-- The row that an opcode value selects, but for the register form of SETE. -/
theorem formOf_row {page op : Nat} {k : BitVec 2} {f : Form} (h : formOf page op k = some f) :
    (page = 2 ∧ op = 5 ∧ f = seteRegisterForm) ∨ (pageRows page)[op]? = some (some f) := by
  unfold formOf at h
  split at h
  · next sete =>
    cases h
    exact .inl ⟨sete.1, sete.2.1, rfl⟩
  · split at h
    · next r hr => exact .inr (h ▸ hr)
    · cases h

/-- What every row of the opcode map has (R60, R71). -/
theorem formOf_spec {page op : Nat} {k : BitVec 2} {f : Form} (h : formOf page op k = some f) :
    page < 7 ∧ op < 60 ∧ f.regular page = true := by
  obtain ⟨rfl, rfl, rfl⟩ | row := formOf_row h
  · decide
  · obtain ⟨inside, -⟩ := List.getElem?_eq_some_iff.mp row
    have known : page < 7 := by
      by_contra beyond
      rw [pageRows_beyond (not_lt.mp beyond)] at inside
      exact absurd inside (Nat.not_lt_zero op)
    have regular := List.all_eq_true.mp (pageRows_regular page known) _ (List.mem_of_getElem? row)
    exact ⟨known, inside.trans_le (pageRows_length page known), regular⟩

/-- Bits [1:0] of the base word select a row of format M only. -/
theorem formOf_size {page op : Nat} {k : BitVec 2} {f : Form} (h : formOf page op k = some f) (fmt : f.fmt ≠ .M) (k' : BitVec 2) :
    formOf page op k' = some f := by
  obtain ⟨-, -, rfl⟩ | row := formOf_row h
  · exact absurd rfl fmt
  · have other : ¬ (page = 2 ∧ op = 5 ∧ k' = 0) := by
      rintro ⟨rfl, rfl, -⟩
      cases row
      exact fmt rfl
    rw [formOf, if_neg other, row]

/-! ## The base word -/

section
variable (op : Nat) {f : Form} (r : Raw)

theorem baseWord_A (h : f.fmt = .A) : baseWord op f r =
    BitVec.ofNat 6 op ++ r.d.lo ++ (if r.s = .imm then BitVec.ofNat 4 (immParts f r).2 else r.s.lo) ++ r.s.kind := by
  rw [baseWord, h]
theorem baseWord_M (h : f.fmt = .M) : baseWord op f r = BitVec.ofNat 6 op ++ r.d.lo ++ r.s.lo ++ r.sz := by
  rw [baseWord, h]
theorem baseWord_J (h : f.fmt = .J) : baseWord op f r = prefixWord (BitVec.ofNat 6 op) (BitVec.ofNat 10 (immParts f r).2) := by
  rw [baseWord, h]
  rfl
theorem baseWord_IB (h : f.fmt = .I ∨ f.fmt = .B) : baseWord op f r = BitVec.ofNat 6 op ++ r.d.lo ++ BitVec.ofNat 6 (immParts f r).2 := by
  rcases h with h | h <;> rw [baseWord, h]

end

section
variable (o : BitVec 6) (d s : BitVec 4) (k : BitVec 2) (v : BitVec 6)

theorem opcodeOf_wordAM : opcodeOf (o ++ d ++ s ++ k) = o := by
  rw [opcodeOf]
  iterate 2 rw [BitVec.extractLsb'_append_eq_of_le]
  · exact BitVec.extractLsb'_append_eq_left
  all_goals decide

theorem dField_wordAM : (o ++ d ++ s ++ k : Half).extractLsb' 6 4 = d := by
  iterate 2 rw [BitVec.extractLsb'_append_eq_of_le]
  · exact BitVec.extractLsb'_append_eq_right
  all_goals decide

theorem sField_wordAM : (o ++ d ++ s ++ k : Half).extractLsb' 2 4 = s := by
  rw [BitVec.extractLsb'_append_eq_of_le]
  · exact BitVec.extractLsb'_append_eq_right
  · decide

theorem kField_wordAM : (o ++ d ++ s ++ k : Half).extractLsb' 0 2 = k := BitVec.extractLsb'_append_eq_right

theorem opcodeOf_wordIB : opcodeOf (o ++ d ++ v) = o := by
  rw [opcodeOf, BitVec.extractLsb'_append_eq_of_le]
  · exact BitVec.extractLsb'_append_eq_left
  · decide

theorem dField_wordIB : (o ++ d ++ v : Half).extractLsb' 6 4 = d := by
  rw [BitVec.extractLsb'_append_eq_of_le]
  · exact BitVec.extractLsb'_append_eq_right
  · decide

theorem iField_wordIB : (o ++ d ++ v : Half).extractLsb' 0 6 = v := BitVec.extractLsb'_append_eq_right

end

theorem opcodeOf_baseWord (op : Nat) (f : Form) (r : Raw) : opcodeOf (baseWord op f r) = BitVec.ofNat 6 op := by
  cases h : f.fmt with
  | A => rw [baseWord_A op r h]; exact opcodeOf_wordAM _ _ _ _
  | M => rw [baseWord_M op r h]; exact opcodeOf_wordAM _ _ _ _
  | J => rw [baseWord_J op r h, opcodeOf_prefixWord]
  | I => rw [baseWord_IB op r (.inl h)]; exact opcodeOf_wordIB _ _ _
  | B => rw [baseWord_IB op r (.inr h)]; exact opcodeOf_wordIB _ _ _

/-! ## The immediate -/

section
variable {f : Form} {r : Raw} (op : Nat)

theorem immParts_of_none (shape : immShape f r.s = none) : immParts f r = ([], 0) := by
  rw [immParts, shape]

theorem readField_A (fmt : f.fmt = .A) (s : r.s = .imm) (small : (immParts f r).2 < 2 ^ 4) :
    ((baseWord op f r).extractLsb' 2 4).toNat = (immParts f r).2 := by
  rw [baseWord_A op r fmt, sField_wordAM, if_pos s, BitVec.toNat_ofNat, Nat.mod_eq_of_lt small]

theorem readField_J (fmt : f.fmt = .J) (small : (immParts f r).2 < 2 ^ 10) :
    ((baseWord op f r).extractLsb' 0 10).toNat = (immParts f r).2 := by
  have field : (baseWord op f r).extractLsb' 0 10 = BitVec.ofNat 10 (immParts f r).2 := by
    rw [baseWord_J op r fmt]
    exact payloadOf_prefixWord _ _
  rw [field, BitVec.toNat_ofNat, Nat.mod_eq_of_lt small]

theorem readField_IB (fmt : f.fmt = .I ∨ f.fmt = .B) (small : (immParts f r).2 < 2 ^ 6) :
    ((baseWord op f r).extractLsb' 0 6).toNat = (immParts f r).2 := by
  rw [baseWord_IB op r fmt, iField_wordIB, BitVec.toNat_ofNat, Nat.mod_eq_of_lt small]

/-- A row that takes an immediate for S has a range for it. -/
theorem range_of_accepts_imm {s : SForm} (h : s.accepts .imm = true) : ∃ g, s.range = some g := by
  match s, h with
  | .src _ i, h => exact Option.isSome_iff_exists.mp h
  | .sel _ g, _ => exact ⟨g, rfl⟩

/-- Only format A has an immediate in S. -/
theorem format_of_accepts_imm (takes : f.s.standsIn f.fmt = true) (h : f.s.accepts .imm = true) : f.fmt = .A := by
  by_contra other
  have : f.s = .base ∨ f.s = .none := by
    cases fmt : f.fmt <;> simp_all [SForm.standsIn]
  rcases this with s | s <;> (rw [s] at h; cases h)

/-- A row whose immediate stands in S, where S is none, has the immediate 0 and no part of one. -/
theorem immParts_of_not_imm (imm : f.imm = .sImm ∨ f.imm = .sBare) (s : r.s ≠ .imm) (fits : f.immFits r = true) :
    immParts f r = ([], 0) ∧ r.imm = 0 := by
  rcases imm with imm | imm
  all_goals
    refine ⟨immParts_of_none ?_, by simpa [Form.immFits, imm, s] using fits⟩
    rw [immShape, imm]
    exact if_neg s

section
variable (fits : f.immFits r = true)
include fits

theorem readImm_none (imm : f.imm = .none) : readImm f r.s (immParts f r).1 (baseWord op f r) = .ok r.imm := by
  have zero : r.imm = 0 := by simpa [Form.immFits, imm] using fits
  have parts : immParts f r = ([], 0) := immParts_of_none (by rw [immShape, imm])
  simp [readImm, imm, parts, zero]

theorem readImm_sImm (imm : f.imm = .sImm) (takes : f.s.standsIn f.fmt = true) (accepts : f.s.accepts r.s = true) :
    readImm f r.s (immParts f r).1 (baseWord op f r) = .ok r.imm := by
  by_cases s : r.s = .imm
  · rw [s] at accepts
    obtain ⟨g, range⟩ := range_of_accepts_imm accepts
    have shape : immShape f r.s = some (4, 0) := by rw [immShape, imm]; exact if_pos s
    obtain ⟨within, string⟩ : inRange g r.imm.toInt = true ∧ fitsString (30 + 4) r.imm.toInt = true := by
      simpa [Form.immFits, imm, s, range] using fits
    have field := readField_A op (format_of_accepts_imm takes accepts) s (immParts_field_lt shape)
    simp [readImm, imm, s, range, field, immValue_immParts shape string, within]
  · obtain ⟨parts, zero⟩ := immParts_of_not_imm (.inl imm) s fits
    simp [readImm, imm, s, parts, zero]

theorem readImm_sBare (imm : f.imm = .sBare) (takes : f.s.standsIn f.fmt = true) (accepts : f.s.accepts r.s = true) :
    readImm f r.s (immParts f r).1 (baseWord op f r) = .ok r.imm := by
  by_cases s : r.s = .imm
  · rw [s] at accepts
    obtain ⟨g, range⟩ := range_of_accepts_imm accepts
    have shape : immShape f r.s = some (4, 0) := by rw [immShape, imm]; exact if_pos s
    obtain ⟨within, string⟩ : inRange g r.imm.toInt = true ∧ fitsString 4 r.imm.toInt = true := by
      simpa [Form.immFits, imm, s, range] using fits
    have field := readField_A op (format_of_accepts_imm takes accepts) s (immParts_field_lt shape)
    have alone := immParts_nil shape rfl string
    have value := immValue_immParts shape (fitsString_mono (by decide) string)
    rw [alone] at value
    simp [readImm, imm, s, range, field, alone, value, within]
  · obtain ⟨parts, zero⟩ := immParts_of_not_imm (.inr imm) s fits
    simp [readImm, imm, s, parts, zero]

theorem readImm_disp (imm : f.imm = .disp) : readImm f r.s (immParts f r).1 (baseWord op f r) = .ok r.imm := by
  have shape : immShape f r.s = some (0, 0) := by rw [immShape, imm]
  have string : fitsString 30 r.imm.toInt = true := by simpa [Form.immFits, imm] using fits
  have value := immValue_immParts shape string
  rw [immParts_no_field shape rfl] at value
  simp [readImm, imm, value]

theorem readImm_field {g : Int × Int} (imm : f.imm = .field g) (stands : f.imm.standsIn f.fmt = true) :
    readImm f r.s (immParts f r).1 (baseWord op f r) = .ok r.imm := by
  have short (fmt : f.fmt = .I ∨ f.fmt = .B) : readImm f r.s (immParts f r).1 (baseWord op f r) = .ok r.imm := by
    have shape : immShape f r.s = some (6, 0) := by rcases fmt with fmt | fmt <;> rw [immShape, imm, fmt]
    obtain ⟨within, string⟩ : inRange g r.imm.toInt = true ∧ fitsString (30 + 6) r.imm.toInt = true := by
      rcases fmt with fmt | fmt <;> simpa [Form.immFits, imm, fmt] using fits
    have field := readField_IB op fmt (immParts_field_lt shape)
    rcases fmt with fmt | fmt <;> simp [readImm, imm, fmt, field, immValue_immParts shape string, within]
  cases fmt : f.fmt with
  | A => rw [imm, fmt] at stands; cases stands
  | M => rw [imm, fmt] at stands; cases stands
  | I => exact short (.inl fmt)
  | B => exact short (.inr fmt)
  | J =>
    have shape : immShape f r.s = some (10, 0) := by rw [immShape, imm, fmt]
    obtain ⟨within, string⟩ : inRange g r.imm.toInt = true ∧ fitsString (30 + 10) r.imm.toInt = true := by
      simpa [Form.immFits, imm, fmt] using fits
    have field := readField_J op fmt (immParts_field_lt shape)
    simp [readImm, imm, fmt, field, immValue_immParts shape string, within]

theorem readImm_bare {g : Int × Int} (imm : f.imm = .bare g) (stands : f.imm.standsIn f.fmt = true) :
    readImm f r.s (immParts f r).1 (baseWord op f r) = .ok r.imm := by
  have fmt : f.fmt = .I ∨ f.fmt = .B := by
    rw [imm] at stands
    cases fmt : f.fmt <;> simp_all [IForm.standsIn]
  have shape : immShape f r.s = some (6, 0) := by rw [immShape, imm]
  obtain ⟨within, string⟩ : inRange g r.imm.toInt = true ∧ fitsString 6 r.imm.toInt = true := by
    simpa [Form.immFits, imm] using fits
  have field := readField_IB op fmt (immParts_field_lt shape)
  have alone := immParts_nil shape rfl string
  have value := immValue_immParts shape (fitsString_mono (by decide) string)
  rw [alone] at value
  simp [readImm, imm, field, alone, value, within]

theorem readImm_pre {m : Bool} {g : Int × Int} (imm : f.imm = .pre m g) : readImm f r.s (immParts f r).1 (baseWord op f r) = .ok r.imm := by
  have shape : immShape f r.s = some (0, if m then 1 else 0) := by rw [immShape, imm]
  obtain ⟨within, string⟩ : inRange g r.imm.toInt = true ∧ fitsString 30 r.imm.toInt = true := by
    simpa [Form.immFits, imm] using fits
  have value := immValue_immParts shape string
  rw [immParts_no_field shape rfl] at value
  have there : ¬ (m = true ∧ (immParts f r).1 = []) := by
    rintro ⟨rfl, empty⟩
    have := immParts_length shape
    rw [empty] at this
    exact immCount_pos this.symm
  simp [readImm, imm, value, within, there]

theorem readImm_one {g : Int × Int} (imm : f.imm = .one g) : readImm f r.s (immParts f r).1 (baseWord op f r) = .ok r.imm := by
  have shape : immShape f r.s = some (0, 1) := by rw [immShape, imm]
  obtain ⟨within, string⟩ : inRange g r.imm.toInt = true ∧ fitsString 10 r.imm.toInt = true := by
    simpa [Form.immFits, imm] using fits
  have value := immValue_immParts shape (fitsString_mono (by decide) string)
  rw [immParts_no_field shape rfl] at value
  have one : (immParts f r).1.length = 1 := (immParts_length shape).trans (immCount_one string)
  simp [readImm, imm, value, within, one]

/-- The immediate of a row's operands is read back, wherever it stands (R63). -/
theorem readImm_of_immFits (stands : f.imm.standsIn f.fmt = true) (takes : f.s.standsIn f.fmt = true)
    (accepts : f.s.accepts r.s = true) : readImm f r.s (immParts f r).1 (baseWord op f r) = .ok r.imm := by
  cases imm : f.imm with
  | none => exact readImm_none op fits imm
  | sImm => exact readImm_sImm op fits imm takes accepts
  | sBare => exact readImm_sBare op fits imm takes accepts
  | disp => exact readImm_disp op fits imm
  | field g => exact readImm_field op fits imm stands
  | bare g => exact readImm_bare op fits imm stands
  | pre m g => exact readImm_pre op fits imm
  | one g => exact readImm_one op fits imm

end
end

/-! ## The chain -/

/-- The conditions of `Form.fits`, one by one. -/
theorem Form.fits_iff {f : Form} {page : Nat} {r : Raw} : f.fits page r = true ↔
    f.d.accepts r.d = true ∧ f.s.accepts r.s = true ∧ f.t.accepts r.t = true ∧ f.immFits r = true ∧ f.sizeFits r = true ∧
    r.rnd.allowed f.rounds = true ∧ (if page = 0 then 0 else 1) + (if regxOf r.d r.s = 0 then 0 else 1) +
      (if (regtOf r.t).isSome then 1 else 0) + (immParts f r).1.length ≤ 4 := by
  simp only [Form.fits, Bool.and_eq_true, decide_eq_true_eq, and_assoc]

/-- REGX is absent where it would be empty, and an absent REGX is read as an empty one (R67). -/
theorem chainOf_regx (page op : Nat) (f : Form) (r : Raw) : (chainOf page op f r).regx.getD 0 = regxOf r.d r.s := by
  simp only [chainOf]
  split
  · next empty => exact empty.symm
  · rfl

/-- REGX stands only where it serves an operand (R67). -/
theorem chainOf_regx_serves (page op : Nat) (f : Form) (r : Raw) :
    ¬ ((chainOf page op f r).regx.isSome = true ∧ ¬ r.d.served = true ∧ ¬ r.s.served = true) := by
  rintro ⟨there, d, s⟩
  have empty : (chainOf page op f r).regx = none :=
    if_pos (regxOf_of_not_served _ _ (Bool.eq_false_iff.mpr d) (Bool.eq_false_iff.mpr s))
  rw [empty] at there
  cases there

theorem DForm.none_of_accepts {o : Opd} (h : DForm.accepts .none o = true) : o = .none :=
  match o, h with | .none, _ => rfl

theorem SForm.none_of_accepts {o : Opd} (h : SForm.accepts .none o = true) : o = .none :=
  match o, h with | .none, _ => rfl

theorem SForm.base_of_accepts {o : Opd} (h : SForm.accepts .base o = true) : ∃ r, o = .reg r :=
  match o, h with | .reg r, _ => ⟨r, rfl⟩

/-- The D operand is read from the fields of its format; format J has none (R60). -/
theorem readD_baseWord {f : Form} {r : Raw} (op : Nat) (stands : f.d.standsIn f.fmt = true) (accepts : f.d.accepts r.d = true) :
    (match f.fmt with
      | .J => readD f.d r.d.regHi r.d.isStream 0
      | _ => readD f.d r.d.regHi r.d.isStream ((baseWord op f r).extractLsb' 6 4)) = .ok r.d := by
  have read := readD_of_accepts accepts
  cases fmt : f.fmt with
  | A => rw [baseWord_A op r fmt, dField_wordAM]; exact read
  | M => rw [baseWord_M op r fmt, dField_wordAM]; exact read
  | I => rw [baseWord_IB op r (.inl fmt), dField_wordIB]; exact read
  | B => rw [baseWord_IB op r (.inr fmt), dField_wordIB]; exact read
  | J =>
    rw [fmt] at stands
    rw [of_decide_eq_true stands] at accepts
    rw [DForm.none_of_accepts accepts] at read ⊢
    exact read

/-- The S operand is read from the fields of its format (R60, R61). -/
theorem readSA_baseWord {f : Form} {r : Raw} (op : Nat) (stands : f.s.standsIn f.fmt = true) (accepts : f.s.accepts r.s = true)
    (size : f.sizeFits r = true) :
    (match f.fmt with
      | .A => readSA f.s r.s.regHi r.s.reuseBit r.s.trapBit ((baseWord op f r).extractLsb' 2 4) ((baseWord op f r).extractLsb' 0 2)
      | .M => if f.sz.contains ((baseWord op f r).extractLsb' 0 2) then
          readSA f.s r.s.regHi r.s.reuseBit r.s.trapBit ((baseWord op f r).extractLsb' 2 4) 0 else .error .kind
      | _ => readSA f.s r.s.regHi r.s.reuseBit r.s.trapBit 0 0) = .ok r.s := by
  have absent (s : f.s = .none) : readSA f.s r.s.regHi r.s.reuseBit r.s.trapBit 0 0 = .ok r.s := by
    rw [s] at accepts ⊢
    rw [SForm.none_of_accepts accepts]
    rfl
  cases fmt : f.fmt with
  | A =>
    rw [baseWord_A op r fmt, sField_wordAM, kField_wordAM]
    exact readSA_of_accepts accepts fun s => if_neg s
  | M =>
    have listed : f.sz.contains r.sz = true := by simpa only [Form.sizeFits, fmt] using size
    have register : r.s.kind = 0 := by
      rw [fmt] at stands
      rcases of_decide_eq_true stands with s | s <;> rw [s] at accepts
      · obtain ⟨_, reg⟩ := SForm.base_of_accepts accepts
        rw [reg]; rfl
      · rw [SForm.none_of_accepts accepts]; rfl
    rw [baseWord_M op r fmt, sField_wordAM, kField_wordAM]
    dsimp only
    rw [if_pos listed, ← register]
    exact readSA_of_accepts accepts fun _ => rfl
  | I => rw [fmt] at stands; exact absent (of_decide_eq_true stands)
  | B => rw [fmt] at stands; exact absent (of_decide_eq_true stands)
  | J => rw [fmt] at stands; exact absent (of_decide_eq_true stands)

/-- The size is read where the format has one, and is 0 elsewhere. -/
theorem size_baseWord {f : Form} {r : Raw} (op : Nat) (size : f.sizeFits r = true) :
    (match f.fmt with | .M => (baseWord op f r).extractLsb' 0 2 | _ => 0) = r.sz := by
  cases fmt : f.fmt
  case M => rw [baseWord_M op r fmt, kField_wordAM]
  all_goals
    have : r.sz = 0 := by simpa only [Form.sizeFits, fmt, decide_eq_true_eq] using size
    exact this.symm

/-- The chain that the encoder builds for operands that fit a row is read as those operands. -/
theorem readChain_chainOf {page op : Nat} {f : Form} {r : Raw} (regular : f.regular page = true) (fits : f.fits page r = true) :
    readChain f (chainOf page op f r) = .ok r := by
  obtain ⟨d, s, t, imm, size, rnd, -⟩ := Form.fits_iff.mp fits
  obtain ⟨dStands, sStands, immStands, -⟩ := Form.regular_iff.mp regular
  obtain ⟨reuse, trap, stream, -⟩ := regxOf_bits r.d r.s
  unfold readChain
  dsimp only
  rw [chainOf_regx, regxOf_dhi, regxOf_shi, reuse, trap, stream]
  refine bind_of_ok (readD_baseWord op dStands d) (bind_of_ok (readSA_baseWord op sStands s size) ?_)
  refine bind_of_ok (readT_of_accepts t) (bind_of_ok (readImm_of_immFits op imm immStands sStands s) ?_)
  refine (if_neg (chainOf_regx_serves page op f r)).trans ((if_neg (not_not.mpr rnd)).trans ?_)
  exact congrArg (fun sz => Except.ok (⟨r.d, r.s, r.t, r.imm, sz, r.rnd⟩ : Raw)) (size_baseWord op size)

/-! ## The chain is one that has words -/

/-- The number of prefixes of a chain (R66). -/
theorem Chain.prefixes_length (c : Chain) : c.prefixes.length =
    (if c.page = 0 then 0 else 1) + (if c.regx.isSome then 1 else 0) + (if c.regt.isSome then 1 else 0) + c.imms.length := by
  have optional (o : Option (BitVec 10)) : o.toList.length = if o.isSome then 1 else 0 := by cases o <;> rfl
  simp only [Chain.prefixes, List.length_append, List.length_map, optional, apply_ite List.length, List.length_nil, List.length_singleton]

/-- A row that does not round has empty rounding fields (R46). -/
theorem Rnd.eq_zero_of_allowed {r : Rnd} (h : r.allowed false = true) : r = ⟨0, 0⟩ := by
  obtain ⟨mode, ovp⟩ : r.mode = 0 ∧ r.ovp = 0 := of_decide_eq_true h
  cases r
  exact congr (congrArg _ mode) ovp

theorem page_eq_zero {page : Nat} (known : page < 7) : BitVec.ofNat 4 page = 0 ↔ page = 0 := by
  rw [← BitVec.toNat_inj, BitVec.toNat_ofNat, Nat.mod_eq_of_lt (by omega)]
  rfl

theorem chainOf_encodable {page op : Nat} {f : Form} {r : Raw} (known : page < 7) (row : op < 60) (regular : f.regular page = true)
    (fits : f.fits page r = true) : (chainOf page op f r).Encodable where
  plain zero := by
    obtain ⟨-, -, -, -, -, rnd, -⟩ := Form.fits_iff.mp fits
    obtain ⟨-, -, -, rounds⟩ := Form.regular_iff.mp regular
    rw [rounds ((page_eq_zero known).mp zero)] at rnd
    exact Rnd.eq_zero_of_allowed rnd
  page := by
    show (BitVec.ofNat 4 page).toNat < 7
    rw [BitVec.toNat_ofNat]
    omega
  regx x there := by
    have := chainOf_regx page op f r
    rw [Option.mem_def.mp there] at this
    obtain ⟨-, -, -, even⟩ := regxOf_bits r.d r.s
    rw [show x = _ from this]
    exact even
  imms := immParts_length_le f r
  room := by
    obtain ⟨-, -, -, -, -, -, room⟩ := Form.fits_iff.mp fits
    rw [Chain.prefixes_length]
    simp only [chainOf, page_eq_zero known]
    refine le_of_eq_of_le ?_ room
    congr 3
    split <;> rfl
  base := by
    show isPrefix (baseWord op f r) = false
    rw [isPrefix, opcodeOf_baseWord, BitVec.toNat_ofNat]
    exact decide_eq_false (by omega)

end Sys2Proof
end
section
/-! SUPPORT. Rows and their instructions (R73 to R79): the row of an instruction builds it from the operands that `Instr.coded` gives. -/

namespace Sys2Proof

/-! ## Operands -/

theorem Size.ofCode_code (z : Size) : Size.ofCode z.code = z := by cases z <;> rfl
theorem Port.ofCode_code (p : Port) : Port.ofCode p.code = p := by cases p <;> rfl

theorem Raw.src?_opd (d t : Opd) (s : Src) (z : BitVec 2) (rn : Rnd) : Raw.src? ⟨d, s.opd, t, s.immOf, z, rn⟩ = some s := by
  cases s <;> rfl

/-- An operand S that is no immediate is itself beside any immediate. -/
theorem Raw.src?_of_accepts {stream : Bool} {s : Src} (d t : Opd) (v : Word) (z : BitVec 2) (rn : Rnd)
    (h : (SForm.src stream none).accepts s.opd = true) : Raw.src? ⟨d, s.opd, t, v, z, rn⟩ = some s := by
  cases s with
  | reg r => rfl
  | stream c => rfl
  | imm w => cases h

theorem Raw.tgt?_opd (d s : Opd) (t : Tgt) (v : Word) (z : BitVec 2) (rn : Rnd) : Raw.tgt? ⟨d, s, t.opd, v, z, rn⟩ = some t := by
  cases t <;> rfl

theorem Raw.dst?_opd (d : Dst) (s t : Opd) (v : Word) (z : BitVec 2) (rn : Rnd) : Raw.dst? ⟨d.opd, s, t, v, z, rn⟩ = some d := by
  cases d <;> rfl

/-! ## Builders -/

theorem buildDS_rawDS (mk : Reg → Src → Instr) (d : Reg) (s : Src) : buildDS mk (rawDS d s) = some (mk d s) := by
  rw [buildDS, rawDS, Raw.src?_opd]; rfl

theorem buildDstS_rawDstS (mk : Dst → Src → Instr) (d : Dst) (s : Src) : buildDstS mk (rawDstS d s) = some (mk d s) := by
  rw [buildDstS, rawDstS, Raw.src?_opd, Raw.dst?_opd]; rfl

theorem buildDstI_rawDstI (mk : Dst → Word → Instr) (d : Dst) (v : Word) : buildDstI mk (rawDstI d v) = some (mk d v) := by
  rw [buildDstI, rawDstI, Raw.dst?_opd]; rfl

theorem buildDST_rawDST (mk : Reg → Src → Tgt → Instr) (d : Reg) (s : Src) (t : Tgt) : buildDST mk (rawDST d s t) = some (mk d s t) := by
  rw [buildDST, rawDST, Raw.src?_opd, Raw.tgt?_opd]; rfl

theorem buildDRSG_rawDRSG (mk : Reg → RegOp → Tgt → Instr) (d : Reg) (s : RegOp) (t : Tgt) :
    buildDRSG mk (rawDRSG d s t) = some (mk d s t) := by
  rw [buildDRSG, rawDRSG, Raw.tgt?_opd]; rfl

theorem buildRDS_rawRDS (mk : Rnd → Reg → Src → Instr) (rn : Rnd) (d : Reg) (s : Src) : buildRDS mk (rawRDS rn d s) = some (mk rn d s) := by
  rw [buildRDS, rawRDS, Raw.src?_opd]; rfl

theorem buildRDST_rawRDST (mk : Rnd → Reg → Src → Tgt → Instr) (rn : Rnd) (d : Reg) (s : Src) (t : Tgt) :
    buildRDST mk (rawRDST rn d s t) = some (mk rn d s t) := by
  rw [buildRDST, rawRDST, Raw.src?_opd, Raw.tgt?_opd]; rfl

theorem buildRLLG_rawRLLG (mk : Rnd → Rec → Rec → Tgt → Instr) (rn : Rnd) (ld ls : Rec) (t : Tgt) :
    buildRLLG mk (rawRLLG rn ld ls t) = some (mk rn ld ls t) := by
  rw [buildRLLG, rawRLLG, Raw.tgt?_opd]; rfl

theorem buildRLS_rawRLS (mk : Rnd → Rec → Src → Instr) (rn : Rnd) (ld : Rec) (s : Src) : buildRLS mk (rawRLS rn ld s) = some (mk rn ld s) := by
  rw [buildRLS, rawRLS, Raw.src?_opd]; rfl

theorem buildLS_rawLS (mk : Rec → Src → Instr) (ld : Rec) (s : Src) : buildLS mk (rawLS ld s) = some (mk ld s) := by
  rw [buildLS, rawLS, rawRLS, Raw.src?_opd]; rfl

theorem buildPS_rawPS (mk : Port → Src → Instr) (p : Port) (s : Src) : buildPS mk (rawPS p s) = some (mk p s) := by
  rw [buildPS, rawPS, Raw.src?_opd]
  exact congrArg (fun q => some (mk q s)) (Port.ofCode_code p)

theorem buildP_rawP (mk : Port → Instr) (p : Port) : buildP mk (rawP p) = some (mk p) :=
  congrArg (some ∘ mk) (Port.ofCode_code p)

theorem buildMemZ_rawMem (mk : Size → Reg → RegOp → Word → Instr) (z : Size) (d : Reg) (b : RegOp) (v : Word) :
    buildMemZ mk (rawMem z.code d b v) = some (mk z d b v) :=
  congrArg (fun z => some (mk z d b v)) (Size.ofCode_code z)

theorem buildMemZT_rawMemG (mk : Size → Reg → RegOp → Word → Tgt → Instr) (z : Size) (d : Reg) (b : RegOp) (v : Word) (t : Tgt) :
    buildMemZT mk (rawMemG z.code d b v t) = some (mk z d b v t) := by
  rw [buildMemZT, rawMemG, Raw.tgt?_opd]
  exact congrArg (fun z => some (mk z d b v t)) (Size.ofCode_code z)

theorem buildQM_rawQM (mk : Size → Bool → RegOp → Word → Instr) (z : Size) (q : Bool) (b : RegOp) (v : Word) :
    buildQM mk (rawQM z q b v) = some (mk z q b v) := by
  cases q <;> exact congrArg (fun z => some (mk z _ b v)) (Size.ofCode_code z)

theorem buildTile_rawTile (mk : TileNo → Instr) (k : TileNo) : buildTile mk (rawTile k) = some (mk k) :=
  congrArg (some ∘ mk) (BitVec.setWidth_setWidth_of_le k (by decide))

/-! ## Builders that take operands from the immediate -/

theorem setWidth_word {n : Nat} (h : n ≤ 64) (x : BitVec n) : (x.setWidth 64).setWidth n = x := by
  rw [BitVec.setWidth_setWidth_of_le _ h, BitVec.setWidth_eq]

theorem buildDSI_rawDSI {stream : Bool} {mk : Reg → Src → Word → Instr} {d : Reg} {s : Src} {v : Word}
    (h : (SForm.src stream none).accepts s.opd = true) : buildDSI mk (rawDSI d s v) = some (mk d s v) := by
  rw [buildDSI, rawDSI, Raw.src?_of_accepts _ _ _ _ _ h]; rfl

theorem buildDepr_rawDepr {stream : Bool} {mk : Reg → Src → BitVec 5 → Instr} {d : Reg} {s : Src} {n : BitVec 5}
    (h : (SForm.src stream none).accepts s.opd = true) : buildDepr mk (rawDepr d s n) = some (mk d s n) := by
  rw [buildDepr, rawDepr, rawDSI, Raw.src?_of_accepts _ _ _ _ _ h]
  exact congrArg (fun n => some (mk d s n)) (setWidth_word (by decide) n)

theorem buildDN3_rawDN3 (mk : Reg → BitVec 3 → Instr) (d : Reg) (n : BitVec 3) : buildDN3 mk (rawDN3 d n) = some (mk d n) :=
  congrArg (fun n => some (mk d n)) (setWidth_word (by decide) n)

theorem buildVcvt_rawVcvt (mk : Rnd → Rec → Rec → BitVec 4 → Instr) (rn : Rnd) (ld ls : Rec) (v : BitVec 4) :
    buildVcvt mk (rawVcvt rn ld ls v) = some (mk rn ld ls v) :=
  congrArg (fun v => some (mk rn ld ls v)) (setWidth_word (by decide) v)

theorem buildB_rawB (mk : BitVec 2 → Instr) (n : BitVec 2) : buildB mk (rawB n) = some (mk n) :=
  congrArg (some ∘ mk) (setWidth_word (by decide) n)

theorem buildDB_rawDB (mk : Reg → BitVec 2 → Instr) (d : Reg) (n : BitVec 2) : buildDB mk (rawDB d n) = some (mk d n) :=
  congrArg (fun n => some (mk d n)) (setWidth_word (by decide) n)

theorem buildCapnar_rawCapnar (mk : Reg → RegOp → RegOp → BitVec 12 → Instr) (d : Reg) (s t : RegOp) (v : BitVec 12) :
    buildCapnar mk (rawCapnar d s t v) = some (mk d s t v) :=
  congrArg (fun v => some (mk d s t v)) (setWidth_word (by decide) v)

theorem buildPstat_rawPstat (mk : Reg → Port → Option RegOp → Instr) (d : Reg) (p : Port) (t : Option RegOp) :
    buildPstat mk (rawPstat d p t) = some (mk d p t) := by
  have port : Port.ofCode ((p.code.setWidth 64).setWidth 4) = p := by rw [setWidth_word (by decide), Port.ofCode_code]
  cases t <;> exact congrArg (fun p => some (mk d p _)) port

/-- A register number below 8 leaves the cluster bit 0 (R134). -/
theorem buildSread_rawDN3 (d : Reg) (n : BitVec 3) : buildSread (rawDN3 d n) = some (.sread d n) := by
  have own : (n.setWidth 64).getLsbD 3 = false := by simp
  have : buildSread (rawDN3 d n) = some (.sread d ((n.setWidth 64).setWidth 3)) := if_neg (Bool.not_eq_true _ ▸ own)
  rw [this, setWidth_word (by decide)]

theorem buildSread_clusterFlags (d : Reg) : buildSread (rawDI d 13) = some (.sreadClusterFlags d) := by
  have bit : (13 : Word).getLsbD 3 = true := by decide
  have five : (13 : Word).toNat = 13 := by decide
  exact (if_pos bit).trans (if_pos five)

theorem buildMcfg_readAccept (d : Reg) (n : BitVec 4) : buildMcfg (rawDS d (.imm (16 + n.setWidth 64))) = some (.mcfgReadAccept d n) := by
  have small := n.isLt
  have selector : (16 + n.setWidth 64 : Word).toNat = 16 + n.toNat := by bv_omega
  simp only [buildMcfg, rawDS, regD, Opd.regN?, plainReg, Src.immOf, selector, Option.bind_eq_bind, Option.bind_some]
  rw [if_neg (by omega), if_neg (by omega), if_neg (by omega), if_pos (by omega), Nat.add_sub_cancel_left, BitVec.ofNat_toNat,
    BitVec.setWidth_eq]

theorem buildMcfg_writeAccept (d : Reg) (n : BitVec 4) : buildMcfg (rawDS d (.imm (32 + n.setWidth 64))) = some (.mcfgWriteAccept d n) := by
  have small := n.isLt
  have selector : (32 + n.setWidth 64 : Word).toNat = 32 + n.toNat := by bv_omega
  simp only [buildMcfg, rawDS, regD, Opd.regN?, plainReg, Src.immOf, selector, Option.bind_eq_bind, Option.bind_some]
  rw [if_neg (by omega), if_neg (by omega), if_neg (by omega), if_neg (by omega), if_pos (by omega), Nat.add_sub_cancel_left,
    BitVec.ofNat_toNat, BitVec.setWidth_eq]

theorem buildBarset_read (d : Reg) (n : BitVec 2) : buildBarset (rawDS d (.imm (4 + n.setWidth 64))) = some (.barsetRead d n) := by
  have bits : ∀ n : BitVec 2, (4 + n.setWidth 64 : Word).getLsbD 2 = true ∧ (4 + n.setWidth 64 : Word).setWidth 2 = n := by decide
  obtain ⟨read, register⟩ := bits n
  exact (if_pos read).trans (congrArg (fun n => some (Instr.barsetRead d n)) register)

theorem buildBarset_write (d : Reg) (n : BitVec 2) : buildBarset (rawDS d (.imm (n.setWidth 64))) = some (.barsetWrite d n) := by
  have bits : ∀ n : BitVec 2, ¬ (n.setWidth 64 : Word).getLsbD 2 = true ∧ (n.setWidth 64 : Word).setWidth 2 = n := by decide
  obtain ⟨write, register⟩ := bits n
  exact (if_neg write).trans (congrArg (fun n => some (Instr.barsetWrite d n)) register)

/-- A selector that reads is an immediate with its read bit set, or a register (R202, R275). -/
theorem buildSel_read {bit : Nat} {rd wr : Reg → Src → Instr} {d : Reg} {s : Src} (h : readSel bit s = true) :
    buildSel bit rd wr (rawDS d s) = some (rd d s) := by
  cases s with
  | reg r => rfl
  | stream c => rfl
  | imm v => exact if_pos h

theorem buildSel_write {bit : Nat} {rd wr : Reg → Src → Instr} {d : Reg} {s : Src} (h : writeSel bit s = true) :
    buildSel bit rd wr (rawDS d s) = some (wr d s) := by
  cases s with
  | reg r => cases h
  | stream c => cases h
  | imm v =>
    have clear : ¬ v.getLsbD bit = true := by simpa [writeSel] using h
    exact if_neg clear

/-- A SEND has a payload register exactly when it has a count (R180). -/
theorem buildSend_rawSend {mk : Reg → BitVec 6 → Option RegOp → BitVec 3 → Instr} {d : Reg} {h : BitVec 6} {p : Option RegOp} {c : BitVec 3}
    (special : c.toNat ≤ 6 ∧ (h = 0 → c.toNat ≤ 3) ∧ (p.isSome ↔ c ≠ 0)) : buildSend mk (rawSend d h p c) = some (mk d h p c) := by
  obtain ⟨most, task, both⟩ := special
  have hSmall := h.isLt
  have cSmall := c.isLt
  have imm : (c.setWidth 64 * 256 + h.setWidth 64 : Word).toNat = c.toNat * 256 + h.toNat := by bv_omega
  have handler : (c.toNat * 256 + h.toNat) % 256 = h.toNat := by omega
  have count : (c.toNat * 256 + h.toNat) / 256 = c.toNat := by omega
  have admitted : ¬ (63 < h.toNat ∨ 6 < c.toNat ∨ (h.toNat = 0 ∧ 3 < c.toNat)) := by
    rintro (beyond | beyond | ⟨zero, beyond⟩)
    · omega
    · omega
    · exact absurd (task (BitVec.eq_of_toNat_eq zero)) (by omega)
  simp only [buildSend, rawSend, regD, Opd.regN?, plainReg, imm, handler, count, admitted, if_false, Option.bind_eq_bind, Option.bind_some,
    BitVec.ofNat_toNat, BitVec.setWidth_eq]
  cases p with
  | none =>
    obtain rfl : c = 0 := by simpa using both
    rfl
  | some g =>
    have sent : c.toNat ≠ 0 := fun zero => both.mp rfl (BitVec.eq_of_toNat_eq zero)
    exact if_neg sent

/-! ## Instructions -/

/-- The row of an instruction that has words builds it from its operands, where S is an operand that the row takes. -/
theorem Instr.build_coded (i : Instr) (special : i.special = true) (coded : i.coded.isSome = true) :
    ∃ c f, i.coded = some c ∧ c.form = some f ∧ (f.s.accepts c.raw.s = true → f.build c.raw = some i) := by
  cases i with
  -- every operand is a field, which the builder takes as it stands
  | addi | lih | shli | shri | bez | bnz | bltz | bgez | lea | ldf | ldfe | stef | stf | feqry | amoAddD | amoAndD | amoOrD | amoXorD |
    amoMinD | amoMaxD | amoMinuD | amoMaxuD | amoSwapD | amoAddW | amoAndW | amoOrW | amoXorW | amoMinW | amoMaxW | amoMinuW | amoMaxuW |
    amoSwapW | grid | ownqA | ramoAddD | ramoAndD | ramoOrD | ramoXorD | ramoMinD | ramoMaxD | ramoMinuD | ramoMaxuD | ramoSwapD |
    ramoAddW | ramoAndW | ramoOrW | ramoXorW | ramoMinW | ramoMaxW | ramoMinuW | ramoMaxuW | ramoSwapW | ramoAddN | ramoAndN | ramoOrN |
    ramoXorN | ramoMinN | ramoMaxN | ramoMinuN | ramoMaxuN | ramoSwapN | j | call | trap | bkpt | clrflg | jr | tstop | tresume | join |
    cancel | gfree | accept | reclaim | returnLoan | deny | latt | ret | yield | retire | nop | waitm | ifence | esync | pack | phaseC |
    phaseH | tlbinv | home | jtab | twreg | cpub | mint | giveS | lendS | capmk | ffence | rdflg | takem | estat | seteMemory | tlbinvP |
    seteRegister | acasD | acasW | rcasD | rcasW | tstat | logset | cellRd | cellAdd | hstep | hwait | give | lend | heirResource | ownq |
    capchk | mcast | mcgrp | guestset | layout | mmaOvr | mmaAcc | mmaDecay | mmaSat | accrd | accwr | drainI | drainF | vaddS | vaddD |
    vsubS | vsubD | vmulS | vmulD | vminS | vmaxS | vexpS | vexpD | vrcpS | vrcpD | vrsqS | vrsqD | vredSumS | vredMaxS | vredMinS |
    vredSumD | vfmaS | vfmaD | vfmsS | vfmsD | vcmpEqS | vcmpLtS | vcmpLeS | vselS | vminD | vmaxD | vredMaxD | vredMinD | vcmpEqD |
    vcmpLtD | vcmpLeD | vselD | copyB | copyL | copym | reclaimB | claim | ldrQ | strQ => exact ⟨_, _, rfl, rfl, fun _ => rfl⟩
  -- S, T or D may be one of several kinds, or a number names a port, a size or a tile
  | add | addW | sub | subW | mul | mulW | mulh | div | divu | rem | remu | and | or | xor | shl | shlW | shr | sar | min | max | minu |
    maxu | ceq | cne | clt | cltu | cle | cleu | bfx | ctz | bswap | crcB | crcH | crcW | crcD | fminD | fminS | fmaxD | fmaxS | feqD |
    feqS | fltD | fltS | fleD | fleS | fclassD | fclassS | fsgnD | fsgnS | fsgnnD | fsgnnS | fsgnxD | fsgnxS | rdv | htab | push | gstatG
    | budgetSet | budgetRd | budgetClr | rootset => exact ⟨_, _, rfl, rfl, fun _ => buildDS_rawDS ..⟩
  | mov => exact ⟨_, _, rfl, rfl, fun _ => buildDstS_rawDstS ..⟩
  | li => exact ⟨_, _, rfl, rfl, fun _ => buildDstI_rawDstI ..⟩
  | sel | bfi => exact ⟨_, _, rfl, rfl, fun _ => buildDST_rawDST ..⟩
  | faddD | faddS | fsubD | fsubS | fmulD | fmulS | fdivD | fdivS | fsqrtD | fsqrtS | fcvtSD | fcvtDS | fcvtDL | fcvtDLu | fcvtSL |
    fcvtSLu | fcvtLD | fcvtLuD | fcvtLS | fcvtLuS => exact ⟨_, _, rfl, rfl, fun _ => buildRDS_rawRDS ..⟩
  | fmaD | fmaS | fmsD | fmsS | fnmaD | fnmaS | fnmsD | fnmsS => exact ⟨_, _, rfl, rfl, fun _ => buildRDST_rawRDST ..⟩
  | forkae | spawnL | spawnC | treg | rfork | cellNew | gbind | hwaitF | gstatF => exact ⟨_, _, rfl, rfl, fun _ => buildDRSG_rawDRSG ..⟩
  | vscaleS | vscaleD => exact ⟨_, _, rfl, rfl, fun _ => buildRLLG_rawRLLG ..⟩
  | vfillS => exact ⟨_, _, rfl, rfl, fun _ => buildRLS_rawRLS ..⟩
  | vfillD => exact ⟨_, _, rfl, rfl, fun _ => buildLS_rawLS ..⟩
  | pbind => exact ⟨_, _, rfl, rfl, fun _ => buildPS_rawPS ..⟩
  | punbind => exact ⟨_, _, rfl, rfl, fun _ => buildP_rawP ..⟩
  | pstat => exact ⟨_, _, rfl, rfl, fun _ => buildPstat_rawPstat ..⟩
  | ldz | lds | st | ldr | str => exact ⟨_, _, rfl, rfl, fun _ => buildMemZ_rawMem ..⟩
  | ldh => exact ⟨_, _, rfl, rfl, fun _ => buildMemZT_rawMemG ..⟩
  | qld | qst => exact ⟨_, _, rfl, rfl, fun _ => buildQM_rawQM ..⟩
  | accz | accswap => exact ⟨_, _, rfl, rfl, fun _ => buildTile_rawTile ..⟩
  -- the immediate holds an operand or a selector
  | swrite => exact ⟨_, _, rfl, rfl, fun _ => buildDN3_rawDN3 ..⟩
  | vcvt => exact ⟨_, _, rfl, rfl, fun _ => buildVcvt_rawVcvt ..⟩
  | bar | phaseB => exact ⟨_, _, rfl, rfl, fun _ => buildB_rawB ..⟩
  | bara | barw => exact ⟨_, _, rfl, rfl, fun _ => buildDB_rawDB ..⟩
  | capnar => exact ⟨_, _, rfl, rfl, fun _ => buildCapnar_rawCapnar ..⟩
  | beq | bne | blt | bge | bltu | bgeu => exact ⟨_, _, rfl, rfl, fun h => buildDSI_rawDSI h⟩
  | depr => exact ⟨_, _, rfl, rfl, fun h => buildDepr_rawDepr h⟩
  | sread => exact ⟨_, _, rfl, rfl, fun _ => buildSread_rawDN3 ..⟩
  | sreadClusterFlags => exact ⟨_, _, rfl, rfl, fun _ => buildSread_clusterFlags ..⟩
  | mcfgReadConfig | mcfgWriteConfig | mcfgReadDropCounter | rdbcRead | rdbcReadClear | saveareaWrite | saveareaRead =>
    exact ⟨_, _, rfl, rfl, fun _ => rfl⟩
  | mcfgReadAccept => exact ⟨_, _, rfl, rfl, fun _ => buildMcfg_readAccept ..⟩
  | mcfgWriteAccept => exact ⟨_, _, rfl, rfl, fun _ => buildMcfg_writeAccept ..⟩
  | barsetRead => exact ⟨_, _, rfl, rfl, fun _ => buildBarset_read ..⟩
  | barsetWrite => exact ⟨_, _, rfl, rfl, fun _ => buildBarset_write ..⟩
  | setrm => exact ⟨_, _, rfl, rfl, fun _ => if_neg (Nat.not_le.mpr (of_decide_eq_true special))⟩
  | sendT | sendC => exact ⟨_, _, rfl, rfl, fun _ => buildSend_rawSend (of_decide_eq_true special)⟩
  | bfmtRead | bmodeRead | accmodeRead => exact ⟨_, _, rfl, rfl, fun _ => buildSel_read special⟩
  | bfmtWrite | bmodeWrite | accmodeWrite => exact ⟨_, _, rfl, rfl, fun _ => buildSel_write special⟩
  -- no words
  | heirRecord => cases special
  | _ => cases coded

/-- A well-formed instruction has a row, which its operands fit and which builds it from them. -/
theorem Instr.row_of_wf {i : Instr} (h : i.wf = true) :
    ∃ c f, i.coded = some c ∧ c.form = some f ∧ f.fits c.page c.raw = true ∧ f.build c.raw = some i := by
  unfold Instr.wf at h
  split at h
  · cases h
  · next c hc =>
    split at h
    · cases h
    · next f hf =>
      obtain ⟨special, fits⟩ := Bool.and_eq_true _ _ ▸ h
      obtain ⟨c', f', hc', hf', builds⟩ := Instr.build_coded i special (hc ▸ rfl)
      obtain rfl : c = c' := Option.some.inj (hc ▸ hc')
      obtain rfl : f = f' := Option.some.inj (hf ▸ hf')
      obtain ⟨-, accepts, -⟩ := Form.fits_iff.mp fits
      exact ⟨c, f, hc, hf, fits, builds accepts⟩

/-! ## O55 -/

/-- The chain that the encoder builds selects the row that it was built for. -/
theorem formOf_chainOf {page op : Nat} {f : Form} {r : Raw} (h : formOf page op r.sz = some f) :
    formOf (chainOf page op f r).page.toNat (opcodeOf (chainOf page op f r).base).toNat ((chainOf page op f r).base.extractLsb' 0 2) =
      some f := by
  obtain ⟨known, row, -⟩ := formOf_spec h
  have samePage : (BitVec.ofNat 4 page).toNat = page := by rw [BitVec.toNat_ofNat]; omega
  have sameOp : (BitVec.ofNat 6 op).toNat = op := by rw [BitVec.toNat_ofNat]; omega
  simp only [chainOf, opcodeOf_baseWord, samePage, sameOp]
  by_cases fmt : f.fmt = .M
  · rw [baseWord_M op r fmt, kField_wordAM]
    exact h
  · exact formOf_size h fmt _

theorem decodeChain_chainOf {page op : Nat} {f : Form} {r : Raw} {i : Instr} (row : formOf page op r.sz = some f)
    (fits : f.fits page r = true) (builds : f.build r = some i) : decodeChain (chainOf page op f r) = .ok i := by
  obtain ⟨-, -, regular⟩ := formOf_spec row
  rw [decodeChain, formOf_chainOf row]
  dsimp only
  rw [readChain_chainOf regular fits]
  dsimp only
  rw [builds]

/-- Settles O55: a well-formed instruction has a row, its operands are those that the row reads from the words written for them, and
the row builds the instruction from them. -/
theorem roundTrip : Obligations.RoundTrip := by
  intro i rest wf
  obtain ⟨c, f, coded, form, fits, builds⟩ := Instr.row_of_wf wf
  obtain ⟨known, row, regular⟩ := formOf_spec form
  have words : encode i = (chainOf c.page c.op f c.raw).words := by simp only [encode, coded, form]
  rw [words, decode, parse_words (chainOf_encodable known row regular fits)]
  dsimp only
  rw [decodeChain_chainOf form fits builds]

/-! ## O53 -/

/-- Settles O53: the decoder evaluated on the words of each chain. -/
theorem decodedWords : Obligations.DecodedWords := ⟨rfl, rfl, rfl, rfl, rfl, rfl, rfl, rfl, rfl⟩

end Sys2Proof
end
section
/-! SUPPORT. The integer instructions (R104 to R111): what each chain writes, and what the words written are. -/

namespace Sys2Proof.Machine

/-! ## Chains of one shape -/

section
variable {s : State} {v : Vals} {d : Reg} {src : Src}

/-- A chain of D and S writes D. -/
theorem binary_ready (f : Word → Word → Word) (ready : Claims.Ready s (Claims.needDS d src) v) :
    binary f d src s = .next (Claims.endOf (Claims.needDS d src) (s.setReg d.toNat (f v.d v.s))) :=
  chainNext_ready ready (fun v s => s.setReg d.toNat (f v.d v.s))

/-- A chain of S alone writes D. -/
theorem unary_ready (f : Word → Word) (ready : Claims.Ready s (Claims.needWS d src) v) :
    unary f d src s = .next (Claims.endOf (Claims.needWS d src) (s.setReg d.toNat (f v.s))) :=
  chainNext_ready ready (fun v s => s.setReg d.toNat (f v.s))

/-- A chain of D and an immediate writes D. -/
theorem withImm_ready (f : Word → Word) (ready : Claims.Ready s { d := rwReg d } v) :
    withImm f d s = .next ((s.setReg d.toNat (f v.d)).advance) :=
  chainNext_ready ready (fun v s => s.setReg d.toNat (f v.d))

end

/-! ## Arithmetic, logic and comparison (R104) -/

/-- The word that an integer form makes of D and S (R104). -/
def integerResult (a b : Word) : Instr → Word
  | .add .. => a + b
  | .addW .. => sext32 (a + b)
  | .sub .. => a - b
  | .subW .. => sext32 (a - b)
  | .mul .. => a * b
  | .mulW .. => sext32 (a * b)
  | .mulh .. => mulHigh a b
  | .and .. => a &&& b
  | .or .. => a ||| b
  | .xor .. => a ^^^ b
  | .min .. => if a.toInt ≤ b.toInt then a else b
  | .max .. => if a.toInt ≤ b.toInt then b else a
  | .minu .. => if a.toNat ≤ b.toNat then a else b
  | .maxu .. => if a.toNat ≤ b.toNat then b else a
  | .ceq .. => boolWord (decide (a = b))
  | .cne .. => boolWord (decide (a ≠ b))
  | .clt .. => boolWord (decide (a.toInt < b.toInt))
  | .cltu .. => boolWord (decide (a.toNat < b.toNat))
  | .cle .. => boolWord (decide (a.toInt ≤ b.toInt))
  | .cleu .. => boolWord (decide (a.toNat ≤ b.toNat))
  | _ => 0

/-- The high half of the signed product, as bits of the product in 128 bits. -/
theorem mulHigh_eq (a b : Word) : mulHigh a b = (a.signExtend 128 * b.signExtend 128).extractLsb' 64 64 := by
  apply BitVec.eq_of_toNat_eq
  rw [mulHigh, BitVec.signExtend, BitVec.signExtend, ← BitVec.ofInt_mul]
  generalize a.toInt * b.toInt = p
  simp only [BitVec.toNat_ofInt, BitVec.extractLsb'_toNat, Nat.shiftRight_eq_div_pow]
  omega

theorem boolWord_decide (p : Prop) [Decidable p] : boolWord (decide p) = if p then 1 else 0 := by
  by_cases h : p <;> simp [boolWord, h]

/-- Settles O2: every form is a chain of D and S with its own word. -/
theorem integerArithmetic : Obligations.IntegerArithmetic := by
  intro d src s v ready
  refine ⟨integerResult v.d v.s, ?_, rfl, rfl, rfl, rfl, rfl, rfl, mulHigh_eq _ _, rfl, rfl, rfl, ?_, ?_, ?_, ?_, boolWord_decide _,
    boolWord_decide _, boolWord_decide _, boolWord_decide _, boolWord_decide _, boolWord_decide _⟩
  · simp only [List.forall_mem_cons, List.not_mem_nil, IsEmpty.forall_iff, implies_true, and_true]
    and_intros <;> unfold exec
    all_goals exact binary_ready _ ready
  · exact (apply_ite BitVec.toInt _ _ _).trans (min_def _ _).symm
  · exact (apply_ite BitVec.toInt _ _ _).trans (max_def _ _).symm
  · exact (apply_ite BitVec.toNat _ _ _).trans (min_def _ _).symm
  · exact (apply_ite BitVec.toNat _ _ _).trans (max_def _ _).symm

/-! ## Division (R105) -/

/-- The quotient of the model is the two's complement one, where it is defined. -/
theorem toInt_divSigned {a b : Word} (zero : b ≠ 0) (fits : ¬ (a = 0x8000000000000000 ∧ b = 0xFFFFFFFFFFFFFFFF)) :
    (divSigned a b).toInt = a.toInt.tdiv b.toInt := by
  have regular : a ≠ BitVec.intMin 64 ∨ b ≠ -1#64 := not_and_or.1 fits
  have quotient : divSigned a b = BitVec.ofInt 64 (a.toInt.tdiv b.toInt) := by
    rw [divSigned, if_neg zero]
    exact if_neg fits
  rw [quotient, BitVec.toInt_ofInt, ← BitVec.toInt_sdiv, BitVec.toInt_sdiv_of_ne_or_ne a b regular]

theorem toInt_remSigned {a b : Word} (zero : b ≠ 0) (fits : ¬ (a = 0x8000000000000000 ∧ b = 0xFFFFFFFFFFFFFFFF)) :
    (remSigned a b).toInt = a.toInt - a.toInt.tdiv b.toInt * b.toInt := by
  have remainder : remSigned a b = BitVec.ofInt 64 (a.toInt - a.toInt.tdiv b.toInt * b.toInt) := by
    rw [remSigned, if_neg zero]
    exact if_neg fits
  have tmod : a.toInt - a.toInt.tdiv b.toInt * b.toInt = (a.srem b).toInt := by
    rw [BitVec.toInt_srem, Int.tmod_def, mul_comm]
  rw [remainder, tmod, BitVec.toInt_ofInt, BitVec.toInt_bmod_cancel]

theorem toNat_divUnsigned {a b : Word} (zero : b ≠ 0) :
    (divUnsigned a b).toNat = a.toNat / b.toNat ∧ (remUnsigned a b).toNat = a.toNat % b.toNat := by
  have quotient : a.toNat / b.toNat < 2 ^ 64 := Nat.lt_of_le_of_lt (Nat.div_le_self _ _) a.isLt
  have remainder : a.toNat - a.toNat / b.toNat * b.toNat = a.toNat % b.toNat := by
    rw [mul_comm, ← Nat.mod_eq_sub_mul_div]
  have small : a.toNat % b.toNat < 2 ^ 64 := Nat.lt_of_le_of_lt (Nat.mod_le _ _) a.isLt
  rw [divUnsigned, remUnsigned, if_neg zero, if_neg zero, remainder]
  exact ⟨Nat.mod_eq_of_lt quotient, Nat.mod_eq_of_lt small⟩

/-- Settles O3: the quotients and remainders by `toInt_divSigned`, `toInt_remSigned` and `toNat_divUnsigned`. -/
theorem division : Obligations.Division := by
  intro d src s v ready
  refine ⟨divSigned v.d v.s, remSigned v.d v.s, divUnsigned v.d v.s, remUnsigned v.d v.s, binary_ready _ ready, binary_ready _ ready,
    binary_ready _ ready, binary_ready _ ready, fun zero => ?_, fun ⟨least, minusOne⟩ => ?_,
    fun ⟨zero, fits⟩ => ⟨toInt_divSigned zero fits, toInt_remSigned zero fits⟩, fun zero => toNat_divUnsigned zero⟩
  · rw [divSigned, remSigned, divUnsigned, remUnsigned, if_pos zero, if_pos zero, if_pos zero, if_pos zero]
    exact ⟨rfl, rfl, rfl, rfl⟩
  · rw [least, minusOne]
    exact ⟨rfl, rfl⟩

/-! ## Moves and immediates (R106 to R108) -/

/-- Settles O4: each form is a chain of one effect. -/
theorem movesAndImmediates : Obligations.MovesAndImmediates := by
  refine fun s v => ⟨fun d src ready => chainNext_ready ready (fun v s => s.writeDst d v.s),
    fun d imm ready => chainNext_ready ready (fun _ s => s.writeDst d imm), fun d imm ready => ⟨withImm_ready (fun a => a + imm) ready,
    ⟨imm.setWidth 32 ++ v.d.setWidth 32, withImm_ready (fun a => imm.setWidth 32 ++ a.setWidth 32) ready,
      BitVec.extractLsb'_append_eq_left, BitVec.setWidth_append_eq_right⟩, fun small => ?_⟩,
    fun d b disp ready => chainNext_ready ready (fun v s => s.setReg d.toNat (v.s + disp)), fun d src t ready => ?_⟩
  · have whole : amount imm = imm.toNat := Nat.mod_eq_of_lt small
    rw [BitVec.shiftLeft_eq', BitVec.ushiftRight_eq', ← whole]
    exact ⟨withImm_ready (fun a => a <<< amount imm) ready, withImm_ready (fun a => a >>> amount imm) ready⟩
  · rw [ite_not]
    exact chainNext_ready ready (fun v s => if v.t = 0 then s else s.setReg d.toNat v.s)

end Sys2Proof.Machine
end
section
/-! SUPPORT. Shifts, bit fields, counts and CRC-32C (R104, R109 to R111), bit by bit. -/

namespace Sys2Proof.Machine

/-! ## Shifts (R104, R106) -/

theorem getLsbD_sext32 (x : Word) {i : Nat} (h : i < 64) : (sext32 x).getLsbD i = x.getLsbD (min i 31) := by
  rw [sext32, BitVec.getLsbD_signExtend, BitVec.msb_eq_getLsbD_last]
  by_cases low : i < 32
  · simp [h, low, Nat.min_eq_left (show i ≤ 31 by omega)]
  · simp [h, low, Nat.min_eq_right (show 31 ≤ i by omega)]

theorem getLsbD_shiftLeft_word (x : Word) {k i : Nat} (h : i < 64) : (x <<< k).getLsbD i = (decide (k ≤ i) && x.getLsbD (i - k)) := by
  rw [BitVec.getLsbD_shiftLeft]
  by_cases low : i < k
  · simp [h, low, Nat.not_le.2 low]
  · simp [h, low, Nat.not_lt.1 low]

theorem getLsbD_sshiftRight_word (x : Word) {k i : Nat} (h : i < 64) : (x.sshiftRight k).getLsbD i = x.getLsbD (min (i + k) 63) := by
  rw [BitVec.getLsbD_sshiftRight, BitVec.msb_eq_getLsbD_last, Nat.add_comm k i]
  by_cases inside : i + k < 64
  · simp [h, inside, Nat.min_eq_left (show i + k ≤ 63 by omega)]
  · simp [h, inside, Nat.min_eq_right (show 63 ≤ i + k by omega)]

/-! ## Bit fields (R109) -/

/-- The field that a control value names lies within the word. -/
theorem fieldLen_eq (ctl : Word) : fieldLen ctl = min (ctl.toNat / 64 % 64 + 1) (64 - ctl.toNat % 64) := by
  simp [fieldLen, bits]

theorem fieldLen_fits (ctl : Word) : 0 < fieldLen ctl ∧ ctl.toNat % 64 + fieldLen ctl ≤ 64 := by
  rw [fieldLen_eq]
  omega

/-- A field of n bits, with its bits beyond n: zeros, or copies of bit n - 1. -/
theorem extractField_eq (v ctl : Word) : extractField v ctl =
    let f := (v >>> (ctl.toNat % 64)).setWidth (fieldLen ctl)
    if ctl.getLsbD 12 then f.signExtend 64 else f.setWidth 64 := by
  have pos : bits ctl 5 0 = ctl.toNat % 64 := by simp [bits]
  obtain ⟨some_, fits⟩ := fieldLen_fits ctl
  have half : 2 ^ fieldLen ctl = 2 * 2 ^ (fieldLen ctl - 1) := by rw [← Nat.pow_succ', Nat.succ_eq_add_one, Nat.sub_add_cancel some_]
  unfold extractField
  dsimp only
  rw [pos]
  generalize fieldLen ctl = n at *
  have field : ((v >>> (ctl.toNat % 64)).setWidth n).toNat = v.toNat / 2 ^ (ctl.toNat % 64) % 2 ^ n := by
    rw [BitVec.toNat_setWidth, BitVec.toNat_ushiftRight, Nat.shiftRight_eq_div_pow]
  have signed := BitVec.toInt_eq_toNat_cond ((v >>> (ctl.toNat % 64)).setWidth n)
  have unsigned : word (v.toNat / 2 ^ (ctl.toNat % 64) % 2 ^ n) = ((v >>> (ctl.toNat % 64)).setWidth n).setWidth 64 := by
    rw [← field, word, BitVec.ofNat_toNat]
  cases ctl.getLsbD 12 with
  | false => simpa using unsigned
  | true =>
    rw [field] at signed
    simp only [true_and, if_true]
    split
    · next negative =>
      rw [if_neg (by omega)] at signed
      rw [BitVec.signExtend, signed]
      rfl
    · next positive =>
      rw [if_pos (by omega)] at signed
      rw [BitVec.signExtend, signed]
      rfl

theorem getLsbD_extractField (v ctl : Word) {i : Nat} (h : i < 64) : (extractField v ctl).getLsbD i =
    if i < fieldLen ctl then v.getLsbD (ctl.toNat % 64 + i)
    else (ctl.getLsbD 12 && v.getLsbD (ctl.toNat % 64 + fieldLen ctl - 1)) := by
  obtain ⟨some_, fits⟩ := fieldLen_fits ctl
  have last : ctl.toNat % 64 + (fieldLen ctl - 1) = ctl.toNat % 64 + fieldLen ctl - 1 := by omega
  have msb : ((v >>> (ctl.toNat % 64)).setWidth (fieldLen ctl)).msb = v.getLsbD (ctl.toNat % 64 + fieldLen ctl - 1) := by
    rw [BitVec.msb_eq_getLsbD_last, BitVec.getLsbD_setWidth, BitVec.getLsbD_ushiftRight, last]
    simp [some_]
  rw [extractField_eq]
  dsimp only
  cases ctl.getLsbD 12 with
  | false =>
    by_cases inside : i < fieldLen ctl <;> simp [h, inside]
  | true =>
    rw [if_pos rfl, BitVec.getLsbD_signExtend, msb]
    by_cases inside : i < fieldLen ctl <;> simp [h, inside]

/-- The bits of a mask of n ones at a position. -/
theorem getLsbD_mask {n pos i : Nat} (fits : pos + n ≤ 64) (h : i < 64) :
    (word (2 ^ n - 1) <<< pos).getLsbD i = decide (pos ≤ i ∧ i < pos + n) := by
  rw [getLsbD_shiftLeft_word _ h, word, BitVec.getLsbD_ofNat, Nat.testBit_two_pow_sub_one]
  by_cases low : pos ≤ i
  · simp [low, show i - pos < 64 by omega, show i - pos < n ↔ i < pos + n by omega]
  · simp [low]

theorem getLsbD_insertField (d v ctl : Word) {i : Nat} (h : i < 64) : (insertField d v ctl).getLsbD i =
    if ctl.toNat % 64 ≤ i ∧ i < ctl.toNat % 64 + fieldLen ctl then v.getLsbD (i - ctl.toNat % 64) else d.getLsbD i := by
  have pos : bits ctl 5 0 = ctl.toNat % 64 := by simp [bits]
  unfold insertField
  dsimp only
  rw [pos, BitVec.getLsbD_or, BitVec.getLsbD_and, BitVec.getLsbD_not, BitVec.getLsbD_and, getLsbD_mask (fieldLen_fits ctl).2 h,
    getLsbD_shiftLeft_word _ h]
  by_cases inside : ctl.toNat % 64 ≤ i ∧ i < ctl.toNat % 64 + fieldLen ctl
  · simp [inside]
  · simp [inside, h]

/-- Settles O5: the bits of the shifts and of the fields, form by form. -/
theorem shiftsAndFields : Obligations.ShiftsAndFields := by
  refine ⟨fun d src s v ready => ⟨v.d <<< amount v.s, sext32 (v.d <<< (v.s.toNat % 32)), v.d >>> amount v.s, v.d.sshiftRight (amount v.s),
    binary_ready (fun a b => a <<< amount b) ready, binary_ready (fun a b => sext32 (a <<< (b.toNat % 32))) ready,
    binary_ready (fun a b => a >>> amount b) ready, binary_ready (fun a b => a.sshiftRight (amount b)) ready,
    fun i h => ⟨getLsbD_shiftLeft_word _ h, ?_, ?_, getLsbD_sshiftRight_word _ h⟩⟩,
    fun s v => ⟨fun d src ready => ⟨extractField v.d v.s, binary_ready extractField ready, fun i h => ?_⟩,
      fun d src t ready => ⟨insertField v.d v.s v.t, chainNext_ready ready (fun v s => s.setReg d.toNat (insertField v.d v.s v.t)),
        fun i h => ?_⟩⟩⟩
  · rw [getLsbD_sext32 _ h, getLsbD_shiftLeft_word _ (by omega)]
  · rw [BitVec.getLsbD_ushiftRight, Nat.add_comm]
    rfl
  · rw [getLsbD_extractField _ _ h, fieldLen_eq]
  · rw [getLsbD_insertField _ _ _ h, fieldLen_eq]

/-! ## Counts and swaps (R110) -/

theorem span_eq_range' (lo step n : Nat) : span lo step n = List.range' lo n step := by
  induction n generalizing lo with
  | zero => rfl
  | succ n ih => rw [span, List.range'_succ, ih]

/-- The number of trailing zeros is the place of the lowest bit that is 1, or 64. -/
theorem trailingZeros_spec (v : Word) :
    (v = 0 → trailingZeros v = 64) ∧ (v ≠ 0 → trailingZeros v < 64 ∧ v.getLsbD (trailingZeros v) = true) ∧
    ∀ j, j < trailingZeros v → v.getLsbD j = false := by
  have zero : v = 0 ↔ ∀ j, j < 64 → v.getLsbD j = false := by
    refine ⟨fun h j _ => by simp [h], fun h => BitVec.eq_of_getLsbD_eq fun j hj => by simpa using h j hj⟩
  unfold trailingZeros firstIn
  rw [span_eq_range']
  cases found : (List.range' 0 64).find? v.getLsbD with
  | none =>
    have none_ (j : Nat) (h : j < 64) : v.getLsbD j = false := by
      simpa using List.find?_eq_none.1 found j (by simp; omega)
    exact ⟨fun _ => rfl, fun other => absurd (zero.2 none_) other, none_⟩
  | some k =>
    obtain ⟨isSet, inside, before⟩ := List.find?_range'_eq_some.1 found
    have small : k < 64 := by simpa using inside
    refine ⟨fun empty => ?_, fun _ => ⟨small, isSet⟩, fun j h => by simpa using before j (Nat.zero_le j) h⟩
    rw [zero.1 empty k small] at isSet
    cases isSet

/-- One byte of the word put at its new place. -/
theorem getLsbD_movedByte (v : Word) (k j : Nat) {b : Nat} (h : b < 64) :
    (((v >>> k) &&& 255) <<< j).getLsbD b = (decide (j ≤ b ∧ b < j + 8) && v.getLsbD (k + (b - j))) := by
  have mask : (255 : Word) = word (2 ^ 8 - 1) <<< 0 := rfl
  rw [getLsbD_shiftLeft_word _ h, BitVec.getLsbD_and, mask, getLsbD_mask (by decide) (by omega), BitVec.getLsbD_ushiftRight]
  by_cases low : j ≤ b
  · simp [low, show b - j < 8 ↔ b < j + 8 by omega, Bool.and_comm]
  · simp [low]

/-- A bit of words joined by or is a bit of one of them. -/
theorem getLsbD_foldl_or (f : Nat → Word) (l : List Nat) (r : Word) (b : Nat) :
    (l.foldl (fun r i => r ||| f i) r).getLsbD b = (r.getLsbD b || l.any (fun i => (f i).getLsbD b)) := by
  induction l generalizing r with
  | nil => simp
  | cons i l ih => rw [List.foldl_cons, ih, BitVec.getLsbD_or, List.any_cons, Bool.or_assoc]

theorem byteSwap_byte (v : Word) {i : Nat} (h : i < 8) : (byteSwap v).extractLsb' (8 * i) 8 = v.extractLsb' (8 * (7 - i)) 8 := by
  refine BitVec.eq_of_getLsbD_eq fun b hb => ?_
  have here : ((v >>> (8 * (7 - i)) &&& 255) <<< (8 * (7 - (7 - i)))).getLsbD (8 * i + b) = v.getLsbD (8 * (7 - i) + b) := by
    rw [getLsbD_movedByte v _ _ (by omega), decide_eq_true (by omega), Bool.true_and]
    congr 1
    omega
  have elsewhere (k : Nat) (other : k ≠ 7 - i) (hk : k < 8) :
      ((v >>> (8 * k) &&& 255) <<< (8 * (7 - k))).getLsbD (8 * i + b) = false := by
    rw [getLsbD_movedByte v _ _ (by omega), decide_eq_false (by omega), Bool.false_and]
  have zero : (0 : Word).getLsbD (8 * i + b) = false := BitVec.getLsbD_zero
  rw [BitVec.getLsbD_extractLsb', BitVec.getLsbD_extractLsb', byteSwap, getLsbD_foldl_or, zero, Bool.false_or, span_eq_range', ← here]
  congr 1
  rw [Bool.eq_iff_iff, List.any_eq_true]
  refine ⟨fun ⟨k, hk, set_⟩ => ?_, fun set_ => ⟨7 - i, by simp; omega, set_⟩⟩
  by_cases same : k = 7 - i
  · rwa [← same]
  · rw [elsewhere k same (by simpa using hk)] at set_
    cases set_

/-! ## CRC-32C (R111) -/

theorem crcSteps_eq (d v : Word) (n : Nat) : crcSteps d v n =
    (((List.range n).map (fun i => v.extractLsb' (8 * i) 8)).foldl Claims.crcByte (d.setWidth 32)).setWidth 64 := by
  rw [crcSteps, List.foldl_map, span_eq_range', List.range_eq_range']
  rfl

/-- Settles O6. -/
theorem countsSwapsAndCrc : Obligations.CountsSwapsAndCrc := by
  refine ⟨fun d src s v ready => ⟨⟨trailingZeros v.s, unary_ready (fun v => word (trailingZeros v)) ready, trailingZeros_spec v.s⟩,
    ⟨byteSwap v.s, unary_ready byteSwap ready, fun i h => byteSwap_byte v.s h⟩⟩, fun d src s v ready => ?_⟩
  dsimp only
  simp only [← crcSteps_eq]
  exact ⟨binary_ready (fun a b => crcSteps a b 1) ready, binary_ready (fun a b => crcSteps a b 2) ready,
    binary_ready (fun a b => crcSteps a b 4) ready, binary_ready (fun a b => crcSteps a b 8) ready⟩

end Sys2Proof.Machine
end
section
/-! SUPPORT. Control transfer (R112 to R116): where each chain goes on. -/

namespace Sys2Proof.Machine

section
variable {s : State} {v : Vals} {n : Needs}

/-- A chain that goes on at an address, with its streams popped. -/
theorem chain_jumps {t : State} {pc : BitVec 56} (ready : Claims.Ready s n v) (body : Vals → State → Res) (jumps : body v s = .jump t pc) :
    chain s n body = .next (Claims.endAt n t pc) := by
  rw [chain_ready ready, jumps]
  rfl

/-- A branch that is taken goes on at its target, and one that is not past itself; streams are popped either way (R112, R114). -/
theorem chain_branches {taken : Vals → Bool} {off : Word} (p : Prop) [Decidable p] (ready : Claims.Ready s n v) (holds : taken v = decide p) :
    chain s n (fun v s => s.branch (taken v) off) =
      .next (if p then Claims.endAt n s (s.me.pc + off.setWidth 56) else Claims.endOf n s) := by
  rw [chain_ready ready, holds, State.branch]
  by_cases h : p
  · rw [decide_eq_true h, if_pos h]
    rfl
  · rw [decide_eq_false h, if_neg h]
    rfl

/-- The address that JR and RET take from a register (R32, R116). -/
theorem returnTarget_eq (w : Word) : returnTarget w = w.extractLsb' 0 56 := by
  rw [returnTarget, BitVec.setWidth_eq_extractLsb' (by decide)]

end

/-- Settles O7: branches by `chain_branches`, the others by `chain_jumps`. -/
theorem controlTransfer : Obligations.ControlTransfer := by
  refine ⟨fun d off s v ready => ⟨?_, ?_, ?_, ?_⟩, fun d src off s v ready => ⟨?_, ?_, ?_, ?_, ?_, ?_⟩,
    fun s v => ⟨fun off ready => chain_jumps ready (fun _ s => .jump s (s.target off)) rfl,
      fun off ready => chain_jumps ready (fun _ s => .jump (s.setReg 1 (s.nextPc.setWidth 64)) (s.target off)) rfl, fun r ready => ?_,
      fun ready => ?_⟩⟩
  · exact chain_branches (taken := fun v => decide (v.d = 0)) _ ready rfl
  · exact chain_branches (taken := fun v => decide (v.d ≠ 0)) _ ready rfl
  · exact chain_branches (taken := fun v => decide (v.d.toInt < 0)) _ ready rfl
  · exact chain_branches (taken := fun v => decide (0 ≤ v.d.toInt)) _ ready rfl
  · exact chain_branches (taken := fun v => decide (v.d = v.s)) _ ready rfl
  · exact chain_branches (taken := fun v => decide (v.d ≠ v.s)) _ ready rfl
  · exact chain_branches (taken := fun v => decide (v.d.toInt < v.s.toInt)) _ ready rfl
  · exact chain_branches (taken := fun v => decide (v.s.toInt ≤ v.d.toInt)) _ ready rfl
  · exact chain_branches (taken := fun v => decide (v.d.toNat < v.s.toNat)) _ ready rfl
  · exact chain_branches (taken := fun v => decide (v.s.toNat ≤ v.d.toNat)) _ ready rfl
  · rw [← returnTarget_eq]
    exact chain_jumps ready (fun v s => .jump s (returnTarget v.s)) rfl
  · rw [← returnTarget_eq]
    exact chain_jumps ready (fun v s => .jump s (returnTarget v.s)) rfl

end Sys2Proof.Machine
end
section
/-! SUPPORT. The floating forms that do not round (R127 to R130): selection, comparison, signs and classes, from the encodings. -/

namespace Sys2Proof.Machine

/-- The format of the `.d` forms, or of the `.s` forms (R35). -/
def scalarFmt (double : Bool) : Fmt := if double then fp64 else fp32

theorem scalarFmt_ieee (double : Bool) : (scalarFmt double).Ieee := by
  cases double
  · exact fp32_ieee
  · exact fp64_ieee

section
variable {f : Fmt} (hf : f.Ieee) (x y : ℕ)
include hf

/-! ## NaNs -/

theorem Fmt.Ieee.isNan_decode : (f.decode x).isNan = true ↔ Claims.isNaN f.ebits f.mbits x := by
  have inf := isInf_iff f.ebits f.mbits x
  have fin := isFinite_iff f.ebits f.mbits x
  have nan := isNaN_iff f.ebits f.mbits x
  rcases hf.decode_cases x with ⟨h, e⟩ | ⟨h, sig, e, -⟩ | ⟨h, -, e⟩ | ⟨h, -, d, e, -⟩ <;> rw [e]
  · exact iff_of_false Bool.false_ne_true (by rw [nan, inf.1 h]; omega)
  · exact iff_of_true rfl h
  · exact iff_of_false Bool.false_ne_true (by rw [nan]; have := fin.1 h; omega)
  · exact iff_of_false Bool.false_ne_true (by rw [nan]; have := fin.1 h; omega)

theorem Fmt.Ieee.sig_decode : (f.decode x).sig = true ↔ Claims.isSNaN f.ebits f.mbits x := by
  have nan := hf.isNan_decode x
  rcases hf.decode_cases x with ⟨-, e⟩ | ⟨-, sig, e, quiet⟩ | ⟨-, -, e⟩ | ⟨-, -, d, e, -⟩ <;> rw [e] at nan ⊢
  · exact iff_of_false Bool.false_ne_true fun h => Bool.false_ne_true (nan.2 h.1)
  · exact quiet
  · exact iff_of_false Bool.false_ne_true fun h => Bool.false_ne_true (nan.2 h.1)
  · exact iff_of_false Bool.false_ne_true fun h => Bool.false_ne_true (nan.2 h.1)

omit hf in
/-- A signalling NaN is a NaN. -/
theorem Num.sig_le_isNan (a : Num) (h : a.isNan = false) : a.sig = false := by
  cases a <;> first | rfl | cases h

/-! ## Selection and comparison (R127, R128) -/

variable {x y}

theorem Fmt.Ieee.select_nans (less : Bool) (hx : Claims.isNaN f.ebits f.mbits x) (hy : Claims.isNaN f.ebits f.mbits y) :
    (f.select less x y).bits = f.nan := by
  simp [Fmt.select, (hf.isNan_decode x).2 hx, (hf.isNan_decode y).2 hy]

theorem Fmt.Ieee.select_right (less : Bool) (hx : Claims.isNaN f.ebits f.mbits x) (hy : ¬ Claims.isNaN f.ebits f.mbits y) :
    (f.select less x y).bits = y := by
  simp [Fmt.select, (hf.isNan_decode x).2 hx, mt (hf.isNan_decode y).1 hy]

theorem Fmt.Ieee.select_left (less : Bool) (hx : ¬ Claims.isNaN f.ebits f.mbits x) (hy : Claims.isNaN f.ebits f.mbits y) :
    (f.select less x y).bits = x := by
  simp [Fmt.select, mt (hf.isNan_decode x).1 hx, (hf.isNan_decode y).2 hy]

theorem Fmt.Ieee.select_numbers (less : Bool) (hx : ¬ Claims.isNaN f.ebits f.mbits x) (hy : ¬ Claims.isNaN f.ebits f.mbits y) :
    (f.select less x y).bits = if f.rank true x ≤ f.rank true y ↔ less = true then x else y := by
  simp [Fmt.select, mt (hf.isNan_decode x).1 hx, mt (hf.isNan_decode y).1 hy]

theorem Fmt.Ieee.compare_nan (any : Bool) (rel : Int → Int → Bool) (h : Claims.isNaN f.ebits f.mbits x ∨ Claims.isNaN f.ebits f.mbits y) :
    (f.compare any rel x y).bits = 0 := by
  rw [← hf.isNan_decode, ← hf.isNan_decode] at h
  rcases h with h | h <;> simp [Fmt.compare, h]

theorem Fmt.Ieee.compare_numbers (any : Bool) (rel : Int → Int → Bool) (hx : ¬ Claims.isNaN f.ebits f.mbits x)
    (hy : ¬ Claims.isNaN f.ebits f.mbits y) :
    (f.compare any rel x y).bits = if rel (f.rank false x) (f.rank false y) then 1 else 0 := by
  simp [Fmt.compare, mt (hf.isNan_decode x).1 hx, mt (hf.isNan_decode y).1 hy]

variable (x y)

omit hf in
theorem flagNV_iff (b : Bool) : ((if b then flagNV else 0) = 16 ↔ b = true) ∧ ((if b then flagNV else 0) = 16 ∨ (if b then flagNV else 0) = 0) := by
  cases b <;> decide

omit hf in
theorem Fmt.select_flags (less : Bool) : (f.select less x y).flags = if (f.decode x).sig || (f.decode y).sig then flagNV else 0 := by
  have sx := (f.decode x).sig_le_isNan
  have sy := (f.decode y).sig_le_isNan
  unfold Fmt.select
  cases hx : (f.decode x).isNan <;> cases hy : (f.decode y).isNan <;> simp [hx, hy, sx, sy]

omit hf in
theorem Fmt.compare_flags (any : Bool) (rel : Int → Int → Bool) : (f.compare any rel x y).flags =
    if (if any then (f.decode x).isNan || (f.decode y).isNan else (f.decode x).sig || (f.decode y).sig) then flagNV else 0 := by
  have sx := (f.decode x).sig_le_isNan
  have sy := (f.decode y).sig_le_isNan
  unfold Fmt.compare
  cases any <;> cases hx : (f.decode x).isNan <;> cases hy : (f.decode y).isNan <;> simp [hx, hy, sx, sy]

theorem Fmt.Ieee.signalling : ((f.decode x).sig || (f.decode y).sig) = true ↔
    Claims.isSNaN f.ebits f.mbits x ∨ Claims.isSNaN f.ebits f.mbits y := by
  rw [Bool.or_eq_true, hf.sig_decode, hf.sig_decode]

theorem Fmt.Ieee.unordered : ((f.decode x).isNan || (f.decode y).isNan) = true ↔
    Claims.isNaN f.ebits f.mbits x ∨ Claims.isNaN f.ebits f.mbits y := by
  rw [Bool.or_eq_true, hf.isNan_decode, hf.isNan_decode]

/-! ## The order of numbers -/

omit hf in
theorem Fmt.rank_eq (split : Bool) : f.rank split x =
    if Claims.negative f.ebits f.mbits x then -((x % 2 ^ (f.ebits + f.mbits) : ℕ) : ℤ) - (if split then 1 else 0)
    else (x % 2 ^ (f.ebits + f.mbits) : ℕ) := by
  simp only [Fmt.rank, Fmt.signBit, Claims.negative, decide_eq_true_eq]
  push_cast
  rfl

omit hf in
/-- Numbers with a sign are ordered as their magnitudes are. -/
theorem signedReal_lt_iff {g : ℕ → ℝ} (mono : StrictMono g) (zero : g 0 = 0) (nx ny : Bool) (a b : ℕ) :
    signedReal nx (g a) < signedReal ny (g b) ↔ (if nx then -(a : ℤ) else a) < (if ny then -(b : ℤ) else b) := by
  have positive (k : ℕ) : 0 ≤ g k ∧ (g k = 0 ↔ k = 0) := by
    refine ⟨zero ▸ mono.monotone (Nat.zero_le k), ?_⟩
    rw [← zero, mono.injective.eq_iff]
  have order := mono.lt_iff_lt (a := a) (b := b)
  have converse := mono.lt_iff_lt (a := b) (b := a)
  obtain ⟨pa, za⟩ := positive a
  obtain ⟨pb, zb⟩ := positive b
  cases nx <;> cases ny <;> simp only [signedReal, if_true, Bool.false_eq_true, if_false]
  · rw [order]; omega
  · exact iff_of_false (by linarith) (by omega)
  · constructor
    · intro h
      by_contra ge
      have := za.2 (by omega)
      have := zb.2 (by omega)
      linarith
    · intro h
      have : g a ≠ 0 ∨ g b ≠ 0 := by
        rw [Ne, Ne, za, zb]
        omega
      rcases this with h | h
      · have := lt_of_le_of_ne pa (Ne.symm h); linarith
      · have := lt_of_le_of_ne pb (Ne.symm h); linarith
  · rw [neg_lt_neg_iff, converse]; omega

variable {x y}

omit hf in
/-- Finite numbers are ordered by their exact values. -/
theorem Fmt.value_lt_iff (f : Fmt) : Claims.value f.ebits f.mbits x < Claims.value f.ebits f.mbits y ↔ f.rank false x < f.rank false y := by
  rw [← Rat.cast_lt (K := ℝ), value_eq, value_eq, signedReal_lt_iff (magValue_strictMono _ _) (magValue_zero _ _), Fmt.rank_eq, Fmt.rank_eq]
  simp

/-- One number is below another exactly when its rank is. -/
theorem Fmt.Ieee.below_iff (hx : ¬ Claims.isNaN f.ebits f.mbits x) (hy : ¬ Claims.isNaN f.ebits f.mbits y) :
    Claims.Below f.ebits f.mbits x y ↔ f.rank false x < f.rank false y := by
  have infinite : 0 < Claims.infBits f.ebits f.mbits := by
    have := Nat.one_lt_two_pow (show f.ebits ≠ 0 by have := hf.ebits; omega)
    exact Nat.mul_pos (by omega) (by positivity)
  rw [isNaN_iff] at hx hy
  rw [Claims.Below, f.value_lt_iff, isInf_iff, isInf_iff, isFinite_iff, isFinite_iff, Fmt.rank_eq, Fmt.rank_eq]
  generalize x % 2 ^ (f.ebits + f.mbits) = a at *
  generalize y % 2 ^ (f.ebits + f.mbits) = b at *
  cases Claims.negative f.ebits f.mbits x <;> cases Claims.negative f.ebits f.mbits y <;> simp <;> omega

omit hf in
/-- Setting −0 below +0 keeps the order of the others. -/
theorem Fmt.rank_split (f : Fmt) (h : f.rank false x < f.rank false y) : f.rank true x < f.rank true y := by
  rw [Fmt.rank_eq, Fmt.rank_eq] at h ⊢
  generalize x % 2 ^ (f.ebits + f.mbits) = a at *
  generalize y % 2 ^ (f.ebits + f.mbits) = b at *
  generalize Claims.negative f.ebits f.mbits x = nx at *
  generalize Claims.negative f.ebits f.mbits y = ny at *
  cases nx <;> cases ny <;> simp at h ⊢ <;> omega

omit hf in
/-- The sign bit of an encoding. -/
theorem negative_iff {e m : ℕ} (hx : x < 2 * 2 ^ (e + m)) : x = (if Claims.negative e m x then 2 ^ (e + m) else 0) + x % 2 ^ (e + m) ∧
    x / 2 ^ (e + m) = if Claims.negative e m x then 1 else 0 := by
  have whole := Nat.div_add_mod' x (2 ^ (e + m))
  have bit : x / 2 ^ (e + m) < 2 := Nat.div_lt_of_lt_mul (by rwa [mul_comm])
  unfold Claims.negative
  generalize x / 2 ^ (e + m) = q at *
  interval_cases q <;> simp <;> omega

omit hf in
/-- Two encodings of one rank are equal, or both zeros. -/
theorem Fmt.rank_eq_iff (f : Fmt) (hx : x < 2 * 2 ^ (f.ebits + f.mbits)) (hy : y < 2 * 2 ^ (f.ebits + f.mbits)) :
    f.rank false x = f.rank false y ↔ x = y ∨ (x % 2 ^ (f.ebits + f.mbits) = 0 ∧ y % 2 ^ (f.ebits + f.mbits) = 0) := by
  have ex := (negative_iff hx).1
  have ey := (negative_iff hy).1
  have lx := Nat.mod_lt x (show 0 < 2 ^ (f.ebits + f.mbits) by positivity)
  have ly := Nat.mod_lt y (show 0 < 2 ^ (f.ebits + f.mbits) by positivity)
  rw [Fmt.rank_eq, Fmt.rank_eq]
  generalize x % 2 ^ (f.ebits + f.mbits) = a at *
  generalize y % 2 ^ (f.ebits + f.mbits) = b at *
  generalize 2 ^ (f.ebits + f.mbits) = unit at *
  generalize Claims.negative f.ebits f.mbits x = nx at *
  generalize Claims.negative f.ebits f.mbits y = ny at *
  cases nx <;> cases ny <;> simp at ex ey ⊢ <;> omega

/-- FMIN takes the first of two numbers where its rank is no greater. -/
theorem Fmt.Ieee.select_least (hx : ¬ Claims.isNaN f.ebits f.mbits x) (hy : ¬ Claims.isNaN f.ebits f.mbits y) :
    (f.select true x y).bits = if f.rank true x ≤ f.rank true y then x else y := by simp [hf.select_numbers true hx hy]

theorem Fmt.Ieee.select_greatest (hx : ¬ Claims.isNaN f.ebits f.mbits x) (hy : ¬ Claims.isNaN f.ebits f.mbits y) :
    (f.select false x y).bits = if f.rank true x ≤ f.rank true y then y else x := by
  rw [hf.select_numbers false hx hy]
  by_cases h : f.rank true x ≤ f.rank true y <;> simp [h]

omit hf in
/-- −0 is a number whose rank is below that of +0. -/
theorem Fmt.signed_zeros (f : Fmt) : ¬ Claims.isNaN f.ebits f.mbits (2 ^ (f.ebits + f.mbits)) ∧ ¬ Claims.isNaN f.ebits f.mbits 0 ∧
    f.rank true (2 ^ (f.ebits + f.mbits)) = -1 ∧ f.rank true 0 = 0 := by
  rw [isNaN_iff, isNaN_iff, Fmt.rank_eq, Fmt.rank_eq]
  simp [Claims.negative]

/-- FMIN and FMAX write the two numbers, one each. -/
theorem Fmt.Ieee.select_both (hx : ¬ Claims.isNaN f.ebits f.mbits x) (hy : ¬ Claims.isNaN f.ebits f.mbits y) :
    ((f.select true x y).bits = x ∧ (f.select false x y).bits = y) ∨ ((f.select true x y).bits = y ∧ (f.select false x y).bits = x) := by
  rw [hf.select_least hx hy, hf.select_greatest hx hy]
  split
  · exact .inl ⟨rfl, rfl⟩
  · exact .inr ⟨rfl, rfl⟩

/-- The first number is below the second. -/
theorem Fmt.Ieee.forms_of_below (hx : ¬ Claims.isNaN f.ebits f.mbits x) (hy : ¬ Claims.isNaN f.ebits f.mbits y)
    (lt : Claims.Below f.ebits f.mbits x y) : (f.select true x y).bits = x ∧ (f.select false x y).bits = y ∧
      (f.compare true (fun a b => decide (a < b)) x y).bits = 1 := by
  rw [hf.below_iff hx hy] at lt
  rw [hf.select_least hx hy, hf.select_greatest hx hy, hf.compare_numbers _ _ hx hy, if_pos (Fmt.rank_split _ lt).le,
    if_pos (Fmt.rank_split _ lt).le, if_pos (decide_eq_true lt)]
  exact ⟨rfl, rfl, rfl⟩

/-- The second number is below the first. -/
theorem Fmt.Ieee.forms_of_above (hx : ¬ Claims.isNaN f.ebits f.mbits x) (hy : ¬ Claims.isNaN f.ebits f.mbits y)
    (gt : Claims.Below f.ebits f.mbits y x) : (f.select true x y).bits = y ∧ (f.select false x y).bits = x ∧
      (f.compare true (fun a b => decide (a ≤ b)) x y).bits = 0 := by
  rw [hf.below_iff hy hx] at gt
  rw [hf.select_least hx hy, hf.select_greatest hx hy, hf.compare_numbers _ _ hx hy, if_neg (Fmt.rank_split _ gt).not_ge,
    if_neg (Fmt.rank_split _ gt).not_ge, if_neg (by simpa using gt)]
  exact ⟨rfl, rfl, rfl⟩

theorem Fmt.Ieee.lt_of_not_below (hx : ¬ Claims.isNaN f.ebits f.mbits x) (hy : ¬ Claims.isNaN f.ebits f.mbits y)
    (ge : ¬ Claims.Below f.ebits f.mbits x y) : (f.compare true (fun a b => decide (a < b)) x y).bits = 0 := by
  rw [hf.below_iff hx hy] at ge
  rw [hf.compare_numbers _ _ hx hy, if_neg (by simpa using ge)]

/-- Of two numbers at most one of equal and less holds, and no greater is one of the two. -/
theorem Fmt.Ieee.compare_sum (hx : ¬ Claims.isNaN f.ebits f.mbits x) (hy : ¬ Claims.isNaN f.ebits f.mbits y) :
    let eq := f.compare false (fun a b => decide (a = b)) x y
    let lt := f.compare true (fun a b => decide (a < b)) x y
    eq.bits + lt.bits ≤ 1 ∧ (f.compare true (fun a b => decide (a ≤ b)) x y).bits = eq.bits + lt.bits ∧
      (eq.bits = 1 ↔ f.rank false x = f.rank false y) := by
  dsimp only
  rw [hf.compare_numbers _ _ hx hy, hf.compare_numbers _ _ hx hy, hf.compare_numbers _ _ hx hy]
  simp only [decide_eq_true_eq]
  rcases lt_trichotomy (f.rank false x) (f.rank false y) with lt | same | gt
  · simp [lt, lt.le, lt.ne]
  · simp [same]
  · simp [gt.not_gt, gt.not_ge, gt.ne']

/-- FMIN and FMAX put −0 below +0. -/
theorem Fmt.Ieee.select_zeros :
    (f.select true (2 ^ (f.ebits + f.mbits)) 0).bits = 2 ^ (f.ebits + f.mbits) ∧ (f.select false (2 ^ (f.ebits + f.mbits)) 0).bits = 0 ∧
    (f.select true 0 (2 ^ (f.ebits + f.mbits))).bits = 2 ^ (f.ebits + f.mbits) ∧
    (f.select false 0 (2 ^ (f.ebits + f.mbits))).bits = 0 := by
  obtain ⟨minus, plus, low, high⟩ := f.signed_zeros
  rw [hf.select_least minus plus, hf.select_greatest minus plus, hf.select_least plus minus, hf.select_greatest plus minus, low, high]
  exact ⟨rfl, rfl, rfl, rfl⟩

/-! ## Signs (R130) -/

theorem Fmt.Ieee.resign_nan (neg : Bool) (hx : Claims.isNaN f.ebits f.mbits x) : f.resign x neg = f.nan := by
  rw [Fmt.resign, if_pos ((hf.isNan_decode x).2 hx)]

/-- A number keeps its magnitude and takes the sign. -/
theorem Fmt.Ieee.resign_number (neg : Bool) (hx : ¬ Claims.isNaN f.ebits f.mbits x) :
    f.resign x neg % 2 ^ (f.ebits + f.mbits) = x % 2 ^ (f.ebits + f.mbits) ∧ f.resign x neg < 2 * 2 ^ (f.ebits + f.mbits) ∧
    f.resign x neg / 2 ^ (f.ebits + f.mbits) = neg.toNat := by
  have unit : 0 < 2 ^ (f.ebits + f.mbits) := by positivity
  have mag := Nat.mod_lt x unit
  rw [Fmt.resign, if_neg (mt (hf.isNan_decode x).1 hx), Fmt.withSign, Fmt.signBit]
  cases neg
  · exact ⟨Nat.mod_mod _ _, by simp; omega, Nat.div_eq_of_lt mag⟩
  · refine ⟨by simp, by simp; omega, ?_⟩
    rw [if_pos rfl, Nat.add_div_left _ unit, Nat.div_eq_of_lt mag]
    rfl

/-! ## Classes (R129) -/

/-- What an encoding is, by its exponent and fraction fields (R38). -/
theorem Fmt.Ieee.fields (x : ℕ) : 0 < 2 ^ f.ebits - 1 ∧ x / 2 ^ f.mbits % 2 ^ f.ebits ≤ 2 ^ f.ebits - 1 ∧
    (x % 2 ^ (f.ebits + f.mbits) = 0 ↔ x / 2 ^ f.mbits % 2 ^ f.ebits = 0 ∧ x % 2 ^ f.mbits = 0) := by
  have := Nat.one_lt_two_pow (show f.ebits ≠ 0 by have := hf.ebits; omega)
  have exp := Nat.mod_lt (x / 2 ^ f.mbits) (show 0 < 2 ^ f.ebits by positivity)
  have unit : 0 < 2 ^ f.mbits := by positivity
  rw [← encoding_split, Nat.add_eq_zero_iff, Nat.mul_eq_zero]
  omega

/-- The class of an encoding is one bit, and which one its fields say. -/
theorem Fmt.Ieee.classify_class {y : ℕ} (hy : y < 2 * 2 ^ (f.ebits + f.mbits)) :
    let neg := y / 2 ^ (f.ebits + f.mbits) = 1
    let ex := y / 2 ^ f.mbits % 2 ^ f.ebits
    let fr := y % 2 ^ f.mbits
    ∃ k, f.classify y = 2 ^ k ∧
      (k = 0 ↔ ex = 2 ^ f.ebits - 1 ∧ fr = 0 ∧ neg) ∧ (k = 7 ↔ ex = 2 ^ f.ebits - 1 ∧ fr = 0 ∧ ¬ neg) ∧
      (k = 8 ↔ Claims.isSNaN f.ebits f.mbits y) ∧ (k = 9 ↔ Claims.isNaN f.ebits f.mbits y ∧ ¬ Claims.isSNaN f.ebits f.mbits y) ∧
      (k = 3 ↔ ex = 0 ∧ fr = 0 ∧ neg) ∧ (k = 4 ↔ ex = 0 ∧ fr = 0 ∧ ¬ neg) ∧
      (k = 2 ↔ ex = 0 ∧ fr ≠ 0 ∧ neg) ∧ (k = 5 ↔ ex = 0 ∧ fr ≠ 0 ∧ ¬ neg) ∧
      (k = 1 ↔ 0 < ex ∧ ex < 2 ^ f.ebits - 1 ∧ neg) ∧ (k = 6 ↔ 0 < ex ∧ ex < 2 ^ f.ebits - 1 ∧ ¬ neg) := by
  intro neg ex fr
  obtain ⟨top, exp, zero⟩ := hf.fields y
  have sign : neg ↔ Claims.negative f.ebits f.mbits y = true := by
    show y / _ = 1 ↔ _
    rw [(negative_iff hy).2]
    cases Claims.negative f.ebits f.mbits y <;> simp
  have nan : Claims.isNaN f.ebits f.mbits y ↔ ex = 2 ^ f.ebits - 1 ∧ fr ≠ 0 := .rfl
  have signalling (h : Claims.isSNaN f.ebits f.mbits y) : Claims.isNaN f.ebits f.mbits y := h.1
  unfold Fmt.classify
  rcases hf.decode_cases y with ⟨inf, e⟩ | ⟨isNan, sig, e, quiet⟩ | ⟨fin, mag, e⟩ | ⟨fin, mag, d, e, -⟩ <;> rw [e] <;> refine ⟨_, rfl, ?_⟩
  · have inf : ex = 2 ^ f.ebits - 1 ∧ fr = 0 := inf
    clear_value ex fr neg
    by_cases negative : neg
    · simp [sign.1 negative]
      grind
    · simp [mt sign.2 negative]
      grind
  · clear_value ex fr neg
    cases sig <;> simp <;> grind
  · have magnitude : ex = 0 ∧ fr = 0 := zero.1 mag
    clear_value ex fr neg
    by_cases negative : neg
    · simp [sign.1 negative]
      grind
    · simp [mt sign.2 negative]
      grind
  · have fin : ex < 2 ^ f.ebits - 1 := fin
    have magnitude : ¬ (ex = 0 ∧ fr = 0) := fun h => mag (zero.2 h)
    have exponent : y % f.signBit / 2 ^ f.mbits = ex := field_exponent f.ebits f.mbits y
    have bit : decide (y / f.signBit % 2 = 1) = Claims.negative f.ebits f.mbits y := rfl
    dsimp only
    rw [exponent, bit]
    clear_value ex fr neg
    by_cases negative : neg
    · simp [sign.1 negative]
      grind
    · simp [mt sign.2 negative]
      grind

end

/-! ## The chains -/

section
variable {f : Fmt} {s : State} {v : Vals} {d : Reg} {src : Src}

theorem floatBits_ready (op : ℕ → ℕ → FRes) (ready : Claims.Ready s (Claims.needDS d src) v) :
    let r := op (f.operand v.d) (f.operand v.s)
    floatBits f op d src s = .next (Claims.endOf (Claims.needDS d src) (Claims.floated s d r.bits r.flags)) :=
  chainNext_ready ready (fun v s => s.setFloat d (op (f.operand v.d) (f.operand v.s)))

theorem classOp_ready (ready : Claims.Ready s (Claims.needWS d src) v) :
    classOp f d src s = .next (Claims.endOf (Claims.needWS d src) (s.setReg d.toNat (word (f.classify (f.operand v.s))))) :=
  chainNext_ready ready (fun v s => s.setReg d.toNat (word (f.classify (f.operand v.s))))

end

/-- A form of one of the two formats is the chain of its format. -/
theorem exec_pick {i j : Instr} {s : State} (o : Fmt → Host.Outcome State Fault Refusal) (hi : exec i s = o fp64) (hj : exec j s = o fp32)
    (double : Bool) : exec (if double then i else j) s = o (scalarFmt double) := by
  cases double
  · exact hj
  · exact hi

section
variable {s : State} {v : Vals} {d : Reg} {src : Src} (ready : Claims.Ready s (Claims.needDS d src) v) (double : Bool)
include ready

/-- A form of two operands that writes what an operation of its format makes of their encodings. -/
theorem exec_floatBits {i j : Instr} (op : Fmt → ℕ → ℕ → FRes) (hi : exec i s = floatBits fp64 (op fp64) d src s)
    (hj : exec j s = floatBits fp32 (op fp32) d src s) :
    let r := op (scalarFmt double) ((scalarFmt double).operand v.d) ((scalarFmt double).operand v.s)
    exec (if double then i else j) s = .next (Claims.endOf (Claims.needDS d src) (Claims.floated s d r.bits r.flags)) :=
  (exec_pick (fun f => floatBits f (op f) d src s) hi hj double).trans (floatBits_ready _ ready)

end

/-- An operand is no wider than its format. -/
theorem Fmt.operand_lt (f : Fmt) (w : Word) : f.operand w < 2 * 2 ^ (f.ebits + f.mbits) := by
  have double : 2 ^ f.width = 2 * 2 ^ (f.ebits + f.mbits) := by rw [Fmt.width, add_assoc, pow_add, pow_one]
  rw [← double]
  exact Nat.mod_lt _ (by positivity)

/-- Settles O12: FP64 and FP32 as one IEEE format; numbers by the order of their ranks (`Fmt.Ieee.below_iff`). -/
theorem floatSelectCompareClassify : Obligations.FloatSelectCompareClassify := by
  refine ⟨fun d src s v ready double => ?_, fun d src s v ready double => ?_⟩
  · intro e m w x y nan sig dflt pick
    have hf := scalarFmt_ieee double
    have isMin := exec_floatBits ready double (i := .fminD d src) (j := .fminS d src) (fun f => f.select true) rfl rfl
    have isMax := exec_floatBits ready double (i := .fmaxD d src) (j := .fmaxS d src) (fun f => f.select false) rfl rfl
    have isEq := exec_floatBits ready double (i := .feqD d src) (j := .feqS d src)
      (fun f => f.compare false (fun a b => decide (a = b))) rfl rfl
    have isLt := exec_floatBits ready double (i := .fltD d src) (j := .fltS d src)
      (fun f => f.compare true (fun a b => decide (a < b))) rfl rfl
    have isLe := exec_floatBits ready double (i := .fleD d src) (j := .fleS d src)
      (fun f => f.compare true (fun a b => decide (a ≤ b))) rfl rfl
    have isSgn := exec_floatBits ready double (i := .fsgnD d src) (j := .fsgnS d src)
      (fun f x y => ⟨f.resign x (f.isNeg y), 0⟩) rfl rfl
    have isSgnn := exec_floatBits ready double (i := .fsgnnD d src) (j := .fsgnnS d src)
      (fun f x y => ⟨f.resign x (!f.isNeg y), 0⟩) rfl rfl
    have isSgnx := exec_floatBits ready double (i := .fsgnxD d src) (j := .fsgnxS d src)
      (fun f x y => ⟨f.resign x (f.isNeg x != f.isNeg y), 0⟩) rfl rfl
    have he : e = (scalarFmt double).ebits := by cases double <;> rfl
    have hm : m = (scalarFmt double).mbits := by cases double <;> rfl
    clear_value e m
    subst he hm
    refine ⟨_, _, _, _, _, _, _, _, by
      simp only [List.forall_mem_cons, List.not_mem_nil, IsEmpty.forall_iff, implies_true, and_true]
      exact ⟨isMin, isMax, isEq, isLt, isLe, isSgn, isSgnn, isSgnx⟩, ?_⟩
    have xw : x < 2 * 2 ^ ((scalarFmt double).ebits + (scalarFmt double).mbits) := (scalarFmt double).operand_lt v.d
    have yw : y < 2 * 2 ^ ((scalarFmt double).ebits + (scalarFmt double).mbits) := (scalarFmt double).operand_lt v.s
    have below : 2 ^ (w - 1) = 2 ^ ((scalarFmt double).ebits + (scalarFmt double).mbits) := by
      show 2 ^ (1 + _ + _ - 1) = _
      congr 1
      omega
    have whole : 2 ^ w = 2 * 2 ^ ((scalarFmt double).ebits + (scalarFmt double).mbits) := by
      show 2 ^ (1 + _ + _) = _
      rw [add_assoc, pow_add, pow_one]
    have dnan : (scalarFmt double).nan = dflt := hf.nan
    have xo : (scalarFmt double).operand v.d = x := rfl
    have yo : (scalarFmt double).operand v.s = y := rfl
    rw [below, whole, xo, yo]
    clear isMin isMax isEq isLt isLe isSgn isSgnn isSgnx below whole xo yo
    clear_value x y dflt
    refine ⟨fun ⟨hx, hy⟩ => ⟨(hf.select_nans true hx hy).trans dnan, (hf.select_nans false hx hy).trans dnan⟩,
      fun ⟨hx, hy⟩ => ⟨hf.select_right true hx hy, hf.select_right false hx hy⟩,
      fun ⟨hy, hx⟩ => ⟨hf.select_left true hx hy, hf.select_left false hx hy⟩, fun ⟨hx, hy⟩ => hf.select_both hx hy,
      fun ⟨hx, hy⟩ => hf.forms_of_below hx hy, fun ⟨hx, hy⟩ => hf.forms_of_above hx hy, fun ⟨hx, hy⟩ => hf.lt_of_not_below hx hy,
      fun ⟨hx, hy⟩ => ?_, fun ⟨hx, hy⟩ => ?_, ?_, ?_, ?_, ?_, ?_, ?_, rfl, rfl, rfl,
      fun h => ⟨hf.compare_nan _ _ h, hf.compare_nan _ _ h, hf.compare_nan _ _ h⟩, fun ⟨hx, hy⟩ => ?_,
      fun hx => ⟨(hf.resign_nan _ hx).trans dnan, (hf.resign_nan _ hx).trans dnan, (hf.resign_nan _ hx).trans dnan⟩,
      fun hx => ?_, fun hx => ?_⟩
    · obtain ⟨least, greatest, -⟩ := hf.select_zeros
      rw [hx, hy]
      exact ⟨least, greatest⟩
    · obtain ⟨-, -, least, greatest⟩ := hf.select_zeros
      rw [hx, hy]
      exact ⟨least, greatest⟩
    · rw [Fmt.select_flags, (flagNV_iff _).1, hf.signalling]
    · rw [Fmt.select_flags, (flagNV_iff _).1, hf.signalling]
    · rw [Fmt.compare_flags, (flagNV_iff _).1]
      exact hf.signalling x y
    · rw [Fmt.compare_flags, (flagNV_iff _).1]
      exact hf.unordered x y
    · rw [Fmt.compare_flags, (flagNV_iff _).1]
      exact hf.unordered x y
    · simp only [List.forall_mem_cons, List.not_mem_nil, IsEmpty.forall_iff, implies_true, and_true]
      rw [Fmt.select_flags, Fmt.select_flags, Fmt.compare_flags, Fmt.compare_flags, Fmt.compare_flags]
      exact ⟨(flagNV_iff _).2, (flagNV_iff _).2, (flagNV_iff _).2, (flagNV_iff _).2, (flagNV_iff _).2, .inr trivial, .inr trivial, .inr trivial⟩
    · rw [← Fmt.rank_eq_iff _ xw yw]
      exact hf.compare_sum hx hy
    · simp only [List.forall_mem_cons, List.not_mem_nil, IsEmpty.forall_iff, implies_true, and_true]
      have kept (neg : Bool) := hf.resign_number neg hx
      exact ⟨⟨(kept _).1, (kept _).2.1⟩, ⟨(kept _).1, (kept _).2.1⟩, (kept _).1, (kept _).2.1⟩
    · have sign (neg : Bool) := (hf.resign_number neg hx).2.2
      dsimp only
      rw [sign, sign, sign, (negative_iff xw).2, (negative_iff yw).2]
      have bit (z : ℕ) : (scalarFmt double).isNeg z = Claims.negative (scalarFmt double).ebits (scalarFmt double).mbits z := rfl
      rw [bit, bit]
      cases Claims.negative (scalarFmt double).ebits (scalarFmt double).mbits x <;>
        cases Claims.negative (scalarFmt double).ebits (scalarFmt double).mbits y <;> exact ⟨rfl, rfl, rfl⟩
  · intro e m y neg ex fr
    have he : e = (scalarFmt double).ebits := by cases double <;> rfl
    have hm : m = (scalarFmt double).mbits := by cases double <;> rfl
    clear_value e m
    subst he hm
    obtain ⟨k, class_, bits⟩ := (scalarFmt_ieee double).classify_class ((scalarFmt double).operand_lt v.s)
    refine ⟨k, ?_, bits⟩
    rw [← class_]
    exact (exec_pick (fun f => classOp f d src s) rfl rfl double).trans (classOp_ready ready)

end Sys2Proof.Machine
end

section
/-! SUPPORT. The memories of all packages through the operations of a state and through the ends of a chain (R209): what leaves every one of
them as it was. -/

namespace Sys2Proof.Machine

/-- The memory of each package. -/
def State.mems (s : State) (chip : Nat) : Memory := (s.pkg chip).mem

/-! ## Packages of a state -/

theorem State.mems_setPkg (s : State) (chip : Nat) (p : Package) (h : p.mem = (s.pkg chip).mem) : (s.setPkg chip p).mems = s.mems := by
  funext c
  by_cases same : c = chip
  · subst same
    rw [State.mems, State.pkg_setPkg_same, h, State.mems]
  · rw [State.mems, State.pkg_setPkg_other _ _ _ _ same, State.mems]

/-- A change of a package that leaves its memory alone. -/
@[simp] theorem State.mems_onPkg (s : State) (chip : Nat) (f : Package → Package) (hf : (f (s.pkg chip)).SameMem (s.pkg chip)) :
    (s.onPkg chip f).mems = s.mems := s.mems_setPkg chip _ hf

@[simp] theorem State.mems_onHere (s : State) (f : Package → Package) (hf : (f s.here).SameMem s.here) : (s.onHere f).mems = s.mems :=
  s.mems_setPkg _ _ hf

@[simp] theorem State.mems_onHereCore (s : State) (f : Core → Core) : (s.onHereCore f).mems = s.mems := s.mems_setPkg _ _ rfl
@[simp] theorem State.mems_onMe (s : State) (f : Thread → Thread) : (s.onMe f).mems = s.mems := s.mems_setPkg _ _ rfl
@[simp] theorem State.mems_packets (s : State) (l : Tab Packet) : ({ s with packets := l } : State).mems = s.mems := by rfl
@[simp] theorem State.mems_addPacket (s : State) (l : Tab Packet) (n : Nat) :
    ({ s with packets := l, nextPacket := n } : State).mems = s.mems := by rfl

@[simp] theorem State.mems_cur (s : State) (c : Cur) : ({ s with cur := c } : State).mems = s.mems := by rfl

/-- Every package changed in a way that leaves its memory alone. -/
theorem State.mems_mapChips {s t : State} (f : Package → Package) (e : t.chips = s.chips.map (fun e => (e.1, f e.2)))
    (hf : ∀ p, (f p).mem = p.mem) : t.mems = s.mems := by
  funext chip
  have listed (l : Tab Package) : (tget (l.map (fun e => (e.1, f e.2))) chip Package.absent).mem = (tget l chip Package.absent).mem := by
    induction l with
    | nil => rfl
    | cons e l ih =>
      simp only [List.map_cons, tget, tget?] at ih ⊢
      split
      · exact hf e.2
      · exact ih
  rw [State.mems, State.pkg, e, listed]
  rfl

@[simp] theorem State.mems_foldl {β : Type} (f : State → β → State) (hf : ∀ s b, (f s b).mems = s.mems) (l : List β) (s : State) :
    (l.foldl f s).mems = s.mems := by
  induction l generalizing s with
  | nil => rfl
  | cons b l ih => exact (ih (f s b)).trans (hf s b)

@[simp] theorem State.mems_launch (s : State) (k : Packet) (here : Nat) (via original : Option Nat) :
    (s.launch k here via original).mems = s.mems := by rfl

/-! ## Cores, threads, cells, ports and traps -/

@[simp] theorem State.mems_setReg (s : State) (n : Nat) (v : Word) : (s.setReg n v).mems = s.mems := by
  simp [State.setReg]

@[simp] theorem State.mems_emptyReg (s : State) (n : Nat) : (s.emptyReg n).mems = s.mems := by
  simp [State.emptyReg]

@[simp] theorem State.mems_takeTrap (s : State) (cause : Cause) (detail : Nat) (value : Word) :
    (s.takeTrap cause detail value).mems = s.mems := by simp [State.takeTrap]

@[simp] theorem State.mems_goto (s : State) (pc : BitVec 56) : (s.goto pc).mems = s.mems := by
  simp [State.goto]

@[simp] theorem State.mems_advance (s : State) : (s.advance).mems = s.mems := by simp [State.advance]

@[simp] theorem State.mems_park (s : State) (r : Reason) : (s.park r).mems = s.mems := by simp [State.park]

@[simp] theorem State.mems_parkNext (s : State) (r : Reason) (w : Wait) :
    (s.parkNext r w).mems = s.mems := by simp [State.parkNext]

@[simp] theorem Res.mems_next (s : State) : (Res.next s).state.mems = s.mems :=
  State.mems_advance s
@[simp] theorem Res.mems_jump (s : State) (pc : BitVec 56) : (Res.jump s pc).state.mems = s.mems :=
  State.mems_goto s pc
@[simp] theorem Res.mems_replay (s : State) : (Res.replay s).state.mems = s.mems := rfl
@[simp] theorem Res.mems_trap (s : State) (c : Cause) (d : Nat) (v : Word) :
    (Res.trap s c d v).state.mems = s.mems := State.mems_takeTrap s c d v
@[simp] theorem Res.mems_park (s : State) (r : Reason) : (Res.park s r).state.mems = s.mems :=
  State.mems_park s r
@[simp] theorem Res.mems_parkNext (s : State) (r : Reason) (w : Wait) :
    (Res.parkNext s r w).state.mems = s.mems := State.mems_parkNext s r w
@[simp] theorem Res.mems_retire (s : State) : (Res.retire s).state.mems = s.mems := by
  simp [Res.state]
@[simp] theorem Res.mems_moved (s : State) : (Res.moved s).state.mems = s.mems := rfl

@[simp] theorem State.mems_parkFor (s : State) (w : Wait) (r : Reason) :
    (s.parkFor w r).state.mems = s.mems := by simp [State.parkFor]

@[simp] theorem State.mems_parkOn (s : State) (r : Reason) (resource : Nat) :
    (s.parkOn r resource).state.mems = s.mems := by simp [State.parkOn]

/-! ## Budgets and source units (R326 to R328, R412, R444) -/

@[simp] theorem State.mems_chargeFabric (s : State) (k : Packet) : (s.chargeFabric k).mems = s.mems := by
  unfold State.chargeFabric; split <;> simp

@[simp] theorem State.mems_inject (s : State) (k : Packet) : (s.inject k).mems = s.mems := by
  rw [State.inject, ← State.mems_chargeFabric s k]
  exact State.mems_setPkg (s.chargeFabric k) k.src _ rfl

@[simp] theorem State.mems_parkUnit (s : State) (dst : Nat) : (s.parkUnit dst).state.mems = s.mems := by
  simp [State.parkUnit]

/-! ## Operands and the gate (R31, R97) -/

@[simp] theorem State.mems_pop (s : State) (c : Nat) : (s.pop c).mems = s.mems := by
  unfold State.pop; (repeat' split) <;> simp

@[simp] theorem State.mems_push (s : State) (c : Nat) (v : Word) : (s.push c v).mems = s.mems := by
  unfold State.push; dsimp only; split <;> (try split) <;> simp

@[simp] theorem State.mems_consumeReport (s : State) (c : Cause) : (s.consumeReport c).mems = s.mems := by
  unfold State.consumeReport; split <;> simp

@[simp] theorem State.mems_parkGate (s : State) (n : Needs) (r : Reason) :
    (s.parkGate n r).mems = s.mems := by simp [State.parkGate]

@[simp] theorem State.mems_writeDst (s : State) (d : Dst) (v : Word) : (s.writeDst d v).mems = s.mems := by
  unfold State.writeDst; split <;> simp

/-! ## Flags (R23, R47 to R49) -/

@[simp] theorem State.mems_raise (s : State) (f : Nat) : (s.raise f).mems = s.mems := by simp [State.raise]

/-! ## Plain accesses (R120, R121, R155, R212, R213) -/

@[simp] theorem State.mems_result (s : State) (fs : List Fill) : (s.result fs).mems = s.mems := by
  simp [State.result]

/-! ## Control transfer, mode and control registers (R112 to R119, R132 to R135) -/

@[simp] theorem State.mems_branch (s : State) (taken : Bool) (off : Word) :
    (s.branch taken off).state.mems = s.mems := by
  unfold State.branch; split <;> simp

/-! ## Messages (R140 to R151, R180 to R184) -/

@[simp] theorem State.mems_sendMsg (s : State) (m : Msg) : (s.sendMsg m).mems = s.mems := by
  simp [State.sendMsg]

@[simp] theorem State.mems_joinWaitm (s : State) : (s.joinWaitm).mems = s.mems := by simp [State.joinWaitm]

/-! ## Ports and register deposits (R158 to R162, R185 to R189) -/

@[simp] theorem State.mems_popFor (s : State) (chip : Nat) (o : Owner) (pops : List Nat) :
    (s.popFor chip o pops).mems = s.mems := by
  unfold State.popFor
  split
  · exact (State.mems_foldl _ State.mems_pop pops _).trans (State.mems_cur s _)
  · rfl

/-! ## Threads and access/execute pairs (R190 to R201) -/

@[simp] theorem State.mems_joinLaunch (s : State) : (s.joinLaunch).mems = s.mems := by
  unfold State.joinLaunch; split <;> simp

@[simp] theorem State.mems_discardProducer (s : State) (chip : Nat) (o : Owner) (reg : Nat) :
    (s.discardProducer chip o reg).mems = s.mems := State.mems_setPkg _ _ _ rfl

@[simp] theorem State.mems_setPresence (s : State) (slot lo : Nat) (v : Word) :
    (s.setPresence slot lo v).mems = s.mems := by
  refine State.mems_foldl _ (fun s i => ?_) _ s
  rw [State.mems_onHereCore]
  split <;> simp

@[simp] theorem State.mems_writeItem (s : State) (slot sel : Nat) (v : Word) :
    (s.writeItem slot sel v).mems = s.mems := by simp [State.writeItem, apply_ite State.mems]

@[simp] theorem State.mems_onPair (s : State) (f : Pair → Pair) : (s.onPair f).mems = s.mems := by
  unfold State.onPair; split <;> simp

@[simp] theorem State.mems_accessLeaves (s : State) (i : Nat) (q : Pair) :
    (s.accessLeaves i q).mems = s.mems := by
  unfold State.accessLeaves; split <;> simp

/-! ## Scalar floating point (R124 to R131) -/

@[simp] theorem State.mems_setFloat (s : State) (d : Reg) (r : FRes) : (s.setFloat d r).mems = s.mems := by
  simp [State.setFloat]

/-! ## Cassia (R240 to R253, R263 to R284) -/

@[simp] theorem State.mems_enqueue (s : State) (op : CassiaOp) : (s.enqueue op).mems = s.mems := by
  simp [State.enqueue]

@[simp] theorem State.mems_dispatch (s : State) (fn : CassiaFn) : (s.dispatch fn).state.mems = s.mems := by
  unfold State.dispatch; split <;> simp

/-! ## Barriers and phases (R301 to R305, R313, R314, R331, R332, R340) -/

@[simp] theorem State.mems_setBarrier (s : State) (n : Nat) (v : Word) :
    (s.setBarrier n v).state.mems = s.mems := by
  unfold State.setBarrier; dsimp only; split <;> simp

/-! ## Range forks, join cells and completion cells (R306 to R312, R333 to R339) -/

@[simp] theorem State.mems_cellRequest (s : State) (act : CellAct) (ref : Word) (reg : Nat) (amount : Word) :
    (s.cellRequest act ref reg amount).state.mems = s.mems := by
  unfold State.cellRequest; split <;> simp

/-! ## Grids (R316 to R323, R341 to R346) and budgets (R348) -/

@[simp] theorem State.mems_haloLoad (s : State) (d pa n : Nat) (ws : List Nat) :
    (s.haloLoad d pa n ws).mems = s.mems := by simp [State.haloLoad]

@[simp] theorem State.mems_parkHalo (s : State) (slot : Nat) (fs : List Nat) (step : BitVec 32) :
    (s.parkHalo slot fs step).state.mems = s.mems := by simp [State.parkHalo]

@[simp] theorem State.mems_waitFaces (s : State) (n : Nat) (b : Bound) (d : Desc) (fs : List Nat) (step : BitVec 32) :
    (s.waitFaces n b d fs step).state.mems = s.mems := by
  unfold State.waitFaces; split <;> simp

/-! ## Anise (R318, R320 to R325, R343, R347) -/

/-! ## The ownership map (R363 to R366, R384 to R399) -/

@[simp] theorem State.mems_tradeRequest (s : State) (kind : TradeKind) (d src t : Word) (reg : Nat) :
    (s.tradeRequest kind d src t reg).state.mems = s.mems := by
  unfold State.tradeRequest; split <;> simp

/-! ## Fabric instructions (R408 to R410, R426 to R439) -/

@[simp] theorem State.mems_onCover (s : State) (src : Nat) (o : Owner) (dst : Nat) (f : Cover → Cover) :
    (s.onCover src o dst f).mems = s.mems := by
  unfold State.onCover
  dsimp only
  split
  · simp
  · exact State.mems_mapChips (fun p => p.onFormer src o _) rfl (fun _ => rfl)

@[simp] theorem State.mems_settleRequest (s : State) (id : Nat) (k : Packet) (val : Word) (bad : Bool) (status : Nat) :
    (s.settleRequest id k val bad status).mems = s.mems := by
  unfold State.settleRequest; split <;> simp

@[simp] theorem State.mems_sendRequest (s : State) (k : Packet) : (s.sendRequest k).mems = s.mems := by
  unfold State.sendRequest; split <;> simp

@[simp] theorem State.mems_depart (s : State) (dst : Nat) (addr cap1 : Word) (homing : Bool) :
    (s.depart dst addr cap1 homing).state.mems = s.mems := by
  unfold State.depart; dsimp only; (repeat' split) <;> simp


@[simp] theorem State.mems_pay (s : State) (chip : Nat) (o : Owed) : (s.pay chip o).mems = s.mems := by
  cases o with
  | cell away id paired => simp [State.pay]
  | news dst n h => simp only [State.pay]; split <;> simp

@[simp] theorem State.mems_tell (s : State) (chip : Nat) : (s.tell chip).mems = s.mems := by
  unfold State.tell
  split
  · rfl
  · rw [State.mems_foldl _ fun s o => State.mems_pay s chip o]; simp

@[simp] theorem State.mems_freed (s : State) (port chip : Nat) : (s.freed port chip).mems = s.mems := by
  unfold State.freed; split <;> simp

end Sys2Proof.Machine
end

section
/-! SUPPORT. Chains that leave every memory as it was: what a check that ends a chain leaves, and what a body leaves, the chain leaves
(R31, R97, R121, R244). -/

namespace Sys2Proof.Machine

variable {s : State}

/-! ## Chains (R31, R97) -/

/-- A next state that an outcome answers has the memories of `s`. -/
def AnswersMems (s : State) (o : Host.Outcome State Fault Refusal) : Prop := ∀ t, o = .next t → t.mems = s.mems

@[simp] theorem Res.mems_map (f : State → State) (hf : ∀ s, (f s).mems = s.mems) (r : Res) : (r.map f).state.mems = r.state.mems := by
  cases r <;> simp [Res.map, hf]

theorem chain_mems {n : Needs} {body : Vals → State → Res} (hb : ∀ v, (body v s).state.mems = s.mems) : AnswersMems s (chain s n body) := by
  intro t e
  unfold chain at e
  split at e
  · cases e
    split
    · simp
    · simp
    · next v _ => dsimp only; split <;> simpa using hb v
  · cases e

theorem chainNext_mems {n : Needs} {body : Vals → State → State} (hb : ∀ v, (body v s).mems = s.mems) : AnswersMems s (chainNext s n body) :=
  chain_mems fun v => by simpa using hb v

theorem chainSlot_mems {n : Needs} {slot : Opr} {body : Vals → State → Res} (hb : ∀ v, (body v s).state.mems = s.mems) :
    AnswersMems s (chainSlot s n slot body) := by
  unfold chainSlot
  split
  · dsimp only
    split
    · exact chain_mems fun v => by simp
    · exact chain_mems hb
  · exact chain_mems hb

/-! ## Addresses (R121, R172, R355) -/

/-- The state that a check of an address stops in has the memories of `s`. -/
def Addr.Leaves (s : State) : Addr → Prop
  | .ok _ => True
  | .trap _ _ t => t.mems = s.mems
  | .replay t => t.mems = s.mems

@[simp] theorem Addr.leaves_ok (pa : Nat) : (Addr.ok pa).Leaves s := trivial
@[simp] theorem Addr.leaves_trap (c : Cause) (d : Nat) (t : State) : (Addr.trap c d t).Leaves s ↔ t.mems = s.mems := .rfl
@[simp] theorem Addr.leaves_replay (t : State) : (Addr.replay t).Leaves s ↔ t.mems = s.mems := .rfl

theorem Addr.mems_bind {r : Addr} {a : Word} {body : Nat → Res} (hr : r.Leaves s) (hb : ∀ pa, (body pa).state.mems = s.mems) :
    (r.bind a body).state.mems = s.mems := by
  cases r with
  | ok pa => exact hb pa
  | trap c d t => exact (Res.mems_trap t c d a).trans hr
  | replay t => exact hr

theorem State.leaves_placeCheck (pa : Nat) (need : Perm) : (s.placeCheck pa need).Leaves s := by
  unfold State.placeCheck
  split <;> (try split) <;> simp

theorem State.leaves_checkAddr (a : Word) (n : Nat) (need : Perm) (use : Nat) : (s.checkAddr a n need use).Leaves s := by
  unfold State.checkAddr
  split
  · simp
  · split
    · simp
    · simp
    · exact State.leaves_placeCheck _ _

theorem State.leaves_plainAddr (a : Word) (n : Nat) (need : Perm) (use : Nat) : (s.plainAddr a n need use).Leaves s := by
  unfold State.plainAddr
  split
  · simp
  · exact State.leaves_checkAddr _ _ _ _

theorem State.leaves_homeCheck (pa : Nat) : (s.homeCheck pa).Leaves s := by
  unfold State.homeCheck
  split <;> (try split) <;> simp

theorem State.leaves_homeAddr (a : Word) (n : Nat) (need : Perm) : (s.homeAddr a n need).Leaves s := by
  unfold State.homeAddr
  split
  · simp
  · split
    · simp
    · simp
    · exact State.leaves_homeCheck _

/-! ## Checks that end a chain or give a value -/

/-- The end that a check comes to, where it ends the chain, has the memories of `s`. -/
def Check.Leaves (s : State) {α : Type} (c : Check α) : Prop := ∀ r, c = .error r → r.state.mems = s.mems

@[simp] theorem Check.leaves_ok {α : Type} (a : α) : Check.Leaves s (.ok a) := fun _ e => nomatch e
@[simp] theorem Check.leaves_pure {α : Type} (a : α) : Check.Leaves s (pure a) := fun _ e => nomatch e

@[simp] theorem Check.leaves_error {α : Type} (r : Res) : Check.Leaves s (α := α) (.error r) ↔ r.state.mems = s.mems :=
  ⟨fun h => h r rfl, fun h _ e => by cases e; exact h⟩

theorem Check.leaves_bind {α β : Type} {x : Check α} {f : α → Check β} (hx : x.Leaves s) (hf : ∀ a, (f a).Leaves s) :
    Check.Leaves s (x >>= f) := by
  cases x with
  | ok a => exact hf a
  | error r => exact (Check.leaves_error r).2 (hx r rfl)

/-- A check that ends the chain, or goes on. -/
theorem Check.mems_bind {α : Type} {x : Check α} {f : α → Check Res} (hx : x.Leaves s) (hf : ∀ a, (Check.run (f a)).state.mems = s.mems) :
    (Check.run (x >>= f)).state.mems = s.mems := by
  cases x with
  | ok a => exact hf a
  | error r => exact hx r rfl

@[simp] theorem State.leaves_stopWhen (bad : Bool) (c : Cause) (detail : Nat) (v : Word) : (s.stopWhen bad c detail v).Leaves s := by
  unfold State.stopWhen; split <;> simp

@[simp] theorem State.leaves_checkTile (t : Nat) : (s.checkTile t).Leaves s := State.leaves_stopWhen _ _ _ _
@[simp] theorem State.leaves_checkShape (r : Layout) (bad : Bool) : (s.checkShape r bad).Leaves s := State.leaves_stopWhen _ _ _ _
@[simp] theorem State.leaves_checkTarget (fmt : Nat) (bad : Bool) : (s.checkTarget fmt bad).Leaves s := State.leaves_stopWhen _ _ _ _
@[simp] theorem State.leaves_checkClasses (mode : MmaMode) (a b : Operand) : (s.checkClasses mode a b).Leaves s :=
  State.leaves_stopWhen _ _ _ _
@[simp] theorem State.leaves_checkConversion (d o : Operand) : (s.checkConversion d o).Leaves s := State.leaves_stopWhen _ _ _ _
@[simp] theorem State.leaves_checkSlot (n : Nat) : (s.checkSlot n).Leaves s := State.leaves_stopWhen _ _ _ _
@[simp] theorem State.leaves_checkTable (die : Nat) : (s.checkTable die).Leaves s := State.leaves_stopWhen _ _ _ _
@[simp] theorem State.leaves_checkGroup (g : Nat) : (s.checkGroup g).Leaves s := State.leaves_stopWhen _ _ _ _

@[simp] theorem State.leaves_checkXlateAs (detail : XlateFail → Nat) (va : Word) (need : Perm) (use : Nat) :
    (s.checkXlateAs detail va need use).Leaves s := by
  unfold State.checkXlateAs; split <;> simp

@[simp] theorem State.leaves_checkXlate (va : Word) (need : Perm) (use : Nat) : (s.checkXlate va need use).Leaves s :=
  State.leaves_checkXlateAs _ _ _ _

@[simp] theorem State.leaves_checkBase (va : Word) (need : Perm) (use : Nat) : (s.checkBase va need use).Leaves s := by
  refine Check.leaves_bind (State.leaves_checkXlateAs _ _ _ _) fun pa => ?_
  split
  · split <;> simp
  · simp

@[simp] theorem State.leaves_checkSpan (r : Layout) (pa : Nat) (view : Option Nat) : (s.checkSpan r pa view).Leaves s :=
  Check.leaves_bind (State.leaves_stopWhen _ _ _ _) fun _ => Check.leaves_pure _

@[simp] theorem State.leaves_checkVector (va : Word) (fmt n use : Nat) : (s.checkVector va fmt n use).Leaves s :=
  Check.leaves_bind (State.leaves_checkBase _ _ _) fun _ => Check.leaves_bind (State.leaves_stopWhen _ _ _ _) fun _ => Check.leaves_pure _

@[simp] theorem State.leaves_clovePlace (base va : Word) (pa : Nat) (writes : Bool) : (s.clovePlace base va pa writes).Leaves s := by
  unfold State.clovePlace; split <;> simp

theorem State.leaves_clovePages (base unit : Word) (need : Perm) (use : Nat) (l : List (Nat × Nat)) (acc : Tab Nat) :
    (s.clovePages base unit need use l acc).Leaves s := by
  induction l generalizing acc with
  | nil => exact Check.leaves_ok _
  | cons e l ih =>
    exact Check.leaves_bind (State.leaves_checkXlate _ _ _) fun _ =>
      Check.leaves_bind (State.leaves_clovePlace _ _ _ _) fun _ => ih _

@[simp] theorem State.leaves_cloveOperand (r : Layout) (need : Perm) (view : Option Nat) (use : Nat) :
    (s.cloveOperand r need view use).Leaves s :=
  Check.leaves_bind (State.leaves_checkXlate _ _ _) fun _ =>
    Check.leaves_bind (State.leaves_clovePages _ _ _ _ _ _) fun _ => Check.leaves_pure _

@[simp] theorem State.leaves_myTile (n : Nat) : (s.myTile n).Leaves s := by
  refine Check.leaves_bind (State.leaves_checkSlot _) fun _ => ?_
  dsimp only
  split <;> simp

@[simp] theorem State.leaves_checkCap (c : Cap) (a : Word) (n perm : Nat) : (s.checkCap c a n perm).Leaves s :=
  Check.leaves_bind (State.leaves_stopWhen _ _ _ _) fun _ => State.leaves_stopWhen _ _ _ _

/-! ## What bodies of chains leave -/

/-- A package put in the place of the issuing one, with its memory. -/
theorem State.mems_replaceHere {p : Package} (h : p.mem = s.here.mem) : (s.onHere (fun _ => p)).mems = s.mems := s.mems_setPkg _ _ h

theorem State.mems_forkPair (s : State) (acc exe : BitVec 56) (cfg : Word) : (s.forkPair acc exe cfg).1.mems = s.mems := by
  unfold State.forkPair
  dsimp only
  split
  · split
    · rfl
    · split
      · rfl
      · split
        · rfl
        · simp
  · rfl

theorem State.mems_arrive (n kind d : Nat) {done : Bar → State → Res} (hd : ∀ b t, t.mems = s.mems → (done b t).state.mems = s.mems) :
    (s.arrive n kind d done).state.mems = s.mems := by
  unfold State.arrive
  dsimp only
  split
  · simp
  · split
    · simp
    · exact hd _ _ (by simp)

theorem State.mems_wordsFail {xs : List (Word × Nat)} {late : Bool} {r : Res} (e : s.wordsFail xs late = some r) :
    r.state.mems = s.mems := by
  obtain ⟨x, -, e⟩ := firstSome_eq_some e
  have checked := State.leaves_checkAddr (s := s) x.1 8 { r := true } (300 + x.2)
  split at e
  · cases e
  · next c d t ok =>
    rw [ok] at checked
    split at e
    · cases e; simpa using checked
    · cases e
  · next t ok =>
    rw [ok] at checked
    split at e
    · cases e
    · cases e; exact checked

theorem State.mems_readWords (a : Word) (n : Nat) {body : List Word → Res} (hb : ∀ ws, (body ws).state.mems = s.mems) :
    (s.readWords a n body).state.mems = s.mems := by
  unfold State.readWords
  dsimp only
  split
  · rfl
  · split
    · next e => exact State.mems_wordsFail e
    · next e => exact State.mems_wordsFail e
    · split
      · simp
      · exact hb _

theorem State.mems_vecIssue (fn : VFn) (double : Bool) (rnd : Rnd) (ld : Rec) (ls lt : Option Rec) (dv sv : Option Nat) (scalar : Word) :
    (s.vecIssue fn double rnd ld ls lt dv sv scalar).state.mems = s.mems := by
  refine Check.mems_bind (State.leaves_checkShape _ _) fun _ => ?_
  refine Check.mems_bind (by split <;> simp) fun _ => ?_
  refine Check.mems_bind (by split <;> simp) fun _ => ?_
  refine Check.mems_bind (State.leaves_checkBase _ _ _) fun pd => ?_
  refine Check.mems_bind (by split <;> simp) fun ps => ?_
  refine Check.mems_bind (by split <;> simp) fun pt => ?_
  refine Check.mems_bind (State.leaves_checkSpan _ _ _) fun od => ?_
  refine Check.mems_bind (by split <;> simp) fun os => ?_
  refine Check.mems_bind (by split <;> simp) fun ot => ?_
  refine Check.mems_bind (State.leaves_checkTarget _ _) fun _ => ?_
  exact State.mems_dispatch _ _

theorem State.mems_store (c : Cap) (a : Word) (bytes : List (Nat × Byte)) (tag : Bool) :
    (Check.run (s.store c a bytes tag)).state.mems = s.mems := by
  refine Check.mems_bind (State.leaves_checkCap _ _ _ _) fun _ => ?_
  rw [Check.run_pure]
  split <;> simp

theorem State.mems_capLoad (c : Cap) (a : Word) (n : Nat) {done : Nat → State → Res} (hd : ∀ pa, (done pa s).state.mems = s.mems) :
    (Check.run (s.capLoad c a n done)).state.mems = s.mems := by
  refine Check.mems_bind (State.leaves_checkCap _ _ _ _) fun _ => ?_
  rw [Check.run_pure]
  split
  · split <;> simp
  · split
    · rfl
    · split
      · simp
      · exact hd _

theorem State.mems_mcastSend {s t : State} {g gen : Nat} {c : Cap} {served : List Nat} {l : List (Nat × Word)}
    (e : s.mcastSend g gen c served l = .ok t) : t.mems = s.mems := by
  induction l generalizing s served with
  | nil => cases e; rfl
  | cons m l ih =>
    simp only [State.mcastSend] at e
    split at e
    · split at e
      · cases e
      · exact (ih e).trans (by simp)
    · split at e
      · cases e
      · exact (ih e).trans (by simp)

theorem State.mems_mcastTo {t : State} {g : Nat} {c : Cap} (e : s.mcastTo g c = .ok t) : t.mems = s.mems := State.mems_mcastSend e

end Sys2Proof.Machine
end

section
/-! SUPPORT. The chains that leave every memory as it was (R122, R175, R200, R210, R212, R342): those of more than one end, and the whole set. -/

namespace Sys2Proof.Machine

variable {s : State}

/-! ## Chains of one shape (R104 to R116, R124 to R131, R182, R202, R281) -/

theorem binary_mems (f : Word → Word → Word) (d : Reg) (src : Src) : AnswersMems s (binary f d src s) :=
  chainNext_mems fun _ => by simp

theorem unary_mems (f : Word → Word) (d : Reg) (src : Src) : AnswersMems s (unary f d src s) :=
  chainNext_mems fun _ => by simp

theorem withImm_mems (f : Word → Word) (d : Reg) : AnswersMems s (withImm f d s) :=
  chainNext_mems fun _ => by simp

theorem branchOn_mems (f : Word → Bool) (d : Reg) (off : Word) : AnswersMems s (branchOn f d off s) :=
  chain_mems fun _ => by simp

theorem branchCmp_mems (f : Word → Word → Bool) (d : Reg) (src : Src) (off : Word) : AnswersMems s (branchCmp f d src off s) :=
  chain_mems fun _ => by simp

theorem float2_mems (f : Fmt) (op : Nat → Num → Num → FRes) (r : Rnd) (d : Reg) (src : Src) : AnswersMems s (float2 f op r d src s) :=
  chainNext_mems fun _ => by simp

theorem float3_mems (f : Fmt) (negProd negAdd : Bool) (r : Rnd) (d : Reg) (src : Src) (t : Tgt) :
    AnswersMems s (float3 f negProd negAdd r d src t s) :=
  chainNext_mems fun _ => by simp

theorem floatBits_mems (f : Fmt) (op : Nat → Nat → FRes) (d : Reg) (src : Src) : AnswersMems s (floatBits f op d src s) :=
  chainNext_mems fun _ => by simp

theorem signOp_mems (f : Fmt) (g : Bool → Bool → Bool) (d : Reg) (src : Src) : AnswersMems s (signOp f g d src s) :=
  floatBits_mems _ _ _ _

theorem convertFloat_mems (source target : Fmt) (r : Rnd) (d : Reg) (src : Src) : AnswersMems s (convertFloat source target r d src s) := by
  refine chain_mems fun v => ?_
  dsimp only
  split <;> simp

theorem fromInt_mems (signed : Bool) (target : Fmt) (r : Rnd) (d : Reg) (src : Src) : AnswersMems s (fromInt signed target r d src s) :=
  chainNext_mems fun _ => by simp

theorem toInt_mems (source : Fmt) (lo hi : Int) (r : Rnd) (d : Reg) (src : Src) : AnswersMems s (toInt source lo hi r d src s) := by
  refine chain_mems fun v => ?_
  dsimp only
  split <;> simp

theorem sendOp_mems (toThread : Bool) (d : Reg) (handler : BitVec 6) (payload : Option RegOp) (count : BitVec 3) :
    AnswersMems s (sendOp toThread d handler payload count s) := by
  unfold sendOp
  refine chain_mems fun v => ?_
  dsimp only
  split <;> simp

theorem bfmtOp_mems (d : Reg) (src : Src) : AnswersMems s (bfmtOp d src s) := by
  refine chain_mems fun v => ?_
  dsimp only
  (repeat' split) <;> simp

theorem bmodeOp_mems (d : Reg) (src : Src) : AnswersMems s (bmodeOp d src s) := by
  refine chainNext_mems fun v => ?_
  split <;> simp

theorem vec2_mems (fn : VFn) (double : Bool) (r : Rnd) (ld ls : Rec) : AnswersMems s (vec2 fn double r ld ls s) :=
  chain_mems fun _ => State.mems_vecIssue _ _ _ _ _ _ _ _ _

theorem vec3_mems (fn : VFn) (double : Bool) (r : Rnd) (ld ls lt : Rec) : AnswersMems s (vec3 fn double r ld ls lt s) :=
  chain_mems fun _ => State.mems_vecIssue _ _ _ _ _ _ _ _ _

theorem vscaleOp_mems (double : Bool) (r : Rnd) (ld ls : Rec) (t : Tgt) : AnswersMems s (vscaleOp double r ld ls t s) :=
  chain_mems fun _ => State.mems_vecIssue _ _ _ _ _ _ _ _ _

theorem vfillOp_mems (double : Bool) (r : Rnd) (ld : Rec) (src : Src) : AnswersMems s (vfillOp double r ld src s) :=
  chain_mems fun _ => State.mems_vecIssue _ _ _ _ _ _ _ _ _

theorem execVcvt_mems (r : Rnd) (ld ls : Rec) (view : BitVec 4) : AnswersMems s (execVcvt r ld ls view s) :=
  chain_mems fun _ => State.mems_vecIssue _ _ _ _ _ _ _ _ _

theorem tradeS_mems (kind : TradeKind) (src : RegOp) (t : Opr) : AnswersMems s (tradeS kind src t s) :=
  chain_mems fun _ => by simp

theorem tradeDS_mems (kind : TradeKind) (d : Reg) (src : RegOp) : AnswersMems s (tradeDS kind d src s) :=
  chain_mems fun _ => by simp

theorem tradeDST_mems (mem : Bool) (kind : TradeKind) (d : Reg) (src t : RegOp) : AnswersMems s (tradeDST mem kind d src t s) :=
  chain_mems fun _ => by simp

/-! ## Chains that form an address (R117, R121, R178, R199, R345) -/

theorem loadOp_mems (signed : Bool) (sz : Size) (d : Reg) (b : RegOp) (disp : Word) : AnswersMems s (loadOp signed sz d b disp s) := by
  unfold loadOp
  dsimp only
  refine chain_mems fun v => Addr.mems_bind (State.leaves_plainAddr _ _ _ _) fun pa => ?_
  simp

theorem execJtab_mems (idx : Reg) (b bound : RegOp) : AnswersMems s (execJtab idx b bound s) := by
  unfold execJtab
  refine chain_mems fun v => ?_
  split
  · simp
  · refine Addr.mems_bind (State.leaves_plainAddr _ _ _ _) fun pa => ?_
    dsimp only
    split <;> simp

theorem atomicOp_mems (op : AmoOp) (double : Bool) (d : Reg) (b : RegOp) (disp : Word) (t : Opr) :
    AnswersMems s (atomicOp op double d b disp t s) := by
  refine chain_mems fun v => Addr.mems_bind (State.leaves_homeAddr _ _ _) fun pa => ?_
  simp

theorem execQld_mems (sz : Size) (q : Bool) (b : RegOp) (disp : Word) : AnswersMems s (execQld sz q b disp s) := by
  unfold execQld
  dsimp only
  refine chain_mems fun v => ?_
  split
  · split
    · simp
    · refine Addr.mems_bind (State.leaves_plainAddr _ _ _ _) fun pa => ?_
      simp
  · simp

theorem execLayout_mems (rec : Rec) (b : RegOp) (disp : Word) : AnswersMems s (execLayout rec b disp s) := by
  refine chain_mems fun v => Addr.mems_bind (State.leaves_plainAddr _ _ _ _) fun pa => ?_
  dsimp only
  split
  · simp
  · split <;> simp

theorem execLdh_mems (sz : Size) (d : Reg) (b : RegOp) (disp : Word) (t : Tgt) : AnswersMems s (execLdh sz d b disp t s) := by
  unfold execLdh
  dsimp only
  refine chain_mems fun v => Addr.mems_bind (State.leaves_checkAddr _ _ _ _) fun pa => ?_
  (repeat' split) <;> simp

/-! ## Creations (R191, R306, R334) -/

theorem execSpawnL_mems (d : Reg) (src : RegOp) (t : Tgt) : AnswersMems s (execSpawnL d src t s) := by
  unfold execSpawnL
  refine chain_mems fun v => ?_
  split
  · rfl
  · next p w e => simpa using State.mems_replaceHere (Package.spawnOn_mem e)

theorem execRfork_mems (d : Reg) (src : RegOp) (t : Tgt) : AnswersMems s (execRfork d src t s) := by
  unfold execRfork
  refine chain_mems fun v => ?_
  dsimp only
  iterate 4
    split
    · simp
  split
  · rfl
  · next p cell e =>
    have made : p.mem = s.here.mem := Package.newCell_mem e
    rw [Res.mems_next, State.mems_setReg]
    exact State.mems_replaceHere (by simpa using made)

theorem execCellNew_mems (d : Reg) (src : RegOp) (t : Tgt) : AnswersMems s (execCellNew d src t s) := by
  unfold execCellNew
  refine chain_mems fun v => ?_
  dsimp only
  iterate 2
    split
    · simp
  split
  · rfl
  · next p cell e => simpa using State.mems_replaceHere (Package.newCell_mem e :)

/-! ## Cassia and Clove (R263 to R288) -/

theorem mmaOp_mems (mode : MmaMode) (tile : TileNo) (la lb : Rec) (c : RegOp) (disp : Word) :
    AnswersMems s (mmaOp mode tile la lb c disp s) := by
  refine chain_mems fun v => ?_
  iterate 8 refine Check.mems_bind (by simp) fun _ => ?_
  simp

theorem accMove_mems (reads : Bool) (tile : TileNo) (rec : Rec) (w : RegOp) (disp : Word) :
    AnswersMems s (accMove reads tile rec w disp s) := by
  refine chain_mems fun v => ?_
  iterate 4 refine Check.mems_bind (by simp) fun _ => ?_
  rw [Check.run_pure]
  split <;> simp

theorem accmodeOp_mems (d : Reg) (src : Src) : AnswersMems s (accmodeOp d src s) := by
  refine chain_mems fun v => ?_
  refine Check.mems_bind (by simp) fun _ => ?_
  rw [Check.run_pure]
  (repeat' split) <;> simp

theorem drainOp_mems (float : Bool) (rnd : Rnd) (rec : Rec) (grp : RegOp) : AnswersMems s (drainOp float rnd rec grp s) := by
  refine chain_mems fun v => ?_
  iterate 5 refine Check.mems_bind (by simp) fun _ => ?_
  refine Check.mems_bind ?corr fun corr => ?_
  case corr =>
    split
    · exact Check.leaves_ok _
    · exact Check.leaves_bind (State.leaves_checkVector _ _ _ _) fun _ => Check.leaves_pure _
  iterate 3 refine Check.mems_bind (by simp) fun _ => ?_
  exact State.mems_dispatch _ _

theorem redOp_mems (fn : RedFn) (double : Bool) (rnd : Rnd) (ld ls : Rec) : AnswersMems s (redOp fn double rnd ld ls s) := by
  refine chain_mems fun v => ?_
  iterate 7 refine Check.mems_bind (by simp) fun _ => ?_
  simp

theorem copyOp_mems (bytes : Bool) (rnd : Rnd) (ld ls : Rec) (t : RegOp) : AnswersMems s (copyOp bytes rnd ld ls t s) := by
  refine chain_mems fun v => ?_
  iterate 7 refine Check.mems_bind (by simp) fun _ => ?_
  rw [Check.run_pure]
  split <;> simp

theorem execCopym_mems (r : Rnd) (ld ls : Rec) (t : RegOp) : AnswersMems s (execCopym r ld ls t s) := by
  refine chain_mems fun v => ?_
  iterate 15 refine Check.mems_bind (by simp) fun _ => ?_
  rw [Check.run_pure]
  (repeat' split) <;> simp

/-! ## Grids and budgets (R341 to R348) -/

theorem execGrid_mems (d : Reg) (b : RegOp) (disp : Word) : AnswersMems s (execGrid d b disp s) := by
  refine chain_mems fun v => ?_
  iterate 2 refine Check.mems_bind (by simp) fun _ => ?_
  rw [Check.run_pure]
  refine State.mems_readWords _ _ fun ws => ?_
  (repeat' split) <;> simp

theorem execBudgetSet_mems (d : Reg) (src : Src) : AnswersMems s (execBudgetSet d src s) := by
  refine chain_mems fun v => Check.mems_bind (State.leaves_checkTable _) fun _ => ?_
  dsimp only
  split
  · simp
  · refine Check.mems_bind (State.leaves_stopWhen _ _ _ _) fun _ => ?_
    simp

theorem execHstep_mems (d : Reg) (src : RegOp) : AnswersMems s (execHstep d src s) := by
  refine chainSlot_mems fun v => ?_
  iterate 2 refine Check.mems_bind (by simp) fun _ => ?_
  rw [Check.run_pure]
  split <;> simp

/-! ## The fabric (R426 to R439) -/

theorem remoteAtomic_mems (op : AmoOp) (double : Bool) (d : Reg) (b : RegOp) (disp : Word) (t : Opr) :
    AnswersMems s (remoteAtomic op double d b disp t s) := by
  refine chain_mems fun v => ?_
  refine Check.mems_bind (by simp) fun _ => ?_
  rw [Check.run_pure]
  split <;> simp

theorem postedAtomic_mems (op : AmoOp) (d : Reg) (b : RegOp) (disp : Word) : AnswersMems s (postedAtomic op d b disp s) := by
  refine chain_mems fun v => ?_
  refine Check.mems_bind (by simp) fun _ => ?_
  rw [Check.run_pure]
  split <;> simp

theorem execFfence_mems (d : Reg) (src t : RegOp) : AnswersMems s (execFfence d src t s) := by
  refine chain_mems fun v => ?_
  refine Check.mems_bind (by simp) fun _ => ?_
  rw [Check.run_pure]
  (repeat' split) <;> simp

theorem execLdr_mems (sz : Size) (d : Reg) (b : RegOp) (disp : Word) : AnswersMems s (execLdr sz d b disp s) := by
  unfold execLdr
  dsimp only
  exact chain_mems fun v => State.mems_capLoad _ _ _ fun pa => by simp

theorem execMcast_mems (d : Reg) (src : RegOp) : AnswersMems s (execMcast d src s) := by
  refine chain_mems fun v => Check.mems_bind (State.leaves_checkGroup _) fun _ => ?_
  rw [Check.run_pure]
  split
  · next t e => exact (Res.mems_next t).trans (State.mems_mcastTo e)
  · simp
  · simp

theorem execMcgrp_mems (d : Reg) (src : RegOp) : AnswersMems s (execMcgrp d src s) := by
  refine chain_mems fun v => ?_
  iterate 2 refine Check.mems_bind (by simp) fun _ => ?_
  rw [Check.run_pure]
  exact State.mems_readWords _ _ fun ws => by simp

/-! ## Every chain but the nine that may store -/

theorem exec_mems {i : Instr} (c : i.isStep = false) (h : ¬ Claims.StoresAtIssue i) : AnswersMems s (exec i s) := by
  cases i with (unfold exec; dsimp only)
  | st sz d b x => exact absurd (.inl ⟨sz, d, b, x, rfl⟩) h
  | qst sz q b x => exact absurd (.inr (.inl ⟨sz, q, b, x, rfl⟩)) h
  | ldf d b x => exact absurd (.inr (.inr (.inl ⟨d, b, x, rfl⟩))) h
  | ldfe d b x => exact absurd (.inr (.inr (.inr (.inl ⟨d, b, x, rfl⟩)))) h
  | stef d b x => exact absurd (.inr (.inr (.inr (.inr (.inl ⟨d, b, x, rfl⟩))))) h
  | stf d b x => exact absurd (.inr (.inr (.inr (.inr (.inr (.inl ⟨d, b, x, rfl⟩)))))) h
  | seteMemory b x => exact absurd (.inr (.inr (.inr (.inr (.inr (.inr (.inl ⟨b, x, rfl⟩))))))) h
  | feqry d b x => exact absurd (.inr (.inr (.inr (.inr (.inr (.inr (.inr (.inl ⟨d, b, x, rfl⟩)))))))) h
  | gbind d b t => exact absurd (.inr (.inr (.inr (.inr (.inr (.inr (.inr (.inr ⟨d, b, t, rfl⟩)))))))) h
  -- Integers and branches.
  | add | addW | sub | subW | mul | mulW | mulh | div | divu | rem | remu | and | or | xor | shl | shlW | shr | sar | min |
  max | minu | maxu | ceq | cne | clt | cltu | cle | cleu | bfx | crcB | crcH | crcW | crcD =>
    exact binary_mems _ _ _
  | ctz | bswap => exact unary_mems _ _ _
  | addi | lih | shli | shri => exact withImm_mems _ _
  | bez | bnz | bltz | bgez => exact branchOn_mems _ _ _
  | beq | bne | blt | bge | bltu | bgeu => exact branchCmp_mems _ _ _ _
  -- Floats.
  | faddD | faddS | fsubD | fsubS | fmulD | fmulS | fdivD | fdivS => exact float2_mems _ _ _ _ _
  | fmaD | fmaS | fmsD | fmsS | fnmaD | fnmaS | fnmsD | fnmsS => exact float3_mems _ _ _ _ _ _ _
  | fminD | fminS | fmaxD | fmaxS | feqD | feqS | fltD | fltS | fleD | fleS => exact floatBits_mems _ _ _ _
  | fsgnD | fsgnS | fsgnnD | fsgnnS | fsgnxD | fsgnxS => exact signOp_mems _ _ _ _
  | fcvtSD | fcvtDS => exact convertFloat_mems _ _ _ _ _
  | fcvtDL | fcvtDLu | fcvtSL | fcvtSLu => exact fromInt_mems _ _ _ _ _
  | fcvtLD | fcvtLuD | fcvtLS | fcvtLuS => exact toInt_mems _ _ _ _ _ _
  -- One effect, whatever the operands.
  | mov | li | lea | yield | nop | bfi | fsqrtD | fsqrtS | fclassD | fclassS | rdflg | clrflg | sread | swrite | seteRegister | htab |
  mcfgReadConfig | mcfgWriteConfig | mcfgReadDropCounter | mcfgReadAccept | mcfgWriteAccept | punbind | pstat | treg | ifence |
  rdbcRead | rdbcReadClear | estat | saveareaRead | barsetRead | ownqA | tlbinv | tlbinvP | latt | capnar | capchk =>
    apply chainNext_mems
    simp
  | forkae => exact chainNext_mems fun v => by simp [State.mems_forkPair]
  -- One end, whatever the operands.
  | j | call | jr | ret | retire | trap | bkpt | illegalChain | barsetWrite | phaseC | join | cellRd | cellAdd | cancel | ownq =>
    apply chain_mems
    simp
  -- A choice between effects.
  | sel | twreg | tresume | cpub =>
    apply chainNext_mems
    intro v
    (repeat' split) <;> simp
  | tstat =>
    apply chainNext_mems
    intro v
    dsimp only
    split <;> simp
  | bmodeRead | bmodeWrite => exact bmodeOp_mems _ _
  -- A choice between ends.
  | setrm | waitm | takem | depr | spawnC | esync | pack | barw | home =>
    apply chain_mems
    intro v
    (repeat' split) <;> simp
  | sreadClusterFlags | pbind | push | rdv | tstop | logset | saveareaWrite | phaseH | rootset =>
    apply chain_mems
    intro v
    dsimp only
    (repeat' split) <;> simp
  | sendT | sendC => exact sendOp_mems _ _ _ _ _
  | bfmtRead | bfmtWrite => exact bfmtOp_mems _ _
  -- Trades.
  | mint | giveS | lendS => exact tradeDST_mems _ _ _ _ _
  | give | lend | heirResource | heirRecord => exact tradeDS_mems _ _ _
  | accept | reclaim | reclaimB | returnLoan | claim | deny => exact tradeS_mems _ _ _
  -- An address first.
  | ldz | lds => exact loadOp_mems _ _ _ _ _
  | jtab => exact execJtab_mems _ _ _
  | qld => exact execQld_mems _ _ _ _
  | layout => exact execLayout_mems _ _ _
  | ldh => exact execLdh_mems _ _ _ _ _
  | amoAddD | amoAndD | amoOrD | amoXorD | amoMinD | amoMaxD | amoMinuD | amoMaxuD | amoSwapD | amoAddW | amoAndW | amoOrW |
  amoXorW | amoMinW | amoMaxW | amoMinuW | amoMaxuW | amoSwapW | acasD | acasW =>
    exact atomicOp_mems _ _ _ _ _ _
  -- Threads and cells made.
  | spawnL => exact execSpawnL_mems _ _ _
  | rfork => exact execRfork_mems _ _ _
  | cellNew => exact execCellNew_mems _ _ _
  -- Checks first: Cassia and Clove.
  | mmaOvr | mmaAcc | mmaDecay | mmaSat => exact mmaOp_mems _ _ _ _ _ _
  | accz | accswap => exact chain_mems fun v => Check.mems_bind (by simp) fun _ => by simp
  | accrd | accwr => exact accMove_mems _ _ _ _ _
  | accmodeRead | accmodeWrite => exact accmodeOp_mems _ _
  | drainI | drainF => exact drainOp_mems _ _ _ _
  | vaddS | vaddD | vsubS | vsubD | vmulS | vmulD | vminS | vminD | vmaxS | vmaxD | vexpS | vexpD | vrcpS | vrcpD | vrsqS |
  vrsqD =>
    exact vec2_mems _ _ _ _ _
  | vfmaS | vfmaD | vfmsS | vfmsD | vcmpEqS | vcmpLtS | vcmpLeS | vcmpEqD | vcmpLtD | vcmpLeD | vselS | vselD => exact vec3_mems _ _ _ _ _ _
  | vscaleS | vscaleD => exact vscaleOp_mems _ _ _ _ _
  | vcvt => exact execVcvt_mems _ _ _ _
  | vfillS | vfillD => exact vfillOp_mems _ _ _ _
  | vredSumS | vredMaxS | vredMinS | vredSumD | vredMaxD | vredMinD => exact redOp_mems _ _ _ _ _
  | copyB | copyL => exact copyOp_mems _ _ _ _ _
  | copym => exact execCopym_mems _ _ _ _
  -- Checks first: barriers, grids and budgets.
  | bar | bara | phaseB => exact chain_mems fun v => State.mems_arrive _ _ _ fun b t e => by simpa using e
  | grid => exact execGrid_mems _ _ _
  | budgetSet => exact execBudgetSet_mems _ _
  | budgetRd | budgetClr => exact chain_mems fun v => Check.mems_bind (by simp) fun _ => by simp
  | hwait | gstatG | gstatF => exact chainSlot_mems fun v => Check.mems_bind (by simp) fun _ => by simp
  | hwaitF | gfree => exact chainSlot_mems fun v => Check.mems_bind (by simp) fun _ => by rw [Check.run_pure]; split <;> simp
  | hstep => exact execHstep_mems _ _
  -- Checks first: the fabric.
  | capmk => exact chain_mems fun v => Check.mems_bind (by simp) fun _ => by simp
  | str | strQ => exact chain_mems fun v => State.mems_store _ _ _ _
  | ldr => exact execLdr_mems _ _ _ _
  | ldrQ => exact chain_mems fun v => State.mems_capLoad _ _ _ fun pa => by simp
  | ramoAddD | ramoAndD | ramoOrD | ramoXorD | ramoMinD | ramoMaxD | ramoMinuD | ramoMaxuD | ramoSwapD | ramoAddW | ramoAndW |
  ramoOrW | ramoXorW | ramoMinW | ramoMaxW | ramoMinuW | ramoMaxuW | ramoSwapW | rcasD | rcasW =>
    exact remoteAtomic_mems _ _ _ _ _ _
  | ramoAddN | ramoAndN | ramoOrN | ramoXorN | ramoMinN | ramoMaxN | ramoMinuN | ramoMaxuN | ramoSwapN => exact postedAtomic_mems _ _ _ _
  | ffence => exact execFfence_mems _ _ _
  | mcast => exact execMcast_mems _ _
  | mcgrp => exact execMcgrp_mems _ _
  | guestset => exact chain_mems fun v => Check.mems_bind (by simp) fun _ => by simp
  -- The steps of the machine are no chains.
  | _ => cases c

end Sys2Proof.Machine
end

section
/-! SUPPORT. What changes memory in the step in which it issues (R122, R175, R200, R210, R212, R342). -/

namespace Sys2Proof.Machine

/-- Settles O60: each chain but the nine is built of operations that leave every memory as it was, and so do the ends of a chain. -/
theorem memoryFrame : Obligations.MemoryFrame :=
  fun _ _ t c h e chip => congrFun (exec_mems c h t e) chip

end Sys2Proof.Machine
end

section
/-! SUPPORT. Bytes of memory, of the outbox and of a load (R5, R155, R212, R213). -/

namespace Sys2Proof.Machine

/-! ## Bytes of words (R5) -/

theorem ofNat_div_pow_256 (x : Word) (i : Nat) : BitVec.ofNat 8 (x.toNat / 256 ^ i) = x.extractLsb' (8 * i) 8 := by
  apply BitVec.eq_of_toNat_eq
  rw [BitVec.extractLsb'_toNat, Nat.shiftRight_eq_div_pow, Nat.pow_mul, BitVec.toNat_ofNat]

theorem Memory.read_byte (m : Memory) {n i : Nat} (a : Nat) (hi : i < n) : m.read a n / 256 ^ i % 256 = (m.byte (a + i)).toNat := by
  have small := (m.byte a).isLt
  induction n generalizing a i with
  | zero => omega
  | succ n ih =>
    rw [Memory.read]
    cases i with
    | zero => simp; omega
    | succ i =>
      rw [Nat.pow_succ', ← Nat.div_div_eq_div_mul, show ((m.byte a).toNat + 256 * m.read (a + 1) n) / 256 = m.read (a + 1) n by omega,
        ih (a + 1) (by omega) (m.byte (a + 1)).isLt, show a + 1 + i = a + (i + 1) by omega]

theorem Memory.read_lt (m : Memory) (n a : Nat) : m.read a n < 256 ^ n := by
  induction n generalizing a with
  | zero => simp [Memory.read]
  | succ n ih =>
    have small := (m.byte a).isLt
    have rest := ih (a + 1)
    rw [Memory.read, Nat.pow_succ']
    omega

/-- A byte of the word that holds it. -/
theorem Memory.byte_word (m : Memory) (a : Nat) : (m.word (wordOf a)).extractLsb' (8 * (a % 8)) 8 = m.byte a := by
  have small : m.read (wordOf a) 8 < 2 ^ 64 := m.read_lt 8 _
  have place : wordOf a + a % 8 = a := by unfold wordOf; omega
  apply BitVec.eq_of_toNat_eq
  rw [← ofNat_div_pow_256, Memory.word, BitVec.toNat_ofNat, BitVec.toNat_ofNat, Nat.mod_eq_of_lt small]
  exact (m.read_byte _ (Nat.mod_lt _ (by omega))).trans (by rw [place])

/-! ## What a load joins (R213) -/

/-- The byte that a load finds at an address: the outbox's, or else the version's. -/
def loadByte (v : MemWord) (out : Nat → Option Byte) (a : Nat) : Byte := (out a).getD (v.val.extractLsb' (8 * (a % 8)) 8)

theorem joinBytes_succ (v : MemWord) (a : Nat) (out : Nat → Option Byte) (n : Nat) :
    (joinBytes v a out (n + 1)).1 = (loadByte v out a).toNat + 256 * (joinBytes v (a + 1) out n).1 ∧
    (joinBytes v a out (n + 1)).2.2 = ((out a).isNone || (joinBytes v (a + 1) out n).2.2) := by
  rw [joinBytes, loadByte]
  cases out a with
  | none => simp [Nat.shiftRight_eq_div_pow]
  | some b => simp

theorem joinBytes_lt (v : MemWord) (out : Nat → Option Byte) (n a : Nat) : (joinBytes v a out n).1 < 2 ^ (8 * n) := by
  induction n generalizing a with
  | zero => simp [joinBytes]
  | succ n ih =>
    have small := (loadByte v out a).isLt
    have rest := ih (a + 1)
    rw [(joinBytes_succ v a out n).1, show 8 * (n + 1) = 8 + 8 * n by omega, Nat.pow_add]
    omega

theorem joinBytes_byte (v : MemWord) (out : Nat → Option Byte) {n i : Nat} (a : Nat) (hi : i < n) :
    (joinBytes v a out n).1 / 256 ^ i % 256 = (loadByte v out (a + i)).toNat := by
  induction n generalizing a i with
  | zero => omega
  | succ n ih =>
    have small := (loadByte v out a).isLt
    rw [(joinBytes_succ v a out n).1]
    cases i with
    | zero => simp; omega
    | succ i =>
      rw [Nat.pow_succ', ← Nat.div_div_eq_div_mul, Nat.add_mul_div_left _ _ (by omega), Nat.div_eq_of_lt small, Nat.zero_add,
        ih (a + 1) (by omega), show a + 1 + i = a + (i + 1) by omega]

/-- A load that finds the bytes of a number returns the number, cut to its size. -/
theorem joinBytes_eq (v : MemWord) (out : Nat → Option Byte) (n a x : Nat)
    (h : ∀ i, i < n → loadByte v out (a + i) = BitVec.ofNat 8 (x / 256 ^ i)) : (joinBytes v a out n).1 = x % 2 ^ (8 * n) := by
  induction n generalizing a x with
  | zero => simp [joinBytes, Nat.mod_one]
  | succ n ih =>
    have first : loadByte v out a = BitVec.ofNat 8 x := by simpa using h 0 (by omega)
    have rest := ih (a + 1) (x / 256) fun i hi => by
      rw [show a + 1 + i = a + (i + 1) by omega, h (i + 1) (by omega), Nat.div_div_eq_div_mul, ← Nat.pow_succ']
    rw [(joinBytes_succ v a out n).1, first, rest, BitVec.toNat_ofNat, show 8 * (n + 1) = 8 + 8 * n by omega, Nat.pow_add, Nat.mod_mul]

theorem joinBytes_version (v : MemWord) (out : Nat → Option Byte) (n a : Nat) :
    (joinBytes v a out n).2.2 = true ↔ ∃ i, i < n ∧ out (a + i) = none := by
  induction n generalizing a with
  | zero => simp [joinBytes]
  | succ n ih =>
    rw [(joinBytes_succ v a out n).2, Bool.or_eq_true, ih, Option.isNone_iff_eq_none]
    constructor
    · rintro (first | ⟨i, hi, rest⟩)
      · exact ⟨0, by omega, first⟩
      · exact ⟨i + 1, by omega, by rwa [show a + (i + 1) = a + 1 + i by omega]⟩
    · rintro ⟨i, hi, found⟩
      cases i with
      | zero => exact .inl found
      | succ i => exact .inr ⟨i, by omega, by rwa [show a + 1 + i = a + (i + 1) by omega]⟩

/-- A sign extension reads every bit at or above the sign's from the sign. -/
theorem getLsbD_signExtendBytes {val n i : Nat} (h : val < 2 ^ (8 * n)) (hn : 1 ≤ n) (size : n ≤ 8) (hi : i < 64) :
    (signExtendBytes val n).getLsbD i = (word val).getLsbD (min i (8 * n - 1)) := by
  have half : 2 ^ (8 * n) = 2 * 2 ^ (8 * n - 1) := by rw [← Nat.pow_succ']; congr 1; omega
  have extended : signExtendBytes val n = (BitVec.ofNat (8 * n) val).signExtend 64 := by
    unfold signExtendBytes BitVec.signExtend
    rw [BitVec.toInt_eq_toNat_cond, BitVec.toNat_ofNat, Nat.mod_eq_of_lt h]
    by_cases neg : 2 ^ (8 * n - 1) ≤ val
    · rw [if_pos neg, if_neg (by omega)]
      push_cast
      rfl
    · rw [if_neg neg, if_pos (by omega), BitVec.ofInt_natCast, word]
  rw [extended, BitVec.getLsbD_signExtend, BitVec.msb_eq_getLsbD_last, word]
  simp only [BitVec.getLsbD_ofNat, hi, decide_true, Bool.true_and]
  by_cases inside : i < 8 * n
  · rw [if_pos inside, Nat.min_eq_left (by omega)]; simp [inside, hi]
  · rw [if_neg inside, Nat.min_eq_right (by omega)]; simp [show 8 * n - 1 < 64 by omega, show 0 < n by omega]

end Sys2Proof.Machine
end

section
/-! SUPPORT. Plain stores and loads (R155, R212, R213): what a store leaves, and what a load of the issuing core finds. -/

namespace Sys2Proof.Machine

/-! ## Lines of the outbox (R155) -/

theorem tget?_foldl_other (ws : List (Nat × Byte)) (t : Tab Byte) (k : Nat) (h : ∀ w ∈ ws, k ≠ w.1 % 64) :
    tget? (ws.foldl (fun b w => tset b (w.1 % 64) w.2) t) k = tget? t k := by
  induction ws generalizing t with
  | nil => rfl
  | cons w ws ih =>
    rw [List.foldl_cons, ih _ fun x hx => h x (List.mem_cons_of_mem _ hx)]
    exact tget?_tset_other _ _ _ _ (h w List.mem_cons_self)

theorem tget?_foldl_bytesAt {n i a : Nat} (x : Nat) (t : Tab Byte) (line : a % 64 + n ≤ 64) (hi : i < n) :
    tget? ((bytesAt a x n).foldl (fun b w => tset b (w.1 % 64) w.2) t) ((a + i) % 64) = some (BitVec.ofNat 8 (x / 256 ^ i)) := by
  induction n generalizing a x t i with
  | zero => omega
  | succ n ih =>
    rw [bytesAt, List.foldl_cons]
    cases i with
    | zero =>
      rw [tget?_foldl_other _ _ _ fun w hw => by have := mem_bytesAt hw; omega]
      simp
    | succ i =>
      by_cases last : n = 0
      · omega
      · rw [show a + (i + 1) = a + 1 + i by omega, ih (x / 256) _ (by omega) (by omega), Nat.div_div_eq_div_mul, ← Nat.pow_succ']

/-- The core whose outbox has taken bytes of a line, into the line it holds or into a free one. -/
def Core.takes (k : Core) (line : Nat) (ws : List (Nat × Byte)) : Core :=
  { k with outbox :=
      if k.outbox.any (fun l => decide (l.line = line)) then k.outbox.map (fun l => if l.line = line then l.merge ws else l)
      else k.outbox ++ [OutLine.merge ⟨line, [], []⟩ ws] }

theorem Package.outboxStore_takes (p : Package) (c line : Nat) (ws : List (Nat × Byte)) (room : (p.core c).outbox.length < 1024) :
    p.outboxStore c line ws = .ok (p.setCore c ((p.core c).takes line ws)) := by
  unfold Package.outboxStore Core.takes
  by_cases held : (p.core c).outbox.any (fun l => decide (l.line = line)) = true
  · simp [held]
  · simp [held, room]

/-- The line that a core has taken bytes of is one that they were merged into. -/
theorem Core.find_takes (k : Core) (line : Nat) (ws : List (Nat × Byte)) :
    ∃ l, (k.takes line ws).outbox.find? (fun l => decide (l.line = line)) = some (OutLine.merge l ws) := by
  unfold Core.takes
  by_cases held : k.outbox.any (fun l => decide (l.line = line)) = true
  · rw [if_pos held]
    generalize k.outbox = ls at held ⊢
    induction ls with
    | nil => simp at held
    | cons l ls ih =>
      by_cases here : l.line = line
      · exact ⟨l, by simp [here, OutLine.merge]⟩
      · obtain ⟨m, found⟩ := ih (by simpa [here] using held)
        exact ⟨m, by simpa [here] using found⟩
  · have absent : k.outbox.find? (fun l => decide (l.line = line)) = none := by simpa using held
    exact ⟨⟨line, [], []⟩, by simp [held, absent, OutLine.merge]⟩

/-- The bytes of a number that a core has taken stand in its outbox. -/
theorem Core.outboxByte_takes {n i a : Nat} (k : Core) (x : Nat) (line : a % 64 + n ≤ 64) (hi : i < n) :
    (k.takes (lineOf a) (bytesAt a x n)).outboxByte (a + i) = some (BitVec.ofNat 8 (x / 256 ^ i)) := by
  obtain ⟨l, found⟩ := k.find_takes (lineOf a) (bytesAt a x n)
  have same : lineOf (a + i) = lineOf a := by unfold lineOf; omega
  unfold Core.outboxByte
  rw [same, found, Option.bind_some, OutLine.merge, tget?_foldl_bytesAt x l.bytes line hi]

/-! ## Cores that differ in their unstable words or their threads (R214) -/

theorem Core.outboxByte_congr {k j : Core} (outbox : k.outbox = j.outbox) (spilled : k.spilled = j.spilled) :
    k.outboxByte = j.outboxByte := by
  funext a
  rw [Core.outboxByte, outbox, spilled, Core.outboxByte]

/-- New versions of words, where no word newly becomes unstable. -/
theorem Core.versions_quiet (ws : List (Nat × MemWord)) (k : Core) : ∃ u, k.versions false ws = { k with unstable := u } := by
  induction ws generalizing k with
  | nil => exact ⟨k.unstable, rfl⟩
  | cons w ws ih =>
    cases e : tget? k.unstable w.1 with
    | none =>
      have stable : k.versions false (w :: ws) = k.versions false ws := by simp [Core.versions, e]
      rw [stable]
      exact ih k
    | some vs =>
      have grown : k.versions false (w :: ws) = ({ k with unstable := tset k.unstable w.1 (vs ++ [w.2]) } : Core).versions false ws := by
        simp [Core.versions, e]
      obtain ⟨u, rest⟩ := ih { k with unstable := tset k.unstable w.1 (vs ++ [w.2]) }
      exact ⟨u, grown.trans rest⟩

/-- A quiet write to memory changes no more of a core than which words are unstable for it. -/
theorem Package.core_writeQuiet (p : Package) (ws : List (Nat × Byte)) (c : Nat) :
    ∃ u, (p.writeQuiet ws).core c = { p.core c with unstable := u } := by
  have core : (p.writeQuiet ws).core c =
      (p.core c).versions false ((wordsOf ws).map fun w => (w, (p.mem.write ws).version w)) := by
    simp only [Package.writeQuiet, Package.dropRows, Package.core, tget, tget?_mapValues]
    cases tget? p.cores c <;> rfl
  rw [core]
  exact Core.versions_quiet _ _

theorem Package.place_writeQuiet (p : Package) (ws : List (Nat × Byte)) (a : Nat) : (p.writeQuiet ws).place a = p.place a := rfl

theorem Package.inPrivate_writeQuiet (p : Package) (ws : List (Nat × Byte)) (c a : Nat) :
    (p.writeQuiet ws).inPrivate c a = p.inPrivate c a := by
  obtain ⟨u, core⟩ := p.core_writeQuiet ws c
  unfold Package.inPrivate
  rw [Package.place_writeQuiet, core]
  rfl

/-! ## PRIVATE banks (R154) -/

/-- A PRIVATE bank holds the word of each of its bytes. -/
theorem Package.inPrivate_wordOf {p : Package} {c a : Nat} (h : p.inPrivate c a = true) : p.inPrivate c (wordOf a) = true := by
  unfold Package.inPrivate at h ⊢
  by_cases low : a < 0x20000000
  · have word : wordOf a < 0x20000000 ∧ wordOf a / 0x80000 = a / 0x80000 ∧ wordOf a / 0x10000 % 8 = a / 0x10000 % 8 := by
      unfold wordOf; omega
    obtain ⟨below, core, bank⟩ := word
    have place : p.place (wordOf a) = p.place a := by
      rw [Package.place, if_pos below, core, bank, Package.place, if_pos low]
    rwa [place]
  · have place : ∀ k b, p.place a ≠ .scratch k b := by
      intro k b
      unfold Package.place
      rw [if_neg low]
      (repeat' split) <;> simp
    split at h
    · next k b e => exact absurd e (place k b)
    · cases h

/-- A core's loads from its PRIVATE banks take memory's own version. -/
theorem Package.versionFor_private {p : Package} {c w : Nat} (chip pick : Nat) (h : p.inPrivate c w = true) :
    p.versionFor chip c w pick = p.mem.version w := by
  unfold Package.versionFor
  split
  · next e => simp [Package.inPrivate, e] at h
  · rw [if_pos h]

theorem pickFrom_mem {α : Type} (a : α) (l : List α) (n : Nat) (d : α) : pickFrom (a :: l) n d ∈ a :: l := by
  have within : n % (a :: l).length < (a :: l).length := Nat.mod_lt _ (by simp)
  rw [pickFrom, List.getElem?_eq_getElem within, Option.getD_some]
  exact List.getElem_mem within

theorem Package.versionFor_shared {p : Package} {c w : Nat} (chip pick : Nat) (control : p.place w ≠ .control) (h : p.inPrivate c w = false) :
    p.versionFor chip c w pick ∈ (p.core c).view.version w :: (tget? (p.core c).unstable w).getD [] := by
  unfold Package.versionFor
  split
  · next e => exact absurd e control
  · rw [h, if_neg Bool.false_ne_true]
    dsimp only
    split
    · exact List.mem_cons_self
    · next vs e => rw [e]; exact pickFrom_mem _ _ _ _

/-- The version that a load takes is one that the rules allow. -/
theorem State.versionOf_versionFor (s : State) (w pick : Nat) :
    Claims.VersionOf s w (s.here.versionFor s.cur.chip s.cur.core w pick) := by
  unfold Claims.VersionOf
  split
  · next control => rw [Package.versionFor, control]
  · next control =>
    split
    · next private_ => exact Package.versionFor_private _ _ private_
    · next shared =>
      have among : _ ∈ s.hereCore.view.version w :: (tget? s.hereCore.unstable w).getD [] :=
        Package.versionFor_shared s.cur.chip pick control (by simpa using shared)
      split
      · next e => simpa [e] using among
      · next vs e => rwa [e] at among

/-! ## Loads (R213) -/

theorem State.plainLoad_lt (s : State) (pa n use : Nat) : (s.plainLoad pa n use).val < 2 ^ (8 * n) := joinBytes_lt _ _ _ _

/-- What a load of the issuing core returns is what R213 gives. -/
theorem State.loadedAs_plainLoad (s : State) (pa use : Nat) {n : Nat} (size : n ≤ 8) :
    Claims.LoadedAs s pa n (word (s.plainLoad pa n use).val) (s.plainLoad pa n use).bad := by
  have small := s.plainLoad_lt pa n use
  have fits : (s.plainLoad pa n use).val < 2 ^ 64 := small.trans_le (Nat.pow_le_pow_right (by omega) (by omega))
  refine ⟨_, s.versionOf_versionFor (pa / 8 * 8) (s.free use), fun i hi => ?_, fun i hi => ?_, ?_⟩
  · apply BitVec.eq_of_toNat_eq
    rw [← ofNat_div_pow_256, word, BitVec.toNat_ofNat, BitVec.toNat_ofNat, Nat.mod_eq_of_lt fits]
    exact joinBytes_byte _ _ _ hi
  · rw [word, BitVec.getLsbD_ofNat, Nat.testBit_lt_two_pow (small.trans_le (Nat.pow_le_pow_right (by omega) hi)), Bool.and_false]
  · have reads := joinBytes_version (s.here.versionFor s.cur.chip s.cur.core (wordOf pa) (s.free use)) s.hereCore.outboxByte n pa
    have poison : (span pa 1 n).any s.hereCore.outboxBad = true ↔ ∃ i, i < n ∧ s.hereCore.outboxBad (pa + i) = true := by
      rw [List.any_eq_true, span_eq_range']
      constructor
      · rintro ⟨a, within, bad⟩
        obtain ⟨i, hi, rfl⟩ := List.mem_range'.1 within
        exact ⟨i, hi, by simpa using bad⟩
      · rintro ⟨i, hi, bad⟩
        exact ⟨pa + i, List.mem_range'.2 ⟨i, hi, by simp⟩, bad⟩
    exact (Bool.or_eq_true_iff).trans (Iff.or ((Bool.and_eq_true_iff).trans (and_congr_left' reads)) poison)

end Sys2Proof.Machine
end

section
/-! SUPPORT. ST, LDZ, LDS and JTAB (R117, R120 to R123): how each ends. -/

namespace Sys2Proof.Machine

variable {s : State} {v : Vals}

theorem one_le_sizeBytes (sz : Size) : 1 ≤ sizeBytes sz := by cases sz <;> decide
theorem sizeBytes_le (sz : Size) : sizeBytes sz ≤ 8 := by cases sz <;> decide

/-! ## Addresses (R121, R216) -/

theorem State.plainAddr_gated (h : s.here.gated s.cur.core = true) (a : Word) (n : Nat) (need : Perm) (use : Nat) :
    s.plainAddr a n need use = .replay s := by
  rw [State.plainAddr, if_pos h]

theorem State.plainAddr_misaligned (h : s.here.gated s.cur.core = false) {a : Word} {n : Nat} (odd : a.toNat % n ≠ 0) (need : Perm)
    (use : Nat) : s.plainAddr a n need use = .trap .memAlign 0 s := by
  rw [State.plainAddr, h, if_neg Bool.false_ne_true, State.checkAddr, if_pos odd]

/-! ## Chains that form an address (R97) -/

/-- A chain that takes no stream ends as its body does. -/
theorem chain_ends {n : Needs} (ready : Claims.Ready s n v) (noStream : n.pops = []) (body : Vals → State → Res) :
    chain s n body = .next (body v s).state := by
  rw [chain_ready ready, noStream]
  dsimp only
  cases body v s <;> rfl

theorem execSt_ready {sz : Size} {d : Reg} {b : RegOp} {disp : Word} (ready : Claims.Ready s (Claims.needMem (rdReg d) b) v) :
    exec (.st sz d b disp) s = .next ((s.plainAddr (v.s + disp) (sizeBytes sz) { w := true } 1).bind (v.s + disp)
      fun pa => s.storeThen pa v.d (sizeBytes sz) .next).state :=
  chain_ends ready rfl fun v s => (s.plainAddr (v.s + disp) (sizeBytes sz) { w := true } 1).bind (v.s + disp)
    fun pa => s.storeThen pa v.d (sizeBytes sz) .next

/-- The state in which a load has sent a value to its register. -/
def State.sent (s : State) (d : Reg) (x : Word) (bad : Bool) : State :=
  ((s.onHere (fun p => p.addJob (.result s.owner (.regs [⟨d.toNat, x, bad, false⟩])))).emptyReg d.toNat).advance

theorem loadOp_ready (signed : Bool) {sz : Size} {d : Reg} {b : RegOp} {disp : Word} (ready : Claims.Ready s (Claims.needMem (wrReg d) b) v) :
    loadOp signed sz d b disp s = .next ((s.plainAddr (v.s + disp) (sizeBytes sz) { r := true } 1).bind (v.s + disp) fun pa =>
      .next (s.result [⟨d.toNat, if signed then signExtendBytes (s.plainLoad pa (sizeBytes sz) 3).val (sizeBytes sz)
        else word (s.plainLoad pa (sizeBytes sz) 3).val, (s.plainLoad pa (sizeBytes sz) 3).bad, false⟩])).state :=
  chain_ends ready rfl fun v s => (s.plainAddr (v.s + disp) (sizeBytes sz) { r := true } 1).bind (v.s + disp) fun pa =>
    .next (s.result [⟨d.toNat, if signed then signExtendBytes (s.plainLoad pa (sizeBytes sz) 3).val (sizeBytes sz)
      else word (s.plainLoad pa (sizeBytes sz) 3).val, (s.plainLoad pa (sizeBytes sz) 3).bad, false⟩])

theorem execJtab_ready {idx : Reg} {b bound : RegOp} (ready : Claims.Ready s { mem := true, t := rdOp bound, s := rdOp b, d := rdReg idx } v) :
    exec (.jtab idx b bound) s = .next (if v.t.toNat ≤ v.d.toNat then Res.next s
      else (s.plainAddr (v.s + 8 * v.d) 8 { r := true } 1).bind (v.s + 8 * v.d) fun pa =>
        if (s.plainLoad pa 8 3).bad then .trap s .softError 0 (v.s + 8 * v.d)
        else .jump s (BitVec.ofNat 56 ((s.plainLoad pa 8 3).val / 2))).state :=
  chain_ends ready rfl fun v s => if v.t.toNat ≤ v.d.toNat then Res.next s
    else (s.plainAddr (v.s + 8 * v.d) 8 { r := true } 1).bind (v.s + 8 * v.d) fun pa =>
      if (s.plainLoad pa 8 3).bad then .trap s .softError 0 (v.s + 8 * v.d)
      else .jump s (BitVec.ofNat 56 ((s.plainLoad pa 8 3).val / 2))

/-! ## The chain completes (R97) -/

theorem State.pc_advance (s : State) : s.advance.me.pc = s.nextPc := by rw [State.advance, State.me_goto]

theorem State.outbox_advance (s : State) : s.advance.hereCore.outbox = s.hereCore.outbox := by rw [State.hereCore_advance]; rfl

theorem State.outboxByte_advance (s : State) : s.advance.hereCore.outboxByte = s.hereCore.outboxByte := by
  rw [State.hereCore_advance]
  exact Core.outboxByte_congr rfl rfl

theorem State.inPrivate_advance (s : State) (a : Nat) : s.advance.here.inPrivate s.cur.core a = s.here.inPrivate s.cur.core a := by
  have core : s.advance.here.core s.cur.core = _ := State.hereCore_advance s
  have place : s.advance.here.place a = s.here.place a := by
    rw [State.advance, State.goto, State.onMe, State.here_onHere]
    rfl
  unfold Package.inPrivate
  rw [place, core]
  rfl

/-! ## Stores (R155, R212) -/

theorem State.storeThen_private {pa n : Nat} (x : Word) (done : State → Res) (h : s.here.inPrivate s.cur.core pa = true) :
    s.storeThen pa x n done = done (s.onHere fun p => p.writeQuiet (bytesAt pa x.toNat n)) := by
  unfold State.storeThen Package.plainStore
  rw [if_pos h]
  rfl

theorem State.storeThen_outbox {pa n : Nat} (x : Word) (done : State → Res) (h : s.here.inPrivate s.cur.core pa = false)
    (room : s.hereCore.outbox.length < 1024) :
    s.storeThen pa x n done = done (s.onHereCore fun k => k.takes (lineOf pa) (bytesAt pa x.toNat n)) := by
  unfold State.storeThen Package.plainStore
  rw [h, if_neg Bool.false_ne_true, Package.outboxStore_takes _ _ _ _ room]
  rfl

/-- The issuing core after a quiet write to memory. -/
theorem State.hereCore_writeQuiet (s : State) (ws : List (Nat × Byte)) :
    ∃ u, (s.onHere fun p => p.writeQuiet ws).hereCore = { s.hereCore with unstable := u } := by
  obtain ⟨u, core⟩ := s.here.core_writeQuiet ws s.cur.core
  exact ⟨u, (congrArg (fun p => Package.core p s.cur.core) (State.here_onHere s fun p => p.writeQuiet ws)).trans core⟩

theorem State.nextPc_congr {t : State} (cur : t.cur = s.cur) (me : t.me = s.me) : t.nextPc = s.nextPc := by
  rw [State.nextPc, cur, me, State.nextPc]

/-- A store into a PRIVATE bank: the bytes of memory, and the core's outbox as it was. -/
theorem State.stored_private (s : State) {pa n : Nat} (x : Word) (wf : s.here.mem.wf = true) :
    let t := (s.onHere fun p => p.writeQuiet (bytesAt pa x.toNat n)).advance
    t.me.pc = s.nextPc ∧ (∀ i, i < n → t.here.mem.byte (pa + i) = x.extractLsb' (8 * i) 8) ∧
    (∀ a, a < pa ∨ pa + n ≤ a → t.here.mem.byte a = s.here.mem.byte a) ∧ t.hereCore.outbox = s.hereCore.outbox := by
  intro t
  obtain ⟨u, core⟩ := s.hereCore_writeQuiet (bytesAt pa x.toNat n)
  have me : (s.onHere fun p => p.writeQuiet (bytesAt pa x.toNat n)).me = s.me :=
    (congrArg (fun k => Core.thread k s.cur.slot) core).trans rfl
  have mem : t.here.mem = s.here.mem.write (bytesAt pa x.toNat n) := by
    rw [State.mem_advance, State.here_onHere, Package.mem_writeQuiet]
  refine ⟨(State.pc_advance _).trans (State.nextPc_congr rfl me), fun i hi => ?_, fun a outside => ?_, ?_⟩
  · rw [mem, Memory.byte_write_bytesAt n _ _ _ _ wf hi, ofNat_div_pow_256]
  · rw [mem]
    exact Memory.byte_write_other _ _ _ fun w hw => by have := mem_bytesAt hw; omega
  · rw [State.outbox_advance, core]

/-- A store into the outbox: its bytes there, and memory as it was. -/
theorem State.stored_outbox (s : State) {pa n : Nat} (x : Word) (line : pa % 64 + n ≤ 64) :
    let t := (s.onHereCore fun k => k.takes (lineOf pa) (bytesAt pa x.toNat n)).advance
    t.me.pc = s.nextPc ∧ (∀ i, i < n → t.hereCore.outboxByte (pa + i) = some (x.extractLsb' (8 * i) 8)) ∧
    ∀ a, t.here.mem.byte a = s.here.mem.byte a := by
  refine ⟨(State.pc_advance _).trans (State.nextPc_congr rfl (State.me_onHereCore s fun _ => rfl)), fun i hi => ?_, fun a => ?_⟩
  · rw [State.outboxByte_advance, State.hereCore_onHereCore, Core.outboxByte_takes _ _ line hi, ofNat_div_pow_256]
  · rw [State.mem_advance, State.mem_onHereCore]

/-- Settles O14: a store completes in PRIVATE memory or in the outbox, and is replayed during a commit. -/
theorem stores : Obligations.Stores := by
  intro sz d b disp s v ready n
  refine ⟨fun gated => ?_, fun pa ok => ⟨fun priv wf => ?_, fun shared line room => ?_⟩⟩
  · rw [execSt_ready ready, State.plainAddr_gated gated]
    rfl
  · refine ⟨_, ?_, s.stored_private v.d wf⟩
    rw [execSt_ready ready, ok]
    exact congrArg (fun r => Host.Outcome.next (Res.state r)) (State.storeThen_private v.d .next priv)
  · refine ⟨_, ?_, s.stored_outbox v.d (n := n) (by have := one_le_sizeBytes sz; omega)⟩
    rw [execSt_ready ready, ok]
    exact congrArg (fun r => Host.Outcome.next (Res.state r)) (State.storeThen_outbox v.d .next shared room)

/-! ## Loads (R117, R120, R123) -/

/-- A load that completes: LDZ sends the bytes, LDS the same bytes sign-extended. -/
theorem loads_good {sz : Size} {d : Reg} {b : RegOp} {disp : Word} {pa : Nat} (ready : Claims.Ready s (Claims.needMem (wrReg d) b) v)
    (ok : s.plainAddr (v.s + disp) (sizeBytes sz) { r := true } 1 = .ok pa) :
    ∃ (x y : Word) (bad : Bool), Claims.LoadedAs s pa (sizeBytes sz) x bad ∧
      exec (.ldz sz d b disp) s = .next (s.sent d x bad) ∧ exec (.lds sz d b disp) s = .next (s.sent d y bad) ∧
      ∀ i, i < 64 → y.getLsbD i = x.getLsbD (min i (8 * sizeBytes sz - 1)) := by
  refine ⟨_, _, _, s.loadedAs_plainLoad pa 3 (sizeBytes_le sz), (loadOp_ready false ready).trans ?_, (loadOp_ready true ready).trans ?_,
    fun i hi => getLsbD_signExtendBytes (s.plainLoad_lt pa (sizeBytes sz) 3) (one_le_sizeBytes sz) (sizeBytes_le sz) hi⟩
  · rw [ok]; rfl
  · rw [ok]; rfl

/-- What a load finds where the core has just stored into a PRIVATE bank. -/
theorem State.load_stored_private (s : State) {pa n : Nat} (x : Word) (use : Nat) (aligned : pa % 8 + n ≤ 8)
    (priv : s.here.inPrivate s.cur.core pa = true) (wf : s.here.mem.wf = true) (clear : ∀ i, i < n → s.hereCore.outboxByte (pa + i) = none) :
    ((s.onHere fun p => p.writeQuiet (bytesAt pa x.toNat n)).advance.plainLoad pa n use).val = x.toNat % 2 ^ (8 * n) := by
  obtain ⟨-, written, -, -⟩ := s.stored_private (pa := pa) (n := n) x wf
  obtain ⟨u, core⟩ := s.hereCore_writeQuiet (bytesAt pa x.toNat n)
  generalize stored : s.onHere (fun p => p.writeQuiet (bytesAt pa x.toNat n)) = t at written core ⊢
  have cur : t.cur = s.cur := by rw [← stored]; rfl
  have still : t.advance.here.inPrivate s.cur.core (wordOf pa) = true := by
    rw [← cur, State.inPrivate_advance, cur, ← stored, State.here_onHere, Package.inPrivate_writeQuiet]
    exact Package.inPrivate_wordOf priv
  refine joinBytes_eq _ _ _ _ _ fun i hi => ?_
  have version : t.advance.here.versionFor t.advance.cur.chip t.advance.cur.core (wordOf pa) (t.advance.free use) =
      t.advance.here.mem.version (wordOf pa) := Package.versionFor_private _ _ (cur ▸ still)
  have out : t.advance.hereCore.outboxByte (pa + i) = none := by
    rw [State.outboxByte_advance, core, ← clear i hi]
    exact congrFun (Core.outboxByte_congr rfl rfl) _
  have same : wordOf pa = wordOf (pa + i) := by unfold wordOf; omega
  rw [version, ofNat_div_pow_256, ← written i hi, same, ← Memory.byte_word]
  exact congrArg (fun o => Option.getD o _) out

/-- What a load finds where the core has just stored into its outbox. -/
theorem State.load_stored_outbox (s : State) {pa n : Nat} (x : Word) (use : Nat) (line : pa % 64 + n ≤ 64) :
    ((s.onHereCore fun k => k.takes (lineOf pa) (bytesAt pa x.toNat n)).advance.plainLoad pa n use).val = x.toNat % 2 ^ (8 * n) := by
  obtain ⟨-, out, -⟩ := s.stored_outbox x line
  refine joinBytes_eq _ _ _ _ _ fun i hi => ?_
  rw [ofNat_div_pow_256]
  exact congrArg (fun o => Option.getD o _) (out i hi)

theorem load_after_store {sz : Size} {d : Reg} {b : RegOp} {disp : Word} {t : State} {pa : Nat} (use : Nat)
    (ready : Claims.Ready s (Claims.needMem (rdReg d) b) v) (ok : s.plainAddr (v.s + disp) (sizeBytes sz) { w := true } 1 = .ok pa)
    (aligned : pa % sizeBytes sz = 0)
    (priv : s.here.inPrivate s.cur.core pa = true → s.here.mem.wf = true ∧ ∀ i, i < sizeBytes sz → s.hereCore.outboxByte (pa + i) = none)
    (room : s.here.inPrivate s.cur.core pa = false → s.hereCore.outbox.length < 1024) (e : exec (.st sz d b disp) s = .next t) :
    (t.plainLoad pa (sizeBytes sz) use).val = v.d.toNat % 2 ^ (8 * sizeBytes sz) := by
  have inWord : pa % 8 + sizeBytes sz ≤ 8 := by cases sz <;> simp only [sizeBytes] at aligned ⊢ <;> omega
  rw [execSt_ready ready, ok] at e
  cases bank : s.here.inPrivate s.cur.core pa with
  | true =>
    obtain ⟨wf, clear⟩ := priv bank
    have stored : (s.storeThen pa v.d (sizeBytes sz) .next).state = _ := congrArg Res.state (State.storeThen_private v.d .next bank)
    cases (congrArg Host.Outcome.next stored).symm.trans e
    exact s.load_stored_private v.d use inWord bank wf clear
  | false =>
    have stored : (s.storeThen pa v.d (sizeBytes sz) .next).state = _ :=
      congrArg Res.state (State.storeThen_outbox v.d .next bank (room bank))
    cases (congrArg Host.Outcome.next stored).symm.trans e
    exact s.load_stored_outbox v.d use (by omega)

theorem jtab_good {idx : Reg} {b bound : RegOp} {pa : Nat}
    (ready : Claims.Ready s { mem := true, t := rdOp bound, s := rdOp b, d := rdReg idx } v) (within : v.d.toNat < v.t.toNat)
    (ok : s.plainAddr (v.s + 8 * v.d) 8 { r := true } 1 = .ok pa) :
    ∃ (x : Word) (bad : Bool), Claims.LoadedAs s pa 8 x bad ∧
      (bad = false → exec (.jtab idx b bound) s = .next (s.goto ((x >>> 1).setWidth 56))) ∧
      (bad = true → exec (.jtab idx b bound) s = .next (s.takeTrap .softError 0 (v.s + 8 * v.d))) := by
  have target (n : Nat) (h : n < 2 ^ 64) : BitVec.ofNat 56 (n / 2) = (word n >>> 1).setWidth 56 := by
    apply BitVec.eq_of_toNat_eq
    rw [BitVec.toNat_setWidth, BitVec.toNat_ushiftRight, word, BitVec.toNat_ofNat, BitVec.toNat_ofNat, Nat.mod_eq_of_lt h]
    rfl
  refine ⟨_, _, s.loadedAs_plainLoad pa 3 (le_refl 8), fun good => ?_, fun bad => ?_⟩
  · rw [execJtab_ready ready, if_neg (by omega), ok, ← target _ (s.plainLoad_lt pa 8 3)]
    simp only [Addr.bind, good, Bool.false_eq_true, if_false]
    rfl
  · rw [execJtab_ready ready, if_neg (by omega), ok]
    simp only [Addr.bind, bad, if_true]
    rfl

/-- Settles O15: the loads by what `joinBytes` joins, the load after a store by where the store left its bytes. -/
theorem loadsAndJumpTable : Obligations.LoadsAndJumpTable := by
  refine ⟨fun sz d b disp s v ready => ⟨fun gated => ?_, fun pa ok => loads_good ready ok⟩,
    fun sz d b disp s t v pa use ready ok aligned priv room e => load_after_store use ready ok aligned priv room e,
    fun sz d b disp s v odd gated => ⟨fun ready => ?_, fun ready => ?_⟩,
    fun idx b bound s v ready => ⟨fun beyond => ?_, fun within gated => ?_, fun within odd gated => ?_,
      fun within pa ok => jtab_good ready within ok⟩⟩
  · refine ⟨(loadOp_ready false ready).trans ?_, (loadOp_ready true ready).trans ?_⟩ <;>
      · rw [State.plainAddr_gated gated]; rfl
  · refine ⟨(loadOp_ready false ready).trans ?_, (loadOp_ready true ready).trans ?_⟩ <;>
      · rw [State.plainAddr_misaligned gated odd]; rfl
  · rw [execSt_ready ready, State.plainAddr_misaligned gated odd]; rfl
  · rw [execJtab_ready ready, if_pos beyond]; rfl
  · rw [execJtab_ready ready, if_neg (by omega), State.plainAddr_gated gated]; rfl
  · rw [execJtab_ready ready, if_neg (by omega), State.plainAddr_misaligned gated odd]; rfl

end Sys2Proof.Machine
end
section
/-! SUPPORT. What the issuing core, its thread and the flights of its package are when a chain is complete, or parks (R28, R97). -/

namespace Sys2Proof.Machine

variable {s : State}

@[simp] theorem Package.onCore_flights (p : Package) (c : Nat) (f : Core → Core) : (p.onCore c f).flights = p.flights := rfl
@[simp] theorem Package.onThread_flights (p : Package) (c n : Nat) (f : Thread → Thread) : (p.onThread c n f).flights = p.flights := rfl

theorem State.here_onMe (s : State) (f : Thread → Thread) : (s.onMe f).here = s.here.onThread s.cur.core s.cur.slot f :=
  State.here_onHere s fun p => p.onThread s.cur.core s.cur.slot f

@[simp] theorem State.flights_onMe (s : State) (f : Thread → Thread) : (s.onMe f).here.flights = s.here.flights := by
  rw [State.here_onMe, Package.onThread_flights]

@[simp] theorem State.flights_advance (s : State) : s.advance.here.flights = s.here.flights := State.flights_onMe s _

theorem State.flights_onHereCore (s : State) (f : Core → Core) : (s.onHereCore f).here.flights = s.here.flights :=
  (congrArg Package.flights (State.here_onHere s fun p => p.onCore s.cur.core f)).trans rfl

/-- The cores of the package after a chain that is complete: the issuing one is written. -/
theorem State.cores_advance (s : State) : s.advance.here.cores = tset s.here.cores s.cur.core s.advance.hereCore := by
  have here : s.advance.here = s.here.onThread s.cur.core s.cur.slot _ := s.here_onMe _
  rw [State.hereCore_advance, here]
  rfl

/-- A package changed elsewhere than in its cores leaves the issuing core and its thread. -/
theorem State.hereCore_onHere (s : State) {f : Package → Package} (core : (f s.here).core s.cur.core = s.hereCore) :
    (s.onHere f).hereCore = s.hereCore ∧ (s.onHere f).me = s.me := by
  have here : (s.onHere f).here = f s.here := State.here_onHere s f
  have same : (s.onHere f).hereCore = s.hereCore := (congrArg (fun p => Package.core p s.cur.core) here).trans core
  exact ⟨same, congrArg (fun k => Core.thread k s.cur.slot) same⟩

/-- The program counter past the chain is that of the thread, whatever else has changed. -/
theorem State.nextPc_of_pc {t : State} (cur : t.cur = s.cur) (pc : t.me.pc = s.me.pc) : t.nextPc = s.nextPc := by
  rw [State.nextPc, cur, pc, State.nextPc]

theorem State.nextPc_onHereCore (s : State) {f : Core → Core} (threads : ∀ k, (f k).threads = k.threads) : (s.onHereCore f).nextPc = s.nextPc :=
  State.nextPc_congr rfl (s.me_onHereCore threads)

/-- A chain that takes no stream and has one effect. -/
theorem chainNext_ends {n : Needs} {v : Vals} (ready : Claims.Ready s n v) (noStream : n.pops = []) (body : Vals → State → State) :
    chainNext s n body = .next (body v s).advance := by
  rw [chainNext_ready ready, noStream]
  rfl

/-- A step of the machine that may be taken. -/
theorem sysStep_some {f : State → Option State} {t : State} (h : f s = some t) : sysStep s f = .next t := by rw [sysStep, h]

end Sys2Proof.Machine
end
section
/-! SUPPORT. Banks, the log region and code visibility (R153, R154, R202 to R206): the chain of each where its operands are ready. -/

namespace Sys2Proof.Machine

variable {s : State} {v : Vals}

/-- Two forms with one meaning. -/
theorem both_exec {i j : Instr} {o : Host.Outcome State Fault Refusal} (hi : exec i s = o) (hj : exec j s = o) :
    ∀ x ∈ [i, j], exec x s = o := by
  rw [List.forall_mem_cons, List.forall_mem_singleton]
  exact ⟨hi, hj⟩

/-! ## Bank registers (R202, R203) -/

/-- A format word that BFMT refuses: its format is none of the 13, or its BLK is not 0 (R202). -/
theorem format_bad_iff (w : Word) : (13 ≤ bits w 3 0 ∨ bits w 5 4 ≠ 0) ↔ ¬ (w.toNat % 16 < 13 ∧ w.toNat / 16 % 4 = 0) := by
  simp only [bits]
  omega

section
variable {d : Reg} {src : Src} (ready : Claims.Ready s { s := srcOpr src, d := s.selD src 3 d } v)
include ready

theorem bfmtOp_reads (read : v.s.getLsbD 3 = true) : bfmtOp d src s = .next (Claims.endOf { s := srcOpr src, d := s.selD src 3 d }
    (s.setReg d.toNat (tget s.hereCore.bankFmt (v.s.toNat % 8) 0))) := by
  unfold bfmtOp
  rw [chain_ready ready]
  simp only [read, if_true]
  rfl

theorem bfmtOp_writes (write : v.s.getLsbD 3 = false) (good : v.d.toNat % 16 < 13 ∧ v.d.toNat / 16 % 4 = 0) :
    bfmtOp d src s = .next (Claims.endOf { s := srcOpr src, d := s.selD src 3 d }
      (s.onHereCore fun k => { k with bankFmt := tset k.bankFmt (v.s.toNat % 8) (v.d &&& 0xFFFF000F) })) := by
  unfold bfmtOp
  rw [chain_ready ready]
  simp only [write, Bool.false_eq_true, if_false]
  rw [if_neg fun bad => (format_bad_iff v.d).1 bad good]
  rfl

theorem bfmtOp_traps (write : v.s.getLsbD 3 = false) (bad : ¬ (v.d.toNat % 16 < 13 ∧ v.d.toNat / 16 % 4 = 0)) :
    bfmtOp d src s = .next (s.takeTrap .format 0 (word (v.d.toNat % 16))) := by
  have low : bits v.d 3 0 = v.d.toNat % 16 := by simpa using windowLength v.d 0
  unfold bfmtOp
  rw [chain_ready ready]
  simp only [write, Bool.false_eq_true, if_false]
  rw [if_pos ((format_bad_iff v.d).2 bad), low]
  rfl

theorem bmodeOp_reads (read : v.s.getLsbD 3 = true) : bmodeOp d src s = .next (Claims.endOf { s := srcOpr src, d := s.selD src 3 d }
    (s.setReg d.toNat (word ((if s.hereCore.pending.contains (v.s.toNat % 8) then 2 else 0) +
      if s.hereCore.exported.contains (v.s.toNat % 8) then 1 else 0)))) := by
  unfold bmodeOp
  rw [chainNext_ready ready]
  simp only [read, if_true]
  rfl

theorem bmodeOp_writes (write : v.s.getLsbD 3 = false) : bmodeOp d src s = .next (Claims.endOf { s := srcOpr src, d := s.selD src 3 d }
    (s.onHereCore fun k =>
      { k with pending := if v.d.getLsbD 0 then sadd k.pending (v.s.toNat % 8) else sdel k.pending (v.s.toNat % 8) })) := by
  unfold bmodeOp
  rw [chainNext_ready ready]
  simp only [write, Bool.false_eq_true, if_false]
  rfl

end

/-! ## The log region (R204) -/

theorem Core.setLog_threads (k : Core) (base size : Nat) : (k.setLog base size).threads = k.threads := by
  unfold Core.setLog
  split <;> rfl

/-- A region is in force at once where the log is empty, and else at the next commit. -/
theorem Core.setLog_region (k : Core) (base size : Nat) :
    (k.spilled = [] → (k.setLog base size).logBase = base ∧ (k.setLog base size).logSize = size) ∧
    (k.spilled ≠ [] → (k.setLog base size).logBase = k.logBase ∧ (k.setLog base size).logNext = some (base, size)) := by
  unfold Core.setLog
  constructor
  · intro empty
    simp [empty]
  · intro full
    rw [if_neg (by simpa using full)]
    exact ⟨rfl, rfl⟩

/-- LOGSET records an empty region, or one that is aligned, in memory and the holder's. -/
theorem execLogset_accepts {d : Reg} {src : RegOp} (ready : Claims.Ready s { mem := true, s := rdOp src, d := rdReg d } v)
    (accepted : v.s = 0 ∨ (v.d.toNat % 128 = 0 ∧ v.s.toNat % 128 = 0 ∧ s.here.inLogWindow v.d.toNat v.s.toNat = true ∧
      s.here.holds s.holder v.d.toNat v.s.toNat = true)) :
    exec (.logset d src) s = .next (s.onHereCore fun k => k.setLog v.d.toNat v.s.toNat).advance := by
  change execLogset d src s = _
  unfold execLogset
  rw [chain_ends ready rfl]
  by_cases empty : v.s.toNat = 0
  · simp only [empty, if_true]
    rfl
  · rcases accepted with zero | ⟨base, size, window, held⟩
    · exact absurd (congrArg BitVec.toNat zero) empty
    · simp only [empty, base, size, window, held, if_false, ne_eq, not_true_eq_false, or_self, Bool.not_true, Bool.false_eq_true]
      rfl

/-! ## Code visibility (R205, R206) -/

theorem Core.mem_dropLines {k : Core} {a n : Nat} {l : CacheLine} (h : l ∈ (k.dropLines a n).icache) :
    ¬ (l.va < a + n ∧ a < l.va + 64) := by
  simpa only [Bool.not_eq_true', Bool.and_eq_false_iff, decide_eq_false_iff_not, not_and_or] using (List.mem_filter.1 h).2

/-- A core after a CPUB of a holder: one of the holder's in the rectangle drops the lines of the range (R205). -/
def Package.published (p : Package) (h : Nat) (v : Vals) (c : Nat) (k : Core) : Core :=
  if inRect v.t c ∧ p.coreHolder c = h then k.dropLines v.d.toNat v.s.toNat else k

/-- The package after a CPUB of a holder. -/
def Package.publish (p : Package) (h : Nat) (v : Vals) : Package :=
  { p with cores := p.cores.map fun e => (e.1, p.published h v e.1 e.2) }

theorem execCpub_ready {d : Reg} {src t : RegOp} (ready : Claims.Ready s { mem := true, t := rdOp t, s := rdOp src, d := rdReg d } v) :
    exec (.cpub d src t) s = .next (if v.s = 0 then s else s.onHere fun p => p.publish s.holder v).advance :=
  chainNext_ends ready rfl fun v s => if v.s = 0 then s else s.onHere fun p => p.publish s.holder v

theorem Package.published_threads (p : Package) (h : Nat) (v : Vals) (c : Nat) (k : Core) : (p.published h v c k).threads = k.threads := by
  unfold Package.published
  split <;> rfl

/-- No line of the range is left in a core of the holder's in the rectangle. -/
theorem Package.mem_published {p : Package} {h c : Nat} {v : Vals} {k : Core} (inside : inRect v.t c = true) (mine : p.coreHolder c = h)
    {l : CacheLine} (there : l ∈ (p.published h v c k).icache) : ¬ (l.va < v.d.toNat + v.s.toNat ∧ v.d.toNat < l.va + 64) := by
  rw [Package.published, if_pos ⟨inside, mine⟩] at there
  exact Core.mem_dropLines there

/-- A listed core, and each thread of any, after a CPUB. -/
theorem Package.core_publish (p : Package) (h : Nat) (v : Vals) (c : Nat) :
    ((tget? p.cores c).isSome = true → (p.publish h v).core c = p.published h v c (p.core c)) ∧
    ((p.publish h v).core c).threads = (p.core c).threads := by
  have entry : tget? (p.publish h v).cores c = (tget? p.cores c).map (p.published h v c) := by
    show tget? (p.cores.map fun e => (e.1, p.published h v e.1 e.2)) c = _
    induction p.cores with
    | nil => rfl
    | cons e t ih =>
      by_cases same : c = e.1
      · subst same
        simp [tget?]
      · simpa [tget?, same] using ih
  unfold Package.core tget
  rw [entry]
  cases tget? p.cores c with
  | none => exact ⟨fun listed => absurd listed Bool.false_ne_true, rfl⟩
  | some k => exact ⟨fun _ => rfl, p.published_threads h v c k⟩

theorem inRect_iff (t : Word) (c : Nat) : inRect t c = true ↔
    t.toNat % 32 ≤ meshX c ∧ meshX c ≤ t.toNat / 2 ^ 10 % 32 ∧ t.toNat / 2 ^ 5 % 32 ≤ meshY c ∧ meshY c ≤ t.toNat / 2 ^ 15 % 32 := by
  simp [inRect, bits]

section
variable (s v)

/-- The issuing core and the program counter after a CPUB. -/
theorem State.publish_here : let u := (s.onHere fun p => p.publish s.holder v).advance
    u.me.pc = s.nextPc ∧ u.here.cores = tset (s.here.publish s.holder v).cores s.cur.core u.hereCore ∧
    u.hereCore.icache = ((s.here.publish s.holder v).core s.cur.core).icache := by
  intro u
  have here : (s.onHere fun p => p.publish s.holder v).here = s.here.publish s.holder v := State.here_onHere s _
  have core : (s.onHere fun p => p.publish s.holder v).hereCore = (s.here.publish s.holder v).core s.cur.core :=
    congrArg (fun p => Package.core p s.cur.core) here
  have me : (s.onHere fun p => p.publish s.holder v).me = s.me := by
    rw [State.me, core, Core.thread]
    exact congrArg (fun t => tget t s.cur.slot _) (s.here.core_publish s.holder v s.cur.core).2
  refine ⟨(State.pc_advance _).trans (State.nextPc_congr rfl me), (State.cores_advance _).trans (by rw [here]; rfl), ?_⟩
  show (State.hereCore (State.advance _)).icache = _
  rw [State.hereCore_advance, core]
  rfl

/-- R205: what a CPUB of a range that is not empty leaves in the caches of the holder's cores in the rectangle. -/
theorem State.publish_caches (listed : (tget? s.here.cores s.cur.core).isSome = true) :
    let u := (s.onHere fun p => p.publish s.holder v).advance
    (inRect v.t s.cur.core = true → ∀ l ∈ u.hereCore.icache, ¬ (l.va < v.d.toNat + v.s.toNat ∧ v.d.toNat < l.va + 64)) ∧
    ∀ e ∈ u.here.cores, inRect v.t e.1 = true → s.here.coreHolder e.1 = s.holder →
      ∀ l ∈ e.2.icache, ¬ (l.va < v.d.toNat + v.s.toNat ∧ v.d.toNat < l.va + 64) := by
  intro u
  obtain ⟨-, cores, icache⟩ := s.publish_here v
  have mine := (s.here.core_publish s.holder v s.cur.core).1 listed
  refine ⟨fun inside l there => ?_, fun e member inside held l there => ?_⟩
  · rw [icache, mine] at there
    exact Package.mem_published inside rfl there
  · rw [cores] at member
    rcases mem_tset member with rfl | old
    · dsimp only at inside held there
      rw [icache, mine] at there
      exact Package.mem_published inside held there
    · obtain ⟨x, -, rfl⟩ := List.mem_map.1 old
      exact Package.mem_published inside held there

end

/-- Settles O28: the bank registers form by form, LOGSET by `Core.setLog_region`, CPUB by `State.publish_caches`. -/
theorem banksAndCode : Obligations.BanksAndCode := by
  intro d s v
  refine ⟨?_, fun src ready accepted => ?_, fun src t ready => ?_, fun ready => ?_⟩
  · intro src n ready _ bank
    refine ⟨fun read => ?_, fun write format blk => ?_, fun write bad => ?_, fun read => ?_, fun write => ?_⟩
    · exact both_exec (bfmtOp_reads ready read) (bfmtOp_reads ready read)
    · exact both_exec (bfmtOp_writes ready write ⟨format, blk⟩) (bfmtOp_writes ready write ⟨format, blk⟩)
    · exact both_exec (bfmtOp_traps ready write bad) (bfmtOp_traps ready write bad)
    · exact both_exec (bmodeOp_reads ready read) (bmodeOp_reads ready read)
    · exact both_exec (bmodeOp_writes ready write) (bmodeOp_writes ready write)
  · refine ⟨_, execLogset_accepts ready accepted, ?_, ?_⟩
    · rw [State.pc_advance, State.nextPc_onHereCore _ fun k => Core.setLog_threads k _ _]
    · rw [State.hereCore_advance, State.hereCore_onHereCore]
      exact Core.setLog_region s.hereCore _ _
  · refine ⟨_, execCpub_ready ready, ?_⟩
    split
    next zero => exact ⟨State.pc_advance s, fun other => absurd zero other, fun other => absurd zero other, fun a => by rw [State.mem_advance]⟩
    next some_ =>
      refine ⟨(s.publish_here v).1, fun _ inside listed => (s.publish_caches v listed).1 inside,
        fun _ listed e member inside => (s.publish_caches v listed).2 e member ((inRect_iff _ _).2 inside), fun a => ?_⟩
      rw [State.mem_advance, State.here_onHere]
      rfl
  · exact chainNext_ends ready rfl fun _ s => s.onHereCore fun k => { k with icache := [] }

end Sys2Proof.Machine
end
section
/-! SUPPORT. The mailbox from its core (R149, R150, R181, R182), handlers and configuration (R141 to R143, R183, R184). -/

namespace Sys2Proof.Machine

variable {s : State} {v : Vals}

/-! ## Registers emptied for a result (R18) -/

theorem Core.emptyReg_fields (k : Core) (t : Thread) (n : Nat) : k.emptyReg t n = { k with regs := (k.emptyReg t n).regs } := by
  rw [Core.emptyReg, Core.clearTag_fields]

theorem Core.emptyReg_full (k : Core) (t : Thread) (n x : Nat) :
    ((k.emptyReg t n).cell x).full = ((k.cell x).full && decide (x ≠ t.base + n)) := by
  by_cases same : x = t.base + n
  · subst same
    simp [Core.emptyReg, Core.cell]
  · obtain ⟨-, full, -⟩ := Core.clearTag_cell k (t.base + n) x
    simpa [Core.emptyReg, Core.cell, same] using full

theorem State.me_emptyReg (s : State) (n : Nat) : (s.emptyReg n).me = s.me :=
  s.me_onHereCore fun k => by rw [Core.emptyReg_fields]

/-- What the registers that a long-latency chain empties leave of the issuing core. -/
theorem State.emptied (s : State) (fs : List Fill) : let t := fs.foldl (fun s f => s.emptyReg f.reg) s
    t.cur = s.cur ∧ t.me = s.me ∧ t.here.flights = s.here.flights ∧ t.hereCore = { s.hereCore with regs := t.hereCore.regs } ∧
    ∀ x, (t.hereCore.cell x).full = ((s.hereCore.cell x).full && fs.all fun f => decide (x ≠ s.me.base + f.reg)) := by
  induction fs generalizing s with
  | nil => exact ⟨rfl, rfl, rfl, rfl, fun x => by simp⟩
  | cons f fs ih =>
    obtain ⟨cur, me, flights, core, full⟩ := ih (s.emptyReg f.reg)
    have first : (s.emptyReg f.reg).hereCore = s.hereCore.emptyReg s.me f.reg := State.hereCore_onHereCore s _
    rw [first, Core.emptyReg_fields] at core
    rw [first, State.me_emptyReg] at full
    refine ⟨cur, me.trans (s.me_emptyReg _), flights.trans (s.flights_onHereCore _), core, fun x => (full x).trans ?_⟩
    rw [Core.emptyReg_full, List.all_cons, Bool.and_assoc]

/-- A long-latency result sent: its registers are empty, and it is in flight (R18). -/
theorem State.result_sent (s : State) (fs : List Fill) :
    (s.result fs).cur = s.cur ∧ (s.result fs).me = s.me ∧ (∃ id, (id, Job.result s.owner (.regs fs)) ∈ (s.result fs).here.flights) ∧
    (s.result fs).hereCore = { s.hereCore with regs := (s.result fs).hereCore.regs } ∧
    ∀ f ∈ fs, ((s.result fs).hereCore.reg s.me f.reg).full = false := by
  have here : (s.onHere fun p => p.addJob (.result s.owner (.regs fs))).here = s.here.addJob (.result s.owner (.regs fs)) :=
    State.here_onHere s _
  obtain ⟨core, me⟩ := s.hereCore_onHere (f := fun p => p.addJob (.result s.owner (.regs fs))) rfl
  obtain ⟨cur', me', flights, core', full⟩ := (s.onHere fun p => p.addJob (.result s.owner (.regs fs))).emptied fs
  rw [core] at core' full
  rw [me] at me' full
  refine ⟨cur', me', ⟨s.here.nextId, ?_⟩, core', fun f member => ?_⟩
  · show _ ∈ (fs.foldl _ _ : State).here.flights
    rw [flights, here]
    exact self_mem_tset _ _ _
  · refine (full _).trans ?_
    rw [Bool.and_eq_false_iff, List.all_eq_false]
    exact .inr ⟨f, member, by simp⟩

/-! ## WAITM and TAKEM (R149, R150, R181, R182) -/

theorem execWaitm_parks (ready : Claims.Ready s {} v) (empty : s.hereCore.mbox = []) : exec .waitm s = .next (s.joinWaitm.park .mbox) := by
  change execWaitm s = _
  unfold execWaitm
  rw [chain_ends ready rfl]
  simp only [empty, List.isEmpty_nil, if_true]
  rfl

theorem execWaitm_goes_on (ready : Claims.Ready s {} v) (some_ : s.hereCore.mbox ≠ []) : exec .waitm s = .next s.advance := by
  change execWaitm s = _
  unfold execWaitm
  rw [chain_ends ready rfl]
  simp only [List.isEmpty_iff, some_, if_false]
  rfl

theorem execTakem_parks {d : Reg} (ready : Claims.Ready s { d := .named d.toNat 4 true } v) (empty : s.hereCore.mbox = []) :
    exec (.takem d) s = .next (s.parkFor (.source 11) .mbox).state := by
  change execTakem d s = _
  unfold execTakem
  rw [chain_ends ready rfl]
  simp only [empty]

/-- The four registers of a TAKEM and the words that go to them (R182). -/
def MboxEntry.fills (e : MboxEntry) (n : Nat) : List Fill :=
  [⟨n, e.hdr, false, false⟩, ⟨n + 1, e.w1, false, false⟩, ⟨n + 2, e.w2, false, false⟩, ⟨n + 3, e.w3, false, false⟩]

theorem execTakem_takes {d : Reg} (ready : Claims.Ready s { d := .named d.toNat 4 true } v) {e : MboxEntry} {rest : List MboxEntry}
    (head : s.hereCore.mbox = e :: rest) (noReport : e.report = none)
    (full : ∀ i, i < 4 → (s.hereCore.reg s.me (d.toNat + i)).full = true) :
    exec (.takem d) s = .next ((s.onHere fun p => p.takeMbox s.cur.core).result (e.fills d.toNat)).advance := by
  have noneEmpty : (span d.toNat 1 4).any (fun i => !(s.hereCore.reg s.me i).full) = false := by
    rw [List.any_eq_false]
    intro i member
    obtain ⟨low, high⟩ := mem_span_one member
    have at_ := full (i - d.toNat) (by omega)
    rw [Nat.add_sub_cancel' low] at at_
    simp [at_]
  change execTakem d s = _
  unfold execTakem
  rw [chain_ends ready rfl]
  simp only [head, noReport, noneEmpty, Bool.false_eq_true, if_false]
  rfl

/-- The head of the mailbox removed. -/
theorem State.takeMbox_head {e : MboxEntry} {rest : List MboxEntry} (head : s.hereCore.mbox = e :: rest) :
    (s.onHere fun p => p.takeMbox s.cur.core).hereCore.mbox = rest ∧ (s.onHere fun p => p.takeMbox s.cur.core).hereCore.mboxPos = 0 := by
  have here : (s.onHere fun p => p.takeMbox s.cur.core).here = s.here.takeMbox s.cur.core := State.here_onHere s _
  have core : (s.onHere fun p => p.takeMbox s.cur.core).hereCore = (s.here.takeMbox s.cur.core).core s.cur.core :=
    congrArg (fun p => Package.core p s.cur.core) here
  have mbox : (s.here.core s.cur.core).mbox = e :: rest := head
  rw [core, Package.takeMbox, mbox]
  simp only [Package.acquire, Package.core_onCore_same, and_self]

/-- TAKEM of an entry without a report into full registers (R182). -/
theorem execTakem_head {d : Reg} (ready : Claims.Ready s { d := .named d.toNat 4 true } v) {e : MboxEntry} {rest : List MboxEntry}
    (head : s.hereCore.mbox = e :: rest) (noReport : e.report = none)
    (full : ∀ i, i < 4 → (s.hereCore.reg s.me (d.toNat + i)).full = true) :
    ∃ t, exec (.takem d) s = .next t ∧ t.hereCore.mbox = rest ∧ t.hereCore.mboxPos = 0 ∧ t.me.pc = s.nextPc ∧
      (∀ i, i < 4 → (t.hereCore.reg t.me (d.toNat + i)).full = false) ∧
      ∃ id, (id, Job.result s.owner (.regs (e.fills d.toNat))) ∈ t.here.flights := by
  obtain ⟨mbox, pos⟩ := State.takeMbox_head head
  have me := s.me_takeMbox
  obtain ⟨cur, me', ⟨id, sent⟩, core, empty⟩ := (s.onHere fun p => p.takeMbox s.cur.core).result_sent (e.fills d.toNat)
  have owner : (s.onHere fun p => p.takeMbox s.cur.core).owner = s.owner := by rw [State.owner, me]; rfl
  rw [me] at me' empty
  rw [owner] at sent
  refine ⟨_, execTakem_takes ready head noReport full, ?_, ?_, ?_, fun i small => ?_, id, by rw [State.flights_advance]; exact sent⟩
  · rw [State.hereCore_advance, core]
    exact mbox
  · rw [State.hereCore_advance, core]
    exact pos
  · rw [State.pc_advance]
    exact State.nextPc_congr cur me'
  · rw [State.advance, State.me_goto, me', ← State.advance, State.hereCore_advance]
    have named : ∃ f ∈ e.fills d.toNat, f.reg = d.toNat + i := by
      match i, small with
      | 0, _ | 1, _ | 2, _ | 3, _ => simp [MboxEntry.fills]
    obtain ⟨f, member, at_⟩ := named
    rw [← at_]
    exact empty f member

/-- Settles O24: WAITM and TAKEM by the mailbox, HTAB and MCFG as chains of one effect. -/
theorem mailboxAndConfiguration : Obligations.MailboxAndConfiguration := by
  refine ⟨fun d s v => ⟨fun ready => ⟨execWaitm_parks ready, execWaitm_goes_on ready⟩, fun ready => ⟨execTakem_parks ready,
    fun e rest head noReport full => ?_⟩⟩, fun d s v => ⟨fun src ready => ?_, fun ready => ⟨?_, ?_, fun n => ?_⟩, fun ready => ⟨?_, fun n => ?_⟩⟩⟩
  · obtain ⟨t, done, mbox, pos, pc, empty, id, sent⟩ := execTakem_head ready head noReport full
    exact ⟨t, done, mbox, pos, pc, empty, List.any_eq_true.2 ⟨_, sent, decide_eq_true rfl⟩⟩
  · exact chainNext_ready ready fun v s =>
      s.onHereCore fun k => { k with handlers := tset k.handlers (lowBits v.s 6) (v.d &&& 0xCFFFFFFFFFFFFFFF) }
  · exact chainNext_ends ready rfl fun _ s => s.setReg d.toNat s.hereCore.elig
  · exact chainNext_ends ready rfl fun _ s => (s.setReg d.toNat (word s.hereCore.drops)).onHereCore fun k => { k with drops := 0 }
  · exact chainNext_ends ready rfl fun _ s => s.setReg d.toNat (word (tget s.hereCore.accept n.toNat 0))
  · rw [show (0x7FFFFFFFFFFFFFFF : Word) = word (2 ^ (62 + 1) - 1) from rfl, ← word_bits v.d 62 (by decide)]
    exact chainNext_ends ready rfl fun v s => s.onHereCore fun k => { k with elig := word (bits v.d 62 0) }
  · have low : bits v.d 15 0 = v.d.toNat % 65536 := by simp [bits]
    rw [← low]
    exact chainNext_ends ready rfl fun v s => s.onHereCore fun k => { k with accept := tset k.accept n.toNat (bits v.d 15 0) }

end Sys2Proof.Machine
end
section
/-! SUPPORT. Register deposits (R162, R189): what DEPR sends, and what each step of the deposit does. -/

namespace Sys2Proof.Machine

variable {s : State} {v : Vals} {chip id : Nat} {x : Deposit}

/-! ## DEPR (R189) -/

/-- The deposit that a DEPR sends. -/
def State.deposit (s : State) (v : Vals) (d : Reg) (src : Src) (idx : BitVec 5) : Deposit :=
  ⟨s.owner, v.d.toNat / 64 % 1024, v.d.toNat % 64, v.d.toNat / 65536 % 256, idx.toNat, v.s, .travelling, d.toNat, s.cur.words.length,
    ({ s := srcOpr src } : Needs).pops⟩

theorem execDepr_sends {d : Reg} {src : Src} {idx : BitVec 5} (ready : Claims.Ready s { s := srcOpr src, d := rdReg d } v)
    (free : s.me.pend = none) : exec (.depr d src idx) s = .next (((s.onHere fun p => p.addJob (.depo (s.deposit v d src idx))).onMe
      fun t => { t with pend := some s.here.nextId }).park .depr) := by
  change execDepr d src idx s = _
  unfold execDepr
  rw [chain_ready ready]
  simp only [free]
  rfl

/-- A DEPR parks on its chain with its deposit in flight. -/
theorem execDepr_parks {d : Reg} {src : Src} {idx : BitVec 5} (ready : Claims.Ready s { s := srcOpr src, d := rdReg d } v)
    (free : s.me.pend = none) : ∃ t, exec (.depr d src idx) s = .next t ∧ t.me.life = .parked ∧ t.me.reason = some .depr ∧
      t.me.pc = s.me.pc ∧ t.here.job s.here.nextId = some (.depo (s.deposit v d src idx)) := by
  obtain ⟨-, me⟩ := s.hereCore_onHere (f := fun p => p.addJob (.depo (s.deposit v d src idx))) rfl
  have here : (s.onHere fun p => p.addJob (.depo (s.deposit v d src idx))).here = _ := State.here_onHere s _
  refine ⟨_, execDepr_sends ready free, ?_, ?_, ?_, ?_⟩
  · rw [State.me_park]
  · rw [State.me_park]
  · rw [State.me_park, State.me_onMe, me]
  · rw [Package.job, State.park, State.flights_onMe, State.flights_onMe, here]
    exact tget?_tset_same _ _ _

/-! ## At the target core (R162) -/

/-- The target core lets a deposit in: its sender's holder is accepted, and the thread is there and has the register. -/
def Package.letsIn (p : Package) (x : Deposit) : Bool :=
  p.accepts x.dst (p.coreHolder x.owner.core) && !p.handleAbsent x.dst (some (handleOf x.gen x.dst x.slot)) &&
    decide (x.reg < (p.thread x.dst x.slot).len)

/-- The deposit moved into the buffer, under a new number that its sender's thread waits for. -/
def Package.buffered (p : Package) (id : Nat) (x : Deposit) : Package :=
  ((p.dropJob id).addJob (.depo { x with stage := .buffered })).onThread x.owner.core x.owner.slot fun t =>
    if t.pend = some id then { t with pend := some p.nextId } else t

section
variable (running : (s.pkg chip).phase = .running) (job : (s.pkg chip).job id = some (.depo x))
include running job

section
variable (stage : x.stage = .travelling) (awake : (s.pkg chip).awake x.dst = true)
  (first : (s.pkg chip).packetBefore chip chip x.owner.core x.dst 0 id = false)
include stage awake first

theorem depositArrival_refuses (bad : (s.pkg chip).letsIn x = false) :
    exec (.depositArrival chip id) s = .next (s.setPkg chip ((s.pkg chip).setJob id (.depo { x with stage := .refused }))) := by
  change execDepositArrival chip id s = _
  unfold execDepositArrival
  refine jobStep_some running job ?_
  unfold Package.letsIn at bad
  dsimp only
  rw [if_neg (by simp [stage, awake, first]), bad]
  rfl

/-- A deposit that is let in stands in the buffer, while that has room. -/
theorem depositArrival_buffers (good : (s.pkg chip).letsIn x = true)
    (room : ((s.pkg chip).jobs (fun j => match j with | .depo e => decide (e.dst = x.dst ∧ e.stage = .buffered) | _ => false)).length < 8) :
    exec (.depositArrival chip id) s = .next (s.setPkg chip ((s.pkg chip).buffered id x)) := by
  change execDepositArrival chip id s = _
  unfold execDepositArrival
  refine jobStep_some running job ?_
  unfold Package.letsIn at good
  dsimp only
  rw [if_neg (by simp [stage, awake, first]), good, if_neg (by decide)]
  exact when_true (decide_eq_true room) _

end

/-- The oldest deposit of an empty register with no producer is written (R162). -/
theorem depositWrite_writes (stage : x.stage = .buffered)
    (empty : (((s.pkg chip).core x.dst).reg ((s.pkg chip).thread x.dst x.slot) x.reg).full = false)
    (noProducer : s.producing chip ⟨x.dst, x.slot, x.gen⟩ x.reg = false)
    (live : (s.pkg chip).ownerLive ⟨x.dst, x.slot, x.gen⟩ = true) (stays : ((s.pkg chip).thread x.dst x.slot).life ≠ .migrating)
    (oldest : ∀ e ∈ (s.pkg chip).flights, ∀ y, e.2 = .depo y → e.1 < id → y.stage ≠ .buffered) :
    exec (.depositWrite chip id) s = .next (s.setPkg chip (((s.pkg chip).onCore x.dst fun k =>
      k.writeReg ((s.pkg chip).thread x.dst x.slot) x.reg x.val).setJob id (.depo { x with stage := .written }))) := by
  change execDepositWrite chip id s = _
  unfold execDepositWrite
  refine sysStep_some ?_
  dsimp only
  rw [job]
  refine if_pos ⟨running, stage, ?_, empty, live, stays, noProducer⟩
  rw [Bool.not_eq_true, List.any_eq_false]
  rintro ⟨e, j⟩ member
  cases j with
  | depo y =>
    intro older
    simp only [decide_eq_true_eq] at older
    exact oldest _ member y rfl older.1 older.2.1
  | _ => exact Bool.false_ne_true

end

/-! ## The reply (R189) -/

/-- The registers of a thread filled one after the other. -/
def Core.filled (k : Core) (slot : Nat) (fs : List Fill) : Core := fs.foldl (fun k f => k.fillReg (k.thread slot) f) k

theorem Core.fillReg_threads (k : Core) (t : Thread) (f : Fill) : (k.fillReg t f).threads = k.threads := by
  unfold Core.fillReg
  split
  · rfl
  · exact Core.writeReg_threads k t f.reg f.val

theorem Core.filled_threads (k : Core) (slot : Nat) (fs : List Fill) : (k.filled slot fs).threads = k.threads := by
  induction fs generalizing k with
  | nil => rfl
  | cons f fs ih => exact (ih _).trans (Core.fillReg_threads _ _ _)

/-- The thread of a chain that completes on a reply, with its results in its registers. -/
theorem Package.finishChain_core (p : Package) (o : Owner) (len : Nat) (fs : List Fill) (live : p.ownerLive o = true) :
    ((p.finishChain o len fs).thread o.core o.slot).pc = (p.thread o.core o.slot).pc + BitVec.ofNat 56 len ∧
    ((p.finishChain o len fs).core o.core).regs = ((p.core o.core).filled o.slot fs).regs := by
  have core : (p.onCore o.core fun k => k.filled o.slot fs).core o.core = (p.core o.core).filled o.slot fs := Package.core_onCore_same _ _ _
  have thread : (p.onCore o.core fun k => k.filled o.slot fs).thread o.core o.slot = p.thread o.core o.slot :=
    Package.thread_onCore _ _ _ _ fun k => k.filled_threads o.slot fs
  have done : p.finishChain o len fs = (p.onCore o.core fun k => k.filled o.slot fs).onThread o.core o.slot _ := if_pos live
  rw [done]
  constructor
  · rw [Package.thread_onThread_same, thread]
  · rw [Package.onThread, Package.setThread, Package.core_onCore_same, core]
    rfl

theorem State.popFor_none (s : State) (chip : Nat) (o : Owner) : s.popFor chip o [] = s := by
  unfold State.popFor
  split <;> rfl

/-- The result of a deposit: D := 0 where it was refused. -/
def Deposit.results (x : Deposit) : List Fill := if x.stage = .refused then [⟨x.d, 0, false, false⟩] else []

theorem depositReply_completes (running : (s.pkg chip).phase = .running) (job : (s.pkg chip).job id = some (.depo x))
    (settled : x.stage = .written ∨ x.stage = .refused) (noPops : x.pops = []) :
    exec (.depositReply chip id) s = .next (s.onPkg chip fun p => (p.dropJob id).finishChain x.owner x.len x.results) := by
  change execDepositReply chip id s = _
  unfold execDepositReply
  refine sysStep_some ?_
  rw [job]
  dsimp only
  rw [if_pos ⟨running, settled⟩, noPops, State.popFor_none]
  rfl

/-- Settles O27: the steps of a deposit one by one, the reply by `Package.finishChain_core`. -/
theorem deposits : Obligations.Deposits := by
  refine ⟨fun d src idx s v ready free => execDepr_parks ready free, fun s chip id x running job => ?_⟩
  intro p ok
  refine ⟨depositArrival_refuses running job, fun stage awake first good room => ?_,
    fun stage empty noProducer live stays oldest => ?_, fun settled noPops live => ?_⟩
  · refine ⟨_, depositArrival_buffers running job stage awake first good room, ?_⟩
    rw [State.pkg_setPkg_same, Package.buffered, Package.onThread_flights]
    exact List.any_eq_true.2 ⟨_, self_mem_tset _ _ _, decide_eq_true rfl⟩
  · obtain ⟨val, full, -⟩ := Core.writeReg_same (p.core x.dst) (p.thread x.dst x.slot) x.reg x.val
    refine ⟨_, depositWrite_writes running job stage empty noProducer live stays oldest, ?_⟩
    rw [State.pkg_setPkg_same, Package.core_setJob, Package.core_onCore_same]
    exact ⟨val, full, tget?_tset_same _ _ _⟩
  · obtain ⟨pc, regs⟩ := (p.dropJob id).finishChain_core x.owner x.len x.results live
    refine ⟨_, depositReply_completes running job settled noPops, ?_, fun refused inside => ?_⟩
    · rw [State.pkg_onPkg_same]
      exact pc
    · have zero : x.results = [⟨x.d, 0, false, false⟩] := if_pos refused
      rw [State.pkg_onPkg_same, Core.reg, Core.cell, regs, zero]
      exact (Core.fillReg_same (p.core x.owner.core) (p.thread x.owner.core x.owner.slot) ⟨x.d, 0, false, false⟩ inside).1

end Sys2Proof.Machine
end
section
/-! SUPPORT. Neighbour ports (R158 to R161, R185 to R188, R424): the chains of the issuing thread, and what reaches a port. -/

namespace Sys2Proof.Machine

variable {s : State} {v : Vals}

@[simp] theorem Thread.port_setPort_same (t : Thread) (q : Nat) (r : PortRec) : (t.setPort q r).port q = r := tget_tset_same _ _ _ _

theorem Package.port_onThread_setPort (p : Package) (c n q : Nat) (r : Thread → PortRec) :
    ((p.onThread c n fun t => t.setPort q (r t)).thread c n).port q = r (p.thread c n) := by
  rw [Package.thread_onThread_same, Thread.port_setPort_same]

/-- A port that is let go is UNBOUND, and nothing else of its thread has changed but ports (R186). -/
theorem State.unbind_me (s : State) (q : Nat) :
    let t := s.onHere fun p => p.unbind s.cur.chip s.cur.core s.cur.slot q
    t.me.port q = PortRec.fresh ∧ t.me.bare = s.me.bare := by
  intro t
  have here : t.here = s.here.unbind s.cur.chip s.cur.core s.cur.slot q := State.here_onHere s _
  have me : t.me = t.here.thread s.cur.core s.cur.slot := rfl
  rw [me, here]
  exact ⟨Package.port_onThread_setPort _ _ _ _ fun _ => PortRec.fresh, Package.bare_unbind _ _ _ _ _ _ _⟩

/-- A source that is no stream pops none. -/
theorem pops_source {src : Src} (noStream : ∀ c, src ≠ .stream c) : ({ s := srcOpr src } : Needs).pops = [] := by
  cases src with
  | stream c => exact absurd rfl (noStream c)
  | reg r => rfl
  | imm x => rfl

/-! ## PBIND and PUNBIND (R185, R186) -/

/-- What PBIND checks of its port and of the slot that it names. -/
theorem unpaired_iff (s : State) (q : Nat) (x : Word) :
    (noPartner s.cur.slot q || (decide (q ≤ 3) && decide (lowBits x 6 = 63))) = true ↔
      noPartner s.cur.slot q = true ∨ (q ≤ 3 ∧ x.toNat % 64 = 63) := by
  rw [Bool.or_eq_true, Bool.and_eq_true, decide_eq_true_eq, decide_eq_true_eq]
  rfl

section
variable {port : Port} {src : Src} (ready : Claims.Ready s { s := srcOpr src } v)
include ready

theorem execPbind_traps (unpaired : noPartner s.cur.slot (portCode port) = true ∨ (portCode port ≤ 3 ∧ v.s.toNat % 64 = 63)) :
    exec (.pbind port src) s = .next (s.takeTrap .portUnbound 0 (word (portCode port))) := by
  change execPbind port src s = _
  unfold execPbind
  rw [chain_ready ready]
  dsimp only
  rw [if_pos ((unpaired_iff s _ _).2 unpaired)]
  rfl

/-- The slot that a PBIND names (R158, R185). -/
def State.bindSlot (s : State) (q : Nat) (x : Word) : Nat :=
  if q = 4 then s.cur.slot + 1 else if q = 5 then s.cur.slot - 1 else x.toNat % 64

/-- The request that a PBIND sends to a core of its chip. -/
def State.bindReq (s : State) (q : Nat) (x : Word) (core : Nat) : BindReq := ⟨s.owner, s.holder, q, s.cur.chip, core, s.bindSlot q x, false⟩

/-- A thread's port let go and BINDING to a slot of its chip. -/
def State.asking (s : State) (q slot : Nat) : State :=
  (s.onHere fun p => p.unbind s.cur.chip s.cur.core s.cur.slot q).onMe fun t => t.setPort q ⟨.binding, s.cur.chip, slot, []⟩

theorem execPbind_asks (paired : ¬ (noPartner s.cur.slot (portCode port) = true ∨ (portCode port ≤ 3 ∧ v.s.toNat % 64 = 63))) {core : Nat}
    (partner : s.partnerOf s.cur.chip s.cur.core (portCode port) = (s.cur.chip, core)) (noStream : ∀ c, src ≠ .stream c) :
    exec (.pbind port src) s = .next ((s.asking (portCode port) (s.bindSlot (portCode port) v.s)).onHere fun p =>
      p.addJob (.bind (s.bindReq (portCode port) v.s core))).advance := by
  have may : ¬ (!s.mayBind (portCode port) s.cur.chip) = true := by simp [State.mayBind]
  change execPbind port src s = _
  unfold execPbind
  rw [chain_ends ready (pops_source noStream)]
  dsimp only
  rw [if_neg (mt (unpaired_iff s _ _).1 paired), partner]
  dsimp only
  rw [if_neg may, State.freed, if_pos rfl]
  exact congrArg (fun t => Host.Outcome.next (State.advance t)) (if_pos rfl)

/-- R158, R185: a PBIND leaves its port BINDING, with its request on the way. -/
theorem execPbind_binding (paired : ¬ (noPartner s.cur.slot (portCode port) = true ∨ (portCode port ≤ 3 ∧ v.s.toNat % 64 = 63))) {core : Nat}
    (partner : s.partnerOf s.cur.chip s.cur.core (portCode port) = (s.cur.chip, core)) (noStream : ∀ c, src ≠ .stream c) :
    ∃ t, exec (.pbind port src) s = .next t ∧
      t.me.port (portCode port) = ⟨.binding, s.cur.chip, s.bindSlot (portCode port) v.s, []⟩ ∧
      ∃ id, (id, Job.bind (s.bindReq (portCode port) v.s core)) ∈ t.here.flights := by
  refine ⟨_, execPbind_asks ready paired partner noStream, ?_, ?_⟩
  · obtain ⟨-, me⟩ := (s.asking (portCode port) (s.bindSlot (portCode port) v.s)).hereCore_onHere
      (f := fun p => p.addJob (.bind (s.bindReq (portCode port) v.s core))) rfl
    rw [State.advance, State.me_goto, me, State.asking, State.me_onMe]
    exact Thread.port_setPort_same _ _ _
  · refine ⟨(s.asking (portCode port) (s.bindSlot (portCode port) v.s)).here.nextId, ?_⟩
    rw [State.flights_advance, State.here_onHere]
    exact self_mem_tset _ _ _

end

theorem execPunbind_frees {port : Port} (ready : Claims.Ready s {} v) :
    ∃ t, exec (.punbind port) s = .next t ∧ (t.me.port (portCode port)).st = .unbound ∧ t.me.pc = s.nextPc := by
  obtain ⟨free, bare⟩ := s.unbind_me (portCode port)
  refine ⟨_, chainNext_ends ready rfl fun _ s => s.onHere fun p => p.unbind s.cur.chip s.cur.core s.cur.slot (portCode port), ?_, ?_⟩
  · rw [State.advance, State.me_goto]
    exact congrArg PortRec.st free
  · rw [State.pc_advance]
    exact State.nextPc_of_pc rfl (show Thread.pc (Thread.bare _) = Thread.pc (Thread.bare _) from congrArg Thread.pc bare)

/-! ## PSTAT (R161, R187) -/

/-- The state code in a port's state word. -/
def PortSt.code : PortSt → Nat
  | .unbound => 0 | .binding => 1 | .bound => 2 | .broken => 3

/-- The low bits of a port's state word are its state (R161). -/
theorem State.portWord_code (s : State) (core slot port : Nat) :
    (s.portWord core slot port).toNat % 4 = ((s.here.thread core slot).port port).st.code := by
  unfold State.portWord
  dsimp only
  rw [word, BitVec.toNat_ofNat]
  cases ((s.here.thread core slot).port port).st <;> (simp only [PortSt.code]; omega)

theorem execPstat_own {d : Reg} {port : Port} (ready : Claims.Ready s { d := wrReg d } v) :
    ∃ w : Word, exec (.pstat d port none) s = .next (s.setReg d.toNat w).advance ∧ w.toNat % 4 = (s.myPort (portCode port)).code :=
  ⟨_, chainNext_ends ready rfl fun _ s => s.setReg d.toNat (s.portWord s.cur.core s.cur.slot (portCode port)), s.portWord_code _ _ _⟩

/-- A handle of a thread of another core reads no port (R187). -/
theorem execPstat_elsewhere {d : Reg} {port : Port} {r : RegOp} (ready : Claims.Ready s { t := rdOp r, d := wrReg d } v) :
    ∃ w : Word, exec (.pstat d port (some r)) s = .next (s.setReg d.toNat w).advance ∧ (v.t.toNat / 64 % 1024 ≠ s.cur.core → w = 0) := by
  refine ⟨_, chainNext_ends ready rfl fun v s => s.setReg d.toNat (
    if handleCore v.t.toNat = s.cur.core ∧ (s.hereCore.thread (handleSlot v.t.toNat)).gen = handleGen v.t.toNat ∧
        (s.hereCore.thread (handleSlot v.t.toNat)).life ≠ .free then
      s.portWord s.cur.core (handleSlot v.t.toNat) (portCode port)
    else 0), fun elsewhere => if_neg fun there => elsewhere there.1⟩

/-! ## PUSH (R188) -/

/-- The ports of a PUSH's mask. -/
def maskPorts (mask : Word) : List Nat := (span 0 1 6).filter mask.getLsbD

/-- A PUSH through ports of its chip that are all BOUND and have room sends its value through each. -/
theorem execPush_pushes {d : Reg} {src : Src} (ready : Claims.Ready s { s := srcOpr src, d := rdReg d } v)
    (open_ : ∀ q ∈ maskPorts v.d, s.myPort q = .bound ∧ s.portRoom q = true ∧ (s.me.port q).peerChip = s.cur.chip) :
    exec (.push d src) s = .next (Claims.endOf { s := srcOpr src, d := rdReg d } ((maskPorts v.d).foldl (fun s q => s.push q v.s) s)) := by
  have free : (maskPorts v.d).find? (fun q => decide (s.myPort q = .unbound ∨ s.myPort q = .broken)) = none :=
    List.find?_eq_none.2 fun q member => by simp [(open_ q member).1]
  have binding : (maskPorts v.d).any (fun q => decide (s.myPort q = .binding)) = false :=
    List.any_eq_false.2 fun q member => by simp [(open_ q member).1]
  have full : (maskPorts v.d).any (fun q => !s.portRoom q) = false := List.any_eq_false.2 fun q member => by simp [(open_ q member).2.1]
  have away : (maskPorts v.d).find? (fun q => decide ((s.me.port q).peerChip ≠ s.cur.chip) &&
      !s.unitAccepts s.cur.chip (s.me.port q).peerChip s.holder) = none :=
    List.find?_eq_none.2 fun q member => by simp [(open_ q member).2.2]
  change execPush d src s = _
  unfold execPush
  rw [chain_ready ready]
  unfold maskPorts at *
  simp only [free, binding, full, away, Bool.false_eq_true, if_false]
  rfl

/-- A mask of no port. -/
theorem maskPorts_empty {mask : Word} (empty : mask.toNat % 64 = 0) : maskPorts mask = [] := by
  refine List.filter_eq_nil_iff.2 fun q member => ?_
  have small := (mem_span_one member).2
  have low : (mask.toNat % 2 ^ 6).testBit q = false := by
    rw [show (2 : Nat) ^ 6 = 64 from rfl, empty, Nat.zero_testBit]
  rw [Nat.testBit_mod_two_pow, decide_eq_true (by omega), Bool.true_and] at low
  rw [BitVec.getLsbD, low]
  exact Bool.false_ne_true

/-- A PUSH through no port changes nothing but the stream that it pops. -/
theorem execPush_none {d : Reg} {src : Src} (ready : Claims.Ready s { s := srcOpr src, d := rdReg d } v) (empty : v.d.toNat % 64 = 0) :
    exec (.push d src) s = .next (Claims.endOf { s := srcOpr src, d := rdReg d } s) := by
  have ports := maskPorts_empty empty
  have done := execPush_pushes ready fun q member => absurd member (by rw [ports]; exact List.not_mem_nil)
  rw [done, ports]
  rfl

/-! ## Bind requests that arrive (R159, R185, R424) -/

section
variable {chip id : Nat} {b : BindReq} (running : (s.pkg chip).phase = .running) (job : (s.pkg chip).job id = some (.bind b))
  (awake : (s.pkg chip).awake b.dst = true) (stands : b.fromChip = chip → (s.pkg chip).bindStands b = true)
include running job awake stands

/-- What becomes of a bind request that stands, by whether its core lets it in and its partner answers it. -/
theorem execPortBindRequest_eq : exec (.portBindRequest chip id) s =
    if !b.arrived && !(s.pkg chip).accepts b.dst b.holder then .next (s.setPkg chip (((s.pkg chip).dropJob id).refuseBind chip b))
    else if s.answersBind chip b then .next (s.completeBind chip b)
    else if b.arrived then .fault .notEnabled
    else .next (s.setPkg chip ((s.pkg chip).setJob id (.bind { b with arrived := true }))) := by
  change execPortBindRequest chip id s = _
  unfold execPortBindRequest
  dsimp only
  rw [job]
  dsimp only
  rw [if_neg (by simp [running, awake]), if_neg fun withdrawn => withdrawn.2 (stands withdrawn.1)]

theorem portBindRequest_refused (new : b.arrived = false) (refused : (s.pkg chip).accepts b.dst b.holder = false) :
    exec (.portBindRequest chip id) s = .next (s.setPkg chip (((s.pkg chip).dropJob id).refuseBind chip b)) := by
  rw [execPortBindRequest_eq running job awake stands, new, refused]
  rfl

theorem portBindRequest_waits (new : b.arrived = false) (accepted : (s.pkg chip).accepts b.dst b.holder = true)
    (alone : s.answersBind chip b = false) : exec (.portBindRequest chip id) s =
      .next (s.setPkg chip ((s.pkg chip).setJob id (.bind { b with arrived := true }))) := by
  rw [execPortBindRequest_eq running job awake stands, new, accepted, alone]
  rfl

theorem portBindRequest_completes (letIn : b.arrived = true ∨ (s.pkg chip).accepts b.dst b.holder = true)
    (answered : s.answersBind chip b = true) : exec (.portBindRequest chip id) s = .next (s.completeBind chip b) := by
  have notRefused : (!b.arrived && !(s.pkg chip).accepts b.dst b.holder) = false := by
    rcases letIn with arrived | accepted
    · rw [arrived]
      rfl
    · rw [accepted, Bool.not_true, Bool.and_false]
  rw [execPortBindRequest_eq running job awake stands, notRefused, answered]
  rfl

end

/-- The port of a request refused on its own chip is BROKEN, and another chip is owed the news (R161, R424). -/
theorem Package.refuseBind_port (p : Package) (chip : Nat) (b : BindReq) :
    (b.fromChip = chip → (((p.refuseBind chip b).thread b.owner.core b.owner.slot).port b.port).st = .broken) ∧
    (b.fromChip ≠ chip → (p.refuseBind chip b).owed = p.owed ++ [.news b.fromChip ⟨b.owner, b.port, b.dst, b.slot, true⟩ (p.coreHolder b.dst)]) := by
  unfold Package.refuseBind
  constructor
  · intro here
    rw [if_pos here, Package.port_onThread_setPort _ _ _ _ fun _ => ⟨.broken, chip, 0, []⟩]
  · intro away
    rw [if_neg away]
    rfl

theorem Package.port_bindTo (p : Package) (o : Owner) (port chip peer : Nat) :
    ((p.bindTo o port chip peer).thread o.core o.slot).port port = ⟨.bound, chip, peer, []⟩ :=
  Package.port_onThread_setPort p _ _ _ fun _ => ⟨.bound, chip, peer, []⟩

/-- A request that meets its match leaves both ports BOUND, each to the other's thread, on one chip and between two (R159). -/
theorem State.completeBind_ports (s : State) (chip : Nat) (b : BindReq)
    (apart : b.fromChip = chip → (b.dst, b.slot) ≠ (b.owner.core, b.owner.slot)) :
    ((((s.completeBind chip b).pkg b.fromChip).thread b.owner.core b.owner.slot).port b.port =
      ⟨.bound, chip, handleOf ((s.pkg chip).thread b.dst b.slot).gen b.dst b.slot, []⟩) ∧
    (((s.completeBind chip b).pkg chip).thread b.dst b.slot).port (opposite b.port) =
      ⟨.bound, b.fromChip, handleOf b.owner.gen b.owner.core b.owner.slot, []⟩ := by
  unfold State.completeBind
  dsimp only
  refine ⟨by rw [State.pkg_onPkg_same]; exact Package.port_bindTo _ _ _ _ _, ?_⟩
  by_cases same : b.fromChip = chip
  · rw [same, State.pkg_onPkg_same, Package.bindTo, Package.thread_onThread_other _ _ _ _ _ _ (apart same), State.pkg_onPkg_same]
    exact Package.port_bindTo ((s.pkg chip).dropJobs _) ⟨b.dst, b.slot, _⟩ _ _ _
  · rw [State.pkg_onPkg_other _ _ _ _ (Ne.symm same), State.pkg_onPkg_same]
    exact Package.port_bindTo ((s.pkg chip).dropJobs _) ⟨b.dst, b.slot, _⟩ _ _ _

/-! ## Values that arrive (R160) -/

/-- A value of a port's own binding enters its queue. -/
theorem Package.acceptValue_queue {p : Package} {chip : Nat} {x : PortValue} (live : (p.thread x.dst x.slot).live = true)
    (gen : (p.thread x.dst x.slot).gen = x.gen) (bound : ((p.thread x.dst x.slot).port x.port).st = .bound)
    (peerChip : ((p.thread x.dst x.slot).port x.port).peerChip = chip)
    (peer : ((p.thread x.dst x.slot).port x.port).peer = handleOf x.src.gen x.src.core x.src.slot) :
    (((p.acceptValue chip x).thread x.dst x.slot).port x.port).queue = ((p.thread x.dst x.slot).port x.port).queue ++ [x.val] := by
  unfold Package.acceptValue
  dsimp only
  rw [if_pos ⟨live, gen, .inl bound, peerChip, peer⟩, Package.thread_setThread_same, Thread.port_setPort_same]

theorem portValueArrival_accepts {chip id : Nat} {x : PortValue} (running : (s.pkg chip).phase = .running)
    (job : (s.pkg chip).job id = some (.portv x)) (awake : (s.pkg chip).awake x.dst = true)
    (first : (s.pkg chip).packetBefore chip chip x.src.core x.dst 0 id = false) :
    exec (.portValueArrival chip id) s = .next (s.setPkg chip (((s.pkg chip).dropJob id).acceptValue chip x)) := by
  change execPortValueArrival chip id s = _
  unfold execPortValueArrival
  exact jobStep_some running job (when_true (by rw [awake, first]; rfl) _)

/-! ## O26 -/

/-- Settles O26: the chains of ports by their effects, a bind request by what becomes of it, a value by `Package.acceptValue_queue`. -/
theorem ports : Obligations.Ports := by
  refine ⟨fun s v port => ⟨fun src ready => ⟨execPbind_traps ready, fun paired here noStream => ?_⟩, execPunbind_frees, fun d ready => ?_,
    fun d r ready => execPstat_elsewhere ready, fun d src ready => ⟨execPush_none ready, fun open_ => ?_⟩⟩,
    fun s chip id running => ⟨fun b job awake stands => ?_, fun x job awake first live gen bound peerChip peer => ?_⟩⟩
  · obtain ⟨t, done, asking, id, there⟩ := execPbind_binding ready paired (Prod.ext here rfl) noStream
    exact ⟨t, done, congrArg PortRec.st asking, congrArg PortRec.peer asking, congrArg PortRec.queue asking,
      List.any_eq_true.2 ⟨_, there, decide_eq_true rfl⟩⟩
  · obtain ⟨w, done, code⟩ := execPstat_own (port := port) ready
    refine ⟨w, done, code.trans ?_⟩
    cases s.myPort (portCode port) <;> rfl
  · exact execPush_pushes ready fun q member => open_ q (by have := mem_span_one (List.mem_filter.1 member).1; omega) (List.mem_filter.1 member).2
  · have bound : b.fromChip = chip → (s.pkg chip).bindStands b = true := fun here => by
      rw [Package.bindStands, (stands here).1, (stands here).2]
      rfl
    refine ⟨fun new refused => ?_, portBindRequest_waits running job awake bound, fun letIn answered apart => ?_⟩
    · obtain ⟨broken, owed⟩ := ((s.pkg chip).dropJob id).refuseBind_port chip b
      refine ⟨fun here => ⟨_, portBindRequest_refused running job awake bound new refused, ?_⟩,
        fun away => ⟨_, portBindRequest_refused running job awake bound new refused, ?_⟩⟩
      · rw [State.pkg_setPkg_same]
        exact broken here
      · rw [State.pkg_setPkg_same]
        exact owed away
    · exact ⟨_, portBindRequest_completes running job awake bound letIn answered, s.completeBind_ports chip b apart⟩
  · refine ⟨_, portValueArrival_accepts running job awake first, ?_⟩
    rw [State.pkg_setPkg_same]
    exact Package.acceptValue_queue (p := (s.pkg chip).dropJob id) live gen bound peerChip peer

end Sys2Proof.Machine
end
section
/-! SUPPORT. SEND, and the delivery of messages (R144, R146 to R148, R180, R260, R300): what each verdict comes to. -/

namespace Sys2Proof.Machine

variable {s : State} {v : Vals}

/-! ## SEND (R144, R180) -/

/-- The payload group of a SEND, as an operand and as words. -/
def payloadOpr (payload : Option RegOp) (count : BitVec 3) : Opr :=
  match payload with
  | some r => .reg r.n.toNat count.toNat false .read r.trap
  | none => .none
def State.payload (s : State) (payload : Option RegOp) (count : BitVec 3) : List Word :=
  match payload with
  | some r => (span r.n.toNat 1 count.toNat).map s.reg
  | none => []

/-- The message that a SEND sends. -/
def State.userMessage (s : State) (handler : BitVec 6) (words : List Word) (dst : Nat) (to_ : Option Nat) : Msg :=
  { Msg.plain s.cur.core dst (header 0 handler.toNat s.holder s.self 0) words with toThread := to_, inject := true, srcChip := s.cur.chip }

/-- A message sent and charged, and the chain complete. -/
def State.sentMessage (s : State) (m : Msg) : State :=
  (s.onHere fun p => (p.charge (blockNi s.cur.core) s.holder 1).addJob (.msg m)).advance

section
variable {d : Reg} {handler : BitVec 6} {payload : Option RegOp} {count : BitVec 3}
  (ready : Claims.Ready s { t := payloadOpr payload count, d := rdReg d } v)
include ready

/-- What a SEND comes to, by whether the network takes its message. -/
theorem sendOp_ready (toThread : Bool) : sendOp toThread d handler payload count s = .next (
    if s.msgRefused 1 then s.park .net
    else s.sentMessage (s.userMessage handler (s.payload payload count)
      (if toThread then v.d.toNat / 64 % 1024 else v.d.toNat % 1024) (if toThread then some (v.d.toNat % 2 ^ 24) else none))) := by
  have noStream : ({ t := payloadOpr payload count, d := rdReg d } : Needs).pops = [] := by cases payload <;> rfl
  have core : bits v.d 9 0 = v.d.toNat % 1024 := by simp [bits]
  have thread : bits v.d 23 0 = v.d.toNat % 2 ^ 24 := by simp [bits]
  unfold sendOp
  refine (chain_ends ready noStream _).trans ?_
  dsimp only
  rw [core, thread]
  split
  · rfl
  · cases toThread <;> rfl

end

/-! ## A message that may arrive, and one that may not (R180, R300) -/

section
variable {chip id : Nat} {m : Msg} (running : (s.pkg chip).phase = .running) (job : (s.pkg chip).job id = some (.msg m))

include job in
/-- A message is not taken before one that its sender sent earlier to the same core. -/
theorem message_held (before : (s.pkg chip).messageBefore chip id m = true) :
    exec (.messageArrival chip id) s = .fault .notEnabled ∧ exec (.messageDeliveryRetry chip id) s = .fault .notEnabled := by
  constructor
  · change execMessageArrival chip id s = _
    unfold execMessageArrival sysStep
    dsimp only
    rw [job]
    dsimp only
    rw [if_neg fun may => may.2.2.2 before]
  · change execMessageDeliveryRetry chip id s = _
    unfold execMessageDeliveryRetry sysStep
    dsimp only
    rw [job]
    dsimp only
    rw [if_neg fun may => may.2.2.2 before]

/-- An earlier message of the same sender that has not arrived holds a message back. -/
theorem Package.messageBefore_of_earlier {p : Package} {e k : Nat} {n : Msg} (there : (e, Job.msg n) ∈ p.flights) (earlier : e < id)
    (theirs : n.sender = some k) (mine : m.sender = some k) (origin : n.origin chip = m.origin chip) (src : n.src = m.src)
    (dst : n.dst = m.dst) (notLatched : (p.core m.dst).latch ≠ some e) : p.messageBefore chip id m = true := by
  unfold Package.messageBefore
  rw [mine]
  refine List.any_eq_true.2 ⟨_, there, ?_⟩
  rw [Bool.and_eq_true]
  exact ⟨decide_eq_true earlier, decide_eq_true ⟨theirs, origin, src, dst, notLatched⟩⟩

section
variable (awake : (s.pkg chip).awake m.dst = true) (first : (s.pkg chip).messageBefore chip id m = false)
include running job awake first

/-- The step that takes a message up: its arrival, or its check anew where it waits. -/
theorem message_delivered {t : State} (done : s.deliver chip id m = some t) :
    exec (if m.waiting then .messageDeliveryRetry chip id else .messageArrival chip id) s = .next t := by
  have open_ : ¬ (s.pkg chip).messageBefore chip id m = true := by rw [first]; exact Bool.false_ne_true
  cases waiting : m.waiting with
  | true =>
    rw [if_pos rfl]
    change execMessageDeliveryRetry chip id s = _
    unfold execMessageDeliveryRetry
    refine sysStep_some ?_
    dsimp only
    rw [job]
    dsimp only
    rw [if_pos ⟨running, waiting, awake, open_⟩, done]
  | false =>
    rw [if_neg Bool.false_ne_true]
    change execMessageArrival chip id s = _
    unfold execMessageArrival
    refine sysStep_some ?_
    dsimp only
    rw [job]
    dsimp only
    rw [if_pos ⟨running, by rw [waiting]; exact Bool.false_ne_true, awake, open_⟩, done]

/-- A message that must wait stands at its core as one that waits. -/
theorem messageArrival_waits (new : m.waiting = false) (judged : (s.pkg chip).judge id m = .wait) :
    exec (.messageArrival chip id) s = .next (s.setPkg chip ((s.pkg chip).setJob id (.msg { m with waiting := true }))) := by
  have open_ : ¬ (s.pkg chip).messageBefore chip id m = true := by rw [first]; exact Bool.false_ne_true
  have stays : s.deliver chip id m = none := by
    unfold State.deliver
    dsimp only
    rw [judged]
  have notRefused : (m.refused || decide ((s.pkg chip).judge id m = .refuse)) = m.refused := by
    rw [judged]
    exact Bool.or_false _
  change execMessageArrival chip id s = _
  unfold execMessageArrival
  refine sysStep_some ?_
  dsimp only
  rw [job]
  dsimp only
  rw [if_pos ⟨running, by rw [new]; exact Bool.false_ne_true, awake, open_⟩, stays, notRefused]

end

end

/-! ## The mailbox (R147, R148) -/

/-- The mailbox entry that a message makes. -/
def Msg.entry (m : Msg) : MboxEntry := ⟨m.hdr, m.pay.headD 0, m.pay.tail.headD 0, m.pay.tail.tail.headD 0, m.report, m.acquire⟩

theorem Package.take_core (p : Package) (id : Nat) (m : Msg) : (p.take id m).core m.dst =
    { p.core m.dst with latch := if (p.core m.dst).latch = some id then none else (p.core m.dst).latch } :=
  Package.core_onCore_same (p.dropJob id) m.dst _

/-- An entry deposited is the youngest of the mailbox, whoever waits for it. -/
theorem Package.deposit_mbox (p : Package) (m : Msg) : ((p.deposit m).core m.dst).mbox = (p.core m.dst).mbox ++ [m.entry] := by
  have there : (p.onCore m.dst fun k => { k with mbox := k.mbox ++ [m.entry] }).core m.dst = _ := Package.core_onCore_same _ _ _
  unfold Package.deposit
  dsimp only
  split
  · exact congrArg Core.mbox there
  · rw [Package.onThread, Package.setThread, Package.core_onCore_same, Core.setThread_mbox, Package.core_onCore_same]
    exact congrArg Core.mbox there

theorem Package.take_deposit_mbox (p : Package) (id : Nat) (m : Msg) :
    (((p.take id m).deposit m).core m.dst).mbox = (p.core m.dst).mbox ++ [m.entry] := by
  rw [Package.deposit_mbox, Package.take_core]

section
variable {chip id : Nat} {m : Msg}

theorem State.deliver_deposit (judged : (s.pkg chip).judge id m = .deposit) (noLaunch : m.launch = none) :
    s.deliver chip id m = some (s.setPkg chip (((s.pkg chip).take id m).deposit m)) := by
  unfold State.deliver
  dsimp only
  rw [judged, noLaunch]

/-! ## Refused messages, by their kind (R147) -/

theorem State.deliver_refuse (judged : (s.pkg chip).judge id m = .refuse) : s.deliver chip id m = s.refuse chip id m := by
  unfold State.deliver
  dsimp only
  rw [judged]

/-- The kind of a message is the top byte of its header (R144). -/
theorem bits_kind (w : Word) : bits w 63 56 = w.toNat / 2 ^ 56 := by
  have := w.isLt
  exact Nat.mod_eq_of_lt (by omega)

/-- A bounce that is refused is dropped and counted. -/
theorem State.refuse_bounce (bounce : m.bounce = true) : s.refuse chip id m = some (s.setPkg chip (((s.pkg chip).take id m).onCore m.dst fun k =>
    { k with drops := Nat.min (2 ^ 32 - 1) (k.drops + 1) })) := by
  unfold State.refuse
  dsimp only
  rw [if_pos bounce]

/-- A host packet whose LAUNCH has been refused is told so. -/
def Package.settleRefused (p : Package) (launch : Option (Nat × Nat)) : Package :=
  match launch with
  | some (packet, _) => p.settle packet false
  | none => p

section
variable (noBounce : m.bounce = false) (noPreempt : m.preempt = none)
include noBounce noPreempt

/-- A refused message that is neither a bounce nor a PREEMPT request, by its kind. -/
theorem State.refuse_kind : s.refuse chip id m =
    if m.hdr.toNat / 2 ^ 56 = 4 then
      some (s.setPkg chip (((s.pkg chip).take id m).settleRefused m.launch))
    else if m.hdr.toNat / 2 ^ 56 = 0 then
      if m.srcChip = chip then some (s.setPkg chip (((s.pkg chip).take id m).send { m.bounced with srcChip := chip }))
      else if s.unitAccepts chip m.srcChip (bits m.hdr 47 32) then
        some ((s.setPkg chip ((s.pkg chip).take id m)).inject (Packet.of chip m.srcChip (bits m.hdr 47 32) (.mcast { m.bounced with srcChip := chip })))
      else none
    else if ((s.pkg chip).core m.dst).mbox.length < 64 then some (s.setPkg chip (((s.pkg chip).take id m).deposit m))
    else none := by
  unfold State.refuse
  dsimp only
  rw [if_neg (by rw [noBounce]; exact Bool.false_ne_true), if_neg (by rw [noPreempt]; exact Bool.false_ne_true), bits_kind]
  rfl

theorem State.refuse_user (kind : m.hdr.toNat / 2 ^ 56 = 0) (local_ : m.srcChip = chip) :
    s.refuse chip id m = some (s.setPkg chip (((s.pkg chip).take id m).send { m.bounced with srcChip := chip })) := by
  rw [State.refuse_kind noBounce noPreempt, if_neg (by omega), if_pos kind, if_pos local_]

theorem State.refuse_queued (low : 1 ≤ m.hdr.toNat / 2 ^ 56) (high : m.hdr.toNat / 2 ^ 56 ≤ 3)
    (room : ((s.pkg chip).core m.dst).mbox.length < 64) :
    s.refuse chip id m = some (s.setPkg chip (((s.pkg chip).take id m).deposit m)) := by
  rw [State.refuse_kind noBounce noPreempt, if_neg (by omega), if_neg (by omega), if_pos room]

theorem State.refuse_host {packet c : Nat} (kind : m.hdr.toNat / 2 ^ 56 = 4) (launch : m.launch = some (packet, c)) :
    s.refuse chip id m = some (s.setPkg chip (((s.pkg chip).take id m).settle packet false)) := by
  rw [State.refuse_kind noBounce noPreempt, if_pos kind, launch]
  rfl

end

/-- What a bounce holds (R147). -/
theorem Msg.bounced_fields (m : Msg) : m.bounced.dst = m.src ∧ m.bounced.bounce = true ∧ m.bounced.toThread = none ∧
    m.bounced.hdr = word (m.hdr.toNat / 2 ^ 8 * 2 ^ 8 + 1) ∧ m.bounced.pay = m.pay.take 3 := by
  have top : bits m.hdr 63 8 = m.hdr.toNat / 2 ^ 8 := by
    have := m.hdr.isLt
    exact Nat.mod_eq_of_lt (by omega)
  refine ⟨rfl, rfl, rfl, ?_, rfl⟩
  rw [← top]
  rfl

/-- A host packet other than the message itself is told its outcome. -/
theorem Package.settle_take {p : Package} {packet : Nat} {k : HostPacket} (other : packet ≠ id) (job : p.job packet = some (.packet k)) (ok : Bool) :
    ((p.take id m).settle packet ok).job packet = some (.packet { k with outcome := some ok }) := by
  have still : (p.take id m).job packet = some (.packet k) := (tget?_tdel_other p.flights id packet other).trans job
  unfold Package.settle
  rw [still]
  exact tget?_tset_same _ _ _

end

/-! ## A handler's thread (R16, R143, R146) -/

/-- The first registers of a handler's thread: the sender's handle, the header and the payload. -/
def Msg.handlerRegs (m : Msg) : List (Nat × Word) := (0, word (bits m.hdr 31 8)) :: (1, m.hdr) :: (span 2 1 m.pay.length).zip m.pay

theorem Msg.handlerRegs_keys (m : Msg) : m.handlerRegs.map Prod.fst = span 0 1 (m.pay.length + 2) := by
  have same : ((span 2 1 m.pay.length).zip m.pay).map Prod.fst = span 2 1 m.pay.length :=
    List.map_fst_zip (by rw [span_eq_range', List.length_range'])
  rw [Msg.handlerRegs, List.map_cons, List.map_cons, same]
  rfl

theorem Msg.handlerRegs_once (m : Msg) : (m.handlerRegs.map Prod.fst).Nodup := by
  rw [Msg.handlerRegs_keys, span_eq_range']
  exact List.nodup_range'

theorem Msg.payload_mem (m : Msg) {i : Nat} (h : i < m.pay.length) : (2 + i, (m.pay[i]?).getD 0) ∈ m.handlerRegs := by
  refine List.mem_cons_of_mem _ (List.mem_cons_of_mem _ ?_)
  rw [span_eq_range', List.getElem?_eq_getElem h, Option.getD_some]
  refine List.mem_iff_getElem.2 ⟨i, by simpa using h, ?_⟩
  simp

/-- The core whose slot a handler's thread takes. -/
def Core.handling (k : Core) (m : Msg) (slot base len : Nat) (cell cancel : Option Nat) : Core :=
  let j := k.startThread slot base len ((tget k.handlers (bits m.hdr 55 48) 0).setWidth 56) m.handlerRegs 0 cell cancel
  j.setThread slot { j.thread slot with preempt := m.preempt.isSome }

/-- A handler's thread is READY in its window, and its registers hold the sender's handle, the header and the payload. -/
theorem Core.handling_started (k : Core) (m : Msg) (slot base len : Nat) (cell cancel : Option Nat) :
    let j := k.handling m slot base len cell cancel
    (j.thread slot).life = .ready ∧ (j.thread slot).base = base ∧ (j.thread slot).len = len ∧
    (j.thread slot).pc = (tget k.handlers (bits m.hdr 55 48) 0).setWidth 56 ∧
    ∀ n x, (n, x) ∈ m.handlerRegs → (j.cell (base + n)).val = x := by
  intro j
  have thread : j.thread slot = { k.started slot base len ((tget k.handlers (bits m.hdr 55 48) 0).setWidth 56) 0 cell cancel with
      preempt := m.preempt.isSome } := by
    rw [← Core.thread_startThread_same k slot base len _ m.handlerRegs]
    exact Core.thread_setThread_same _ _ _
  rw [thread]
  exact ⟨rfl, rfl, rfl, rfl, fun n x named => (Core.writeRegs_named m.handlerRegs_once named).2⟩

/-- R143, R146: a message starts its handler's thread where the die has a free cell. -/
theorem State.deliver_start {chip id : Nat} {m : Msg} {slot base len i : Nat} (judged : (s.pkg chip).judge id m = .start slot base len)
    (noLaunch : m.launch = none) (untagged : m.tagged = false) (free : (s.pkg chip).freeCell (coreDie m.dst) (s.free 4) = some i) :
    ∃ q cell cancel, s.deliver chip id m = some (s.setPkg chip q) ∧
      q.core m.dst = (((s.pkg chip).take id m).core m.dst).handling m slot base len cell cancel := by
  have there : ((s.pkg chip).take id m).freeCell (coreDie m.dst) (s.free 4) = some i := free
  obtain ⟨q, cell, new, core⟩ := Package.newCell_free there (((s.pkg chip).take id m).coreHolder m.dst) 0
    (((((s.pkg chip).take id m).holderRec (((s.pkg chip).take id m).coreHolder m.dst)).map (·.rootCell)).getD 0) 1 silent false
  refine ⟨q.onCore m.dst fun k => k.handling m slot base len (some cell) (q.cellCancelled cell), some cell, q.cellCancelled cell, ?_, ?_⟩
  · have handlers : (((s.pkg chip).take id m).core m.dst).handlers = (q.core m.dst).handlers := by rw [core]
    unfold State.deliver
    dsimp only
    rw [judged]
    dsimp only
    unfold Package.startHandler
    dsimp only
    rw [noLaunch, handlers]
    dsimp only
    rw [new]
    dsimp only
    rw [untagged]
    rfl
  · rw [Package.core_onCore_same, core]

end Sys2Proof.Machine
end
section
/-! SUPPORT. The five checks of an arriving message (R142, R146, R260): each by what it asks, and the verdict that it gives. -/

namespace Sys2Proof.Machine

/-! ## What the checks ask -/

theorem Package.accepts_iff (p : Package) (c h : Nat) :
    p.accepts c h = true ↔ h = p.coreHolder c ∨ (h ≠ 0 ∧ ∃ e ∈ (p.core c).accept, e.2 = h) := by
  simp [Package.accepts]

/-- The thread that a message names is there: its generation is the handle's, and it is live and does not migrate. -/
theorem Package.handleAbsent_iff (p : Package) (c : Nat) (to_ : Option Nat) : p.handleAbsent c to_ = false ↔ ∀ h, to_ = some h →
    let t := (p.core c).thread (h % 64)
    t.gen = h / 2 ^ 16 % 2 ^ 8 ∧ (t.life = .ready ∨ t.life = .parked ∨ t.life = .trapped) := by
  cases to_ with
  | none => simp [Package.handleAbsent]
  | some h =>
    have thread : p.thread c (handleSlot h) = (p.core c).thread (h % 64) := rfl
    have gen : handleGen h = h / 2 ^ 16 % 2 ^ 8 := rfl
    simp only [Package.handleAbsent, thread, gen, Option.some.injEq, forall_eq']
    unfold Thread.live
    cases ((p.core c).thread (h % 64)).life <;> simp

/-- The first of some slots that satisfies a test. -/
theorem firstIn_first {n i : Nat} {ok : Nat → Bool} (below : i < n) (holds : ok i = true) (before : ∀ j, j < i → ok j = false) :
    firstIn 0 n ok = some i := by
  rw [firstIn, span_eq_range', List.find?_range'_eq_some]
  refine ⟨holds, List.mem_range'.2 ⟨i, below, by simp⟩, fun j _ earlier => ?_⟩
  rw [before j earlier]
  rfl

theorem firstIn_none {n : Nat} {ok : Nat → Bool} (none_ : ∀ i, i < n → ok i = false) : firstIn 0 n ok = none := by
  refine List.find?_eq_none.2 fun i member => ?_
  rw [none_ i (by have := mem_span_one member; omega)]
  exact Bool.false_ne_true

/-- A slot that may take a handler's thread (R143, R146). -/
def Core.opens (k : Core) (i : Nat) : Prop := i < 63 ∧ k.elig.getLsbD i = true ∧ k.slotFree i = true

section
variable {p : Package} {id : Nat} {m : Msg} {entry : Word}

/-! ## The fifth check: a slot and a window -/

/-- Service handlers go to slot 63, or to the latch (R140, R146). -/
theorem Package.judgeSlot_service (noLatch : (p.core m.dst).latch = none) :
    p.judgeSlot id m entry true = if (p.core m.dst).slotFree 63 then .start 63 2016 32 else .latch := by
  unfold Package.judgeSlot
  dsimp only
  rw [if_pos rfl, noLatch]

theorem Package.judgeSlot_noElig (none_ : (p.core m.dst).elig = 0) : p.judgeSlot id m entry false = .refuse := by
  unfold Package.judgeSlot
  dsimp only
  rw [if_neg Bool.false_ne_true, if_pos none_]

/-- A core with an eligible slot, or a service handler, refuses no message for want of a slot. -/
theorem Package.judgeSlot_keeps {service : Bool} (may : service = true ∨ (p.core m.dst).elig ≠ 0) :
    p.judgeSlot id m entry service ≠ .refuse := by
  unfold Package.judgeSlot
  dsimp only
  split
  · split
    · split <;> exact fun same => by cases same
    · split <;> exact fun same => by cases same
  · next other =>
    rw [if_neg (may.resolve_left other)]
    split <;> exact fun same => by cases same

section
variable (some_ : (p.core m.dst).elig ≠ 0)
include some_

/-- A message takes the first eligible slot that is free, where a window fits. -/
theorem Package.judgeSlot_starts {slot base : Nat} (takes : (p.core m.dst).opens slot) (lowest : ∀ i, i < slot → ¬ (p.core m.dst).opens i)
    (fits : (p.core m.dst).fitWindow (8 * (entry.toNat / 2 ^ 56 % 16 + 1)) = some base) :
    p.judgeSlot id m entry false = .start slot base (8 * (entry.toNat / 2 ^ 56 % 16 + 1)) := by
  obtain ⟨below, eligible, free⟩ := takes
  have first : firstIn 0 63 (fun i => (p.core m.dst).elig.getLsbD i && (p.core m.dst).slotFree i) = some slot :=
    firstIn_first below (by rw [eligible, free]; rfl) fun i earlier => by
      have not := lowest i earlier
      simpa [Core.opens, Nat.lt_trans earlier below] using not
  unfold Package.judgeSlot
  dsimp only
  rw [if_neg Bool.false_ne_true, if_neg some_, first, windowLength entry 56, fits]

/-- A message waits while no eligible slot is free, or no window fits. -/
theorem Package.judgeSlot_waits (full : (∀ i, ¬ (p.core m.dst).opens i) ∨ (p.core m.dst).fitWindow (8 * (entry.toNat / 2 ^ 56 % 16 + 1)) = none) :
    p.judgeSlot id m entry false = .wait := by
  unfold Package.judgeSlot
  dsimp only
  rw [if_neg Bool.false_ne_true, if_neg some_, windowLength entry 56]
  rcases full with noSlot | noWindow
  · have none_ : firstIn 0 63 (fun i => (p.core m.dst).elig.getLsbD i && (p.core m.dst).slotFree i) = none :=
      firstIn_none fun i below => by
        have not := noSlot i
        simpa [Core.opens, below] using not
    rw [none_]
  · rw [noWindow]
    split
    · next clash => cases clash
    · rfl

end

/-! ## The checks in their order -/

/-- The verdict on a message for a handler, by the handler's entry (R146, R260). -/
def Package.judgeHandler (p : Package) (id : Nat) (m : Msg) (entry : Word) : Verdict :=
  if entry.getLsbD 63 = false then .refuse
  else
    let v := p.judgeSlot id m entry (entry.getLsbD 62 || decide (m.hdr.toNat / 2 ^ 56 = 3))
    if v ≠ .refuse ∧ ((p.preempting m.dst).isSome ∨ p.transferring m.dst = true) ∧ m.preempt = none then .wait else v

section
variable (new : m.waiting = false) (notRefused : m.refused = false) (noBounce : m.bounce = false)
include new notRefused noBounce

/-- The checks of a message that has just arrived. -/
theorem Package.judge_new : p.judge id m =
    if m.hdr.toNat / 2 ^ 56 ≠ 3 ∧ m.hdr.toNat / 2 ^ 56 ≠ 1 ∧ p.accepts m.dst (m.hdr.toNat / 2 ^ 32 % 2 ^ 16) = false then .refuse
    else if p.handleAbsent m.dst m.toThread = true then .refuse
    else if m.hdr.toNat / 2 ^ 48 % 2 ^ 8 = 0 ∧ m.hdr.toNat / 2 ^ 56 ≠ 3 then
      if (p.core m.dst).mbox.length < 64 then .deposit else .wait
    else p.judgeHandler id m (tget (p.core m.dst).handlers (m.hdr.toNat / 2 ^ 48 % 2 ^ 8) 0) := by
  have sender : bits m.hdr 47 32 = m.hdr.toNat / 2 ^ 32 % 2 ^ 16 := rfl
  have handler : bits m.hdr 55 48 = m.hdr.toNat / 2 ^ 48 % 2 ^ 8 := rfl
  unfold Package.judge Package.judgeHandler
  dsimp only
  rw [if_neg (by rw [notRefused]; exact Bool.false_ne_true), if_neg (by rw [noBounce]; exact Bool.false_ne_true), bits_kind, sender, handler]
  simp only [new, true_and]

/-- The sender of a message is accepted: its kind passes, or its holder is let in (R142, R146). -/
def Package.letsSend (p : Package) (m : Msg) : Prop :=
  m.hdr.toNat / 2 ^ 56 = 1 ∨ m.hdr.toNat / 2 ^ 56 = 3 ∨ m.hdr.toNat / 2 ^ 32 % 2 ^ 16 = p.coreHolder m.dst ∨
    (m.hdr.toNat / 2 ^ 32 % 2 ^ 16 ≠ 0 ∧ ∃ e ∈ (p.core m.dst).accept, e.2 = m.hdr.toNat / 2 ^ 32 % 2 ^ 16)

omit new notRefused noBounce in
theorem Package.not_letsSend_iff : ¬ p.letsSend m ↔ m.hdr.toNat / 2 ^ 56 ≠ 3 ∧ m.hdr.toNat / 2 ^ 56 ≠ 1 ∧
    p.accepts m.dst (m.hdr.toNat / 2 ^ 32 % 2 ^ 16) = false := by
  unfold Package.letsSend
  rw [← Bool.not_eq_true, Package.accepts_iff, not_or, not_or, and_left_comm]

theorem Package.judge_notAccepted (stranger : ¬ p.letsSend m) : p.judge id m = .refuse := by
  rw [Package.judge_new new notRefused noBounce, if_pos (Package.not_letsSend_iff.1 stranger)]

section
variable (accepted : p.letsSend m)
include accepted

theorem Package.judge_accepted : p.judge id m =
    if p.handleAbsent m.dst m.toThread = true then .refuse
    else if m.hdr.toNat / 2 ^ 48 % 2 ^ 8 = 0 ∧ m.hdr.toNat / 2 ^ 56 ≠ 3 then
      if (p.core m.dst).mbox.length < 64 then .deposit else .wait
    else p.judgeHandler id m (tget (p.core m.dst).handlers (m.hdr.toNat / 2 ^ 48 % 2 ^ 8) 0) := by
  rw [Package.judge_new new notRefused noBounce, if_neg (mt Package.not_letsSend_iff.2 (not_not_intro accepted))]

theorem Package.judge_absent (absent : p.handleAbsent m.dst m.toThread = true) : p.judge id m = .refuse := by
  rw [Package.judge_accepted new notRefused noBounce accepted, if_pos absent]

variable (there : p.handleAbsent m.dst m.toThread = false)
include there

theorem Package.judge_mailbox (handler : m.hdr.toNat / 2 ^ 48 % 2 ^ 8 = 0) (kind : m.hdr.toNat / 2 ^ 56 ≠ 3) :
    p.judge id m = if (p.core m.dst).mbox.length < 64 then .deposit else .wait := by
  rw [Package.judge_accepted new notRefused noBounce accepted, if_neg (by rw [there]; exact Bool.false_ne_true), if_pos ⟨handler, kind⟩]

theorem Package.judge_handler (handler : m.hdr.toNat / 2 ^ 48 % 2 ^ 8 ≠ 0 ∨ m.hdr.toNat / 2 ^ 56 = 3) :
    p.judge id m = p.judgeHandler id m (tget (p.core m.dst).handlers (m.hdr.toNat / 2 ^ 48 % 2 ^ 8) 0) := by
  rw [Package.judge_accepted new notRefused noBounce accepted, if_neg (by rw [there]; exact Bool.false_ne_true),
    if_neg fun mailbox => handler.elim (fun h => h mailbox.1) mailbox.2]

end

end

/-! ## A handler's entry, and what holds its message back (R146, R260) -/

theorem Package.judgeHandler_invalid (invalid : entry.getLsbD 63 = false) : p.judgeHandler id m entry = .refuse := if_pos invalid

section
variable (valid : entry.getLsbD 63 = true)
include valid

/-- The verdict of a valid entry, where its message is for a service handler or not. -/
theorem Package.judgeHandler_valid {service : Bool} (which : (entry.getLsbD 62 || decide (m.hdr.toNat / 2 ^ 56 = 3)) = service) :
    p.judgeHandler id m entry =
      if p.judgeSlot id m entry service ≠ .refuse ∧ ((p.preempting m.dst).isSome ∨ p.transferring m.dst = true) ∧ m.preempt = none then .wait
      else p.judgeSlot id m entry service := by
  unfold Package.judgeHandler
  rw [if_neg (by rw [valid]; exact Bool.noConfusion), which]

/-- A message that its core would take waits for the end of a pre-emption or a transfer. -/
theorem Package.judgeHandler_held {service : Bool} (which : (entry.getLsbD 62 || decide (m.hdr.toNat / 2 ^ 56 = 3)) = service)
    (may : service = true ∨ (p.core m.dst).elig ≠ 0) (busy : p.preempting m.dst ≠ none ∨ p.transferring m.dst = true)
    (noPreempt : m.preempt = none) : p.judgeHandler id m entry = .wait := by
  rw [Package.judgeHandler_valid valid which,
    if_pos ⟨Package.judgeSlot_keeps may, busy.imp_left Option.isSome_iff_ne_none.2, noPreempt⟩]

theorem Package.judgeHandler_free {service : Bool} (which : (entry.getLsbD 62 || decide (m.hdr.toNat / 2 ^ 56 = 3)) = service)
    (free : p.preempting m.dst = none ∧ p.transferring m.dst = false ∨ m.preempt ≠ none) :
    p.judgeHandler id m entry = p.judgeSlot id m entry service := by
  rw [Package.judgeHandler_valid valid which, if_neg]
  rintro ⟨-, busy, noPreempt⟩
  rcases free with ⟨idle, still⟩ | request
  · rw [idle, still] at busy
    simp at busy
  · exact request noPreempt

theorem Package.judgeHandler_noElig (which : (entry.getLsbD 62 || decide (m.hdr.toNat / 2 ^ 56 = 3)) = false)
    (none_ : (p.core m.dst).elig = 0) : p.judgeHandler id m entry = .refuse := by
  rw [Package.judgeHandler_valid valid which, Package.judgeSlot_noElig none_, if_neg fun held => held.1 rfl]

end

/-- Whether a message is for a service handler (R140). -/
theorem service_iff (entry : Word) (kind : Nat) : (entry.getLsbD 62 || decide (kind = 3)) = true ↔ entry.getLsbD 62 = true ∨ kind = 3 := by
  rw [Bool.or_eq_true, decide_eq_true_eq]

end

/-! ## O25 -/

/-- The verdicts on a message for a handler. -/
theorem Package.judgeHandler_verdicts (p : Package) (id : Nat) (m : Msg) (entry : Word) :
    let k := p.core m.dst
    let len := 8 * (entry.toNat / 2 ^ 56 % 16 + 1)
    let service : Prop := entry.getLsbD 62 = true ∨ m.hdr.toNat / 2 ^ 56 = 3
    (entry.getLsbD 63 = false → p.judgeHandler id m entry = .refuse) ∧
    (entry.getLsbD 63 = true → ¬ service → k.elig = 0 → p.judgeHandler id m entry = .refuse) ∧
    (entry.getLsbD 63 = true → service ∨ k.elig ≠ 0 → (p.preempting m.dst ≠ none ∨ p.transferring m.dst = true) → m.preempt = none →
      p.judgeHandler id m entry = .wait) ∧
    (entry.getLsbD 63 = true → (p.preempting m.dst = none ∧ p.transferring m.dst = false ∨ m.preempt ≠ none) →
      (service → k.latch = none → p.judgeHandler id m entry = if k.slotFree 63 then .start 63 2016 32 else .latch) ∧
      (¬ service → k.elig ≠ 0 →
        (∀ slot base, k.opens slot → (∀ i, i < slot → ¬ k.opens i) → k.fitWindow len = some base → p.judgeHandler id m entry = .start slot base len) ∧
        (((∀ i, ¬ k.opens i) ∨ k.fitWindow len = none) → p.judgeHandler id m entry = .wait))) := by
  intro k len service
  have isService : service → (entry.getLsbD 62 || decide (m.hdr.toNat / 2 ^ 56 = 3)) = true := (service_iff entry _).2
  have noService : ¬ service → (entry.getLsbD 62 || decide (m.hdr.toNat / 2 ^ 56 = 3)) = false := fun other =>
    Bool.eq_false_iff.2 (mt (service_iff entry _).1 other)
  refine ⟨Package.judgeHandler_invalid, fun valid other => Package.judgeHandler_noElig valid (noService other),
    fun valid may => Package.judgeHandler_held valid rfl (may.imp_left isService), fun valid free => ⟨fun yes noLatch => ?_,
    fun other some_ => ⟨fun slot base takes lowest fits => ?_, fun full => ?_⟩⟩⟩
  · rw [Package.judgeHandler_free valid (isService yes) free, Package.judgeSlot_service noLatch]
  · rw [Package.judgeHandler_free valid (noService other) free, Package.judgeSlot_starts some_ takes lowest fits]
  · rw [Package.judgeHandler_free valid (noService other) free, Package.judgeSlot_waits some_ full]

section
variable {s : State} {chip id : Nat} {m : Msg} (running : (s.pkg chip).phase = .running) (job : (s.pkg chip).job id = some (.msg m))
  (awake : (s.pkg chip).awake m.dst = true) (first : (s.pkg chip).messageBefore chip id m = false)
include running job awake first

/-- R16, R143: the thread that a message starts. -/
theorem message_starts {slot base len i : Nat} (judged : (s.pkg chip).judge id m = .start slot base len) (noLaunch : m.launch = none)
    (untagged : m.tagged = false) (free : (s.pkg chip).freeCell (coreDie m.dst) (s.free 4) = some i) :
    ∃ t, exec (if m.waiting then .messageDeliveryRetry chip id else .messageArrival chip id) s = .next t ∧
      let k := (t.pkg chip).core m.dst
      (k.thread slot).life = .ready ∧ (k.thread slot).base = base ∧ (k.thread slot).len = len ∧
      (k.thread slot).pc = (tget ((s.pkg chip).core m.dst).handlers (m.hdr.toNat / 2 ^ 48 % 256) 0).setWidth 56 ∧
      (1 < len → (k.cell base).val = word (m.hdr.toNat / 256 % 2 ^ 24)) ∧
      (1 < len → (k.cell (base + 1)).val = m.hdr) ∧
      ∀ i, i < m.pay.length → (k.cell (base + 2 + i)).val = (m.pay[i]?).getD 0 := by
  obtain ⟨q, cell, cancel, delivered, core⟩ := State.deliver_start judged noLaunch untagged free
  obtain ⟨life, base_, len_, pc, regs⟩ := (((s.pkg chip).take id m).core m.dst).handling_started m slot base len cell cancel
  refine ⟨_, message_delivered running job awake first delivered, ?_⟩
  rw [State.pkg_setPkg_same]
  dsimp only
  rw [core]
  refine ⟨life, base_, len_, pc.trans (by rw [Package.take_core]; rfl), fun _ => ?_, fun _ => ?_, fun i small => ?_⟩
  · exact regs 0 _ List.mem_cons_self
  · exact regs 1 _ (List.mem_cons_of_mem _ List.mem_cons_self)
  · rw [Nat.add_assoc]
    exact regs (2 + i) _ (m.payload_mem small)

/-- R147: what becomes of a refused message, by its kind. -/
theorem message_refused (judged : (s.pkg chip).judge id m = .refuse) {t : State} (done : s.refuse chip id m = some t) :
    exec (if m.waiting then .messageDeliveryRetry chip id else .messageArrival chip id) s = .next t :=
  message_delivered running job awake first ((State.deliver_refuse judged).trans done)

end

/-- Settles O25: a SEND by `sendOp_ready`; a message by its verdict, and the verdict by the checks in their order. -/
theorem messagesSentAndArriving : Obligations.MessagesSentAndArriving := by
  refine ⟨fun d handler payload count s v => ?_, fun s chip id m running job awake => ?_⟩
  · intro t ready words msg sent
    have send := sendOp_ready (handler := handler) (payload := payload) (count := count) (d := d) ready
    refine ⟨fun free => ⟨(send true).trans ?_, (send false).trans ?_⟩, fun refused => ⟨(send true).trans ?_, (send false).trans ?_⟩⟩
    · rw [free]; rfl
    · rw [free]; rfl
    · rw [refused]; rfl
    · rw [refused]; rfl
  · intro p step
    refine ⟨message_held job, fun e n k there earlier theirs mine origin src dst notLatched =>
      Package.messageBefore_of_earlier there earlier theirs mine origin src dst notLatched, fun first => ⟨fun judged noLaunch _ => ?_,
      fun slot base len i judged noLaunch untagged free => message_starts running job awake first judged noLaunch untagged free,
      messageArrival_waits running job awake first, fun judged => ?_, fun new notRefused noBounce => ?_⟩⟩
    · refine ⟨_, message_delivered running job awake first (State.deliver_deposit judged noLaunch), ?_⟩
      rw [State.pkg_setPkg_same]
      exact Package.take_deposit_mbox _ _ _
    · intro kind
      refine ⟨fun bounce => ?_, fun noBounce noPreempt user local_ => ?_, fun noBounce noPreempt low high room _ => ?_,
        fun packet c k noBounce noPreempt host launch other _ there => ?_⟩
      · refine ⟨_, message_refused running job awake first judged (State.refuse_bounce bounce), ?_⟩
        rw [State.pkg_setPkg_same, Package.core_onCore_same, Package.take_core]
        exact ⟨rfl, rfl⟩
      · refine ⟨_, message_refused running job awake first judged (State.refuse_user noBounce noPreempt user local_), ?_⟩
        rw [State.pkg_setPkg_same]
        exact List.any_eq_true.2 ⟨_, self_mem_tset _ _ _, decide_eq_true m.bounced_fields⟩
      · refine ⟨_, message_refused running job awake first judged (State.refuse_queued noBounce noPreempt low high room), ?_⟩
        rw [State.pkg_setPkg_same]
        exact Package.take_deposit_mbox _ _ _
      · refine ⟨_, message_refused running job awake first judged (State.refuse_host noBounce noPreempt host launch), ?_⟩
        rw [State.pkg_setPkg_same]
        exact Package.settle_take other there false
    · intro k kind handler sender entry len accepted there service free
      have absent (h : ¬ there) : p.handleAbsent m.dst m.toThread = true := by
        rw [← Bool.not_eq_false]
        exact mt (p.handleAbsent_iff m.dst m.toThread).1 h
      have present (h : there) : p.handleAbsent m.dst m.toThread = false := (p.handleAbsent_iff m.dst m.toThread).2 h
      refine ⟨Package.judge_notAccepted new notRefused noBounce, fun yes no => Package.judge_absent new notRefused noBounce yes (absent no),
        fun yes here => Package.judge_mailbox new notRefused noBounce yes (present here), fun yes here handled => ?_⟩
      rw [Package.judge_handler new notRefused noBounce yes (present here) handled]
      exact p.judgeHandler_verdicts id m entry

end Sys2Proof.Machine
end
